-- ==== Sys2Proof/Word.lean ====
section
/-! DEFINITION. The word types of the OR-G1 and their plainest arithmetic (02 R19, R29). -/

namespace Sys2Proof

/-- A 64-bit register or address word. -/
abbrev Word := BitVec 64

/-- One byte of memory. -/
abbrev Byte := BitVec 8

/-- The 128 bytes of a vector register, byte 0 in bits 7 to 0 (02 R19). -/
abbrev Vec := BitVec 1024

/-- A predicate of C: bit i stands for register byte i (08 R173). -/
abbrev Mask := BitVec 128

/-- The number of a scalar register. -/
abbrev Reg := BitVec 5

/-- Bits hi to lo of a word, as a number. -/
def bits {n : Nat} (w : BitVec n) (hi lo : Nat) : Nat := (w.toNat >>> lo) % 2 ^ (hi + 1 - lo)

/-- Bit i of a word. -/
def bit {n : Nat} (w : BitVec n) (i : Nat) : Bool := w.getLsbD i

/-- Bits lo to lo + n - 1 of a number. -/
def nbits (v lo n : Nat) : Nat := (v >>> lo) % 2 ^ n

/-- The value of a Bool as 1 or 0. -/
def Bool.nat (b : Bool) : Nat := if b then 1 else 0

end Sys2Proof
end

