-- ==== Sys2Proof/Syntax.lean ====
section
/-! DEFINITION. The syntax of the OR-G1: one constructor of Instr for each row of spec/opcode_table.json. The words of K, L, S and
C are 04 R66 to R75; the other rows are the steps of the engines, the network, launch control, protection, the fabric and
management that 95_what_each_step_holds.md lists, with the operands that say where the step happens. -/

namespace Sys2Proof

/-- A global tile number, 0 to 431 (01 R10). -/
abbrev TileId := Fin 432

/-- A die of the device (01 R9). -/
abbrev DieId := Fin 3

/-- A command queue (15 R307). -/
abbrev QueueId := Fin 64

/-- The four sequencers of a tile (01 R8). -/
inductive Sequencer where
  | k | l | c | s
  deriving DecidableEq, Repr, Inhabited

/-- The seven engine queues of a tile, in order of engine code 1 to 7 (06 R110). -/
inductive Queue where
  | normal | urgent | copy | gather | send | metadata | copyOut
  deriving DecidableEq, Repr, Inhabited

/-- The addressing mode of an L or S memory instruction (04 R70). -/
inductive AMode where
  | offset | postInc
  deriving DecidableEq, Repr, Inhabited

/-- The width of an L or S access: 128, 64 or 32 bytes (05 R90). -/
inductive Width where
  | w128 | w64 | w32
  deriving DecidableEq, Repr, Inhabited

/-- The fields of an L or S word below its opcode (04 R69). -/
structure LSF where
  pop : BitVec 3
  push : BitVec 3
  pred : BitVec 3
  vreg : BitVec 11
  base : BitVec 5
  index : BitVec 5
  imm : BitVec 20
  order : BitVec 2
  scope : BitVec 2
  cache : BitVec 2
  deriving DecidableEq, Repr, Inhabited

/-- The fields of a vector slot below its opcode (04 R72). -/
structure SlotF where
  pred : BitVec 3
  neg : Bool
  vd : BitVec 11
  va : BitVec 11
  vb : BitVec 11
  tr : Bool
  rot : Bool
  deriving DecidableEq, Repr, Inhabited

/-- The instructions of a vector slot (05 R94). -/
inductive VCode where
  | vadd | vsub | vmul | vfma | vfms | vmin | vmax | vabs | vneg | vcpys | viadd | visub | vimul | vimulh | vand | vor
  | vxor | vnot | vshl | vshr | vsar | vimin | vimax | vicmpeq | vicmplt | vcmpeq | vcmplt | vcmple | vcmpun | vsel
  | vmov | vpart | vbcast | vshuf | vrot | viota | vcompr | vcvt | vcvto | vcvts | vcbdec | vexp2 | vlog2 | vsin | vcos
  | vtanh | vrcp | vrsqrt | vsqrt | vdiv | vrsum | vrmax | vrmin | vrstat | vrsoft | vcmul | vcfma | vconj | vrand | pand
  | por | pxor | pnot | cbr | cbrt | cj | loopC | loopSet | rotb | lbhdr | viewt | viewa | fmtset | mdset | mdsetf
  | cbload
  deriving DecidableEq, Repr, Inhabited

/-- A vector slot that holds an instruction: its operation, its type bits and its fields. -/
structure Slot where
  op : VCode
  ty : BitVec 2
  f : SlotF
  deriving DecidableEq, Repr, Inhabited

/-- The matrix commands of slot M (05 R96). -/
inductive MOp where
  | mxgo | mxgou | mxloop
  deriving DecidableEq, Repr, Inhabited

/-- The fields of slot M below its mop code (04 R72). -/
structure MSlot where
  md : BitVec 4
  wait : BitVec 8
  signal : BitVec 8
  guard : Bool
  deriving DecidableEq, Repr, Inhabited

/-- Slot M when it holds a command. -/
structure MCmd where
  op : MOp
  m : MSlot
  deriving DecidableEq, Repr, Inhabited

/-- Slot B: empty, the literal of R73, or an instruction. -/
inductive SlotB where
  | empty
  | lit (w : BitVec 32)
  | slot (s : Slot)
  deriving DecidableEq, Repr, Inhabited

/-- What a C bundle holds beside the slot that names it. inB says that the naming slot is slot B and slot A is empty. -/
structure Bun where
  pop : BitVec 3
  push : BitVec 3
  zero : Bool
  inB : Bool
  b : SlotB
  m : Option MCmd
  deriving DecidableEq, Repr, Inhabited

/-- The token and zero fields of a bundle with empty vector slots. -/
structure Toks where
  pop : BitVec 3
  push : BitVec 3
  zero : Bool
  deriving DecidableEq, Repr, Inhabited

/-- Where a FACC request may combine: a Spoke of this device, reached through a port, or a panel switch port (12 R295, 19 R387).
ports are N, E, S, W, then local. -/
inductive CombAt where
  | spoke (t : TileId) (port : Fin 5)
  | panel (port : Nat) (dev : BitVec 12) (fport : Fin 32)
  deriving DecidableEq, Repr, Inhabited

/-- Where a request of a tile stands: a request of L or S by its number, which names an engine's posted write too, the access of a
sequencer's word that waits for its reply, or that of the head of an engine queue (12 R285, 23 R415). -/
inductive Source where
  | request (n : Nat)
  | sequencer (q : Sequencer)
  | engine (q : Queue)
  deriving DecidableEq, Repr, Inhabited

/-- A source of requests on a tile. -/
structure SourceAt where
  tile : TileId
  src : Source
  deriving DecidableEq, Repr, Inhabited

/-- The packets of barrier updates that reach a tile in one cycle, by their numbers; more: an update of another kind, by an instruction, a copy or a
delivery, follows in the cycle (06 R117). -/
structure Updates where
  packets : List Nat
  more : Bool
  deriving DecidableEq, Repr, Inhabited

/-- What a lost combining record has lost (23 R414). -/
inductive RecordLoss where
  | list | sum
  deriving DecidableEq, Repr, Inhabited

/-- Which part of an access-table entry a window write carries (16 R340). -/
inductive EntryPart where
  | full | low | high
  deriving DecidableEq, Repr, Inhabited

/-- A flowlet key (19 R381). -/
inductive FlowletKey where
  | flow (flow : BitVec 16) (sdev : BitVec 12) (stile : BitVec 9) (tdev : BitVec 12)
  | request (sdev : BitVec 12) (stile : BitVec 9) (tdev : BitVec 12)
  | response (rdev : BitVec 12) (ttile : BitVec 9) (tdev : BitVec 12)
  deriving DecidableEq, Repr, Inhabited

/-- A host access to device memory (19 R389): a local physical address and bytes. fetch asks for a copy of a line for the host's cache, alone if
excl; store writes into a copy that the host holds alone; evict gives a copy up. -/
inductive HostReq where
  | read (a : Nat) (n : Nat)
  | write (a : Nat) (bytes : List Byte)
  | fetch (line : Nat) (excl : Bool)
  | store (a : Nat) (bytes : List Byte)
  | evict (line : Nat)
  deriving DecidableEq, Repr, Inhabited

/-- A link of the device: a fabric port or a Hentia port. -/
inductive LinkId where
  | fabric (p : Fin 32)
  | hentia (i : Fin 2)
  deriving DecidableEq, Repr, Inhabited

/-- A unit of a protected structure (23 R407): structure code, tile or die or port, and offset of the unit. -/
structure StoredUnit where
  code : BitVec 8
  place : Nat
  off : Nat
  deriving DecidableEq, Repr, Inhabited

/-- What a scrubber finds in a unit (23 R408). -/
inductive BitErrors where
  | none | single | double
  deriving DecidableEq, Repr, Inhabited

/-- A request of another device to memory of this one (19 R383, R385): a read, a write, or an atomic with its operand and expected value. -/
inductive FarReq where
  | read (a : Nat) (n : Nat)
  | write (a : Nat) (bytes : List Byte)
  | atomic (a : Nat) (op : BitVec 4) (b expect : BitVec 64)
  deriving DecidableEq, Repr, Inhabited

/-- How such a request enters: its fabric port, the device and tile it comes from, its tag, and whether its leaf carries FA (16 R339, R341). -/
structure FarAccess where
  port : Fin 32
  dev : BitVec 12
  tile : BitVec 9
  tag : BitVec 12
  fa : Bool
  req : FarReq
  deriving DecidableEq, Repr, Inhabited

/-- A FACC request of another device at a combining point (12 R295, 19 R387): where it comes from, the port and tag under which it enters its owner,
the owner and the word there, and its increment. -/
structure FarFacc where
  port : Fin 32
  dev : BitVec 12
  tile : BitVec 9
  tag : BitVec 12
  owner : BitVec 12
  a : Nat
  wide : Bool
  inc : BitVec 64
  at_ : CombAt
  deriving DecidableEq, Repr, Inhabited

/-- A group of a launch's table copy on one die (10 R234). -/
structure Group where
  g : Nat
  members : List Nat
  master : Nat
  deriving DecidableEq, Repr, Inhabited

/-- A channel declaration (12 R287). -/
structure ChanDecl where
  id : Nat
  src : Nat
  dst : Nat
  slots : Nat
  bytes : Nat
  ring : Nat
  deriving DecidableEq, Repr, Inhabited

/-- A subscription declaration (12 R291): windows by index. -/
structure SubDecl where
  window : Nat
  publisher : Nat
  pubWindow : Nat
  subscribers : Option (List Nat)
  deriving DecidableEq, Repr, Inhabited

/-- A scratchpad window (11 R250). -/
structure Window where
  base : Nat
  size : Nat
  span : Nat
  deriving DecidableEq, Repr, Inhabited

/-- A kernel of an image: the entry and end addresses of its four streams (04 R84). -/
structure Kernel where
  kEnt : Word
  kFin : Word
  lEnt : Word
  lFin : Word
  cEnt : Word
  cFin : Word
  sEnt : Word
  sFin : Word
  deriving DecidableEq, Repr, Inhabited

/-- A relocation type (04 R85). -/
inductive RelocType where
  | none | ki15 | kb15 | kj25 | lit32s | lit32u | hi32 | lo32 | ls20 | lspc20 | clit32 | cpc32 | abs32 | abs64
  deriving DecidableEq, Repr, Inhabited

/-- A section that holds relocated fields (04 R84): the code of a sequencer, or data. -/
inductive Section where
  | k | l | c | s | data
  deriving DecidableEq, Repr, Inhabited

/-- A symbol: its section, if it is not absolute, and its value (04 R85). -/
structure Symbol where
  sec : Option Section
  value : Int
  deriving DecidableEq, Repr, Inhabited

/-- A relocation (04 R85): its type code, its field's place, the symbol, none where it is undefined (04 R86), and the addend. -/
structure Reloc where
  code : Nat
  sec : Section
  off : Nat
  sym : Option Symbol
  addend : Int
  deriving DecidableEq, Repr, Inhabited

/-- A linked object to be loaded (04 R84): the context and virtual address of its image, its sections with their relocations, the local physical
address of its data, and its declarations. -/
structure Object where
  tag : BitVec 12
  va : Word
  kcode : List Byte
  lcode : List Byte
  ccode : List Byte
  scode : List Byte
  data : List Byte
  dataAt : Nat
  relocs : List Reloc
  kernels : List Kernel
  flows : List (BitVec 512)
  groups : List Group
  chans : List ChanDecl
  subs : List SubDecl
  windows : List Window
  tv : List (Nat × Word)
  av : List (Nat × Word)
  ft : List (Nat × BitVec 32)
  deriving DecidableEq, Repr, Inhabited

/-- What comes to the device from outside its table of operations (log 87): a soft error in a unit (23 R407); a flow packet of another device
for a Spoke, or a record that comes back for a tile (19 R380, 12 R281); a request of another device; a store of the host to its own memory, or
of another device to its own; another device taking its place on the fabric or leaving it, and an entry of its access tables or its far-atomic
ranges written (19 R384, R385); a linked object that the loader loads (04 R84 to R86); a hub slice writing a dirty line back (11 R248); the ranges of
its memory that the host refuses or finds uncorrectable (19 R391); the end of the present state of bring-up, and WARM_RST_N held low (24 R422, R423). -/
inductive Outside where
  | softError (u : StoredUnit) (err : BitErrors)
  | flowPacket (t : TileId) (port : Option (Fin 32)) (hdr : BitVec 64) (ctx : BitVec 12) (launch : BitVec 64) (data : List Byte)
  | record (t : TileId) (launch : BitVec 64) (task : Nat) (r : BitVec 128)
  | request (x : FarAccess)
  | hostStore (a : Nat) (bytes : List Byte)
  | farStore (dev : BitVec 12) (a : Nat) (bytes : List Byte)
  | farPresent (dev : BitVec 12) (present : Bool)
  | farEntry (dev : BitVec 12) (g e : Nat) (w : BitVec 128)
  | farRanges (dev : BitVec 12) (rs : List (BitVec 128))
  | farLost (dev : BitVec 12) (rs : List (Nat × Nat))
  | load (o : Object)
  | facc (x : FarFacc)
  | hubWriteBack (line : Nat)
  | hostDeny (rs : List (Nat × Nat))
  | hostLost (rs : List (Nat × Nat))
  | bringUp
  | warmLow
  deriving DecidableEq, Repr, Inhabited

/-- A message to Badger: MCTP message type, PLDM type or SPDM version, command, and payload bytes (24 R426). -/
structure MgmtReq where
  mtype : BitVec 8
  ptype : BitVec 8
  cmd : BitVec 8
  data : List Byte
  deriving DecidableEq, Repr, Inhabited

/-- The instructions and steps of the OR-G1, one constructor for each row of spec/opcode_table.json, in its order. -/
inductive Instr where
  | add (d a b : Reg)
  | sub (d a b : Reg)
  | and (d a b : Reg)
  | or (d a b : Reg)
  | xor (d a b : Reg)
  | shl (d a b : Reg)
  | shr (d a b : Reg)
  | sar (d a b : Reg)
  | mul (d a b : Reg)
  | mulh (d a b : Reg)
  | mulhn (d a b : Reg)
  | div (d a b : Reg)
  | divn (d a b : Reg)
  | rem (d a b : Reg)
  | remn (d a b : Reg)
  | min (d a b : Reg)
  | max (d a b : Reg)
  | minn (d a b : Reg)
  | maxn (d a b : Reg)
  | slt (d a b : Reg)
  | sltn (d a b : Reg)
  | addi (d a : Reg) (imm : BitVec 15)
  | andi (d a : Reg) (imm : BitVec 15)
  | ori (d a : Reg) (imm : BitVec 15)
  | xori (d a : Reg) (imm : BitVec 15)
  | shli (d a : Reg) (sh : BitVec 6)
  | shri (d a : Reg) (sh : BitVec 6)
  | sari (d a : Reg) (sh : BitVec 6)
  | slti (d a : Reg) (imm : BitVec 15)
  | lit (d : Reg) (w : BitVec 32)
  | litZx (d : Reg) (w : BitVec 32)
  | litHi (d : Reg) (w : BitVec 32)
  | beq (a b : Reg) (off : BitVec 15)
  | bne (a b : Reg) (off : BitVec 15)
  | blt (a b : Reg) (off : BitVec 15)
  | bge (a b : Reg) (off : BitVec 15)
  | bltn (a b : Reg) (off : BitVec 15)
  | bgen (a b : Reg) (off : BitVec 15)
  | jal (off : BitVec 25)
  | jalr (d a : Reg) (imm : BitVec 15)
  | klds (d a : Reg) (imm : BitVec 15)
  | kldm (d a : Reg) (imm : BitVec 15)
  | kldl (d a : Reg) (imm : BitVec 15)
  | kldf (d a : Reg) (imm : BitVec 15)
  | kldh (d a : Reg) (imm : BitVec 15)
  | ksts (a b : Reg) (imm : BitVec 15)
  | kstm (a b : Reg) (imm : BitVec 15)
  | kstl (a b : Reg) (imm : BitVec 15)
  | kstf (a b : Reg) (imm : BitVec 15)
  | ksth (a b : Reg) (imm : BitVec 15)
  | katm (d a b : Reg) (op : BitVec 4)
  | katl (d a b : Reg) (op : BitVec 4)
  | katf (d a b : Reg) (op : BitVec 4)
  | smwait (a : Reg)
  | smsig (a : Reg)
  | smset (a b : Reg)
  | smrd (d a : Reg)
  | evpop (d : Reg)
  | evpeek (d : Reg)
  | gres (a b : Reg)
  | tkpush (a : Reg) (c : BitVec 3)
  | tkpop (d : Reg) (c : BitVec 3)
  | barr (d a b : Reg)
  | bard (d a : Reg)
  | barx (a b : Reg)
  | barw (d a b : Reg)
  | flagadd (a b : Reg)
  | flagset (a b : Reg)
  | grpset (a b : Reg)
  | grpq (d a b : Reg)
  | fence (kind scope : BitVec 2)
  | qfence (a b : Reg)
  | subon (d a b : Reg)
  | suboff (d a : Reg)
  | chresync (d a : Reg)
  | sinc (d a : Reg)
  | srel (d a : Reg)
  | sroot (d a b : Reg)
  | nop
  | sqrd (d a b : Reg)
  | sqres (a : Reg)
  | sqskip (a : Reg)
  | srrd (d a : Reg)
  | srwr (a b : Reg)
  | rng (d a : Reg)
  | clkrd (d : Reg)
  | trap (a : Reg)
  | eret
  | yield
  | exit
  | lds (m : AMode) (w : Width) (f : LSF)
  | ldm (m : AMode) (w : Width) (f : LSF)
  | ldl (m : AMode) (w : Width) (f : LSF)
  | ldf (m : AMode) (w : Width) (f : LSF)
  | ldn (m : AMode) (w : Width) (f : LSF)
  | ldh (m : AMode) (w : Width) (f : LSF)
  | sts (m : AMode) (w : Width) (f : LSF)
  | stm (m : AMode) (w : Width) (f : LSF)
  | stl (m : AMode) (w : Width) (f : LSF)
  | stf (m : AMode) (w : Width) (f : LSF)
  | sth (m : AMode) (w : Width) (f : LSF)
  | gths (f : LSF)
  | gthl (f : LSF)
  | scts (f : LSF)
  | sctl (f : LSF)
  | aadd (f : LSF)
  | aaddi (f : LSF)
  | asub (f : LSF)
  | amul (f : LSF)
  | ashl (f : LSF)
  | amov (f : LSF)
  | alit (f : LSF)
  | aslt (f : LSF)
  | aeq (f : LSF)
  | badd (f : LSF)
  | baddi (f : LSF)
  | bsub (f : LSF)
  | bmul (f : LSF)
  | bshl (f : LSF)
  | bmov (f : LSF)
  | blit (f : LSF)
  | bslt (f : LSF)
  | beqS (f : LSF)
  | lbr (f : LSF)
  | lj (f : LSF)
  | sbr (f : LSF)
  | sj (f : LSF)
  | loopL (f : LSF)
  | loopS (f : LSF)
  | cpy (f : LSF)
  | cpy2 (f : LSF)
  | pfh (f : LSF)
  | mdld (f : LSF)
  | scout (f : LSF)
  | chrecv (f : LSF)
  | wlpop (f : LSF)
  | facc (f : LSF)
  | fsend (f : LSF)
  | fsend2 (f : LSF)
  | chsend (f : LSF)
  | wlapp (f : LSF)
  | slook (f : LSF)
  | slooki (f : LSF)
  | atm (op : BitVec 4) (f : LSF)
  | atl (op : BitVec 4) (f : LSF)
  | atf (op : BitVec 4) (f : LSF)
  | vadd (ty : BitVec 2) (f : SlotF) (x : Bun)
  | vsub (ty : BitVec 2) (f : SlotF) (x : Bun)
  | vmul (ty : BitVec 2) (f : SlotF) (x : Bun)
  | vfma (ty : BitVec 2) (f : SlotF) (x : Bun)
  | vfms (ty : BitVec 2) (f : SlotF) (x : Bun)
  | vmin (ty : BitVec 2) (f : SlotF) (x : Bun)
  | vmax (ty : BitVec 2) (f : SlotF) (x : Bun)
  | vabs (ty : BitVec 2) (f : SlotF) (x : Bun)
  | vneg (ty : BitVec 2) (f : SlotF) (x : Bun)
  | vcpys (ty : BitVec 2) (f : SlotF) (x : Bun)
  | viadd (ty : BitVec 2) (f : SlotF) (x : Bun)
  | visub (ty : BitVec 2) (f : SlotF) (x : Bun)
  | vimul (ty : BitVec 2) (f : SlotF) (x : Bun)
  | vimulh (ty : BitVec 2) (f : SlotF) (x : Bun)
  | vand (ty : BitVec 2) (f : SlotF) (x : Bun)
  | vor (ty : BitVec 2) (f : SlotF) (x : Bun)
  | vxor (ty : BitVec 2) (f : SlotF) (x : Bun)
  | vnot (ty : BitVec 2) (f : SlotF) (x : Bun)
  | vshl (ty : BitVec 2) (f : SlotF) (x : Bun)
  | vshr (ty : BitVec 2) (f : SlotF) (x : Bun)
  | vsar (ty : BitVec 2) (f : SlotF) (x : Bun)
  | vimin (ty : BitVec 2) (f : SlotF) (x : Bun)
  | vimax (ty : BitVec 2) (f : SlotF) (x : Bun)
  | vicmpeq (ty : BitVec 2) (f : SlotF) (x : Bun)
  | vicmplt (ty : BitVec 2) (f : SlotF) (x : Bun)
  | vcmpeq (ty : BitVec 2) (f : SlotF) (x : Bun)
  | vcmplt (ty : BitVec 2) (f : SlotF) (x : Bun)
  | vcmple (ty : BitVec 2) (f : SlotF) (x : Bun)
  | vcmpun (ty : BitVec 2) (f : SlotF) (x : Bun)
  | vsel (ty : BitVec 2) (f : SlotF) (x : Bun)
  | vmov (ty : BitVec 2) (f : SlotF) (x : Bun)
  | vpart (ty : BitVec 2) (f : SlotF) (x : Bun)
  | vbcast (ty : BitVec 2) (f : SlotF) (x : Bun)
  | vshuf (ty : BitVec 2) (f : SlotF) (x : Bun)
  | vrot (ty : BitVec 2) (f : SlotF) (x : Bun)
  | viota (ty : BitVec 2) (f : SlotF) (x : Bun)
  | vcompr (ty : BitVec 2) (f : SlotF) (x : Bun)
  | vcvt (ty : BitVec 2) (f : SlotF) (x : Bun)
  | vcvto (ty : BitVec 2) (f : SlotF) (x : Bun)
  | vcvts (ty : BitVec 2) (f : SlotF) (x : Bun)
  | vcbdec (ty : BitVec 2) (f : SlotF) (x : Bun)
  | vexp2 (ty : BitVec 2) (f : SlotF) (x : Bun)
  | vlog2 (ty : BitVec 2) (f : SlotF) (x : Bun)
  | vsin (ty : BitVec 2) (f : SlotF) (x : Bun)
  | vcos (ty : BitVec 2) (f : SlotF) (x : Bun)
  | vtanh (ty : BitVec 2) (f : SlotF) (x : Bun)
  | vrcp (ty : BitVec 2) (f : SlotF) (x : Bun)
  | vrsqrt (ty : BitVec 2) (f : SlotF) (x : Bun)
  | vsqrt (ty : BitVec 2) (f : SlotF) (x : Bun)
  | vdiv (ty : BitVec 2) (f : SlotF) (x : Bun)
  | vrsum (ty : BitVec 2) (f : SlotF) (x : Bun)
  | vrmax (ty : BitVec 2) (f : SlotF) (x : Bun)
  | vrmin (ty : BitVec 2) (f : SlotF) (x : Bun)
  | vrstat (ty : BitVec 2) (f : SlotF) (x : Bun)
  | vrsoft (ty : BitVec 2) (f : SlotF) (x : Bun)
  | vcmul (ty : BitVec 2) (f : SlotF) (x : Bun)
  | vcfma (ty : BitVec 2) (f : SlotF) (x : Bun)
  | vconj (ty : BitVec 2) (f : SlotF) (x : Bun)
  | vrand (ty : BitVec 2) (f : SlotF) (x : Bun)
  | pand (ty : BitVec 2) (f : SlotF) (x : Bun)
  | por (ty : BitVec 2) (f : SlotF) (x : Bun)
  | pxor (ty : BitVec 2) (f : SlotF) (x : Bun)
  | pnot (ty : BitVec 2) (f : SlotF) (x : Bun)
  | cbr (ty : BitVec 2) (f : SlotF) (x : Bun)
  | cbrt (ty : BitVec 2) (f : SlotF) (x : Bun)
  | cj (ty : BitVec 2) (f : SlotF) (x : Bun)
  | loopC (ty : BitVec 2) (f : SlotF) (x : Bun)
  | loopSet (ty : BitVec 2) (f : SlotF) (x : Bun)
  | rotb (ty : BitVec 2) (f : SlotF) (x : Bun)
  | lbhdr (ty : BitVec 2) (f : SlotF) (x : Bun)
  | viewt (ty : BitVec 2) (f : SlotF) (x : Bun)
  | viewa (ty : BitVec 2) (f : SlotF) (x : Bun)
  | fmtset (ty : BitVec 2) (f : SlotF) (x : Bun)
  | mdset (ty : BitVec 2) (f : SlotF) (x : Bun)
  | mdsetf (ty : BitVec 2) (f : SlotF) (x : Bun)
  | cbload (ty : BitVec 2) (f : SlotF) (x : Bun)
  | mxgo (m : MSlot) (k : Toks)
  | mxgou (m : MSlot) (k : Toks)
  | mxloop (m : MSlot) (k : Toks)
  | tokenBundle (k : Toks)
  | heldCodebookWrite (t : TileId)
  | heldViewWrite (t : TileId)
  | commandDecided (t : TileId) (q : Queue)
  | engineCommandStart (t : TileId) (q : Queue)
  | copySector (t : TileId) (q : Queue)
  | copyComplete (t : TileId) (q : Queue)
  | scoutLeaf (t : TileId)
  | scoutComplete (t : TileId)
  | flowSendStart (t : TileId)
  | flowSendComplete (t : TileId)
  | qfenceJoinComplete (t : TileId) (q : Queue)
  | matrixCommandStart (t : TileId) (q : Queue)
  | matrixKStep (t : TileId)
  | matrixPromotion (t : TileId)
  | matrixCommandComplete (t : TileId)
  | taskStart (t : TileId)
  | taskRetire (t : TileId)
  | tokenStall (t : TileId) (q : Sequencer)
  | owlQuiescence (id : BitVec 64)
  | owlStallRule (ctx : BitVec 12)
  | workListAppendArrival (t : TileId)
  | workListPopArrival (t : TileId)
  | barrierUpdate (t : TileId) (us : Updates)
  | flowPacketArrival (n : Nat)
  | warrenFetch (n : Nat)
  | flowTimeout (place : BitVec 9) (slot : BitVec 7)
  | sequencerFlowTimeout (t : TileId) (q : Sequencer)
  | class3Eviction (x : SourceAt)
  | requestResend (x : SourceAt)
  | channelSlotArrival (n : Nat)
  | channelReturnArrival (n : Nat)
  | senderAudit (t : TileId) (c : BitVec 6)
  | receiverAudit (t : TileId) (c : BitVec 6)
  | auditReply (n : Nat)
  | subscriptionBatchClose (t : TileId)
  | forwardedUpdate (n : Nat)
  | subscriptionHandshake (t : TileId)
  | faccRequestArrival (n : Nat) (at_ : CombAt)
  | combiningWindowEnd (n : Nat)
  | combiningReply (n : Nat)
  | combiningRecordLost (n : Nat) (what : RecordLoss)
  | memoryRequest (t : TileId) (n : Nat) (piece : Nat)
  | postedWriteAck (t : TileId) (n : Nat)
  | postedWriteRefusal (t : TileId) (n : Nat)
  | requestTimeout (t : TileId) (src : Source)
  | releaseWalk (n : Nat)
  | trapEntry (t : TileId)
  | taskKill (t : TileId)
  | preemption (t : TileId)
  | contextImageSaved (t : TileId)
  | resume (t : TileId)
  | tailWrite (q : QueueId)
  | commandAccept (q : QueueId)
  | transferCommand (id : BitVec 64)
  | launchStaging (id : BitVec 64)
  | launchReady (id : BitVec 64)
  | taskPlacement (t : TileId)
  | readySignal (id : BitVec 64) (die : DieId)
  | launchSealing (id : BitVec 64)
  | queueEnable (q : QueueId) (v : Word)
  | queueDisable (q : QueueId) (v : Word)
  | seedWrite (q : QueueId) (v : Word)
  | ctrbaseWrite (q : QueueId) (v : Word)
  | registerWrite (off : BitVec 32) (v : Word)
  | shootDown (v : Word)
  | shootDownComplete
  | accessTableWrite (g : BitVec 9) (e : BitVec 10) (part : EntryPart) (v : BitVec 128)
  | atsync (v : Word)
  | partitionMapWrite (t : TileId) (v : Word)
  | farangeWrite (i : BitVec 6) (v : BitVec 128)
  | settIndexEnable (v : Word)
  | flgapWrite (v : Word)
  | flowletPathChange (key : FlowletKey) (path : Nat)
  | hostAccess (port : Fin 2) (r : HostReq)
  | linkReplay (p : LinkId)
  | portDown (p : LinkId)
  | pathFailure (path : Nat)
  | hentiaLinkDown (i : Fin 2)
  | patrolScrub (u : StoredUnit) (err : BitErrors)
  | warrenReload (die : DieId) (n : Nat)
  | coldReset
  | warmReset
  | clockChange (mhz : Nat)
  | thermalThrottle (sensor : Nat) (deg : Nat)
  | thermtrip (sensor : Nat) (deg : Nat)
  | mctpControl (r : MgmtReq)
  | unsupportedRequest (r : MgmtReq)
  | gettid (r : MgmtReq)
  | getpldmversion (r : MgmtReq)
  | getpldmtypes (r : MgmtReq)
  | getpldmcommands (r : MgmtReq)
  | getpdr (r : MgmtReq)
  | getsensorreading (r : MgmtReq)
  | powerCapSet (r : MgmtReq)
  | eventLogClear (r : MgmtReq)
  | getnumericeffectervalue (r : MgmtReq)
  | firmwareUpdate (r : MgmtReq)
  | getVersion (r : MgmtReq)
  | getCapabilities (r : MgmtReq)
  | negotiateAlgorithms (r : MgmtReq)
  | getDigests (r : MgmtReq)
  | getCertificate (r : MgmtReq)
  | challenge (r : MgmtReq)
  | getMeasurements (r : MgmtReq)
  | chresyncHandshake (t : TileId)
  | grpsetHandshake (t : TileId)
  | flowUnmatchedRecordReturn (n : Nat)
  | linkTrained (p : LinkId)
  | pathDrained (path : Nat)
  | fuseUpdate (die : DieId) (rows : List Nat)
  | powerRemoval
  | resetAsserted
  deriving DecidableEq, Repr, Inhabited

end Sys2Proof
end

