-- ==== Sys2Proof/WellFormed.lean ====
section
/-! DEFINITION. Which instructions are encodings at all: the must-be-zero and reserved-value rules of 04 R78 that can be read
from the word alone. The checks that need the machine (renaming, format table, loop mode, stream bounds) stand with the
meanings. -/

namespace Sys2Proof

/-- The operand forms of vector-slot instructions (08 R174, 09 R201, R211, R213, R215). -/
inductive VForm where
  | v3 | v2 | v1 | cmp | vsel | sel1 | cvt | cbd | red | rsoft | pl | pnot
  | cbr | cbrt | cj | loopC | loopSet | rotb | lbhdr | viewT | viewA | fmt | mdset | mdsetf | cbload
  deriving DecidableEq, Repr, Inhabited

/-- How the low two bits of a vector opcode are used (05 R94). -/
inductive VTyping where
  | float | int | logic | width | none
  deriving DecidableEq, Repr, Inhabited

/-- The operand form of a vector-slot instruction. -/
def VCode.form : VCode → VForm
  | .vadd | .vsub | .vmul | .vfma | .vfms | .vmin | .vmax | .vcpys => .v3
  | .viadd | .visub | .vimul | .vimulh | .vand | .vor | .vxor | .vshl | .vshr | .vsar | .vimin | .vimax => .v3
  | .vshuf | .vrot | .vdiv | .vcmul | .vcfma => .v3
  | .vabs | .vneg | .vnot | .vmov | .vexp2 | .vlog2 | .vsin | .vcos | .vtanh | .vrcp | .vrsqrt | .vsqrt | .vconj => .v2
  | .vbcast | .viota | .vrand => .v1
  | .vcmpeq | .vcmplt | .vcmple | .vcmpun | .vicmpeq | .vicmplt => .cmp
  | .vsel => .vsel
  | .vcompr | .vpart => .sel1
  | .vcvt | .vcvto | .vcvts => .cvt
  | .vcbdec => .cbd
  | .vrsum | .vrmax | .vrmin | .vrstat => .red
  | .vrsoft => .rsoft
  | .pand | .por | .pxor => .pl
  | .pnot => .pnot
  | .cbr => .cbr
  | .cbrt => .cbrt
  | .cj => .cj
  | .loopC => .loopC
  | .loopSet => .loopSet
  | .rotb => .rotb
  | .lbhdr => .lbhdr
  | .viewt => .viewT
  | .viewa => .viewA
  | .fmtset => .fmt
  | .mdset => .mdset
  | .mdsetf => .mdsetf
  | .cbload => .cbload

/-- The use of the type bits of a vector-slot instruction. -/
def VCode.typing : VCode → VTyping
  | .vadd | .vsub | .vmul | .vfma | .vfms | .vmin | .vmax | .vabs | .vneg | .vcpys => .float
  | .vcmpeq | .vcmplt | .vcmple | .vcmpun => .float
  | .vexp2 | .vlog2 | .vsin | .vcos | .vtanh | .vrcp | .vrsqrt | .vsqrt | .vdiv => .float
  | .vrsum | .vrmax | .vrmin | .vrstat | .vrsoft => .float
  | .vand | .vor | .vxor | .vnot => .logic
  | .viadd | .visub | .vimul | .vimulh | .vshl | .vshr | .vsar | .vimin | .vimax | .vicmpeq | .vicmplt => .int
  | .vbcast | .vshuf | .vrot | .viota | .vcompr => .width
  | _ => .none

/-- The type codes an instruction accepts (05 R94). -/
def VTyping.accepts : VTyping → BitVec 2 → Bool
  | .float, t => t != 3
  | .int, _ => true
  | .width, _ => true
  | .logic, t => t == 0
  | .none, t => t == 0

/-- The forms whose vb operand the literal may replace (04 R73, 08 R174). -/
def VForm.takesLiteral : VForm → Bool
  | .v3 | .v1 | .cmp | .vsel | .cbd | .fmt | .cbr | .cbrt | .cj | .loopC | .loopSet => true
  | _ => false

/-- The forms that need the literal (05 R95). -/
def VForm.needsLiteral : VForm → Bool
  | .cbr | .cbrt | .cj | .loopC | .loopSet => true
  | _ => false

/-- The six control instructions of slot A (09 R201). -/
def VForm.control : VForm → Bool
  | .cbr | .cbrt | .cj | .loopC | .loopSet | .rotb | .lbhdr => true
  | _ => false

/-- The instructions that stand only in slot A (05 R95). -/
def VCode.onlyA (c : VCode) : Bool :=
  c == .vrand || c.form.control ||
    match c.form with
    | .viewT | .viewA | .fmt | .mdset | .mdsetf | .cbload => true
    | _ => false

/-- The forms whose predicate is not a lane mask, so that the zero bit must be 0 (04 R74, 08 R174, 09 R201). -/
def VForm.zeroMustBe0 : VForm → Bool
  | .vsel | .sel1 | .red | .rsoft => true
  | f => f.control

/-- The forms on which the transient bit is reserved whatever the fields hold (08 R174). -/
def VForm.noTransient : VForm → Bool
  | .cmp | .pl | .pnot | .viewT | .viewA | .fmt | .mdset | .mdsetf | .cbload => true
  | f => f.control

/-- The field rules of each operand form (08 R174, 09 R201, R206, R211, R213, R215). lit is the literal, if the bundle carries
one; pop is the bundle's pop code. LBHDR with its clear bit set may carry a ring base and a length, which it does not use (log 103). -/
def VForm.fieldsOk (g : VForm) (f : SlotF) (pop : BitVec 3) (lit : Option (BitVec 32)) : Bool :=
  let noPred := f.pred == 0 && !f.neg
  let vbOk := lit.isNone || f.vb == 0
  match g with
  | .v3 | .vsel | .cbd => vbOk
  | .v2 => f.vb == 0
  | .v1 => f.va == 0 && vbOk
  | .cmp => bits f.vd 10 3 == 0 && f.vd != 0 && vbOk
  | .sel1 => f.vb == 0
  | .cvt => bit f.vb 6 || bits f.vb 5 4 == 0
  | .red => bits f.vb 10 6 == 0
  | .rsoft => bits f.vb 7 6 == 0
  | .pl => bits f.vd 10 3 == 0 && f.vd != 0 && bits f.va 10 3 == 0 && bits f.vb 10 3 == 0
  | .pnot => bits f.vd 10 3 == 0 && f.vd != 0 && bits f.va 10 3 == 0 && f.vb == 0
  | .cbr => bits f.vd 10 2 == 0 && bits f.vd 1 0 != 3 && f.va == 0 && f.vb == 0
  | .cbrt => bits f.vd 10 1 == 0 && f.va == 0 && f.vb == 0 && noPred && pop != 0
  | .cj => f.vd == 0 && f.va == 0 && f.vb == 0 && noPred
  | .loopC => bits f.vd 10 5 == 0 && !bit f.vd 2 && f.vb == 0 && noPred &&
      (!bit f.vd 3 || (f.va == 0 && pop != 0)) &&
      (match lit with | some w => w != 0 && !bit w 31 | none => false)
  | .loopSet => bits f.vd 10 4 == 0 && bit f.vd 2 && f.vb == 0 && noPred &&
      (!bit f.vd 3 || (f.va == 0 && pop != 0)) && lit == some 0
  | .rotb => noPred && bits f.vb 10 3 == 0 && f.vb.toNat ≤ 4 && f.vd.toNat + f.va.toNat + 1 ≤ 2048
  | .lbhdr => noPred && bits f.vb 10 4 == 0 && f.vd.toNat + f.va.toNat + 1 ≤ 2048
  | .viewT => noPred && bits f.vd 10 3 == 0 && f.vb == 0
  | .viewA => noPred && bits f.vd 10 2 == 0 && f.vb == 0
  | .fmt => noPred && bits f.vd 10 4 == 0 && f.va == 0 && vbOk
  | .mdset => noPred && bits f.vd 10 4 == 0 && f.vb == 0
  | .mdsetf => noPred && bits f.vd 10 7 == 0 && f.vb == 0
  | .cbload => noPred && f.vd == 0 && f.vb == 0

/-- The transient rule of 08 R174: reserved unless the destination is one vector register. -/
def VCode.transientOk (c : VCode) (f : SlotF) : Bool :=
  !f.tr || !(c.form.noTransient || c == .vpart || c == .vrand || (c == .vrsoft && bits f.vb 5 0 != 0) ||
    (c.form == .cvt && bit f.vb 10))

/-- One vector slot (04 R78). The rotating bit is accepted on a form that has no register field to rename (log 104). -/
def slotOk (c : VCode) (ty : BitVec 2) (f : SlotF) (pop : BitVec 3) (zero : Bool) (lit : Option (BitVec 32)) : Bool :=
  c.typing.accepts ty && c.form.fieldsOk f pop lit && c.transientOk f && !(zero && c.form.zeroMustBe0) &&
    !(c.form.control && f.rot) &&
    (if lit.isSome then c.form.takesLiteral else !c.form.needsLiteral)

/-- A bundle named by the vector slot that holds c (04 R72, R73, R78). -/
def bundleOk (c : VCode) (ty : BitVec 2) (f : SlotF) (x : Bun) : Bool :=
  if x.inB then !c.onlyA && x.b == .empty && slotOk c ty f x.pop x.zero none
  else match x.b with
    | .empty => slotOk c ty f x.pop x.zero none
    | .lit w => slotOk c ty f x.pop x.zero (some w)
    | .slot b => slotOk c ty f x.pop x.zero none && !b.op.onlyA && slotOk b.op b.ty b.f x.pop x.zero none

/-- What order an L or S instruction accepts (04 R71): none, order 1, or orders 1 and 2. -/
inductive OrderUse where
  | none | one | two
  deriving DecidableEq, Repr, Inhabited

/-- The order, scope and cache rules of 04 R71. -/
def modsOk (o : OrderUse) (hint : Bool) (f : LSF) : Bool :=
  (match o with
    | .none => f.order == 0
    | .one => f.order == 0 || f.order == 1
    | .two => f.order != 3) &&
  (f.order != 0 || f.scope == 0) && f.cache != 3 && (hint || f.cache == 0)

/-- The element size in bytes of a gather or scatter (07 R148). -/
def gatherSize (f : LSF) : Nat :=
  match bits f.imm 12 11 with
  | 0 => 4
  | 1 => 2
  | 2 => 1
  | _ => 8

/-- The offset registers of a gather or scatter fit below v2048 (07 R148). -/
def gatherOk (f : LSF) : Bool :=
  bits f.imm 19 13 == 0 && bits f.imm 10 0 + (128 / gatherSize f + 31) / 32 ≤ 2048

/-- Fields of the engine commands that name one descriptor register (07 R155). -/
def descOk (hint : Bool) (f : LSF) : Bool := modsOk .none hint f && f.base == 0 && f.index == 0 && f.imm == 0

/-- Address arithmetic of two registers (07 R150). -/
def arith3Ok (f : LSF) : Bool := modsOk .none false f && f.vreg == 0 && bits f.imm 19 5 == 0

/-- Compares into a predicate (07 R151). -/
def arithCmpOk (f : LSF) : Bool :=
  modsOk .none false f && f.vreg != 0 && bits f.vreg 10 3 == 0 && f.base == 0 && bits f.imm 19 5 == 0

/-- Branches on a predicate (07 R152). -/
def branchOk (f : LSF) : Bool := modsOk .none false f && bits f.vreg 10 4 == 0 && f.base == 0 && f.index == 0

/-- Jumps (07 R152). -/
def jumpOk (f : LSF) : Bool := modsOk .none false f && f.vreg == 0 && f.base == 0 && f.index == 0

/-- LOOP of L and S (07 R153). -/
def loopOk (f : LSF) : Bool :=
  modsOk .none false f && bits f.vreg 10 2 == 0 && f.index == 0 && f.imm != 0 && !bit f.imm 19

/-- Channel instructions (07 R163, R164). -/
def channelOk (f : LSF) : Bool :=
  modsOk .one false f && f.base == 0 && f.index == 0 && bits f.imm 19 6 == 0

/-- An instruction is well formed: no reserved value and no non-zero unused field (04 R78, 05 R87 to R95). Steps that have no
encoding are always well formed. -/
def Instr.wellFormed : Instr → Bool
  | .evpop d | .evpeek d => d != 0 && !bit d 0
  | .tkpush _ c | .tkpop _ c => c != 0
  | .fence kind _ => kind != 0
  | .lds _ _ f | .ldm _ _ f | .sts _ _ f | .stm _ _ f => modsOk .one false f
  | .ldl _ _ f | .ldf _ _ f | .ldh _ _ f | .stl _ _ f | .stf _ _ f | .sth _ _ f => modsOk .one true f
  | .ldn _ _ f => modsOk .none false f
  | .gths f | .scts f => modsOk .one false f && gatherOk f
  | .gthl f | .sctl f => modsOk .one true f && gatherOk f
  | .aadd f | .asub f | .amul f | .badd f | .bsub f | .bmul f => arith3Ok f
  | .aaddi f | .baddi f => modsOk .none false f && f.vreg == 0
  | .ashl f | .bshl f => modsOk .none false f && f.vreg == 0 && bits f.imm 19 6 == 0
  | .amov f | .bmov f => modsOk .none false f && f.vreg == 0 && f.imm == 0
  | .alit f | .blit f => modsOk .none false f && f.index == 0
  | .aslt f | .aeq f | .bslt f | .beqS f => arithCmpOk f
  | .lbr f | .sbr f => branchOk f
  | .lj f | .sj f => jumpOk f
  | .loopL f | .loopS f => loopOk f
  | .cpy f | .cpy2 f => descOk true f
  | .mdld f | .scout f => descOk false f
  | .pfh f => modsOk .none true f
  | .fsend f => modsOk .none false f
  | .fsend2 f => modsOk .none false f && bits f.imm 19 11 == 0
  | .chsend f | .chrecv f => channelOk f
  | .wlapp f => modsOk .one false f && f.vreg == 0 && bits f.imm 19 8 == 0
  | .wlpop f => modsOk .two false f && bits f.vreg 10 3 == 0 && bits f.imm 19 8 == 0
  | .facc f => modsOk .two true f
  | .slook f | .slooki f => modsOk .two false f && f.index == 0 && f.imm == 0
  | .atm _ f => modsOk .two false f && !bit f.vreg 10
  | .atl _ f | .atf _ f => modsOk .two true f && !bit f.vreg 10
  | .vadd ty f x => bundleOk .vadd ty f x
  | .vsub ty f x => bundleOk .vsub ty f x
  | .vmul ty f x => bundleOk .vmul ty f x
  | .vfma ty f x => bundleOk .vfma ty f x
  | .vfms ty f x => bundleOk .vfms ty f x
  | .vmin ty f x => bundleOk .vmin ty f x
  | .vmax ty f x => bundleOk .vmax ty f x
  | .vabs ty f x => bundleOk .vabs ty f x
  | .vneg ty f x => bundleOk .vneg ty f x
  | .vcpys ty f x => bundleOk .vcpys ty f x
  | .viadd ty f x => bundleOk .viadd ty f x
  | .visub ty f x => bundleOk .visub ty f x
  | .vimul ty f x => bundleOk .vimul ty f x
  | .vimulh ty f x => bundleOk .vimulh ty f x
  | .vand ty f x => bundleOk .vand ty f x
  | .vor ty f x => bundleOk .vor ty f x
  | .vxor ty f x => bundleOk .vxor ty f x
  | .vnot ty f x => bundleOk .vnot ty f x
  | .vshl ty f x => bundleOk .vshl ty f x
  | .vshr ty f x => bundleOk .vshr ty f x
  | .vsar ty f x => bundleOk .vsar ty f x
  | .vimin ty f x => bundleOk .vimin ty f x
  | .vimax ty f x => bundleOk .vimax ty f x
  | .vicmpeq ty f x => bundleOk .vicmpeq ty f x
  | .vicmplt ty f x => bundleOk .vicmplt ty f x
  | .vcmpeq ty f x => bundleOk .vcmpeq ty f x
  | .vcmplt ty f x => bundleOk .vcmplt ty f x
  | .vcmple ty f x => bundleOk .vcmple ty f x
  | .vcmpun ty f x => bundleOk .vcmpun ty f x
  | .vsel ty f x => bundleOk .vsel ty f x
  | .vmov ty f x => bundleOk .vmov ty f x
  | .vpart ty f x => bundleOk .vpart ty f x
  | .vbcast ty f x => bundleOk .vbcast ty f x
  | .vshuf ty f x => bundleOk .vshuf ty f x
  | .vrot ty f x => bundleOk .vrot ty f x
  | .viota ty f x => bundleOk .viota ty f x
  | .vcompr ty f x => bundleOk .vcompr ty f x
  | .vcvt ty f x => bundleOk .vcvt ty f x
  | .vcvto ty f x => bundleOk .vcvto ty f x
  | .vcvts ty f x => bundleOk .vcvts ty f x
  | .vcbdec ty f x => bundleOk .vcbdec ty f x
  | .vexp2 ty f x => bundleOk .vexp2 ty f x
  | .vlog2 ty f x => bundleOk .vlog2 ty f x
  | .vsin ty f x => bundleOk .vsin ty f x
  | .vcos ty f x => bundleOk .vcos ty f x
  | .vtanh ty f x => bundleOk .vtanh ty f x
  | .vrcp ty f x => bundleOk .vrcp ty f x
  | .vrsqrt ty f x => bundleOk .vrsqrt ty f x
  | .vsqrt ty f x => bundleOk .vsqrt ty f x
  | .vdiv ty f x => bundleOk .vdiv ty f x
  | .vrsum ty f x => bundleOk .vrsum ty f x
  | .vrmax ty f x => bundleOk .vrmax ty f x
  | .vrmin ty f x => bundleOk .vrmin ty f x
  | .vrstat ty f x => bundleOk .vrstat ty f x
  | .vrsoft ty f x => bundleOk .vrsoft ty f x
  | .vcmul ty f x => bundleOk .vcmul ty f x
  | .vcfma ty f x => bundleOk .vcfma ty f x
  | .vconj ty f x => bundleOk .vconj ty f x
  | .vrand ty f x => bundleOk .vrand ty f x
  | .pand ty f x => bundleOk .pand ty f x
  | .por ty f x => bundleOk .por ty f x
  | .pxor ty f x => bundleOk .pxor ty f x
  | .pnot ty f x => bundleOk .pnot ty f x
  | .cbr ty f x => bundleOk .cbr ty f x
  | .cbrt ty f x => bundleOk .cbrt ty f x
  | .cj ty f x => bundleOk .cj ty f x
  | .loopC ty f x => bundleOk .loopC ty f x
  | .loopSet ty f x => bundleOk .loopSet ty f x
  | .rotb ty f x => bundleOk .rotb ty f x
  | .lbhdr ty f x => bundleOk .lbhdr ty f x
  | .viewt ty f x => bundleOk .viewt ty f x
  | .viewa ty f x => bundleOk .viewa ty f x
  | .fmtset ty f x => bundleOk .fmtset ty f x
  | .mdset ty f x => bundleOk .mdset ty f x
  | .mdsetf ty f x => bundleOk .mdsetf ty f x
  | .cbload ty f x => bundleOk .cbload ty f x
  | .tokenBundle k => k.pop != 0 || k.push != 0
  | _ => true

end Sys2Proof
end

