-- ==== Sys2Proof/Decode.lean ====
section
/-! DEFINITION. Decoding and encoding (04 R66 to R78, 05 R87 to R97). decodeK, decodeL, decodeS and decodeC are total: a word that
is no instruction is rejected by name. The encoder writes the words of a well-formed instruction from the same tables. -/

namespace Sys2Proof

/-- Why a word is not an instruction (04 R78). Every reason raises ILLEGAL at the sequencer that fetched it. -/
inductive Reject where
  | reservedOpcode
  | reservedFunc
  | nonZeroField
  | reservedValue
  | tooShort
  deriving DecidableEq, Repr, Inhabited

/-- The words of one instruction: K words, a KX pair (first word, literal), L and S words, a C bundle. -/
inductive Words where
  | k (w : BitVec 32)
  | kx (w lit : BitVec 32)
  | l (w : BitVec 64)
  | s (w : BitVec 64)
  | c (w : BitVec 128)
  deriving DecidableEq, Repr, Inhabited

/-! ### K words -/

/-- A KR word (04 R66). -/
def krWord (op : BitVec 7) (d a b : Reg) (func : BitVec 10) : BitVec 32 := op ++ d ++ a ++ b ++ func

/-- A KI word (04 R66). -/
def kiWord (op : BitVec 7) (d a : Reg) (imm : BitVec 15) : BitVec 32 := op ++ d ++ a ++ imm

/-- A KB word (04 R66). -/
def kbWord (op : BitVec 7) (a b : Reg) (off : BitVec 15) : BitVec 32 := op ++ a ++ b ++ off

/-- A KJ word (04 R66). -/
def kjWord (op : BitVec 7) (off : BitVec 25) : BitVec 32 := op ++ off

/-- The first word of a KX pair (04 R68). -/
def kxWord (op : BitVec 7) (d : Reg) (sel : BitVec 2) : BitVec 32 := op ++ d ++ sel ++ (0 : BitVec 18)

/-- The integer register family, opcode 0x01 (05 R88). -/
def decodeKInt (func : Nat) (d a b : Reg) : Except Reject Instr :=
  match func with
  | 0x00 => .ok (.add d a b)
  | 0x01 => .ok (.sub d a b)
  | 0x02 => .ok (.and d a b)
  | 0x03 => .ok (.or d a b)
  | 0x04 => .ok (.xor d a b)
  | 0x05 => .ok (.shl d a b)
  | 0x06 => .ok (.shr d a b)
  | 0x07 => .ok (.sar d a b)
  | 0x08 => .ok (.mul d a b)
  | 0x09 => .ok (.mulh d a b)
  | 0x0A => .ok (.mulhn d a b)
  | 0x0B => .ok (.div d a b)
  | 0x0C => .ok (.divn d a b)
  | 0x0D => .ok (.rem d a b)
  | 0x0E => .ok (.remn d a b)
  | 0x0F => .ok (.min d a b)
  | 0x10 => .ok (.max d a b)
  | 0x11 => .ok (.minn d a b)
  | 0x12 => .ok (.maxn d a b)
  | 0x13 => .ok (.slt d a b)
  | 0x14 => .ok (.sltn d a b)
  | _ => .error .reservedFunc

/-- A value that needs the listed fields to be zero. -/
def needZero (ok : Bool) (i : Instr) : Except Reject Instr := if ok then .ok i else .error .nonZeroField

/-- The synchronisation family, opcode 0x40 (05 R88). -/
def decodeKSync (func : Nat) (d a b : Reg) : Except Reject Instr :=
  match func with
  | 0x00 => needZero (d == 0 && b == 0) (.smwait a)
  | 0x01 => needZero (d == 0 && b == 0) (.smsig a)
  | 0x02 => needZero (d == 0) (.smset a b)
  | 0x03 => needZero (b == 0) (.smrd d a)
  | 0x04 => needZero (a == 0 && b == 0) (.evpop d)
  | 0x05 => needZero (a == 0 && b == 0) (.evpeek d)
  | 0x06 => needZero (d == 0) (.gres a b)
  | 0x07 => needZero (d == 0 && bits b 4 3 == 0) (.tkpush a (b.extractLsb' 0 3))
  | 0x08 => needZero (a == 0 && bits b 4 3 == 0) (.tkpop d (b.extractLsb' 0 3))
  | 0x09 => .ok (.barr d a b)
  | 0x0A => needZero (b == 0) (.bard d a)
  | 0x0B => needZero (d == 0) (.barx a b)
  | 0x0C => .ok (.barw d a b)
  | 0x0D => needZero (d == 0) (.flagadd a b)
  | 0x0E => needZero (d == 0) (.flagset a b)
  | 0x0F => needZero (d == 0) (.grpset a b)
  | 0x10 => .ok (.grpq d a b)
  | 0x11 => needZero (d == 0 && a == 0 && !bit b 4) (.fence (b.extractLsb' 2 2) (b.extractLsb' 0 2))
  | 0x12 => needZero (d == 0) (.qfence a b)
  | 0x13 => .ok (.subon d a b)
  | 0x14 => needZero (b == 0) (.suboff d a)
  | 0x15 => needZero (b == 0) (.chresync d a)
  | _ => .error .reservedFunc

/-- The Sett family, opcode 0x41 (05 R88). -/
def decodeKSett (func : Nat) (d a b : Reg) : Except Reject Instr :=
  match func with
  | 0x00 => needZero (b == 0) (.sinc d a)
  | 0x01 => needZero (b == 0) (.srel d a)
  | 0x02 => .ok (.sroot d a b)
  | _ => .error .reservedFunc

/-- The system family, opcode 0x42 (05 R88). -/
def decodeKSys (func : Nat) (d a b : Reg) : Except Reject Instr :=
  match func with
  | 0x00 => needZero (d == 0 && a == 0 && b == 0) .nop
  | 0x01 => .ok (.sqrd d a b)
  | 0x02 => needZero (d == 0 && b == 0) (.sqres a)
  | 0x03 => needZero (d == 0 && b == 0) (.sqskip a)
  | 0x04 => needZero (b == 0) (.srrd d a)
  | 0x05 => needZero (d == 0) (.srwr a b)
  | 0x06 => needZero (b == 0) (.rng d a)
  | 0x07 => needZero (a == 0 && b == 0) (.clkrd d)
  | 0x08 => needZero (d == 0 && b == 0) (.trap a)
  | 0x09 => needZero (d == 0 && a == 0 && b == 0) .eret
  | 0x0A => needZero (d == 0 && a == 0 && b == 0) .yield
  | 0x0B => needZero (d == 0 && a == 0 && b == 0) .exit
  | _ => .error .reservedFunc

/-- A K atomic (05 R89): func [9:4] must be zero. -/
def decodeKAtomic (func : Nat) (mk : BitVec 4 → Instr) : Except Reject Instr :=
  if func < 16 then .ok (mk (BitVec.ofNat 4 func)) else .error .reservedFunc

/-- A KX pair: its first word and its literal word (04 R68). -/
def decodeKX (w next : BitVec 32) : Except Reject Instr :=
  let d := w.extractLsb' 20 5
  if w.extractLsb' 0 18 != (0 : BitVec 18) then .error .nonZeroField
  else match bits w 19 18 with
    | 0 => .ok (.lit d next)
    | 1 => .ok (.litZx d next)
    | 2 => .ok (.litHi d next)
    | _ => .error .reservedValue

/-- A K word before the value checks (05 R87). next is the word at the following address, used by a KX pair only. -/
def decodeKRaw (w next : BitVec 32) : Except Reject Instr :=
  let f1 : Reg := w.extractLsb' 20 5
  let f2 : Reg := w.extractLsb' 15 5
  let f3 : Reg := w.extractLsb' 10 5
  let func := bits w 9 0
  let imm : BitVec 15 := w.extractLsb' 0 15
  let shOk := bits imm 14 6 == 0
  let sh : BitVec 6 := w.extractLsb' 0 6
  match bits w 31 25 with
  | 0x01 => decodeKInt func f1 f2 f3
  | 0x02 => .ok (.addi f1 f2 imm)
  | 0x03 => .ok (.andi f1 f2 imm)
  | 0x04 => .ok (.ori f1 f2 imm)
  | 0x05 => .ok (.xori f1 f2 imm)
  | 0x06 => needZero shOk (.shli f1 f2 sh)
  | 0x07 => needZero shOk (.shri f1 f2 sh)
  | 0x08 => needZero shOk (.sari f1 f2 sh)
  | 0x09 => .ok (.slti f1 f2 imm)
  | 0x0A => decodeKX w next
  | 0x10 => .ok (.beq f1 f2 imm)
  | 0x11 => .ok (.bne f1 f2 imm)
  | 0x12 => .ok (.blt f1 f2 imm)
  | 0x13 => .ok (.bge f1 f2 imm)
  | 0x14 => .ok (.bltn f1 f2 imm)
  | 0x15 => .ok (.bgen f1 f2 imm)
  | 0x16 => .ok (.jal (w.extractLsb' 0 25))
  | 0x17 => .ok (.jalr f1 f2 imm)
  | 0x20 => .ok (.klds f1 f2 imm)
  | 0x21 => .ok (.kldm f1 f2 imm)
  | 0x22 => .ok (.kldl f1 f2 imm)
  | 0x23 => .ok (.kldf f1 f2 imm)
  | 0x24 => .ok (.kldh f1 f2 imm)
  | 0x28 => .ok (.ksts f1 f2 imm)
  | 0x29 => .ok (.kstm f1 f2 imm)
  | 0x2A => .ok (.kstl f1 f2 imm)
  | 0x2B => .ok (.kstf f1 f2 imm)
  | 0x2C => .ok (.ksth f1 f2 imm)
  | 0x38 => decodeKAtomic func (.katm f1 f2 f3)
  | 0x39 => decodeKAtomic func (.katl f1 f2 f3)
  | 0x3A => decodeKAtomic func (.katf f1 f2 f3)
  | 0x40 => decodeKSync func f1 f2 f3
  | 0x41 => decodeKSett func f1 f2 f3
  | 0x42 => decodeKSys func f1 f2 f3
  | _ => .error .reservedOpcode

/-- The instruction, if it holds no reserved value. -/
def checked (r : Except Reject Instr) : Except Reject Instr :=
  match r with
  | .ok i => if i.wellFormed then .ok i else .error .reservedValue
  | .error e => .error e

/-- A K word and the word at the next address. -/
def decodeK (w next : BitVec 32) : Except Reject Instr := checked (decodeKRaw w next)

/-! ### L and S words -/

/-- The fields of an L or S word (04 R69). -/
def LSF.ofWord (w : BitVec 64) : LSF :=
  { pop := w.extractLsb' 53 3, push := w.extractLsb' 50 3, pred := w.extractLsb' 47 3, vreg := w.extractLsb' 36 11
    base := w.extractLsb' 31 5, index := w.extractLsb' 26 5, imm := w.extractLsb' 6 20
    order := w.extractLsb' 4 2, scope := w.extractLsb' 2 2, cache := w.extractLsb' 0 2 }

/-- An L or S word from its opcode and fields (04 R69). -/
def lsWord (op : BitVec 8) (f : LSF) : BitVec 64 :=
  op ++ f.pop ++ f.push ++ f.pred ++ f.vreg ++ f.base ++ f.index ++ f.imm ++ f.order ++ f.scope ++ f.cache

/-- The width codes of 05 R90. -/
def Width.ofCode : Nat → Option Width
  | 0 => some .w128
  | 1 => some .w64
  | 2 => some .w32
  | _ => none

/-- The width code of a width. -/
def Width.code : Width → Nat
  | .w128 => 0
  | .w64 => 1
  | .w32 => 2

/-- The addressing-mode bit of 05 R90. -/
def AMode.code : AMode → Nat
  | .offset => 0
  | .postInc => 1

/-- The memory rows of 05 R90, opcodes 0x10 to 0x3F. isL tells L from S; S has no row 4. -/
def decodeMem (isL : Bool) (op : Nat) (f : LSF) : Except Reject Instr :=
  let m := if (op / 4) % 2 = 0 then AMode.offset else AMode.postInc
  match Width.ofCode (op % 4) with
  | none => .error .reservedOpcode
  | some w => match isL, (op - 0x10) / 8 with
    | true, 0 => .ok (.lds m w f)
    | true, 1 => .ok (.ldm m w f)
    | true, 2 => .ok (.ldl m w f)
    | true, 3 => .ok (.ldf m w f)
    | true, 4 => .ok (.ldn m w f)
    | true, 5 => .ok (.ldh m w f)
    | false, 0 => .ok (.sts m w f)
    | false, 1 => .ok (.stm m w f)
    | false, 2 => .ok (.stl m w f)
    | false, 3 => .ok (.stf m w f)
    | false, 5 => .ok (.sth m w f)
    | _, _ => .error .reservedOpcode

/-- The L opcodes outside 0x10 to 0x3F (05 R91). -/
def decodeLOther (op : Nat) (f : LSF) : Except Reject Instr :=
  match op with
  | 0x40 => .ok (.gths f)
  | 0x41 => .ok (.gthl f)
  | 0x48 => .ok (.aadd f)
  | 0x49 => .ok (.aaddi f)
  | 0x4A => .ok (.asub f)
  | 0x4B => .ok (.amul f)
  | 0x4C => .ok (.ashl f)
  | 0x4D => .ok (.amov f)
  | 0x4E => .ok (.alit f)
  | 0x4F => .ok (.aslt f)
  | 0x50 => .ok (.aeq f)
  | 0x58 => .ok (.lbr f)
  | 0x59 => .ok (.lj f)
  | 0x5A => .ok (.loopL f)
  | 0x60 => .ok (.cpy f)
  | 0x61 => .ok (.cpy2 f)
  | 0x62 => .ok (.pfh f)
  | 0x63 => .ok (.mdld f)
  | 0x64 => .ok (.scout f)
  | 0x68 => .ok (.chrecv f)
  | 0x69 => .ok (.wlpop f)
  | 0x6A => .ok (.facc f)
  | _ => .error .reservedOpcode

/-- The S opcodes outside 0x10 to 0x3F (05 R92, R93). -/
def decodeSOther (op : Nat) (f : LSF) : Except Reject Instr :=
  match op with
  | 0x40 => .ok (.scts f)
  | 0x41 => .ok (.sctl f)
  | 0x48 => .ok (.badd f)
  | 0x49 => .ok (.baddi f)
  | 0x4A => .ok (.bsub f)
  | 0x4B => .ok (.bmul f)
  | 0x4C => .ok (.bshl f)
  | 0x4D => .ok (.bmov f)
  | 0x4E => .ok (.blit f)
  | 0x4F => .ok (.bslt f)
  | 0x50 => .ok (.beqS f)
  | 0x58 => .ok (.sbr f)
  | 0x59 => .ok (.sj f)
  | 0x5A => .ok (.loopS f)
  | 0x60 => .ok (.fsend f)
  | 0x61 => .ok (.fsend2 f)
  | 0x68 => .ok (.chsend f)
  | 0x69 => .ok (.wlapp f)
  | 0x6A => .ok (.slook f)
  | 0x6B => .ok (.slooki f)
  | op =>
    if 0x80 ≤ op ∧ op < 0x90 then .ok (.atm (BitVec.ofNat 4 op) f)
    else if 0x90 ≤ op ∧ op < 0xA0 then .ok (.atl (BitVec.ofNat 4 op) f)
    else if 0xA0 ≤ op ∧ op < 0xB0 then .ok (.atf (BitVec.ofNat 4 op) f)
    else .error .reservedOpcode

/-- An L word. -/
def decodeL (w : BitVec 64) : Except Reject Instr :=
  let op := bits w 63 56
  checked (if 0x10 ≤ op ∧ op < 0x40 then decodeMem true op (LSF.ofWord w) else decodeLOther op (LSF.ofWord w))

/-- An S word. -/
def decodeS (w : BitVec 64) : Except Reject Instr :=
  let op := bits w 63 56
  checked (if 0x10 ≤ op ∧ op < 0x40 then decodeMem false op (LSF.ofWord w) else decodeSOther op (LSF.ofWord w))

/-! ### C bundles -/

/-- The fields of a vector slot (04 R72). -/
def SlotF.ofWord (w : BitVec 48) : SlotF :=
  { pred := w.extractLsb' 36 3, neg := bit w 35, vd := w.extractLsb' 24 11, va := w.extractLsb' 13 11
    vb := w.extractLsb' 2 11, tr := bit w 1, rot := bit w 0 }

/-- A vector slot from its opcode and fields (04 R72). -/
def slotWord (op : BitVec 9) (f : SlotF) : BitVec 48 :=
  op ++ f.pred ++ BitVec.ofBool f.neg ++ f.vd ++ f.va ++ f.vb ++ BitVec.ofBool f.tr ++ BitVec.ofBool f.rot

/-- The opcode of a vector instruction with type code 0 (05 R94). -/
def VCode.opcode : VCode → Nat
  | .vadd => 0x020
  | .vsub => 0x024
  | .vmul => 0x028
  | .vfma => 0x02C
  | .vfms => 0x030
  | .vmin => 0x034
  | .vmax => 0x038
  | .vabs => 0x03C
  | .vneg => 0x040
  | .vcpys => 0x044
  | .viadd => 0x060
  | .visub => 0x064
  | .vimul => 0x068
  | .vimulh => 0x06C
  | .vand => 0x070
  | .vor => 0x074
  | .vxor => 0x078
  | .vnot => 0x07C
  | .vshl => 0x080
  | .vshr => 0x084
  | .vsar => 0x088
  | .vimin => 0x08C
  | .vimax => 0x090
  | .vicmpeq => 0x094
  | .vicmplt => 0x098
  | .vcmpeq => 0x0A0
  | .vcmplt => 0x0A4
  | .vcmple => 0x0A8
  | .vcmpun => 0x0AC
  | .vsel => 0x0B0
  | .vmov => 0x0B1
  | .vpart => 0x0B2
  | .vbcast => 0x0C0
  | .vshuf => 0x0C4
  | .vrot => 0x0C8
  | .viota => 0x0CC
  | .vcompr => 0x0D0
  | .vcvt => 0x0E0
  | .vcvto => 0x0E1
  | .vcvts => 0x0E2
  | .vcbdec => 0x0E3
  | .vexp2 => 0x100
  | .vlog2 => 0x104
  | .vsin => 0x108
  | .vcos => 0x10C
  | .vtanh => 0x110
  | .vrcp => 0x114
  | .vrsqrt => 0x118
  | .vsqrt => 0x11C
  | .vdiv => 0x120
  | .vrsum => 0x130
  | .vrmax => 0x134
  | .vrmin => 0x138
  | .vrstat => 0x13C
  | .vrsoft => 0x140
  | .vcmul => 0x150
  | .vcfma => 0x151
  | .vconj => 0x152
  | .vrand => 0x158
  | .pand => 0x160
  | .por => 0x161
  | .pxor => 0x162
  | .pnot => 0x163
  | .cbr => 0x170
  | .cbrt => 0x171
  | .cj => 0x172
  | .loopC => 0x173
  | .loopSet => 0x173
  | .rotb => 0x174
  | .lbhdr => 0x175
  | .viewt => 0x180
  | .viewa => 0x181
  | .fmtset => 0x182
  | .mdset => 0x183
  | .mdsetf => 0x184
  | .cbload => 0x185

/-- The vector instructions by opcode; LOOP.SET shares the opcode of LOOP (09 R201). -/
def VCode.all : List VCode :=
  [.vadd, .vsub, .vmul, .vfma, .vfms, .vmin, .vmax, .vabs, .vneg, .vcpys, .viadd, .visub, .vimul, .vimulh,
   .vand, .vor, .vxor, .vnot, .vshl, .vshr, .vsar, .vimin, .vimax, .vicmpeq, .vicmplt, .vcmpeq, .vcmplt, .vcmple,
   .vcmpun, .vsel, .vmov, .vpart, .vbcast, .vshuf, .vrot, .viota, .vcompr, .vcvt, .vcvto, .vcvts, .vcbdec, .vexp2,
   .vlog2, .vsin, .vcos, .vtanh, .vrcp, .vrsqrt, .vsqrt, .vdiv, .vrsum, .vrmax, .vrmin, .vrstat, .vrsoft, .vcmul,
   .vcfma, .vconj, .vrand, .pand, .por, .pxor, .pnot, .cbr, .cbrt, .cj, .loopC, .rotb, .lbhdr, .viewt,
   .viewa, .fmtset, .mdset, .mdsetf, .cbload]

/-- The instruction and type code of a 9-bit vector opcode (05 R94). -/
def VCode.ofOpcode (op : Nat) : Option (VCode × BitVec 2) :=
  match VCode.all.find? (fun c => if c.typing == .none then op == c.opcode else op / 4 == c.opcode / 4) with
  | some c => some (c, if c.typing == .none then 0 else BitVec.ofNat 2 op)
  | none => none

/-- A vector slot: none when it is empty (04 R72). -/
def decodeSlot (w : BitVec 48) : Except Reject (Option Slot) :=
  let op := bits w 47 39
  let f := SlotF.ofWord w
  if op = 0 then (if w = 0 then .ok none else .error .nonZeroField)
  else match VCode.ofOpcode op with
    | none => .error .reservedOpcode
    | some (.loopC, _) => .ok (some ⟨if bit f.vd 2 then .loopSet else .loopC, 0, f⟩)
    | some (c, t) => .ok (some ⟨c, t, f⟩)

/-- The fields of slot M (04 R72). -/
def MSlot.ofWord (w : BitVec 24) : MSlot :=
  { md := w.extractLsb' 17 4, wait := w.extractLsb' 9 8, signal := w.extractLsb' 1 8, guard := bit w 0 }

/-- Slot M (04 R72). -/
def decodeM (w : BitVec 24) : Except Reject (Option MCmd) :=
  match bits w 23 21 with
  | 0 => if w = 0 then .ok none else .error .nonZeroField
  | 1 => .ok (some ⟨.mxgo, MSlot.ofWord w⟩)
  | 2 => .ok (some ⟨.mxgou, MSlot.ofWord w⟩)
  | 3 => .ok (some ⟨.mxloop, MSlot.ofWord w⟩)
  | _ => .error .reservedValue

/-- The bundle whose naming slot holds s. -/
def Instr.ofSlot (s : Slot) (x : Bun) : Instr :=
  match s.op with
  | .vadd => .vadd s.ty s.f x
  | .vsub => .vsub s.ty s.f x
  | .vmul => .vmul s.ty s.f x
  | .vfma => .vfma s.ty s.f x
  | .vfms => .vfms s.ty s.f x
  | .vmin => .vmin s.ty s.f x
  | .vmax => .vmax s.ty s.f x
  | .vabs => .vabs s.ty s.f x
  | .vneg => .vneg s.ty s.f x
  | .vcpys => .vcpys s.ty s.f x
  | .viadd => .viadd s.ty s.f x
  | .visub => .visub s.ty s.f x
  | .vimul => .vimul s.ty s.f x
  | .vimulh => .vimulh s.ty s.f x
  | .vand => .vand s.ty s.f x
  | .vor => .vor s.ty s.f x
  | .vxor => .vxor s.ty s.f x
  | .vnot => .vnot s.ty s.f x
  | .vshl => .vshl s.ty s.f x
  | .vshr => .vshr s.ty s.f x
  | .vsar => .vsar s.ty s.f x
  | .vimin => .vimin s.ty s.f x
  | .vimax => .vimax s.ty s.f x
  | .vicmpeq => .vicmpeq s.ty s.f x
  | .vicmplt => .vicmplt s.ty s.f x
  | .vcmpeq => .vcmpeq s.ty s.f x
  | .vcmplt => .vcmplt s.ty s.f x
  | .vcmple => .vcmple s.ty s.f x
  | .vcmpun => .vcmpun s.ty s.f x
  | .vsel => .vsel s.ty s.f x
  | .vmov => .vmov s.ty s.f x
  | .vpart => .vpart s.ty s.f x
  | .vbcast => .vbcast s.ty s.f x
  | .vshuf => .vshuf s.ty s.f x
  | .vrot => .vrot s.ty s.f x
  | .viota => .viota s.ty s.f x
  | .vcompr => .vcompr s.ty s.f x
  | .vcvt => .vcvt s.ty s.f x
  | .vcvto => .vcvto s.ty s.f x
  | .vcvts => .vcvts s.ty s.f x
  | .vcbdec => .vcbdec s.ty s.f x
  | .vexp2 => .vexp2 s.ty s.f x
  | .vlog2 => .vlog2 s.ty s.f x
  | .vsin => .vsin s.ty s.f x
  | .vcos => .vcos s.ty s.f x
  | .vtanh => .vtanh s.ty s.f x
  | .vrcp => .vrcp s.ty s.f x
  | .vrsqrt => .vrsqrt s.ty s.f x
  | .vsqrt => .vsqrt s.ty s.f x
  | .vdiv => .vdiv s.ty s.f x
  | .vrsum => .vrsum s.ty s.f x
  | .vrmax => .vrmax s.ty s.f x
  | .vrmin => .vrmin s.ty s.f x
  | .vrstat => .vrstat s.ty s.f x
  | .vrsoft => .vrsoft s.ty s.f x
  | .vcmul => .vcmul s.ty s.f x
  | .vcfma => .vcfma s.ty s.f x
  | .vconj => .vconj s.ty s.f x
  | .vrand => .vrand s.ty s.f x
  | .pand => .pand s.ty s.f x
  | .por => .por s.ty s.f x
  | .pxor => .pxor s.ty s.f x
  | .pnot => .pnot s.ty s.f x
  | .cbr => .cbr s.ty s.f x
  | .cbrt => .cbrt s.ty s.f x
  | .cj => .cj s.ty s.f x
  | .loopC => .loopC s.ty s.f x
  | .loopSet => .loopSet s.ty s.f x
  | .rotb => .rotb s.ty s.f x
  | .lbhdr => .lbhdr s.ty s.f x
  | .viewt => .viewt s.ty s.f x
  | .viewa => .viewa s.ty s.f x
  | .fmtset => .fmtset s.ty s.f x
  | .mdset => .mdset s.ty s.f x
  | .mdsetf => .mdsetf s.ty s.f x
  | .cbload => .cbload s.ty s.f x

/-- The bundle with empty vector slots. -/
def Instr.ofM (m : Option MCmd) (t : Toks) : Instr :=
  match m with
  | none => .tokenBundle t
  | some ⟨.mxgo, m⟩ => .mxgo m t
  | some ⟨.mxgou, m⟩ => .mxgou m t
  | some ⟨.mxloop, m⟩ => .mxloop m t

/-- The parts of a bundle: slot A, slot B, slot M, pop, push, zero. -/
def assemble (a : Option Slot) (b : SlotB) (m : Option MCmd) (t : Toks) : Except Reject Instr :=
  match a, b with
  | some s, b => .ok (Instr.ofSlot s ⟨t.pop, t.push, t.zero, false, b, m⟩)
  | none, .slot s => .ok (Instr.ofSlot s ⟨t.pop, t.push, t.zero, true, .empty, m⟩)
  | none, .lit _ => .error .reservedValue
  | none, .empty => .ok (Instr.ofM m t)

/-- Slot B, or the literal of 04 R73. -/
def decodeB (lit : Bool) (w : BitVec 48) : Except Reject SlotB :=
  if lit then (if w.extractLsb' 0 16 = (0 : BitVec 16) then .ok (.lit (w.extractLsb' 16 32)) else .error .nonZeroField)
  else match decodeSlot w with
    | .ok none => .ok .empty
    | .ok (some s) => .ok (.slot s)
    | .error e => .error e

/-- A C bundle (04 R72 to R74). -/
def decodeC (w : BitVec 128) : Except Reject Instr :=
  match decodeSlot (w.extractLsb' 72 48) with
  | .error e => .error e
  | .ok a => match decodeB (bit w 121) (w.extractLsb' 24 48) with
    | .error e => .error e
    | .ok b => match decodeM (w.extractLsb' 0 24) with
      | .error e => .error e
      | .ok m => checked (assemble a b m ⟨w.extractLsb' 125 3, w.extractLsb' 122 3, bit w 120⟩)

/-! ### The encoder -/

/-- Slot M as bits. -/
def mWord : Option MCmd → BitVec 24
  | none => 0
  | some ⟨op, m⟩ =>
    (match op with
      | .mxgo => (1 : BitVec 3)
      | .mxgou => 2
      | .mxloop => 3) ++ m.md ++ m.wait ++ m.signal ++ BitVec.ofBool m.guard

/-- A vector slot as bits. -/
def Slot.word (s : Slot) : BitVec 48 := slotWord (BitVec.ofNat 9 (s.op.opcode + s.ty.toNat)) s.f

/-- Slot B as bits. -/
def SlotB.word : SlotB → BitVec 48
  | .empty => 0
  | .lit w => w ++ (0 : BitVec 16)
  | .slot s => s.word

/-- Whether slot B carries the literal. -/
def SlotB.isLit : SlotB → Bool
  | .lit _ => true
  | _ => false

/-- A bundle from its parts. -/
def bundleWord (pop push : BitVec 3) (zero : Bool) (a : BitVec 48) (b : SlotB) (m : Option MCmd) : BitVec 128 :=
  pop ++ push ++ BitVec.ofBool b.isLit ++ BitVec.ofBool zero ++ a ++ b.word ++ mWord m

/-- The bundle of a vector instruction. -/
def encodeV (op : VCode) (ty : BitVec 2) (f : SlotF) (x : Bun) : Words :=
  .c (if x.inB then bundleWord x.pop x.push x.zero 0 (.slot ⟨op, ty, f⟩) x.m
      else bundleWord x.pop x.push x.zero (Slot.word ⟨op, ty, f⟩) x.b x.m)

/-- The bundle of a matrix command with empty vector slots. -/
def encodeM (op : MOp) (m : MSlot) (k : Toks) : Words := .c (bundleWord k.pop k.push k.zero 0 .empty (some ⟨op, m⟩))

/-- The memory opcode of 05 R90. -/
def memOp (row : Nat) (m : AMode) (w : Width) : BitVec 8 := BitVec.ofNat 8 (0x10 + 8 * row + 4 * m.code + w.code)

/-- The words of a well-formed instruction; none for a step that has no encoding. -/
def encode : Instr → Option Words
  | .add d a b => some (.k (krWord 0x01 d a b 0x000))
  | .sub d a b => some (.k (krWord 0x01 d a b 0x001))
  | .and d a b => some (.k (krWord 0x01 d a b 0x002))
  | .or d a b => some (.k (krWord 0x01 d a b 0x003))
  | .xor d a b => some (.k (krWord 0x01 d a b 0x004))
  | .shl d a b => some (.k (krWord 0x01 d a b 0x005))
  | .shr d a b => some (.k (krWord 0x01 d a b 0x006))
  | .sar d a b => some (.k (krWord 0x01 d a b 0x007))
  | .mul d a b => some (.k (krWord 0x01 d a b 0x008))
  | .mulh d a b => some (.k (krWord 0x01 d a b 0x009))
  | .mulhn d a b => some (.k (krWord 0x01 d a b 0x00A))
  | .div d a b => some (.k (krWord 0x01 d a b 0x00B))
  | .divn d a b => some (.k (krWord 0x01 d a b 0x00C))
  | .rem d a b => some (.k (krWord 0x01 d a b 0x00D))
  | .remn d a b => some (.k (krWord 0x01 d a b 0x00E))
  | .min d a b => some (.k (krWord 0x01 d a b 0x00F))
  | .max d a b => some (.k (krWord 0x01 d a b 0x010))
  | .minn d a b => some (.k (krWord 0x01 d a b 0x011))
  | .maxn d a b => some (.k (krWord 0x01 d a b 0x012))
  | .slt d a b => some (.k (krWord 0x01 d a b 0x013))
  | .sltn d a b => some (.k (krWord 0x01 d a b 0x014))
  | .addi d a i => some (.k (kiWord 0x02 d a i))
  | .andi d a i => some (.k (kiWord 0x03 d a i))
  | .ori d a i => some (.k (kiWord 0x04 d a i))
  | .xori d a i => some (.k (kiWord 0x05 d a i))
  | .shli d a i => some (.k (kiWord 0x06 d a ((0 : BitVec 9) ++ i)))
  | .shri d a i => some (.k (kiWord 0x07 d a ((0 : BitVec 9) ++ i)))
  | .sari d a i => some (.k (kiWord 0x08 d a ((0 : BitVec 9) ++ i)))
  | .slti d a i => some (.k (kiWord 0x09 d a i))
  | .lit d w => some (.kx (kxWord 0x0A d 0) w)
  | .litZx d w => some (.kx (kxWord 0x0A d 1) w)
  | .litHi d w => some (.kx (kxWord 0x0A d 2) w)
  | .beq a b o => some (.k (kbWord 0x10 a b o))
  | .bne a b o => some (.k (kbWord 0x11 a b o))
  | .blt a b o => some (.k (kbWord 0x12 a b o))
  | .bge a b o => some (.k (kbWord 0x13 a b o))
  | .bltn a b o => some (.k (kbWord 0x14 a b o))
  | .bgen a b o => some (.k (kbWord 0x15 a b o))
  | .jal o => some (.k (kjWord 0x16 o))
  | .jalr d a i => some (.k (kiWord 0x17 d a i))
  | .klds d a i => some (.k (kiWord 0x20 d a i))
  | .kldm d a i => some (.k (kiWord 0x21 d a i))
  | .kldl d a i => some (.k (kiWord 0x22 d a i))
  | .kldf d a i => some (.k (kiWord 0x23 d a i))
  | .kldh d a i => some (.k (kiWord 0x24 d a i))
  | .ksts a b i => some (.k (kbWord 0x28 a b i))
  | .kstm a b i => some (.k (kbWord 0x29 a b i))
  | .kstl a b i => some (.k (kbWord 0x2A a b i))
  | .kstf a b i => some (.k (kbWord 0x2B a b i))
  | .ksth a b i => some (.k (kbWord 0x2C a b i))
  | .katm d a b op => some (.k (krWord 0x38 d a b ((0 : BitVec 6) ++ op)))
  | .katl d a b op => some (.k (krWord 0x39 d a b ((0 : BitVec 6) ++ op)))
  | .katf d a b op => some (.k (krWord 0x3A d a b ((0 : BitVec 6) ++ op)))
  | .smwait a => some (.k (krWord 0x40 0 a 0 0x000))
  | .smsig a => some (.k (krWord 0x40 0 a 0 0x001))
  | .smset a b => some (.k (krWord 0x40 0 a b 0x002))
  | .smrd d a => some (.k (krWord 0x40 d a 0 0x003))
  | .evpop d => some (.k (krWord 0x40 d 0 0 0x004))
  | .evpeek d => some (.k (krWord 0x40 d 0 0 0x005))
  | .gres a b => some (.k (krWord 0x40 0 a b 0x006))
  | .tkpush a c => some (.k (krWord 0x40 0 a ((0 : BitVec 2) ++ c) 0x007))
  | .tkpop d c => some (.k (krWord 0x40 d 0 ((0 : BitVec 2) ++ c) 0x008))
  | .barr d a b => some (.k (krWord 0x40 d a b 0x009))
  | .bard d a => some (.k (krWord 0x40 d a 0 0x00A))
  | .barx a b => some (.k (krWord 0x40 0 a b 0x00B))
  | .barw d a b => some (.k (krWord 0x40 d a b 0x00C))
  | .flagadd a b => some (.k (krWord 0x40 0 a b 0x00D))
  | .flagset a b => some (.k (krWord 0x40 0 a b 0x00E))
  | .grpset a b => some (.k (krWord 0x40 0 a b 0x00F))
  | .grpq d a b => some (.k (krWord 0x40 d a b 0x010))
  | .fence kind scope => some (.k (krWord 0x40 0 0 ((0 : BitVec 1) ++ kind ++ scope) 0x011))
  | .qfence a b => some (.k (krWord 0x40 0 a b 0x012))
  | .subon d a b => some (.k (krWord 0x40 d a b 0x013))
  | .suboff d a => some (.k (krWord 0x40 d a 0 0x014))
  | .chresync d a => some (.k (krWord 0x40 d a 0 0x015))
  | .sinc d a => some (.k (krWord 0x41 d a 0 0x000))
  | .srel d a => some (.k (krWord 0x41 d a 0 0x001))
  | .sroot d a b => some (.k (krWord 0x41 d a b 0x002))
  | .nop => some (.k (krWord 0x42 0 0 0 0x000))
  | .sqrd d a b => some (.k (krWord 0x42 d a b 0x001))
  | .sqres a => some (.k (krWord 0x42 0 a 0 0x002))
  | .sqskip a => some (.k (krWord 0x42 0 a 0 0x003))
  | .srrd d a => some (.k (krWord 0x42 d a 0 0x004))
  | .srwr a b => some (.k (krWord 0x42 0 a b 0x005))
  | .rng d a => some (.k (krWord 0x42 d a 0 0x006))
  | .clkrd d => some (.k (krWord 0x42 d 0 0 0x007))
  | .trap a => some (.k (krWord 0x42 0 a 0 0x008))
  | .eret => some (.k (krWord 0x42 0 0 0 0x009))
  | .yield => some (.k (krWord 0x42 0 0 0 0x00A))
  | .exit => some (.k (krWord 0x42 0 0 0 0x00B))
  | .lds m w f => some (.l (lsWord (memOp 0 m w) f))
  | .ldm m w f => some (.l (lsWord (memOp 1 m w) f))
  | .ldl m w f => some (.l (lsWord (memOp 2 m w) f))
  | .ldf m w f => some (.l (lsWord (memOp 3 m w) f))
  | .ldn m w f => some (.l (lsWord (memOp 4 m w) f))
  | .ldh m w f => some (.l (lsWord (memOp 5 m w) f))
  | .sts m w f => some (.s (lsWord (memOp 0 m w) f))
  | .stm m w f => some (.s (lsWord (memOp 1 m w) f))
  | .stl m w f => some (.s (lsWord (memOp 2 m w) f))
  | .stf m w f => some (.s (lsWord (memOp 3 m w) f))
  | .sth m w f => some (.s (lsWord (memOp 5 m w) f))
  | .gths f => some (.l (lsWord 0x40 f))
  | .gthl f => some (.l (lsWord 0x41 f))
  | .aadd f => some (.l (lsWord 0x48 f))
  | .aaddi f => some (.l (lsWord 0x49 f))
  | .asub f => some (.l (lsWord 0x4A f))
  | .amul f => some (.l (lsWord 0x4B f))
  | .ashl f => some (.l (lsWord 0x4C f))
  | .amov f => some (.l (lsWord 0x4D f))
  | .alit f => some (.l (lsWord 0x4E f))
  | .aslt f => some (.l (lsWord 0x4F f))
  | .aeq f => some (.l (lsWord 0x50 f))
  | .lbr f => some (.l (lsWord 0x58 f))
  | .lj f => some (.l (lsWord 0x59 f))
  | .loopL f => some (.l (lsWord 0x5A f))
  | .cpy f => some (.l (lsWord 0x60 f))
  | .cpy2 f => some (.l (lsWord 0x61 f))
  | .pfh f => some (.l (lsWord 0x62 f))
  | .mdld f => some (.l (lsWord 0x63 f))
  | .scout f => some (.l (lsWord 0x64 f))
  | .chrecv f => some (.l (lsWord 0x68 f))
  | .wlpop f => some (.l (lsWord 0x69 f))
  | .facc f => some (.l (lsWord 0x6A f))
  | .scts f => some (.s (lsWord 0x40 f))
  | .sctl f => some (.s (lsWord 0x41 f))
  | .badd f => some (.s (lsWord 0x48 f))
  | .baddi f => some (.s (lsWord 0x49 f))
  | .bsub f => some (.s (lsWord 0x4A f))
  | .bmul f => some (.s (lsWord 0x4B f))
  | .bshl f => some (.s (lsWord 0x4C f))
  | .bmov f => some (.s (lsWord 0x4D f))
  | .blit f => some (.s (lsWord 0x4E f))
  | .bslt f => some (.s (lsWord 0x4F f))
  | .beqS f => some (.s (lsWord 0x50 f))
  | .sbr f => some (.s (lsWord 0x58 f))
  | .sj f => some (.s (lsWord 0x59 f))
  | .loopS f => some (.s (lsWord 0x5A f))
  | .fsend f => some (.s (lsWord 0x60 f))
  | .fsend2 f => some (.s (lsWord 0x61 f))
  | .chsend f => some (.s (lsWord 0x68 f))
  | .wlapp f => some (.s (lsWord 0x69 f))
  | .slook f => some (.s (lsWord 0x6A f))
  | .slooki f => some (.s (lsWord 0x6B f))
  | .atm op f => some (.s (lsWord ((0x8 : BitVec 4) ++ op) f))
  | .atl op f => some (.s (lsWord ((0x9 : BitVec 4) ++ op) f))
  | .atf op f => some (.s (lsWord ((0xA : BitVec 4) ++ op) f))
  | .vadd ty f x => some (encodeV .vadd ty f x)
  | .vsub ty f x => some (encodeV .vsub ty f x)
  | .vmul ty f x => some (encodeV .vmul ty f x)
  | .vfma ty f x => some (encodeV .vfma ty f x)
  | .vfms ty f x => some (encodeV .vfms ty f x)
  | .vmin ty f x => some (encodeV .vmin ty f x)
  | .vmax ty f x => some (encodeV .vmax ty f x)
  | .vabs ty f x => some (encodeV .vabs ty f x)
  | .vneg ty f x => some (encodeV .vneg ty f x)
  | .vcpys ty f x => some (encodeV .vcpys ty f x)
  | .viadd ty f x => some (encodeV .viadd ty f x)
  | .visub ty f x => some (encodeV .visub ty f x)
  | .vimul ty f x => some (encodeV .vimul ty f x)
  | .vimulh ty f x => some (encodeV .vimulh ty f x)
  | .vand ty f x => some (encodeV .vand ty f x)
  | .vor ty f x => some (encodeV .vor ty f x)
  | .vxor ty f x => some (encodeV .vxor ty f x)
  | .vnot ty f x => some (encodeV .vnot ty f x)
  | .vshl ty f x => some (encodeV .vshl ty f x)
  | .vshr ty f x => some (encodeV .vshr ty f x)
  | .vsar ty f x => some (encodeV .vsar ty f x)
  | .vimin ty f x => some (encodeV .vimin ty f x)
  | .vimax ty f x => some (encodeV .vimax ty f x)
  | .vicmpeq ty f x => some (encodeV .vicmpeq ty f x)
  | .vicmplt ty f x => some (encodeV .vicmplt ty f x)
  | .vcmpeq ty f x => some (encodeV .vcmpeq ty f x)
  | .vcmplt ty f x => some (encodeV .vcmplt ty f x)
  | .vcmple ty f x => some (encodeV .vcmple ty f x)
  | .vcmpun ty f x => some (encodeV .vcmpun ty f x)
  | .vsel ty f x => some (encodeV .vsel ty f x)
  | .vmov ty f x => some (encodeV .vmov ty f x)
  | .vpart ty f x => some (encodeV .vpart ty f x)
  | .vbcast ty f x => some (encodeV .vbcast ty f x)
  | .vshuf ty f x => some (encodeV .vshuf ty f x)
  | .vrot ty f x => some (encodeV .vrot ty f x)
  | .viota ty f x => some (encodeV .viota ty f x)
  | .vcompr ty f x => some (encodeV .vcompr ty f x)
  | .vcvt ty f x => some (encodeV .vcvt ty f x)
  | .vcvto ty f x => some (encodeV .vcvto ty f x)
  | .vcvts ty f x => some (encodeV .vcvts ty f x)
  | .vcbdec ty f x => some (encodeV .vcbdec ty f x)
  | .vexp2 ty f x => some (encodeV .vexp2 ty f x)
  | .vlog2 ty f x => some (encodeV .vlog2 ty f x)
  | .vsin ty f x => some (encodeV .vsin ty f x)
  | .vcos ty f x => some (encodeV .vcos ty f x)
  | .vtanh ty f x => some (encodeV .vtanh ty f x)
  | .vrcp ty f x => some (encodeV .vrcp ty f x)
  | .vrsqrt ty f x => some (encodeV .vrsqrt ty f x)
  | .vsqrt ty f x => some (encodeV .vsqrt ty f x)
  | .vdiv ty f x => some (encodeV .vdiv ty f x)
  | .vrsum ty f x => some (encodeV .vrsum ty f x)
  | .vrmax ty f x => some (encodeV .vrmax ty f x)
  | .vrmin ty f x => some (encodeV .vrmin ty f x)
  | .vrstat ty f x => some (encodeV .vrstat ty f x)
  | .vrsoft ty f x => some (encodeV .vrsoft ty f x)
  | .vcmul ty f x => some (encodeV .vcmul ty f x)
  | .vcfma ty f x => some (encodeV .vcfma ty f x)
  | .vconj ty f x => some (encodeV .vconj ty f x)
  | .vrand ty f x => some (encodeV .vrand ty f x)
  | .pand ty f x => some (encodeV .pand ty f x)
  | .por ty f x => some (encodeV .por ty f x)
  | .pxor ty f x => some (encodeV .pxor ty f x)
  | .pnot ty f x => some (encodeV .pnot ty f x)
  | .cbr ty f x => some (encodeV .cbr ty f x)
  | .cbrt ty f x => some (encodeV .cbrt ty f x)
  | .cj ty f x => some (encodeV .cj ty f x)
  | .loopC ty f x => some (encodeV .loopC ty f x)
  | .loopSet ty f x => some (encodeV .loopSet ty f x)
  | .rotb ty f x => some (encodeV .rotb ty f x)
  | .lbhdr ty f x => some (encodeV .lbhdr ty f x)
  | .viewt ty f x => some (encodeV .viewt ty f x)
  | .viewa ty f x => some (encodeV .viewa ty f x)
  | .fmtset ty f x => some (encodeV .fmtset ty f x)
  | .mdset ty f x => some (encodeV .mdset ty f x)
  | .mdsetf ty f x => some (encodeV .mdsetf ty f x)
  | .cbload ty f x => some (encodeV .cbload ty f x)
  | .mxgo m k => some (encodeM .mxgo m k)
  | .mxgou m k => some (encodeM .mxgou m k)
  | .mxloop m k => some (encodeM .mxloop m k)
  | .tokenBundle k => some (.c (bundleWord k.pop k.push k.zero 0 .empty none))
  | _ => none

/-- The instruction of some words. -/
def Words.decode : Words → Except Reject Instr
  | .k w => decodeK w 0
  | .kx w lit => decodeK w lit
  | .l w => decodeL w
  | .s w => decodeS w
  | .c w => decodeC w

/-! ### Bytes -/

/-- The little-endian number of a list of bytes (02 R19). -/
def leNat : List Byte → Nat
  | [] => 0
  | b :: t => b.toNat + 256 * leNat t

/-- The n little-endian bytes of a number. -/
def leBytes : Nat → Nat → List Byte
  | 0, _ => []
  | n + 1, v => BitVec.ofNat 8 v :: leBytes n (v / 256)

/-- The length of an instruction of sequencer q in bytes, from its first bytes (04 R64, R68). -/
def instrLen (q : Sequencer) (bs : List Byte) : Nat :=
  match q with
  | .k => if nbits (leNat (bs.take 4)) 25 7 = 0x0A then 8 else 4
  | .l => 8
  | .s => 8
  | .c => 16

/-- The first instruction of sequencer q in a list of bytes, with the bytes after it. -/
def decodeBytes (q : Sequencer) (bs : List Byte) : Except Reject (Instr × List Byte) :=
  let n := instrLen q bs
  if bs.length < n then .error .tooShort
  else
    let v := leNat (bs.take n)
    let r := match q with
      | .k => decodeK (BitVec.ofNat 32 v) (BitVec.ofNat 32 (v / 2 ^ 32))
      | .l => decodeL (BitVec.ofNat 64 v)
      | .s => decodeS (BitVec.ofNat 64 v)
      | .c => decodeC (BitVec.ofNat 128 v)
    match r with
    | .ok i => .ok (i, bs.drop n)
    | .error e => .error e

/-- The bytes of some words, as they are stored (04 R64). -/
def Words.bytes : Words → List Byte
  | .k w => leBytes 4 w.toNat
  | .kx w lit => leBytes 4 w.toNat ++ leBytes 4 lit.toNat
  | .l w => leBytes 8 w.toNat
  | .s w => leBytes 8 w.toNat
  | .c w => leBytes 16 w.toNat

/-- The sequencer whose section holds an instruction; none for a step that has no encoding. -/
def Words.sequencer : Words → Sequencer
  | .k _ => .k
  | .kx _ _ => .k
  | .l _ => .l
  | .s _ => .s
  | .c _ => .c

/-- Which sequencer a word of nbits bits is read by when the host names only the word: 32 bits K, 64 bits L, then S, then a K pair,
128 bits C. -/
def tableSequencer (nbits w : Nat) : Sequencer :=
  if nbits ≤ 32 then .k
  else if nbits ≤ 64 then
    match decodeL (BitVec.ofNat 64 w), decodeS (BitVec.ofNat 64 w) with
    | .ok _, _ => .l
    | .error _, .ok _ => .s
    | .error _, .error _ => .k
  else .c

/-- The instruction the decoder reads from a table word: bit 0 is the least significant bit of the first word. -/
def decodeTableWord (nbits w : Nat) : Option Instr :=
  match decodeBytes (tableSequencer nbits w) (leBytes 16 w) with
  | .ok (i, _) => some i
  | .error _ => none

end Sys2Proof
end

