-- ==== Sys2Proof/Config.lean ====
section
/-! DEFINITION. What the spec leaves open. Every constant here has no body: nothing can be proved about its value. The log
entries of notes/assumptions name each of them. -/

namespace Sys2Proof

/-- Which agent moves in a step: one sequencer of one tile, one step of the other units, the passing of n arithmetic-clock
cycles, or the outside (log 87). defer says whether a memory request issued in the turn stays in flight. -/
inductive Turn where
  | seq (t : TileId) (q : Sequencer) (defer : Bool)
  | event (i : Instr)
  | elapse (n : Nat)
  | outside (x : Outside)
  deriving DecidableEq, Repr, Inhabited

/-- DESIGN CHOICE (log 2): which agent moves when the agenda is empty. The spec fixes no relative pace of agents. -/
opaque Config.turnAt : Nat → Turn

/-- DESIGN CHOICE (log 10): the fabric ingress port through which a request enters its owner. The path is free (12 R295, 19 R382). -/
opaque Config.ingressPort : Nat → Fin 32

/-- DESIGN CHOICE (log 14): the bytes of the fuse map: the repair maps of the three dies, as rows, and the other fuses, the integrator's greatest frequency
in MHz among them (24 R425, R427). -/
opaque Config.fuseMap : List (List Nat) → Nat → List Byte

/-- DESIGN CHOICE (log 91): the frequency in MHz that a power cap in W allows, at a 100 MHz period (24 R425). -/
opaque Config.capMhz : Nat → Nat → Nat

/-- DESIGN CHOICE (log 14): whether an ECDSA P-384 signature of a firmware image verifies under the Loronette key (24 R423). -/
opaque Config.verifies : List Byte → Bool

/-- DESIGN CHOICE (log 14): Badger's signature over a message (24 R427). -/
opaque Config.sign : List Byte → List Byte

/-- DESIGN CHOICE (log 14): the certificate chain of slot 0 (24 R427). -/
opaque Config.certChain : List Byte

/-- DESIGN CHOICE (log 14): the bytes of Badger's ROM and its running firmware (24 R427). -/
opaque Config.badgerFirmware : List Byte

/-- DESIGN CHOICE (log 15): the payload of an answer whose record contents the spec does not give (24 R426). -/
opaque Config.mgmtPayload : MgmtReq → List Byte

/-- DESIGN CHOICE (log 15): a sensor reading the spec does not compute: module power (24 R426). -/
opaque Config.powerReading : Nat → Nat

/-- DESIGN CHOICE (log 18): the outcome of a store, atomic or FACC that failed by timeout: whether it performed (23 R415). -/
opaque Config.timedOutPerformed : Nat → Bool

/-- DESIGN CHOICE (log 24): whether a link trains during the n-th bring-up (24 R423). -/
opaque Config.linkTrains : LinkId → Nat → Bool

/-- DESIGN CHOICE (log 24): whether the twelve HBM stacks train during the n-th bring-up (24 R423). -/
opaque Config.hbmTrains : Nat → Bool

/-- DESIGN CHOICE (log 25): the path the Derailleur chooses for a flowlet key (19 R382). -/
opaque Config.pathChoice : Nat → Nat

/-- DESIGN CHOICE (log 93): the input, of a place's five, that the packets of a flow and source, of a kind, reach it through (12 R270, R274). -/
opaque Config.spokeInput : Nat → Nat → Nat → Fin 5

/-- DESIGN CHOICE (log 24): whether this device sits at the lower of two sites that share a number (19 R377). -/
opaque Config.lowerSite : Bool

end Sys2Proof
end

