-- ==== Sys2Proof/Machine/Sha.lean ====
section
/-! DEFINITION. SHA-384, which 24 R427 and R428 name by its standard. PRESUMED (log 88): the algorithm is that of FIPS 180-4; the spec does not repeat
it. Its constants are computed as the standard defines them, from roots of primes, and its working variables are a window of words, newest first. -/

namespace Sys2Proof.Machine

/-- The first eighty primes, which the standard numbers from 1. -/
def shaPrimes : List Nat := (List.range 410).filter fun n => decide (2 ≤ n) && (List.range 19).all fun i => n % (i + 2) != 0 || n == i + 2

/-- The bits of the greatest r below 2 ^ n above r0 with r ^ k ≤ v, tried from the highest. -/
def rootFrom (k v : Nat) : Nat → Nat → Nat
  | 0, r => r
  | n + 1, r => rootFrom k v n (if (r + 2 ^ n) ^ k ≤ v then r + 2 ^ n else r)

/-- The first 64 bits behind the point of the k-th root of p. -/
def rootBits (k p : Nat) : Word := BitVec.ofNat 64 (rootFrom k (p * 2 ^ (64 * k)) 69 0)

/-- The constants of the eighty steps: cube roots. -/
def shaSteps : List Word := shaPrimes.map (rootBits 3)

/-- The hash value before the first block: square roots of the ninth to sixteenth primes. -/
def shaStart : List Word := ((shaPrimes.drop 8).take 8).map (rootBits 2)

/-- A word turned right by each of some distances, the results added bit by bit without carry. -/
def turned (x : Word) (ns : List Nat) : Word := (ns.map fun n => x.rotateRight n).foldl (· ^^^ ·) 0

/-- A message schedule lengthened by n words; it is held newest first. -/
def shaExtend : Nat → List Word → List Word
  | 0, w => w
  | n + 1, w =>
    let at_ := fun (i : Nat) => w.getD (i - 1) 0
    shaExtend n ((at_ 16 + (turned (at_ 15) [1, 8] ^^^ at_ 15 >>> 7) + at_ 7 + (turned (at_ 2) [19, 61] ^^^ at_ 2 >>> 6)) :: w)

/-- One step over the eight working variables, numbered from 0, with the sum of the step's constant and its word of the schedule. -/
def shaStep (v : List Word) (kw : Word) : List Word :=
  let x := fun (i : Nat) => v.getD i 0
  let pick := x 6 ^^^ (x 4 &&& (x 5 ^^^ x 6))
  let most := (x 0 &&& x 1) ||| (x 2 &&& (x 0 ||| x 1))
  let new := x 7 + turned (x 4) [14, 18, 41] + pick + kw
  [new + turned (x 0) [28, 34, 39] + most, x 0, x 1, x 2, x 3 + new, x 4, x 5, x 6]

/-- The hash value after one more block of sixteen words. -/
def shaBlock (h block : List Word) : List Word :=
  let sums := List.zipWith (· + ·) shaSteps (shaExtend 64 block.reverse).reverse
  List.zipWith (· + ·) h (sums.foldl shaStep h)

/-- n words of a message, each of eight bytes, the highest first. -/
def shaWords : Nat → List Byte → List Word
  | 0, _ => []
  | n + 1, bs => BitVec.ofNat 64 (leNat (bs.take 8).reverse) :: shaWords n (bs.drop 8)

/-- The message with its padding: a one bit, zeros, and its length in bits as 128 bits. -/
def shaPad (m : List Byte) : List Byte :=
  m ++ 0x80 :: List.replicate ((239 - m.length % 128) % 128) 0 ++ (leBytes 16 (8 * m.length)).reverse

/-- The hash value after the first n blocks of a list of words. -/
def shaRun : Nat → List Word → List Word → List Word
  | 0, h, _ => h
  | n + 1, h, w => shaRun n (shaBlock h (w.take 16)) (w.drop 16)

/-- SHA-384 of a message: its first byte is the lowest byte of the number, so that little-endian bytes of it are the digest. -/
def sha384 (m : List Byte) : BitVec 384 :=
  let p := shaPad m
  let h := (shaRun (p.length / 128) shaStart (shaWords (p.length / 8) p)).take 6
  BitVec.ofNat 384 (leNat (h.flatMap fun w => (leBytes 8 w.toNat).reverse))

end Sys2Proof.Machine
end

