-- ==== Sys2Proof/Machine/State.lean ====
section
/-! DEFINITION. The state of one OR-G1 device and of what it meets outside (01 R14), as plain data, and the state after reset.
INVENTORY.md lists every field with the rule that names it and its reset value. -/

namespace Sys2Proof.Machine

/-- A memory in canonical form: addresses strictly rising, no zero byte listed; an unlisted address reads zero. -/
abbrev Mem := List Host.Cell

/-- Strictly rising addresses above a bound, and no zero byte. -/
def Mem.wfAbove : Nat → Mem → Bool
  | _, [] => true
  | lo, (a, v) :: t => lo ≤ a && v != 0 && Mem.wfAbove (a + 1) t

/-- The canonical form of a memory. -/
def Mem.wf (m : Mem) : Bool := Mem.wfAbove 0 m

/-- Trap and engine-fault causes (18 R360). -/
inductive Cause where
  | illegal | priv | align | xlate | accessDenied | wrongSpace | settWrite | settFull | cowWrite | eccUncorrected
  | faddIndeterminate | barOverrun | tokenStall | launchStall | flowTimeout | swtrap | engineFault
  deriving DecidableEq, Repr, Inhabited

/-- The code of a cause (18 R360). -/
def Cause.code : Cause → Nat
  | .illegal => 1
  | .priv => 2
  | .align => 3
  | .xlate => 4
  | .accessDenied => 5
  | .wrongSpace => 6
  | .settWrite => 7
  | .settFull => 8
  | .cowWrite => 9
  | .eccUncorrected => 10
  | .faddIndeterminate => 11
  | .barOverrun => 12
  | .tokenStall => 13
  | .launchStall => 14
  | .flowTimeout => 15
  | .swtrap => 16
  | .engineFault => 17

/-- The model's own clock of token order (06 R122): how many instructions of each sequencer are before a point (log 9). -/
structure Clk where
  k : Nat
  l : Nat
  c : Nat
  s : Nat
  deriving DecidableEq, Repr, Inhabited

/-- A hardware loop counter (09 R202). backs, pipe and born are the model's own: loop-backs since the loop started, the trip count n of a loop with
P = 1 (09 R208, R209), and a number that a loop started later has greater (09 R204; log 13). -/
structure Loop where
  count : BitVec 24
  index : BitVec 32
  step : BitVec 16
  start : Word
  fin : Word
  backs : Nat
  pipe : Nat
  born : Nat
  deriving DecidableEq, Repr, Inhabited

/-- A stop record of L, C or S (06 R132, R133, 18 R372). addr is the faulting address, or the base value for
FADD_INDETERMINATE. imprecise: the cause belongs to an earlier posted write (19 R383). -/
structure StopRec where
  cause : Cause
  pc : Word
  addr : Word
  word : BitVec 128
  imprecise : Bool
  deriving DecidableEq, Repr, Inhabited

/-- A GRPSET write still to be made (10 R236): a die's table copy or a member tile. -/
inductive GrpTarget where
  | die (d : DieId)
  | tile (t : TileId)
  deriving DecidableEq, Repr, Inhabited

/-- What K waits for (06 R98). access: a load, store or atomic has left K and waits at its link or for a slot that is being freed (19 R384,
R391, 17 R351). -/
inductive KWait where
  | access (ea : Word)
  | subon (d : Reg) (e : Nat) (pubTile size pubBase subBase : Nat)
  | suboff (d : Reg) (e : Nat) (removed : Option Nat)
  | chresync (d : Reg) (ch : Nat)
  | grpset (g n master : Nat) (members : List Nat) (left : List GrpTarget)
  deriving DecidableEq, Repr, Inhabited

/-- State of the K sequencer. ended: EXIT has ended K. since is the cycle at which its present wait began. -/
structure KState where
  regs : Vector Word 32
  kt : Vector Word 8
  pc : Word
  trap : Bool
  ended : Bool
  pend : Option KWait
  since : Option Nat
  clk : Clk
  deriving DecidableEq, Repr, Inhabited

/-- An entry of a token queue: its payload and the clock of the instruction that pushed it. -/
structure Tok where
  pay : BitVec 32
  clk : Clk
  deriving DecidableEq, Repr, Inhabited

/-- An entry that a word has popped from a queue: the word's number, the queue's pusher and the entry. A fault of an earlier memory instruction puts it
back (07 R139). -/
structure Popped where
  n : Nat
  from_ : Sequencer
  tok : Tok
  deriving DecidableEq, Repr, Inhabited

/-- State of the L or S sequencer. resv: the stopped instruction holds push reservations (06 R133). sent: the cycle
and address of an access of its word that waits at a link (23 R415). trail: what the words issued since the
oldest unfinished request have popped, newest last. -/
structure LSState where
  regs : Vector Word 32
  preds : BitVec 8
  lc : Vector Loop 4
  pc : Word
  stop : Option StopRec
  resv : Bool
  since : Option Nat
  sent : Option (Nat × Word)
  trail : List Popped
  clk : Clk
  deriving DecidableEq, Repr, Inhabited

/-- The rotating region (09 R208). -/
structure Rot where
  q : Nat
  r : Nat
  stages : Nat
  rb : Nat
  deriving DecidableEq, Repr, Inhabited

/-- A loop-buffer ring (09 R209). -/
structure Ring where
  q : Nat
  len : Nat
  v : Bool
  deriving DecidableEq, Repr, Inhabited

/-- An entry of the bypass network (08 R175). -/
structure Bypass where
  reg : BitVec 11
  v : Bool
  transient : Bool
  val : Vec
  deriving DecidableEq, Repr, Inhabited

/-- A write of C that waits for the command of its own bundle (08 R189, 09 R211). -/
inductive Held where
  | codebook (t : Vector (BitVec 32) 256)
  | tile (n : Fin 8) (v : Word)
  | acc (n : Fin 4) (v : Word)
  deriving DecidableEq, Repr, Inhabited

/-- State of the C sequencer. heldPush names the pushes that the bundle with a held write still owes (04 R76). -/
structure CState where
  p : Vector Mask 8
  lc : Vector Loop 4
  pc : Word
  stop : Option StopRec
  resv : Bool
  since : Option Nat
  clk : Clk
  rot : Rot
  rings : Vector Ring 8
  tv : Vector Word 8
  av : Vector Word 4
  md : Vector (BitVec 512) 16
  ft : Vector (BitVec 32) 16
  codebook : Vector (BitVec 32) 256
  bypass : List Bypass
  held : Option Held
  heldPush : BitVec 3
  deriving DecidableEq, Repr, Inhabited

/-- A guard slot (06 R112). -/
inductive Guard where
  | free | yes | no
  deriving DecidableEq, Repr, Inhabited

/-- A token queue (10 R231): head slot number, entries in order, and the reservations, in the order of their words: each has its word's
number and, when the word has finished behind an unfinished one, its entry (15 R327, log 84). -/
structure TokQ where
  head : Nat
  items : List Tok
  wait : List (Nat × Option Tok)
  deriving DecidableEq, Repr, Inhabited

/-- The reservation count V of a token queue. -/
def TokQ.resv (z : TokQ) : Nat := z.wait.length

/-- A copy descriptor (07 R155, R157, R159). Spaces are the codes 0 S, 1 M, 2 L, 3 F, 5 H; rows and strides are those of CPY2. -/
structure CopyDesc where
  src : Nat
  dst : Nat
  len : Nat
  srcSpace : Nat
  dstSpace : Nat
  bar : Option Nat
  rows : Nat
  srcStride : Int
  dstStride : Int
  deriving DecidableEq, Repr, Inhabited

/-- Page ordering kinds (11 R257). -/
inductive Ord where
  | rc | strong | unordered
  deriving DecidableEq, Repr, Inhabited

/-- Where the bytes of an access are: the tile's scratchpad, a launch's carve-out of a slice, local HBM, another device's HBM, host memory, the
Sett line of a name, or a Sett-mapped page through its root table. -/
inductive Target where
  | spm
  | commons (t : TileId) (launch : Word)
  | hbm
  | remote (dev : BitVec 12)
  | host
  | line (name : Word)
  | window (root : Nat)
  deriving DecidableEq, Repr, Inhabited

/-- One indivisible piece of an access: at most one 32-byte sector, or one element. off is its place in the register. val holds
the data to write, or the data read once done. -/
structure Piece where
  tgt : Target
  addr : Nat
  size : Nat
  off : Nat
  va : Word
  ord : Ord
  fa : Bool
  done : Bool
  val : Nat
  deriving DecidableEq, Repr, Inhabited

/-- A posted write of an engine that waits for its acknowledgement (11 R262): its number, the cycle it was sent in, and what it writes. -/
structure Post where
  id : Nat
  since : Nat
  piece : Piece
  deriving DecidableEq, Repr, Inhabited

/-- What an engine command does. -/
inductive CmdBody where
  | copy (d : CopyDesc)
  | copy2 (d : CopyDesc)
  | mdld (d : CopyDesc)
  | prefetch (ea : Word) (lines : Nat)
  | scout (root : Word) (dst len depth space : Nat)
  | send (word : Word) (seq : BitVec 16) (r1 : Nat) (r2 : Option Nat)
  | matrix (desc : BitVec 512) (fmt : BitVec 32) (x : BitVec 32) (loop : Bool)
  | join (id : Nat) (mask : BitVec 7) (sem : BitVec 8)
  deriving DecidableEq, Repr, Inhabited

/-- A command in an engine queue (07 R154, 18 R374). unit counts sectors, leaves or k-steps done; group is a matrix command's row
group, rows the rows it has computed or is computing (09 R223); part holds its partial sums in row order; waited counts its ageing cycles and promoted
its end (09 R220), waitFrom the cycle at which it began to wait for its semaphore (06 R109). posts are its writes to other devices that wait for their
acknowledgement (11 R262); evicted: the cycle at which a request of it was dropped, until it is sent again (12 R285); net: the cycle
and address of an access of it that waits in the network (23 R415); injected: its packet has been sent. guard is its guard slot and
decided says that the slot has been resolved true for it. -/
structure Cmd where
  body : CmdBody
  tag : BitVec 32
  guard : Option (BitVec 4)
  decided : Bool
  wait : BitVec 8
  signal : BitVec 8
  record : Bool
  started : Bool
  unit : Nat
  row : Nat
  group : Nat
  fault : Option (Cause × Word)
  part : List (BitVec 128)
  waited : Nat
  waitFrom : Option Nat
  promoted : Bool
  suspended : Bool
  rows : BitVec 256
  posts : List Post
  evicted : Option Nat
  net : Option (Nat × Word)
  injected : Bool
  clk : Clk
  deriving DecidableEq, Repr, Inhabited

/-- A subscriber or publisher entry (06 R125, 12 R291, 18 R372). peer is the other task's tile. count is a publisher's update count. -/
structure SubEntry where
  opened : Bool
  parked : Bool
  peer : Nat
  size : Nat
  pubBase : Nat
  subBase : Nat
  count : BitVec 16
  deriving DecidableEq, Repr, Inhabited

/-- The publisher's open batch (12 R292): the sector's address, a mask of written bytes, the sector as its last write left it, and the cycle of its
first write. fresh names the entries opened since, each with the mask of the writes made since (06 R125). -/
structure Batch where
  sector : Nat
  mask : BitVec 32
  data : Nat
  since : Nat
  fresh : List (Nat × BitVec 32)
  deriving DecidableEq, Repr, Inhabited

/-- What a request of L or S does when it completes. -/
inductive ReqKind where
  | load (vd : BitVec 11)
  | store
  | atomic (d : Reg) (op : BitVec 4) (b : Word)
  | facc (d : Reg) (wide : Bool) (inc : Word) (pd : BitVec 3)
  | wlapp (die : DieId) (list : Nat) (item : Word)
  | wlpop (d : Reg) (die : DieId) (list : Nat) (pd : BitVec 3)
  | chsend (ch : Nat) (data : List Byte)
  deriving DecidableEq, Repr, Inhabited

/-- A memory request of L or S that is accepted and not yet finished or performed (07 R137, R138). finished: its tokens are
pushed, and it stands here until its writes perform: an entry of the forwarding table (07 R141) or posted writes (11 R262).
joined: a combining record holds it. evicted: dropped at a full buffer in this cycle, resent: sent again since (12 R285). failed: a cause and its value that the
instruction has met and that stops its sequencer in its turn. before is the sequencer as the word found
it, for a fault that takes it back there (07 R139). -/
structure Req where
  id : Nat
  q : Sequencer
  clk : Clk
  kind : ReqKind
  pieces : List Piece
  order : BitVec 2
  scope : BitVec 2
  push : BitVec 3
  before : LSState
  since : Nat
  finished : Bool
  joined : Bool
  evicted : Option Nat
  resent : Bool
  failed : Option (Cause × Word)
  deriving DecidableEq, Repr, Inhabited

/-- The channel counters a tile holds for one channel (12 R287, 18 R372). stallS and stallR are the cycles at which a CHSEND or
CHRECV began to stall (12 R289). -/
structure Chan where
  free : BitVec 32
  sent : BitVec 32
  received : BitVec 32
  consumed : BitVec 32
  last : BitVec 32
  fault : Bool
  sender : Bool
  receiver : Bool
  stallS : Option Nat
  stallR : Option Nat
  deriving DecidableEq, Repr, Inhabited

/-- An entry of a tile's translation cache (16 R336): the leaf of a page. -/
structure TlbEntry where
  tag : BitVec 12
  page : Nat
  large : Bool
  leaf : Word
  deriving DecidableEq, Repr, Inhabited

/-- A task as its tile runs it (10 R226): the launch, its index, its image and the entry and end addresses of its streams. -/
structure Task where
  launch : Word
  index : Nat
  image : Nat
  ctx : BitVec 12
  kEnt : Word
  kFin : Word
  lEnt : Word
  lFin : Word
  cEnt : Word
  cFin : Word
  sEnt : Word
  sFin : Word
  deriving DecidableEq, Repr, Inhabited

/-- A kill that the command core, or the handler's EXIT, has ordered and that has not yet been made (18 R366, 06 R136). -/
structure Kill where
  byHandler : Bool
  cause : Cause
  seq : Sequencer
  pc : Word
  deriving DecidableEq, Repr, Inhabited

/-- The progress of a pre-emption (18 R370, R371): none, or the parts of the tile are stopping, for a slot and the launch that takes the
tile. -/
inductive Preempt where
  | none
  | stopping (slot : Nat) (by_ : Word)
  deriving DecidableEq, Repr, Inhabited

/-- A packet held at a gate: the input it supplies, its header, payload, injecting tile and clock, the index of the task that injected it, and
its number in the network. -/
structure Arrived where
  input : Nat
  hdr : Word
  data : List Byte
  orig : Nat
  clk : Clk
  task : Option Nat
  stamp : Nat
  deriving DecidableEq, Repr, Inhabited

/-- A flow held at an accumulator slot: a wave of a combine gate or the packets of a hold gate (12 R275, R277). Its entry is
named by flow; base is its first slot. -/
structure Wave where
  launch : Word
  flow : BitVec 16
  seq : BitVec 16
  hold : Bool
  base : Nat
  flits : Nat
  cls : BitVec 2
  arrived : List Arrived
  since : Nat
  deriving DecidableEq, Repr, Inhabited

/-- An accumulator slot written by a dkind-2 delivery (12 R280): 256 bytes. -/
structure AccSlot where
  n : Nat
  launch : Word
  data : List Byte
  deriving DecidableEq, Repr, Inhabited

/-- A flow entry as the Warren or a match table holds it, with the launch it belongs to (12 R271, R274). -/
structure FlowEntry where
  launch : Word
  w : BitVec 512
  deriving DecidableEq, Repr, Inhabited

/-- A launch's carve-out of a slice (11 R247). -/
structure Carve where
  launch : Word
  size : Nat
  mem : Mem
  deriving DecidableEq, Repr, Inhabited

/-- State of launch lifetime that a tile keeps for a launch's later tasks while a task of another launch has the tile (01 R14,
10 R228). -/
structure Kept where
  launch : Word
  spm : Mem
  loopmode : Bool
  age : BitVec 32
  tvec : Word
  chans : Vector Chan 64
  deriving DecidableEq, Repr, Inhabited

/-- One update of a barrier object that reaches it in a cycle (06 R117). -/
inductive BarUpd where
  | drop
  | bytes (n : Word)
  | arrive (n : Nat)
  | flag
  deriving DecidableEq, Repr, Inhabited

/-- One tile. spmLaunch is the launch that the scratchpad and the other state of launch lifetime belong to. guarded counts the commands
discarded because their guard slot was still free when the sequencers had ended (10 R243, R245). refused lists the posted writes of S that were refused and not yet reported, oldest first (19 R383). orphans are the posted writes of engine commands that SQSKIP has discarded (18
R367). barDue holds the
updates of barrier objects, with their addresses and source tiles, that have arrived in the present cycle and that its completion tests are still to take
in; barOpen stands while others are still to come in it, and then says whether K has made its own (06 R117). lstall says that a
sequencer of the task has stopped with LAUNCH_STALL (18 R366). outL and outS are the numbers of the last words of L and S that have had an effect outside
their sequencer (07 R139, log 28). -/
structure Tile where
  task : Option Task
  live : Bool
  loopmode : Bool
  age : BitVec 32
  tvec : Word
  k : KState
  l : LSState
  s : LSState
  c : CState
  gd : Vector Guard 16
  sm : Vector (BitVec 32) 256
  evq : List (BitVec 128)
  evHead : Nat
  evWait : List (BitVec 128)
  tok : Vector TokQ 12
  regspace : Mem
  rvalid : BitVec 8192
  side : Mem
  q : Vector (List Cmd) 7
  qhead : Vector Nat 7
  subs : Vector SubEntry 16
  pubs : Vector SubEntry 16
  batch : Option Batch
  barDue : List (Nat × BarUpd × Nat)
  barOpen : Option Bool
  reqs : List Req
  orphans : List Post
  refused : List (Cause × Word)
  chans : Vector Chan 64
  spm : Mem
  spmLaunch : Word
  tlb : List TlbEntry
  pmap : BitVec 5
  preempt : Preempt
  kill : Option Kill
  matchT : List FlowEntry
  waves : List Wave
  acc : List AccSlot
  carves : List Carve
  kept : List Kept
  guarded : Nat
  lstall : Bool
  outL : Nat
  outS : Nat
  deriving DecidableEq, Repr, Inhabited

/-- The body of a packet in flight (12 R269). -/
inductive PktBody where
  | flow (data : List Byte)
  | slot (ch : Nat) (sent : BitVec 32) (data : List Byte)
  | ret (ch : Nat) (consumed : BitVec 32)
  | auditSender (ch : Nat)
  | auditReceiver (ch : Nat)
  | auditReplyS (ch : Nat) (consumed received : BitVec 32)
  | auditReplyR (ch : Nat) (sent : BitVec 32)
  | update (pub : Nat) (addr : Nat) (mask : BitVec 32) (data : Nat)
  | flagadd (addr : Nat) (n : Nat)
  | flagset (addr : Nat)
  | record (r : BitVec 128)
  deriving DecidableEq, Repr, Inhabited

/-- A place of the flow plane: a Spoke of this device, a fabric port of this device with the target a forward named, or the way to a tile of another device,
by the egress port through which a flow packet leaves. -/
inductive Place where
  | spoke (t : TileId)
  | port (p : Fin 32) (onward : Option (BitVec 12 × BitVec 9))
  | away (dev : BitVec 12) (t : BitVec 9) (port : Option (Fin 32))
  deriving DecidableEq, Repr, Inhabited

/-- A packet in flight: header, context tag, launch, body, where it is bound for, the tile that injected it, and the clock of
the injecting instruction. own: the engine fields of a send at its first match (06 R430). task is the index of the task that injected it, where one
did (01 R17); miss: it waits at its Spoke's input for an entry to be fetched (12 R274); lcopy: of its copies only the one for the Spoke's tile is
still to be made; stamp numbers the packets in flight in the order in which they entered. -/
structure Pkt where
  hdr : Word
  ctx : BitVec 12
  launch : Word
  body : PktBody
  at_ : Place
  orig : Nat
  own : Option (BitVec 8 × BitVec 32)
  task : Option Nat
  miss : Bool
  lcopy : Bool
  stamp : Nat
  clk : Clk
  deriving DecidableEq, Repr, Inhabited

/-- A member of a combining record: a request of a tile, one of another device's tile, or another record (12 R295, 19 R387). -/
inductive FaccSrc where
  | req (t : TileId) (id : Nat)
  | far (dev : BitVec 12) (tile : BitVec 9)
  | rec_ (id : Nat)
  deriving DecidableEq, Repr, Inhabited

/-- A combining record (12 R295, R296). opened is the cycle of its opening; members stand in serial order with the cycle and rank
of their arrival. sent: its window has ended; joined: it is a member of another record; lost: its requester list is lost
(23 R414). -/
structure CombRec where
  id : Nat
  place : Nat
  tgt : Target
  addr : Nat
  wide : Bool
  sum : Word
  members : List (FaccSrc × Word × Nat × Nat)
  opened : Nat
  sent : Bool
  joined : Bool
  lost : Bool
  deriving DecidableEq, Repr, Inhabited

/-- A work list of a die (10 R239). -/
structure WorkList where
  launch : Word
  n : Nat
  ring : Nat
  cap : Nat
  items : List Word
  deriving DecidableEq, Repr, Inhabited

/-- An entry of an error event log (23 R420). -/
abbrev LogEntry := BitVec 256

/-- One die. -/
structure Die where
  warren : List FlowEntry
  lists : List WorkList
  stray : List Pkt
  log : List LogEntry
  rows : List Nat
  nextRows : List Nat
  deriving DecidableEq, Repr, Inhabited

/-- A command queue (15 R307, R316). accepted counts the commands it has accepted; ringUsed says that its record ring has been zeroed in this session
(01 R14). seedWas and baseWas hold SEED and CTRBASE as they stood before the host's writes of a cycle, with that cycle (15 R315). -/
structure CmdQueue where
  en : Bool
  err : Bool
  prio : BitVec 2
  ctx : BitVec 12
  base : Word
  cap : Word
  tailA : Word
  recBase : Word
  tslice : BitVec 32
  seed : Word
  ctrBase : Word
  head : Word
  accepted : Nat
  ringUsed : Bool
  seedWas : Option (Nat × Word)
  baseWas : Option (Nat × Word)
  deriving DecidableEq, Repr, Inhabited

/-- A loaded kernel image, held decoded (04 R84; log 5): where it is loaded, its code sections as bytes, and its declarations. -/
structure Image where
  tag : BitVec 12
  va : Word
  kcode : Mem
  lcode : Mem
  ccode : Mem
  scode : Mem
  kernels : List Kernel
  flows : List (BitVec 512)
  groups : List Group
  chans : List ChanDecl
  subs : List SubDecl
  windows : List Window
  tv : List (Nat × Word)
  av : List (Nat × Word)
  ft : List (Nat × BitVec 32)
  readable : Bool
  deriving DecidableEq, Repr, Inhabited

/-- Launch states (15 R316). -/
inductive LState where
  | accepted | staging | ready | running | sealing | done | refused | aborted
  deriving DecidableEq, Repr, Inhabited

/-- The code of a launch state. -/
def LState.code : LState → Nat
  | .accepted => 1
  | .staging => 2
  | .ready => 3
  | .running => 4
  | .sealing => 5
  | .done => 6
  | .refused => 7
  | .aborted => 8

/-- Where a task of a launch is. -/
inductive TaskAt where
  | running (t : TileId)
  | saved (t : TileId)
  | retired
  deriving DecidableEq, Repr, Inhabited

/-- A launch or transfer command in the scoreboard (15 R309, R311, R316). inputs, outputs and lists are its tables as acceptance read
them (15 R312). slotsLost names the channel slots that the network has lost and no CHRESYNC has cleared yet: channel and sent count (12 R290,
23 R412; log 128). -/
structure Launch where
  id : Word
  queue : Nat
  transfer : Bool
  packet : List Byte
  tag : BitVec 12
  prio : Nat
  state : LState
  reason : Nat
  seed : Word
  cbase : Word
  image : Nat
  kern : Nat
  tasks : Nat
  copied : Nat
  carves : List (TileId × Nat)
  inputs : List Nat
  outputs : List Nat
  lists : List Nat
  groups : Vector (List Group) 3
  next : Vector Nat 3
  at_ : List (Nat × TaskAt)
  lastRun : List (Nat × Nat)
  reserved : List TileId
  ready : List DieId
  mapped : Bool
  taskMap : List Nat
  quiescent : Bool
  killed : Nat
  guarded : Nat
  tokens : Nat
  events : Nat
  retired : Nat
  byCore : Nat
  digest : Word
  tacc : Word
  tdone : Word
  since : Nat
  trace : Vector (List (BitVec 128)) 3
  starts : Vector Nat 3
  replay : List (Nat × Nat)
  slotsLost : List (Nat × BitVec 32)
  deriving DecidableEq, Repr, Inhabited

/-- A saved task (18 R369): its slot, its tile, and the tile as it stood, with what has reached the task since. -/
structure Save where
  slot : Nat
  launch : Word
  index : Nat
  tile : TileId
  img : Tile
  deriving DecidableEq, Repr, Inhabited

/-- A context descriptor in effect for a bound tag (16 R331). -/
structure Bound where
  tag : BitVec 12
  partition_ : BitVec 4
  level4 : Nat
  deriving DecidableEq, Repr, Inhabited

/-- An access-table entry in effect (16 R338): target, index, entry. -/
structure AcctEntry where
  g : Nat
  e : Nat
  w : BitVec 128
  deriving DecidableEq, Repr, Inhabited

/-- A fabric or Hentia link (19 R378, 23 R416): up, the 100 MHz period at which it began to train, and the cycles of its CRC failures. -/
structure Link where
  up : Bool
  training : Option Nat
  crc : List Nat
  deriving DecidableEq, Repr, Inhabited

/-- The path of a flowlet key and the 100 MHz period at which a packet of the key was last sent (19 R382). -/
structure Flowlet where
  key : FlowletKey
  path : Nat
  last : Nat
  deriving DecidableEq, Repr, Inhabited

/-- Another device as this one meets it (19 R384, R385): its number, whether it is present, its HBM, its access tables and
far-atomic ranges, and the ranges of its HBM that are lost (23 R409): address and length. -/
structure Remote where
  num : BitVec 12
  present : Bool
  hbm : Mem
  acct : List AcctEntry
  farange : List (BitVec 128)
  lost : List (Nat × Nat)
  deriving DecidableEq, Repr, Inhabited

/-- This device's answer to another device's request (19 R383): the bytes read or the old value, empty for a write, the fault, or the base
value of a FACC whose record was lost (12 R297). -/
inductive FarReply where
  | data (dev : BitVec 12) (tile : BitVec 9) (bytes : List Byte)
  | refused (dev : BitVec 12) (tile : BitVec 9) (c : Cause)
  | indeterminate (dev : BitVec 12) (tile : BitVec 9) (base : Word)
  deriving DecidableEq, Repr, Inhabited

/-- A shoot-down in progress (16 R337). -/
structure ShootDown where
  tag : BitVec 12
  all : Bool
  lo : Nat
  len : Nat
  deriving DecidableEq, Repr, Inhabited

/-- An answer of Badger: a payload, or one of the completions of 24 R426. -/
inductive Answer where
  | ok (bytes : List Byte)
  | unsupported
  | outOfRange
  deriving DecidableEq, Repr, Inhabited

/-- The management plane (24 R422 to R428). state and reason are those of DEVSTAT, resets counts resets since power-on; site is the
number a panel site gives, strap that of the pins. cap is the power cap in W and fusedMax the integrator's limit in MHz; temps are the sensors of
the three dies and the twelve stacks; measured is the digest of the firmware loaded, chains the launch chains with their counts; answers and events
are what Badger has sent. cold is the kind of the last reset, coldLow says that COLD_RST_N is low; folds are the records of the present cycle that
the launch chains are still to take in: launch ID, queue and record (24 R428). logAt is the cycle in which an entry was last logged, logNow are the
entries of that cycle, and heard counts the events of the cycles before it (24 R426). -/
structure Mgmt where
  powered : Bool
  state : Nat
  reason : Nat
  resets : Nat
  cold : Bool
  coldLow : Bool
  mhz : Nat
  cap : Nat
  fusedMax : Nat
  temps : Vector Nat 15
  throttled : Bool
  thermtrip : Bool
  ready : Bool
  flashActive : List Byte
  flashNext : Option (List Byte)
  measured : BitVec 384
  chains : Vector (BitVec 384 × Nat) 64
  folds : List (Word × Nat × Nat)
  answers : List Answer
  events : List LogEntry
  logAt : Nat
  logNow : List (DieId × LogEntry)
  heard : Nat
  siteAnswers : Bool
  site : BitVec 12
  strap : BitVec 12
  deriving DecidableEq, Repr, Inhabited

/-- The device. acctHeld holds the staging register of each target (16 R340); syncIds are the accesses an ATSYNC waits for. now counts arithmetic-clock cycles and clk 100 MHz reference periods since the session began; clkRem is the part of a
period, in units of 1/f. hub lists the lines of HBM that their home hub slices hold dirty, the last written first; a line's number fixes its slice (11
R248). hostCopies are the device lines that the host caches, each with whether it holds it alone (19 R389); hostDeny are ranges of host memory that the
host refuses, and hostLost ranges that are uncorrectable (19 R391): address and length. served is the queue that was served last (15 R309). quietAt are the launches for which the conditions of quiescence hold, with the cycle since which they do (10 R240). farWait are answers to other devices that wait at the egress ports (19 R384). -/
structure Device where
  hbm : Mem
  hub : List Nat
  host : Mem
  hostCopies : List (Nat × Bool)
  hostDeny : List (Nat × Nat)
  hostLost : List (Nat × Nat)
  queues : Vector CmdQueue 64
  served : Nat
  launches : List Launch
  images : List Image
  ctxbase : Word
  sdva : Word
  sdlen : Word
  sdctl : BitVec 13
  shoot : Option ShootDown
  syncIds : List (TileId × Nat)
  farange : Vector (BitVec 128) 64
  acct : List AcctEntry
  acctHeld : List (Nat × Word)
  bound : List Bound
  sxbase : Word
  sxk : BitVec 5
  sxen : Bool
  sxlive : Nat
  walks : List (BitVec 12 × List (Nat × Nat))
  savebase : Word
  saveslots : Word
  saves : List Save
  flgap : BitVec 16
  devid : BitVec 13
  htag : Vector (BitVec 12) 2
  ports : Vector Link 32
  hentia : Vector Link 2
  paths : List Flowlet
  failed : List Nat
  net : List Pkt
  portT : List FlowEntry
  portWaves : List (Nat × Wave)
  combs : List CombRec
  toFabric : List Pkt
  hostReads : List (List Byte)
  farReplies : List FarReply
  farWait : List FarReply
  remote : List Remote
  lost : List StoredUnit
  nextId : Nat
  stall : List (BitVec 12 × Nat)
  quietAt : List (Word × Nat)
  now : Nat
  clk : Nat
  clkRem : Nat
  mgmt : Mgmt
  dies : Vector Die 3
  tiles : Vector Tile 432
  deriving DecidableEq, Repr, Inhabited

/-- The whole machine: the device, and the model's own schedule (log 2). cur is the tile whose sequencer steps; defer says
whether a request issued now stays in flight. -/
structure State where
  dev : Device
  cur : TileId
  defer : Bool
  agenda : List Turn
  tick : Nat
  deriving DecidableEq, Repr, Inhabited

/-- Why a run stops with a fault. No step of the model raises one: every exception of the spec is a next state. -/
inductive Fault where
  /-- Raised by nothing; safe. -/
  | none
  deriving DecidableEq, Repr, Inhabited

/-- Why a step has no meaning. -/
inductive Refusal where
  /-- Raised by an arm of exec that is not modelled yet; safe. -/
  | notModelled (mnemonic : String)
  deriving DecidableEq, Repr, Inhabited

/-! ### Reset values -/

/-- The clock of a point before every instruction. -/
def Clk.zero : Clk := ⟨0, 0, 0, 0⟩

/-- A counter that is not running (09 R202). -/
def Loop.reset : Loop := ⟨0, 0, 0, 0, 0, 0, 0, 0⟩

/-- K at task start with its entry point (01 R14). -/
def KState.start (pc : Word) : KState :=
  { regs := Vector.replicate 32 0, kt := Vector.replicate 8 0, pc := pc, trap := false, ended := false, pend := none
    since := none, clk := Clk.zero }

/-- L or S at task start with its entry point (01 R14): predicate 0 reads true. -/
def LSState.start (pc : Word) : LSState :=
  { regs := Vector.replicate 32 0, preds := 1, lc := Vector.replicate 4 Loop.reset, pc := pc, stop := none
    resv := false, since := none, sent := none, trail := [], clk := Clk.zero }

/-- C at task start with its entry point (01 R14): p0 is all ones. -/
def CState.start (pc : Word) : CState :=
  { p := (Vector.replicate 8 (0 : Mask)).set 0 (BitVec.allOnes 128), lc := Vector.replicate 4 Loop.reset, pc := pc
    stop := none, resv := false, since := none, clk := Clk.zero, rot := ⟨0, 0, 0, 0⟩
    rings := Vector.replicate 8 ⟨0, 0, false⟩, tv := Vector.replicate 8 0, av := Vector.replicate 4 0
    md := Vector.replicate 16 0, ft := Vector.replicate 16 0, codebook := Vector.replicate 256 0, bypass := []
    held := none, heldPush := 0 }

/-- A closed subscription entry. -/
def SubEntry.closed : SubEntry := ⟨false, false, 0, 0, 0, 0, 0⟩

/-- A channel the tile takes no part in. -/
def Chan.unused : Chan := ⟨0, 0, 0, 0, 0, false, false, false, none, none⟩

/-- A tile at session start (01 R14). -/
def Tile.reset : Tile :=
  { task := none, live := false, loopmode := false, age := 0, tvec := 0
    k := KState.start 0, l := LSState.start 0, s := LSState.start 0, c := CState.start 0
    gd := Vector.replicate 16 .free, sm := Vector.replicate 256 0, evq := [], evHead := 0, evWait := []
    tok := Vector.replicate 12 ⟨0, [], []⟩, regspace := [], rvalid := 0, side := []
    q := Vector.replicate 7 [], qhead := Vector.replicate 7 0, subs := Vector.replicate 16 SubEntry.closed
    pubs := Vector.replicate 16 SubEntry.closed
    batch := none, barDue := [], barOpen := none, reqs := [], orphans := [], refused := [], chans := Vector.replicate 64 Chan.unused
    spm := [], spmLaunch := 0, tlb := [], pmap := 0, preempt := .none, kill := none, matchT := [], waves := [], acc := []
    carves := [], kept := [], guarded := 0, lstall := false, outL := 0, outS := 0 }

/-- The fused rows of a die: row y is served by physical row y (log 12). -/
def rowsFused : List Nat := [0, 1, 2, 3, 4, 5, 6, 7, 8, 9, 10, 11]

/-- A die at session start. -/
def Die.reset : Die := ⟨[], [], [], [], rowsFused, rowsFused⟩

/-- A command queue at session start (15 R307): registers zero. -/
def CmdQueue.reset : CmdQueue := ⟨false, false, 0, 0, 0, 0, 0, 0, 0, 0, 0, 0, 0, false, none, none⟩

/-- A trained link. -/
def Link.trained : Link := ⟨true, none, []⟩

/-- The management plane in state READY (24 R423, R425). -/
def Mgmt.reset : Mgmt :=
  { powered := true, state := 6, reason := 0, resets := 0, cold := true, coldLow := false, mhz := 1800, cap := 2800, fusedMax := 1800, temps := Vector.replicate 15 25
    throttled := false, thermtrip := false, ready := true, flashActive := [], flashNext := none
    measured := sha384 [], chains := Vector.replicate 64 (0, 0), folds := [], answers := [], events := [], logAt := 0, logNow := [], heard := 0
    siteAnswers := false, site := 0, strap := 0 }

/-- The device at session start after a cold reset (01 R14, 24 R423). -/
def Device.reset : Device :=
  { hbm := [], hub := [], host := [], hostCopies := [], hostDeny := [], hostLost := [], queues := Vector.replicate 64 CmdQueue.reset, served := 63, launches := [], images := []
    ctxbase := 0, sdva := 0, sdlen := 0, sdctl := 0, shoot := none, syncIds := []
    farange := Vector.replicate 64 0, acct := [], acctHeld := [], bound := []
    sxbase := 0, sxk := 0, sxen := false, sxlive := 0, walks := [], savebase := 0, saveslots := 0, saves := []
    flgap := 400, devid := 0, htag := Vector.replicate 2 0, ports := Vector.replicate 32 Link.trained
    hentia := Vector.replicate 2 Link.trained, paths := [], failed := [], net := [], portT := [], portWaves := [], combs := []
    toFabric := [], hostReads := [], farReplies := [], farWait := [], remote := [], lost := [], nextId := 0, stall := [], quietAt := [], now := 0, clk := 0, clkRem := 0
    mgmt := Mgmt.reset, dies := Vector.replicate 3 Die.reset, tiles := Vector.replicate 432 Tile.reset }

/-- The machine right after reset. -/
def State.reset : State := { dev := Device.reset, cur := 0, defer := false, agenda := [], tick := 0 }

end Sys2Proof.Machine
end

