-- ==== Sys2Proof/Machine/Ops.lean ====
section
/-! DEFINITION. The named operations over memory, registers, tokens, semaphores, records and barrier objects, taking an exception
at K and stopping L, C and S. -/

namespace Sys2Proof.Machine

/-! ### Vectors by number -/

/-- Element i of a vector; the default beyond its end. -/
def rd {α : Type} {n : Nat} [Inhabited α] (v : Vector α n) (i : Nat) : α := v[i]?.getD default

/-- A vector with element i replaced; unchanged beyond its end. -/
def wr {α : Type} {n : Nat} (v : Vector α n) (i : Nat) (x : α) : Vector α n := v.setIfInBounds i x

/-! ### Memory -/

/-- The byte at an address; an unlisted address reads zero. -/
def Mem.get : Mem → Nat → Byte
  | [], _ => 0
  | (b, v) :: t, a => if a = b then v else Mem.get t a

/-- A byte listed at its place by address. -/
def Mem.put : Mem → Nat → Byte → Mem
  | [], a, x => [(a, x)]
  | (b, v) :: t, a, x => if a < b then (a, x) :: (b, v) :: t else if a = b then (a, x) :: t else (b, v) :: Mem.put t a x

/-- A memory with one byte written, in canonical form: a zero byte is not listed. -/
def Mem.set (m : Mem) (a : Nat) (x : Byte) : Mem := if x = 0 then m.filter (fun c => c.1 != a) else m.put a x

/-- n bytes at a, little-endian (02 R19). -/
def Mem.readN (m : Mem) (a : Nat) : Nat → Nat
  | 0 => 0
  | n + 1 => (m.get a).toNat + 256 * Mem.readN m (a + 1) n

/-- The low n bytes of v written at a, little-endian. -/
def Mem.writeN (m : Mem) (a : Nat) : Nat → Nat → Mem
  | 0, _ => m
  | n + 1, v => Mem.writeN (m.set a (BitVec.ofNat 8 v)) (a + 1) n (v / 256)

/-- A list of bytes written from a upward. -/
def Mem.writeBytes (m : Mem) (a : Nat) : List Byte → Mem
  | [] => m
  | b :: t => Mem.writeBytes (m.set a b) (a + 1) t

/-- n bytes from a upward as a list. -/
def Mem.bytes (m : Mem) (a : Nat) : Nat → List Byte
  | 0 => []
  | n + 1 => m.get a :: Mem.bytes m (a + 1) n

/-- The bytes of a memory inside [a, a + n) set to zero. -/
def Mem.clear (m : Mem) (a n : Nat) : Mem := m.filter (fun c => c.1 < a || a + n ≤ c.1)

/-- The bytes of v whose mask bit is one written from a upward. -/
def Mem.writeMask (m : Mem) (a : Nat) (mask : Nat) : Nat → Nat → Mem
  | 0, _ => m
  | n + 1, v =>
    Mem.writeMask (if mask % 2 = 1 then m.set a (BitVec.ofNat 8 v) else m) (a + 1) (mask / 2) n (v / 256)

/-! ### Tiles of the device -/

/-- The size of a scratchpad (01 R8). -/
def spmSize : Nat := 0x300000

/-- A tile. -/
def State.tileAt (s : State) (t : TileId) : Tile := s.dev.tiles[t]

/-- A tile replaced. -/
def State.setTileAt (s : State) (t : TileId) (x : Tile) : State :=
  { s with dev := { s.dev with tiles := s.dev.tiles.set t x } }

/-- A tile changed. -/
def State.updAt (s : State) (t : TileId) (f : Tile → Tile) : State := s.setTileAt t (f (s.tileAt t))

/-- The tile whose sequencer steps. -/
def State.tile (s : State) : Tile := s.tileAt s.cur

/-- The stepping tile changed. -/
def State.upd (s : State) (f : Tile → Tile) : State := s.updAt s.cur f

/-- The tile of a number below 432. -/
def tileOf? (n : Nat) : Option TileId := if h : n < 432 then some ⟨n, h⟩ else none

/-- The tile of a number, taken modulo 432 where the number is known to be in range. -/
def tileOf (n : Nat) : TileId := ⟨n % 432, Nat.mod_lt _ (by decide)⟩

/-- The die of a tile (01 R9, R10): tile number die × 144 + y × 12 + x. -/
def dieOf (t : TileId) : DieId := ⟨t.val / 144, by omega⟩

/-- A die changed. -/
def State.updDie (s : State) (d : DieId) (f : Die → Die) : State :=
  { s with dev := { s.dev with dies := s.dev.dies.set d (f s.dev.dies[d]) } }

/-- The device changed. -/
def State.updDev (s : State) (f : Device → Device) : State := { s with dev := f s.dev }

/-- The number of a tile as a 9-bit field. -/
def tileBits (t : TileId) : BitVec 9 := BitVec.ofNat 9 t.val

/-- This device's number (19 R377). -/
def State.devNum (s : State) : BitVec 12 := s.dev.devid.extractLsb' 0 12

/-- A fresh number for requests, packets and records. -/
def State.fresh (s : State) : Nat × State := (s.dev.nextId, s.updDev fun d => { d with nextId := d.nextId + 1 })

/-! ### K registers (04 R66, 06 R99) -/

/-- A register of K: k0 reads zero, and in trap mode 24 to 31 name kt0 to kt7. -/
def Tile.kget (t : Tile) (r : Reg) : Word :=
  if r = 0 then 0
  else if t.k.trap && decide (24 ≤ r.toNat) then rd t.k.kt (r.toNat - 24)
  else rd t.k.regs r.toNat

/-- A register of K written; a write to k0 is discarded. -/
def Tile.kset (t : Tile) (r : Reg) (v : Word) : Tile :=
  if r = 0 then t
  else if t.k.trap && decide (24 ≤ r.toNat) then { t with k := { t.k with kt := wr t.k.kt (r.toNat - 24) v } }
  else { t with k := { t.k with regs := wr t.k.regs r.toNat v } }

/-- A sequencer's component of a clock. -/
def Clk.at (a : Clk) : Sequencer → Nat
  | .k => a.k
  | .l => a.l
  | .c => a.c
  | .s => a.s

/-- A clock with one more instruction of a sequencer. -/
def Clk.tick (a : Clk) : Sequencer → Clk
  | .k => { a with k := a.k + 1 }
  | .l => { a with l := a.l + 1 }
  | .c => { a with c := a.c + 1 }
  | .s => { a with s := a.s + 1 }

/-- K has issued its instruction and continues at an address; its wait, if any, is over. -/
def Tile.kGo (t : Tile) (pc : Word) : Tile :=
  { t with k := { t.k with pc := pc, pend := none, since := none, clk := t.k.clk.tick .k } }

/-- K continues at the next word. -/
def Tile.kNext (t : Tile) : Tile := t.kGo (t.k.pc + 4)

/-- K waits at its instruction, from cycle now on if it was not waiting. -/
def Tile.kHold (t : Tile) (now : Nat) : Tile := { t with k := { t.k with since := some (t.k.since.getD now) } }

/-- Whether an address lies in K's stream, from its entry to its end address inclusive (04 R65). -/
def Tile.kIn (t : Tile) (pc : Word) : Bool :=
  match t.task with
  | some k => decide (k.kEnt ≤ pc) && decide (pc ≤ k.kFin)
  | none => false

/-! ### Taking an exception (18 R361, R362) -/

/-- Which of L, C and S is stopped, as bits 10 to 12 of kt1. -/
def Tile.stopBits (t : Tile) (skip : Option Sequencer) : Nat :=
  (if t.l.stop.isSome && skip != some .l then 2 ^ 10 else 0) +
  (if t.c.stop.isSome && skip != some .c then 2 ^ 11 else 0) +
  (if t.s.stop.isSome && skip != some .s then 2 ^ 12 else 0)

/-- The code of a sequencer in kt1 (18 R362). -/
def seqCode : Sequencer → Nat
  | .k => 0
  | .l => 1
  | .c => 2
  | .s => 3

/-- K enters trap mode: kt0 to kt4 are written and K continues at TVEC (18 R361, R362). kt5 to kt7 keep their values. -/
def Tile.enterTrap (t : Tile) (ret : Word) (cause : Cause) (q : Sequencer) (imprecise : Bool) (value pc word : Word) : Tile :=
  let kt1 := cause.code + seqCode q * 2 ^ 8 + t.stopBits (some q) + (if imprecise then 2 ^ 13 else 0)
  let kt := wr (wr (wr (wr (wr t.k.kt 0 ret) 1 (BitVec.ofNat 64 kt1)) 2 value) 3 pc) 4 word
  { t with k := { t.k with trap := true, kt := kt, pc := t.tvec, pend := none, since := none } }

/-- A cause of K's own instruction at pc: to the handler, or, in trap mode or without a handler, to the command core
(18 R361). ret is the resume address. -/
def Tile.kRaise (t : Tile) (cause : Cause) (value ret word : Word) : Tile :=
  let t : Tile := { t with lstall := t.lstall || cause == Cause.launchStall }
  if t.k.trap || t.tvec == 0 then { t with kill := some ⟨false, cause, .k, t.k.pc⟩ }
  else t.enterTrap ret cause .k false value t.k.pc word

/-- The code of an image for a sequencer. -/
def Image.code (i : Image) : Sequencer → Mem
  | .k => i.kcode
  | .l => i.lcode
  | .c => i.ccode
  | .s => i.scode

/-- The image of a tile's task. -/
def State.image? (s : State) (t : TileId) : Option Image := (s.tileAt t).task.bind (fun k => s.dev.images[k.image]?)

/-- n bytes of code at an address of a sequencer's section (04 R64); zero outside any image. -/
def State.codeAt (s : State) (t : TileId) (q : Sequencer) (pc : Word) (n : Nat) : Nat :=
  match s.image? t with
  | some i => (i.code q).readN pc.toNat n
  | none => 0

/-- The K word at K's program counter. -/
def State.kWord (s : State) : Word := BitVec.ofNat 64 (s.codeAt s.cur .k s.tile.k.pc 4)

/-- A fault of K's own instruction: nothing of it is done (06 R106), and K traps with the resume address at the instruction. -/
def State.kFault (s : State) (cause : Cause) (value : Word) : State :=
  s.upd fun t => t.kRaise cause value t.k.pc s.kWord

/-- K goes to an address if it lies in its stream, else ILLEGAL with nothing written (04 R65). -/
def State.kJump (s : State) (pc : Word) (f : Tile → Tile) : State :=
  if s.tile.kIn pc then s.upd fun t => (f t).kGo pc else s.kFault .illegal 0

/-- K writes d and goes on. -/
def State.kDone (s : State) (d : Reg) (v : Word) : State := s.upd fun t => (t.kset d v).kNext

/-- K goes on. -/
def State.kSkip (s : State) : State := s.upd Tile.kNext

/-- K waits at its instruction. -/
def State.kWait (s : State) : State := s.upd fun t => t.kHold s.dev.now

/-! ### Stops of L, C and S -/

/-- The words at the program counter of a sequencer, as its stop record shows them (06 R132). -/
def State.seqWord (s : State) (t : TileId) (q : Sequencer) (pc : Word) : BitVec 128 :=
  BitVec.ofNat 128 (s.codeAt t q pc (match q with | .k => 4 | .l => 8 | .s => 8 | .c => 16))

/-- The program counter of a sequencer. -/
def Tile.pcOf (t : Tile) : Sequencer → Word
  | .k => t.k.pc
  | .l => t.l.pc
  | .c => t.c.pc
  | .s => t.s.pc

/-- The stop record of a sequencer; K has none. -/
def Tile.stopOf (t : Tile) : Sequencer → Option StopRec
  | .k => none
  | .l => t.l.stop
  | .c => t.c.stop
  | .s => t.s.stop

/-- The end address of a sequencer's stream. -/
def Task.fin (k : Task) : Sequencer → Word
  | .k => k.kFin
  | .l => k.lFin
  | .c => k.cFin
  | .s => k.sFin

/-- The entry address of a sequencer's stream. -/
def Task.entry (k : Task) : Sequencer → Word
  | .k => k.kEnt
  | .l => k.lEnt
  | .c => k.cEnt
  | .s => k.sEnt

/-- Whether a sequencer has ended: its program counter has reached its end address, or K has met EXIT (04 R65). -/
def Tile.endedOf (t : Tile) (q : Sequencer) : Bool :=
  (q == .k && t.k.ended) || (match t.task with | some k => t.pcOf q == k.fin q | none => false)

/-- The clock of a sequencer. -/
def Tile.clkOf (t : Tile) : Sequencer → Clk
  | .k => t.k.clk
  | .l => t.l.clk
  | .c => t.c.clk
  | .s => t.s.clk

/-- Entries of the store-to-load forwarding table (07 R141). -/
def Tile.forwarding (t : Tile) : Nat :=
  (t.reqs.filter fun r => r.q == .s && r.pieces.any fun p => p.tgt == .spm && !p.done).length

/-- A sequencer may stop: no memory instruction of it is unfinished, so none can still fail before the one it stops at (07 R139), and S's
forwarding table is empty (01 R16). -/
def Tile.mayStop (t : Tile) (q : Sequencer) : Bool :=
  !t.reqs.any (fun r => r.q == q && !r.finished) && (q != .s || t.forwarding == 0)

/-- L, C or S stopped with a record (06 R133). -/
def Tile.setStop (t : Tile) (q : Sequencer) (r : StopRec) (resv : Bool) : Tile :=
  let t : Tile := { t with lstall := t.lstall || (r.cause == Cause.launchStall && q != Sequencer.k) }
  match q with
  | .k => t
  | .l => { t with l := { t.l with stop := some r, resv := resv, since := none, sent := none } }
  | .c => { t with c := { t.c with stop := some r, resv := resv, since := none } }
  | .s => { t with s := { t.s with stop := some r, resv := resv, since := none, sent := none } }

/-- A cause at L, C or S of tile t stops it at its instruction. resv says whether the instruction holds push reservations. -/
def State.stopSeq (s : State) (t : TileId) (q : Sequencer) (cause : Cause) (addr : Word) (imprecise resv : Bool) : State :=
  let pc := (s.tileAt t).pcOf q
  s.updAt t fun x => x.setStop q ⟨cause, pc, addr, s.seqWord t q pc, imprecise⟩ resv

/-! ### The event queue (06 R110, R111) -/

/-- A completion record. -/
def mkRecord (detail : Word) (kind : BitVec 16) (engine sem : BitVec 8) (tag : BitVec 32) : BitVec 128 :=
  detail ++ kind ++ engine ++ sem ++ tag

/-- The kind codes of 06 R110. -/
def kindDone : BitVec 16 := 1
/-- An engine fault. -/
def kindFault : BitVec 16 := 2
/-- An unmatched packet. -/
def kindUnmatched : BitVec 16 := 3
/-- A channel fault. -/
def kindChFault : BitVec 16 := 4
/-- A barrier overrun. -/
def kindOverrun : BitVec 16 := 5

/-- The detail of an engine fault: cause and the low 56 bits of the address. -/
def faultDetail (c : Cause) (a : Word) : Word := BitVec.ofNat 64 (c.code * 2 ^ 56 + a.toNat % 2 ^ 56)

/-- A record finds room in the event queue at once. -/
def Tile.recordRoom (t : Tile) : Bool := t.evq.length < 64 && t.evWait.isEmpty

/-- A record posted: it enters the queue, or waits while the queue holds 64 (06 R111). -/
def Tile.post (t : Tile) (r : BitVec 128) : Tile :=
  if t.recordRoom then { t with evq := t.evq ++ [r] } else { t with evWait := t.evWait ++ [r] }

/-- The oldest record removed, and one that waits let in. -/
def Tile.popRecord (t : Tile) : Tile :=
  match t.evWait with
  | [] => { t with evq := t.evq.drop 1, evHead := (t.evHead + 1) % 64 }
  | r :: w => { t with evq := t.evq.drop 1 ++ [r], evHead := (t.evHead + 1) % 64, evWait := w }

/-- Records are discarded silently when the tile runs no task (01 R17). -/
def State.postAt (s : State) (t : TileId) (r : BitVec 128) : State :=
  if (s.tileAt t).task.isSome then s.updAt t fun x => x.post r else s

/-! ### Semaphores (06 R108) -/

/-- A semaphore's count; sm0 reads zero. -/
def Tile.smGet (t : Tile) (n : BitVec 8) : BitVec 32 := if n = 0 then 0 else rd t.sm n.toNat

/-- A semaphore set; sm0 is not written. -/
def Tile.smSet (t : Tile) (n : BitVec 8) (v : BitVec 32) : Tile := if n = 0 then t else { t with sm := wr t.sm n.toNat v }

/-- A signal: saturating, nothing for sm0. -/
def Tile.smSignal (t : Tile) (n : BitVec 8) : Tile :=
  if t.smGet n = 0xFFFFFFFF then t else t.smSet n (t.smGet n + 1)

/-- A unit taken. -/
def Tile.smTake (t : Tile) (n : BitVec 8) : Tile := t.smSet n (t.smGet n - 1)

/-- Whether a wait on a semaphore can finish: sm0 means none. -/
def Tile.smReady (t : Tile) (n : BitVec 8) : Bool := n == 0 || t.smGet n != 0

/-! ### Token queues (04 R75, R76, 10 R231) -/

/-- The peers of a sequencer in order K, L, C, S with itself left out. -/
def seqPeers : Sequencer → List Sequencer
  | .k => [.l, .c, .s]
  | .l => [.k, .c, .s]
  | .c => [.k, .l, .s]
  | .s => [.k, .l, .c]

/-- The peers a token code names, in order (04 R75). -/
def peersOf (q : Sequencer) (code : BitVec 3) : List Sequencer :=
  let p := seqPeers q
  match code.toNat, p with
  | 1, [x, _, _] => [x]
  | 2, [_, y, _] => [y]
  | 3, [_, _, z] => [z]
  | 4, [x, y, _] => [x, y]
  | 5, [x, _, z] => [x, z]
  | 6, [_, y, z] => [y, z]
  | 7, [x, y, z] => [x, y, z]
  | _, _ => []

/-- The number of the queue from x to y (18 R372). -/
def tokNum (x y : Sequencer) : Nat :=
  match x, y with
  | .k, .l => 0
  | .k, .c => 1
  | .k, .s => 2
  | .l, .k => 3
  | .l, .c => 4
  | .l, .s => 5
  | .c, .k => 6
  | .c, .l => 7
  | .c, .s => 8
  | .s, .k => 9
  | .s, .l => 10
  | .s, .c => 11
  | _, _ => 12

/-- The queue from x to y. -/
def Tile.tokQ (t : Tile) (x y : Sequencer) : TokQ := rd t.tok (tokNum x y)

/-- The queue from x to y replaced. -/
def Tile.setTokQ (t : Tile) (x y : Sequencer) (v : TokQ) : Tile := { t with tok := wr t.tok (tokNum x y) v }

/-- A free entry in the queue, counting reservations. -/
def TokQ.space (z : TokQ) : Bool := z.items.length + z.resv < 16

/-- Entries of finished words enter at the tail while no earlier word's push is still to come (10 R231, 15 R327, log 84). -/
def TokQ.settle (z : TokQ) : TokQ :=
  let d := z.wait.takeWhile fun w => w.2.isSome
  { z with items := z.items ++ d.filterMap fun w => w.2, wait := z.wait.drop d.length }

/-- The push reserved by word n of the pushing sequencer completed. -/
def TokQ.complete (z : TokQ) (n : Nat) (k : Tok) : TokQ :=
  { z with wait := z.wait.map fun (w : Nat × Option Tok) => if w.1 = n && w.2.isNone then (n, some k) else w : TokQ }.settle

/-- Every queue of the list from q has space. -/
def Tile.canPush (t : Tile) (q : Sequencer) (ps : List Sequencer) : Bool := ps.all fun p => (t.tokQ q p).space

/-- Every queue of the list into q holds an entry. -/
def Tile.canPop (t : Tile) (q : Sequencer) (ps : List Sequencer) : Bool := ps.all fun p => !(t.tokQ p q).items.isEmpty

/-- A token wait that cannot end: an empty queue whose pusher has ended with nothing reserved, or a full queue whose popper has
ended (10 R232). -/
def Tile.tokenStalled (t : Tile) (q : Sequencer) (pops pushes : List Sequencer) (resv : Bool) : Bool :=
  (pops.any fun p => (t.tokQ p q).items.isEmpty && t.endedOf p && (t.tokQ p q).resv == 0) ||
  (!resv && pushes.any fun p => !(t.tokQ q p).space && t.endedOf p)

/-- Word n of L or S has an effect outside its sequencer: memory instructions before it can no longer fail (07 R139, log 28). -/
def Tile.mark (t : Tile) (q : Sequencer) (n : Nat) : Tile :=
  match q with
  | .l => { t with outL := max t.outL n }
  | .s => { t with outS := max t.outS n }
  | _ => t

/-- What the words of L or S since its oldest unfinished request have popped. -/
def Tile.trailOf (t : Tile) : Sequencer → List Popped
  | .l => t.l.trail
  | .s => t.s.trail
  | _ => []

/-- The last word of p whose pop from the queue from q gave the room that an entry now takes: with the entries it and others popped put back, the queue
would hold more than 16. -/
def Tile.roomFrom (t : Tile) (q p : Sequencer) : Nat :=
  let z := t.tokQ q p
  let us := (t.trailOf p).filter fun u => u.from_ == q
  if 16 < z.items.length + z.wait.length + us.length then us.foldl (fun m u => max m u.n) 0 else 0

/-- Reservations made in the queues from q by its next word. -/
def Tile.reserve (t : Tile) (q : Sequencer) (ps : List Sequencer) : Tile :=
  let n := (t.clkOf q).at q + 1
  ps.foldl (fun t p =>
    let z := t.tokQ q p
    let t := t.setTokQ q p { z with wait := z.wait ++ [(n, none)] }
    t.mark p (t.roomFrom q p)) t

/-- Reserved pushes of the word with a clock completed: V loses one and the entry enters at the tail, behind those of earlier words. -/
def Tile.pushReserved (t : Tile) (q : Sequencer) (ps : List Sequencer) (pay : BitVec 32) (clk : Clk) : Tile :=
  ps.foldl (fun t p => t.setTokQ q p ((t.tokQ q p).complete (clk.at q) ⟨pay, clk⟩)) t

/-- The later of two clocks, component by component. -/
def Clk.join (a b : Clk) : Clk := ⟨max a.k b.k, max a.l b.l, max a.c b.c, max a.s b.s⟩

/-- Whether an instruction of sequencer q is before (or is) the point with clock b in token order (06 R122). a is the instruction's
clock, which counts the instruction itself. -/
def Clk.before (a : Clk) (q : Sequencer) (b : Clk) : Bool := a.at q ≤ b.at q

/-- The clock of a sequencer replaced. -/
def Tile.setClk (t : Tile) (q : Sequencer) (c : Clk) : Tile :=
  match q with
  | .k => { t with k := { t.k with clk := c } }
  | .l => { t with l := { t.l with clk := c } }
  | .c => { t with c := { t.c with clk := c } }
  | .s => { t with s := { t.s with clk := c } }

/-- The head entries of the queues into q, in order. -/
def Tile.heads (t : Tile) (q : Sequencer) (ps : List Sequencer) : List Tok := ps.filterMap fun p => (t.tokQ p q).items.head?

/-- The head entry of each named queue into q removed, where there is one; q's clock takes in those of the entries, and the words that pushed them have
had an effect. -/
def Tile.popToks (t : Tile) (q : Sequencer) (ps : List Sequencer) : Tile :=
  let hs := t.heads q ps
  let t := ps.foldl (fun t p => let z := t.tokQ p q
    match z.items with
    | [] => t
    | k :: r => (t.setTokQ p q { z with head := (z.head + 1) % 16, items := r }).mark p (k.clk.at p)) t
  t.setClk q (hs.foldl (fun c h => c.join h.clk) (t.clkOf q))

/-! ### Register space (10 R227) -/

/-- The size of the register space (01 R8). -/
def regSize : Nat := 0x40000

/-- Whether the sector of a byte has been written since task start. -/
def Tile.valid (t : Tile) (a : Nat) : Bool := t.rvalid.getLsbD (a / 32)

/-- A byte of the register space: zero where its sector's valid bit is clear. -/
def Tile.rbyte (t : Tile) (a : Nat) : Byte := if t.valid a then t.regspace.get a else 0

/-- n bytes of the register space. -/
def Tile.rread (t : Tile) (a : Nat) : Nat → Nat
  | 0 => 0
  | n + 1 => (t.rbyte a).toNat + 256 * Tile.rread t (a + 1) n

/-- The valid bits of the sectors that n bytes from a touch. -/
def sectorMask (a : Nat) (n : Nat) : BitVec 8192 :=
  if n = 0 then 0
  else (BitVec.ofNat 8192 (2 ^ ((a + n - 1) / 32 - a / 32 + 1) - 1)) <<< (a / 32)

/-- Sectors about to be written whose valid bit is clear: their stale bytes go (10 R227). -/
def Tile.openSectors (t : Tile) (a n : Nat) : Tile :=
  let fresh := (List.range ((a + n + 31) / 32 - a / 32)).filter fun i => !t.rvalid.getLsbD (a / 32 + i)
  { t with
    regspace := fresh.foldl (fun m i => m.clear (32 * (a / 32 + i)) 32) t.regspace
    rvalid := t.rvalid ||| sectorMask a n }

/-- Entries of the bypass network for the registers from r0 to r1 lose their hold (08 R175). -/
def Tile.voidBypass (t : Tile) (r0 r1 : Nat) : Tile :=
  { t with c := { t.c with bypass := t.c.bypass.map fun b =>
    if r0 ≤ b.reg.toNat && b.reg.toNat ≤ r1 then { b with v := false } else b } }

/-- n bytes of v written into the register space at a, by anything but a one-register result of C. -/
def Tile.rwrite (t : Tile) (a n v : Nat) : Tile :=
  if n = 0 then t
  else
    let t := t.openSectors a n
    ({ t with regspace := t.regspace.writeN a n v }).voidBypass (a / 128) ((a + n - 1) / 128)

/-- A vector register in the register space. -/
def Tile.vreg (t : Tile) (r : Nat) : Vec := BitVec.ofNat 1024 (t.rread (128 * r) 128)

/-! ### Barrier objects (06 R115, R117) -/

/-- A barrier object. -/
structure Bar where
  phase : Nat
  pending : Nat
  reload : Nat
  bytes : Word
  deriving DecidableEq, Repr, Inhabited

/-- The barrier object at an address of a scratchpad. -/
def Mem.bar (m : Mem) (a : Nat) : Bar :=
  let w := m.readN a 8
  ⟨nbits w 52 12, nbits w 32 20, nbits w 12 20, BitVec.ofNat 64 (m.readN (a + 8) 8)⟩

/-- The barrier object written back, its reserved bits zero. -/
def Mem.setBar (m : Mem) (a : Nat) (b : Bar) : Mem :=
  (m.writeN a 8 (b.phase % 4096 * 2 ^ 52 + b.pending % 2 ^ 20 * 2 ^ 32 + b.reload % 2 ^ 20 * 2 ^ 12)).writeN (a + 8) 8 b.bytes.toNat

/-- The completion test (06 R115). -/
def Bar.test (b : Bar) : Bar :=
  if b.pending = 0 ∧ b.bytes = 0 then { b with phase := (b.phase + 1) % 4096, pending := b.reload } else b

/-- A drop; none when it would take pending or reload below zero. -/
def Bar.drop (b : Bar) : Option Bar :=
  if b.pending = 0 ∨ b.reload = 0 then none else some { b with pending := b.pending - 1, reload := b.reload - 1 }

/-- n arrivals; none when they would take pending below zero. -/
def Bar.arrive (b : Bar) (n : Nat) : Option Bar := if b.pending < n then none else some { b with pending := b.pending - n }

/-- A phase completed by a flag-set: bytes are left unchanged (06 R119). -/
def Bar.flag (b : Bar) : Bar := { b with phase := (b.phase + 1) % 4096, pending := b.reload }

/-- The rank of an update in the order of 06 R117. -/
def BarUpd.rank : BarUpd → Nat
  | .drop => 0
  | .bytes _ => 1
  | .arrive _ => 2
  | .flag => 3

/-- One update before the completion test; the Bool says that it was refused. -/
def Bar.apply (b : Bar) : BarUpd → Bar × Bool
  | .drop => match b.drop with | some x => (x, false) | none => (b, true)
  | .bytes n => ({ b with bytes := b.bytes + n }, false)
  | .arrive n => match b.arrive n with | some x => (x, false) | none => (b, true)
  | .flag => (b.flag, false)

/-- The updates of one kind, in order, and whether one of them was applied: the Bool goes in and comes out. -/
def Bar.applyRank (us : List BarUpd) (r : Nat) (b : Bar × Bool) : Bar × Bool :=
  (us.filter fun u => u.rank = r).foldl (fun b u => ((b.1.apply u).1, b.2 || !(b.1.apply u).2)) b

/-- The updates of one cycle in order: drops, bytes, arrivals, one completion test, flag-sets (06 R117). A refused update changes nothing
and so completes no phase: the test is made when some update of the cycle is applied, a flag-set alone included (log 107). -/
def Bar.cycle (b : Bar) (us : List BarUpd) : Bar :=
  let a := Bar.applyRank us 2 (Bar.applyRank us 1 (Bar.applyRank us 0 (b, false)))
  (Bar.applyRank us 3 (if a.2 || us.any (fun u => u.rank == 3) then a.1.test else a.1, false)).1

/-- Those of a cycle's updates that were refused, by their place in the list. -/
def Bar.refused (b : Bar) (us : List BarUpd) : List Nat :=
  let go := fun (acc : Bar × List Nat) (p : BarUpd × Nat) =>
    let r := acc.1.apply p.1
    (r.1, if r.2 then acc.2 ++ [p.2] else acc.2)
  let ix := us.zipIdx
  let a := (ix.filter fun p => p.1.rank = 0).foldl go (b, [])
  let a := (ix.filter fun p => p.1.rank = 1).foldl go a
  ((ix.filter fun p => p.1.rank = 2).foldl go a).2

/-! ### Lost units (23 R409) -/

/-- The bytes of a lost unit: 8, or, for an HBM sector whose side-band lost bit is set, which has place 1, 32 (23 R407, R409). -/
def unitSize (u : StoredUnit) : Nat := if u.code = 6 ∧ u.place = 1 then 32 else 8

/-- A unit of a structure at a place meets n bytes at a. HBM is one place. -/
def unitMeets (u : StoredUnit) (code : BitVec 8) (place a n : Nat) : Bool :=
  u.code == code && (u.place == place || code == 6) && decide (a < u.off + unitSize u) && decide (u.off < a + n)

/-- Whether n bytes at a of a structure touch a lost unit. -/
def State.isLost (s : State) (code : BitVec 8) (place a n : Nat) : Bool := s.dev.lost.any fun u => unitMeets u code place a n

/-- Whether n bytes at a touch a lost unit they do not wholly cover. -/
def State.partLost (s : State) (code : BitVec 8) (place a n : Nat) : Bool :=
  s.dev.lost.any fun u => unitMeets u code place a n && !(a ≤ u.off && u.off + unitSize u ≤ a + n)

/-- Units wholly covered by n written bytes at a are lost no longer. -/
def State.heal (s : State) (code : BitVec 8) (place a n : Nat) : State :=
  if s.dev.lost.isEmpty then s
  else s.updDev fun d => { d with lost := d.lost.filter fun u =>
    !(unitMeets u code place a n && a ≤ u.off && u.off + unitSize u ≤ a + n) }

/-- Lost units of a structure at a place, in a range, are lost no longer: what held them has gone. -/
def State.forget (s : State) (code : BitVec 8) (place a n : Nat) : State :=
  s.updDev fun d => { d with lost := d.lost.filter fun u => !unitMeets u code place a n }

/-- A tile-state error (23 R411): the cause goes to the command core. -/
def State.tileError (s : State) (t : TileId) (q : Sequencer) : State :=
  s.updAt t fun x => { x with kill := some ⟨false, .eccUncorrected, q, x.pcOf q⟩ }

/-! ### Error event logs (23 R420, R421) -/

/-- An entry of an error event log. place is the tile, or 432 + port for links. -/
def mkLog (detail : BitVec 64) (launch time : Word) (cause : Nat) (tag : BitVec 12) (place : Nat) (code cls : Nat) : LogEntry :=
  detail ++ launch ++ time ++
    BitVec.ofNat 64 (cause % 256 * 2 ^ 37 + tag.toNat * 2 ^ 25 + place % 512 * 2 ^ 16 + code % 256 * 2 ^ 8 + cls % 256)

/-- The class of a log entry. -/
def logClass (e : LogEntry) : Nat := bits e 7 0

/-- The repeat count of a log entry raised by one, saturating. -/
def logRepeat (e : LogEntry) : LogEntry :=
  let n := bits e 63 48
  if n = 0xFFFF then e else e + BitVec.ofNat 256 (2 ^ 48)

/-- Whether two entries describe a corrected error of one unit: everything but time and repeat count. -/
def logSameUnit (a b : LogEntry) : Bool :=
  bits a 255 192 == bits b 255 192 && bits a 47 0 == bits b 47 0

/-- An entry written into a log of 1,024 entries (23 R421). -/
def logWrite (log : List LogEntry) (e : LogEntry) : List LogEntry :=
  if logClass e = 1 && log.any (fun x => logClass x == 1 && logSameUnit x e) then
    log.map fun x => if logClass x == 1 && logSameUnit x e then logRepeat x else x
  else if log.length < 1024 then log ++ [e]
  else if log.any fun x => logClass x == 1 then
    (log.eraseP fun x => logClass x == 1) ++ [e]
  else
    match log.getLast? with
    | none => [e]
    | some z => log.dropLast ++ [if logClass z = 7 then logRepeat z
        else z.extractLsb' 64 192 ++ (1 : BitVec 16) ++ z.extractLsb' 8 40 ++ (7 : BitVec 8)]

/-- CLKRD: 100 MHz reference periods since the session began (06 R131, 24 R425). -/
def State.clkrd (s : State) : Word := BitVec.ofNat 64 s.dev.clk

/-- A log has a place for a new entry: it is not full, or holds an entry of class 1 (23 R421). -/
def logTakes (log : List LogEntry) : Bool := decide (log.length < 1024) || log.any fun x => logClass x == 1

/-- The new entry that writing e into a log makes: e, or, where the last entry becomes the overflow's, that one. -/
def logNew (log : List LogEntry) (e : LogEntry) : Option LogEntry :=
  if logClass e = 1 && log.any (fun x => logClass x == 1 && logSameUnit x e) then none
  else if logTakes log then some e
  else match log.getLast?, (logWrite log e).getLast? with
    | some z, some y => if logClass z = 7 then none else some y
    | _, _ => none

/-- The management plane with one more entry logged in cycle now, and the new entry that this makes: one of classes 2 to 7 goes to the bus owner (24
R426). -/
def Mgmt.note (m : Mgmt) (now : Nat) (d : DieId) (e : LogEntry) (new : Option LogEntry) : Mgmt :=
  { m with
    logAt := now, logNow := (if m.logAt = now then m.logNow else []) ++ [(d, e)]
    heard := if m.logAt = now then m.heard else m.events.length
    events := m.events ++ (new.filter fun n => 2 ≤ logClass n && logClass n ≤ 7).toList }

/-- An entry logged on a die. -/
def State.logOn (s : State) (d : DieId) (e : LogEntry) : State :=
  (s.updDie d fun x => { x with log := logWrite x.log e }).updDev fun v =>
    { v with mgmt := v.mgmt.note v.now d e (logNew (s.dev.dies[d]).log e) }

/-! ### Packets (12 R268) -/

/-- A flow-plane header. -/
def mkHeader (flow : BitVec 16) (tile : BitVec 9) (dev : BitVec 12) (seq : BitVec 16) (cls len : BitVec 2) (kind : BitVec 3) : Word :=
  flow ++ tile ++ dev ++ seq ++ cls ++ len ++ kind ++ (0 : BitVec 4)

/-- A packet put on the flow plane. -/
def State.inject (s : State) (p : Pkt) : State :=
  s.updDev fun d => { d with net := d.net ++ [{ p with stamp := d.nextId }], nextId := d.nextId + 1 }

/-- The launch a tile's task belongs to; 0 if it runs none. -/
def Tile.launch (t : Tile) : Word := match t.task with | some k => k.launch | none => 0

/-- The context tag of a tile's task; 0 if it runs none. -/
def Tile.ctx (t : Tile) : BitVec 12 := match t.task with | some k => k.ctx | none => 0

/-- A packet of kinds 1 to 4 to a tile of this device (12 R269). -/
def State.sendTo (s : State) (src dst : TileId) (kind : BitVec 3) (seq : BitVec 16) (cls : BitVec 2) (body : PktBody)
    (clk : Clk) : State :=
  let t := s.tileAt src
  s.inject { hdr := mkHeader 0 (tileBits src) s.devNum seq cls 0 kind, ctx := t.ctx, launch := t.launch, body := body
             at_ := .spoke dst, orig := src.val, own := none, task := t.task.map fun k => k.index, miss := false, lcopy := false, stamp := 0
             clk := clk }

/-! ### Published windows (12 R291, R292) -/

/-- Whether a byte lies in an open published window of the tile. -/
def Tile.published (t : Tile) (a : Nat) : Bool :=
  t.pubs.toList.any fun p => p.opened && p.pubBase ≤ a && a < p.pubBase + p.size

/-- The open batch leaves as one update for each publisher entry whose window holds its sector (12 R292). -/
def State.closeBatch (s : State) (t : TileId) : State :=
  let x := s.tileAt t
  match x.batch with
  | none => s
  | some b =>
    let s := s.updAt t fun x => { x with batch := none }
    (List.range 16).foldl (fun s i =>
      let p := rd x.pubs i
      let mask := match b.fresh.find? fun f => f.1 == i with | some f => f.2 | none => b.mask
      if p.opened && mask != 0 && p.pubBase ≤ b.sector && b.sector < p.pubBase + p.size then
        match tileOf? p.peer with
        | none => s
        | some dst =>
          let s := s.sendTo t dst 3 p.count 1 (.update i (p.subBase + (b.sector - p.pubBase)) mask b.data) (x.clkOf .s)
          s.updAt t fun x => { x with pubs := wr x.pubs i { p with count := p.count + 1 } }
      else s) s

/-- The mask of n bytes at a inside their 32-byte sector. -/
def sectorBytes (a n : Nat) : BitVec 32 := (BitVec.ofNat 32 (2 ^ n - 1)) <<< (a % 32)

/-- A write that a tile's own sequencers or copy engine make to its scratchpad, inside one sector. Writes to published windows are
batched for forwarding. -/
def State.spmStore (s : State) (t : TileId) (a n v : Nat) : State :=
  let x := s.tileAt t
  let sector := a / 32 * 32
  let s := if x.published a then
      (match x.batch with
        | some b => if b.sector = sector then s else s.closeBatch t
        | none => s)
    else s
  let s := s.updAt t fun x => { x with spm := x.spm.writeN a n v }
  let s := s.heal 1 t.val a n
  if x.published a then
    s.updAt t fun x => { x with batch := some (match x.batch with
      | some b => { b with mask := b.mask ||| sectorBytes a n, data := x.spm.readN sector 32
                           fresh := b.fresh.map fun f => (f.1, f.2 ||| sectorBytes a n) }
      | none => ⟨sector, sectorBytes a n, x.spm.readN sector 32, s.dev.now, []⟩) }
  else s

/-- Such a write of whole sectors, or inside one, sector by sector. -/
def State.spmStores (s : State) (t : TileId) (a n v : Nat) : State :=
  if n ≤ 32 then s.spmStore t a n v
  else (List.range (n / 32)).foldl (fun s i => s.spmStore t (a + 32 * i) 32 (nbits v (256 * i) 256)) s

/-- Lost data that an update from the network meets is logged (23 R420, R421). -/
def State.logLost (s : State) (t : TileId) (launch : Word) (ctx : BitVec 12) (code a : Nat) : State :=
  s.logOn (dieOf t) (mkLog (BitVec.ofNat 64 a) launch s.clkrd Cause.eccUncorrected.code ctx t.val code 2)

end Sys2Proof.Machine
end

