-- ==== Sys2Proof/Machine/Translate.lean ====
section
/-! DEFINITION. Translation and protection (16 R328 to R342): page walks, leaf checks, access tables, far-atomic ranges, and where
the bytes of an access are. -/

namespace Sys2Proof.Machine

/-- The memory spaces named by opcodes (11 R246); space N is handled by name. -/
inductive Space where
  | spm | commons | loc | far | host
  deriving DecidableEq, Repr, Inhabited

/-- Kinds of access (16 R335). -/
inductive Acc where
  | read | write | rmw
  deriving DecidableEq, Repr, Inhabited

/-- Local physical addresses at or above this name no memory (16 R332). -/
def hbmSize : Nat := 576000000000

/-- The home hub slice of a local physical address (11 R248). -/
def homeOf (p : Nat) : Nat := (p / 128) % 432

/-- The HBM base die of a local physical address (16 R332). -/
def stackOf (p : Nat) : Nat := (p / 4096) % 12

/-! ### Access tables (16 R338, R339) -/

/-- Whether one entry permits an access from a master device under a tag to the blocks b0 to b1. -/
def acctEntryOk (e : BitVec 128) (dev tag : BitVec 12) (b0 b1 : Nat) (k : Acc) : Bool :=
  bit e 63 && bits e 11 0 == dev.toNat && (bits e 23 12 == tag.toNat || bits e 23 12 == 0xFFF) &&
  bits e 95 64 ≤ b0 && b1 ≤ bits e 127 96 &&
  (match k with
    | .read => bit e 62
    | .write => bit e 61
    | .rmw => bit e 62 && bit e 61 && bit e 60)

/-- Whether target g permits an access of n bytes at address p. -/
def acctOk (tbl : List AcctEntry) (g : Nat) (dev tag : BitVec 12) (p n : Nat) (k : Acc) : Bool :=
  tbl.any fun x => x.g == g && acctEntryOk x.w dev tag (p / 65536) ((p + n - 1) / 65536) k

/-- Whether a block lies in a valid far-atomic range (16 R341). -/
def inFarange (rs : List (BitVec 128)) (block : Nat) : Bool :=
  rs.any fun r => bit r 127 && bits r 31 0 ≤ block && block ≤ bits r 95 64

/-- The check at the hub slice or base die of an owner whose tables are given. fa: the requester's leaf carries FA. -/
def ownerOk (tbl : List AcctEntry) (rs : List (BitVec 128)) (dev tag : BitVec 12) (p n : Nat) (k : Acc) (fa : Bool) : Bool :=
  if fa then inFarange rs (p / 65536) && acctOk tbl (432 + stackOf p) dev tag p n k
  else acctOk tbl (homeOf p) dev tag p n k

/-- The check of an access to local HBM. -/
def State.localOk (s : State) (tag : BitVec 12) (p n : Nat) (k : Acc) (fa : Bool) : Bool :=
  ownerOk s.dev.acct s.dev.farange.toList s.devNum tag p n k fa

/-- The remote device of a number, if it is there (19 R384). -/
def State.remote? (s : State) (d : BitVec 12) : Option Remote := s.dev.remote.find? fun r => r.num == d && r.present

/-- The check of a request at the fabric ingress of another device (16 R339). -/
def State.ingressOk (s : State) (d tag : BitVec 12) (p n : Nat) (k : Acc) : Bool :=
  match s.remote? d with
  | some r => acctOk r.acct (444 + (Config.ingressPort s.dev.nextId).val) s.devNum tag p n k
  | none => false

/-- The check of a request at the hub slice or base die of another device. -/
def State.remoteOwnerOk (s : State) (d tag : BitVec 12) (p n : Nat) (k : Acc) (fa : Bool) : Bool :=
  match s.remote? d with
  | some r => ownerOk r.acct r.farange s.devNum tag p n k fa
  | none => false

/-- The check of a host access at its Hentia port (11 R249). -/
def State.hentiaOk (s : State) (tag : BitVec 12) (p n : Nat) (k : Acc) : Bool :=
  acctOk s.dev.acct (476 + nbits p 12 1) s.devNum tag p n k

/-- The device's own accesses under tag 0x000 to local HBM, line by line (16 R328, R339). -/
def State.ownOk (s : State) (p n : Nat) (k : Acc) : Bool :=
  (List.range ((p + n - 1) / 128 - p / 128 + 1)).all fun i =>
    let a := max p ((p / 128 + i) * 128)
    s.localOk 0 a 1 k (inFarange s.dev.farange.toList (a / 65536))

/-- The device's own accesses under tag 0x000 to a physical address of local or host memory. -/
def State.physOk (s : State) (p : Word) (n : Nat) (k : Acc) : Bool :=
  if bit p 63 then s.hentiaOk 0 (bits p 47 0) n k else s.ownOk (bits p 39 0) n k

/-! ### Home hub slices (11 R248, 23 R407) -/

/-- Lines that a hub slice of 768 KiB can hold beside the carve-outs of commons in it (00 R2, 11 R247). -/
def State.slotsOfHub (s : State) (h : Nat) : Nat := 6144 - ((s.tileAt (tileOf h)).carves.map fun c => (c.size + 127) / 128).sum

/-- A hub slice writes back the lines that it has no room for, those least recently written first (log 95): their bytes are in HBM already. -/
def State.fitHub (s : State) (h : Nat) : State :=
  let slice := s.dev.hub.filter fun x => homeOf (128 * x) == h
  let out := slice.drop (s.slotsOfHub h)
  if out.isEmpty then s else s.updDev fun d => { d with hub := d.hub.filter fun x => !out.contains x }

/-- A line is dirty in its home slice, unless its block is far-atomic (16 R342). -/
def State.markDirty (s : State) (a : Nat) : State :=
  if inFarange s.dev.farange.toList (a / 65536) then s
  else (s.updDev fun d => { d with hub := a / 128 :: d.hub.filter fun x => x != a / 128 }).fitHub (homeOf a)

/-- Host copies of the lines of n bytes at a go before a device write of them performs (19 R389). -/
def State.recall (s : State) (a n : Nat) : State :=
  if s.dev.hostCopies.isEmpty then s
  else s.updDev fun d => { d with hostCopies := d.hostCopies.filter fun c => decide (c.1 < a / 128) || decide ((a + n - 1) / 128 < c.1) }

/-- n bytes of v written into local HBM at the home slices of their lines. -/
def State.writeHbm (s : State) (a n v : Nat) : State :=
  let s := s.updDev fun d => { d with hbm := d.hbm.writeN a n v }
  ((((s.heal 6 0 a n).heal 14 0 a n).recall a n).markDirty a)

/-! ### Page walks (16 R332 to R334) -/

/-- A leaf in effect: the entry and whether its page is large. -/
structure Leaf where
  w : Word
  large : Bool
  deriving DecidableEq, Repr, Inhabited

/-- Leaf fields (16 R333). -/
def Leaf.host (l : Leaf) : Bool := bit l.w 63
/-- Writes permitted. -/
def Leaf.canWrite (l : Leaf) : Bool := bit l.w 60
/-- Reads permitted. -/
def Leaf.canRead (l : Leaf) : Bool := bit l.w 59
/-- Copy-on-write. -/
def Leaf.cow (l : Leaf) : Bool := bit l.w 58
/-- Sett-mapped. -/
def Leaf.sm (l : Leaf) : Bool := bit l.w 57
/-- Far-atomic. -/
def Leaf.fa (l : Leaf) : Bool := bit l.w 56
/-- The page's ordering kind. -/
def Leaf.ord (l : Leaf) : Ord :=
  match bits l.w 55 54 with
  | 1 => .strong
  | 2 => .unordered
  | _ => .rc
/-- The page size. -/
def Leaf.size (l : Leaf) : Nat := if l.large then 2 ^ 25 else 2 ^ 16
/-- The physical address of a virtual one, without bit 63: device and local address, or host address. -/
def Leaf.phys (l : Leaf) (va : Word) : Nat := bits l.w 51 16 * 2 ^ 16 + va.toNat % l.size
/-- The device number of a device-memory address. -/
def physDev (p : Nat) : BitVec 12 := BitVec.ofNat 12 (p / 2 ^ 40)
/-- The local part of a device-memory address. -/
def physLocal (p : Nat) : Nat := p % 2 ^ 40
/-- The root table of a Sett-mapped leaf. -/
def Leaf.rootTable (l : Leaf) : Nat := bits l.w 39 8 * 256

/-- Whether a leaf entry is one the walker accepts (16 R332, R334). -/
def leafOk (w : Word) (large : Bool) : Bool :=
  let l : Leaf := ⟨w, large⟩
  bits w 55 54 != 3 && bits w 53 52 == 0 && bits w 7 2 == 0 && !(l.fa && l.host) &&
  (if l.sm then !large && !l.host && !l.fa && !l.cow && bits w 51 40 == 0 && l.rootTable < hbmSize
   else (if large then bits w 24 8 == 0 else bits w 15 8 == 0) &&
     (if l.host then bits w 51 48 == 0 else bits w 39 8 * 256 + l.size ≤ 2 ^ 40 && bits w 39 8 * 256 < hbmSize))

/-- Whether an entry above the leaves names a next table on this device. -/
def tableOk (w : Word) : Bool :=
  bits w 63 52 == 0 && bits w 51 40 == 0 && bits w 11 2 == 0 && !bit w 1 && bits w 39 12 * 4096 < hbmSize

/-- A page-table entry as the walker reads it, under tag 0x000 (16 R334, R339). -/
def State.pte (s : State) (a : Nat) : Except Cause Word :=
  if !s.ownOk a 8 .read then .error .accessDenied
  else if s.isLost 6 0 a 8 then .error .eccUncorrected else .ok (BitVec.ofNat 64 (s.dev.hbm.readN a 8))

/-- The next table of an entry. -/
def nextTable (w : Word) : Except Cause Nat :=
  if !bit w 0 || !tableOk w then .error .xlate else .ok (bits w 39 12 * 4096)

/-- A leaf of an entry. -/
def asLeaf (w : Word) (large : Bool) : Except Cause Leaf :=
  if !bit w 0 || !bit w 1 || !leafOk w large then .error .xlate else .ok ⟨w, large⟩

/-- Where the descriptor of a tag lies (16 R331). -/
def State.descAt (s : State) (tag : BitVec 12) : Nat := s.dev.ctxbase.toNat + 16 * tag.toNat

/-- Why a descriptor cannot be read: refused under tag 0x000, or lost (16 R339, 23 R409; log 64 and 111). -/
def State.descFails (s : State) (tag : BitVec 12) : Option Cause :=
  if !s.ownOk (s.descAt tag) 16 .read then some .accessDenied
  else if s.isLost 6 0 (s.descAt tag) 16 then some .eccUncorrected
  else none

/-- The descriptor of a tag as memory holds it (16 R331); one that cannot be read is none (log 111). -/
def State.descriptor (s : State) (tag : BitVec 12) : Option Bound :=
  let a := s.descAt tag
  let w := s.dev.hbm.readN a 8
  if w % 2 = 1 && (s.descFails tag).isNone then some ⟨tag, BitVec.ofNat 4 (s.dev.hbm.readN (a + 8) 8), nbits w 12 40 * 4096⟩ else none

/-- The descriptor in effect: that of a bound tag, else the one in memory (16 R331). No access carries tag 0xFFF (16 R328). -/
def State.boundOf (s : State) (tag : BitVec 12) : Option Bound :=
  if tag = 0xFFF then none
  else match s.dev.bound.find? fun b => b.tag == tag with
  | some b => some b
  | none => s.descriptor tag

/-- What a walk for a tag meets that is not bound and whose descriptor cannot be read. -/
def State.descMet (s : State) (tag : BitVec 12) : Option Cause :=
  if tag == 0xFFF || s.dev.bound.any fun b => b.tag == tag then none else s.descFails tag

/-- A tag bound by a reading of its descriptor. -/
def State.bindTag (s : State) (tag : BitVec 12) : State :=
  if tag == 0xFFF || s.dev.bound.any fun b => b.tag == tag then s
  else match s.descriptor tag with
    | some b => s.updDev fun d => { d with bound := d.bound ++ [b] }
    | none => s

/-- A page walk for a tag (16 R334). -/
def State.walk (s : State) (tag : BitVec 12) (va : Word) : Except Cause Leaf := do
  if bits va 63 52 != 0 then throw .xlate
  if let some c := s.descMet tag then throw c
  let b ← match s.boundOf tag with | some b => pure b | none => throw .xlate
  if b.level4 ≥ 2 ^ 40 || b.level4 ≥ hbmSize then throw .xlate
  let t3 ← nextTable (← s.pte (b.level4 + 8 * bits va 51 43))
  let t2 ← nextTable (← s.pte (t3 + 8 * bits va 42 34))
  let e2 ← s.pte (t2 + 8 * bits va 33 25)
  if bit e2 1 then asLeaf e2 true
  else
    let t1 ← nextTable e2
    asLeaf (← s.pte (t1 + 8 * bits va 24 16)) false

/-- A leaf names memory at an address: no local address at or above the end of HBM does (16 R332). -/
def Leaf.reaches (l : Leaf) (va : Word) : Bool := l.sm || l.host || decide (physLocal (l.phys va) < hbmSize)

/-- A page walk to an address, which must name memory. -/
def State.walkTo (s : State) (tag : BitVec 12) (va : Word) : Except Cause Leaf :=
  match s.walk tag va with
  | .error c => .error c
  | .ok l => if l.reaches va then .ok l else .error .xlate

/-- Where a walk for a tag first meets lost data: in the descriptor, or in a page-table entry (23 R409). -/
def State.lostPte (s : State) (tag : BitVec 12) (va : Word) : Nat :=
  if (s.descMet tag).isSome then s.descAt tag else
  let next := fun (a : Nat) => nbits (s.dev.hbm.readN a 8) 12 28 * 4096
  let a4 := (match s.boundOf tag with | some b => b.level4 | none => 0) + 8 * bits va 51 43
  let a3 := next a4 + 8 * bits va 42 34
  let a2 := next a3 + 8 * bits va 33 25
  let a1 := next a2 + 8 * bits va 24 16
  (([a4, a3, a2, a1].find? fun a => s.isLost 6 0 a 8).getD 0)

/-- Whether a cached leaf serves an address (16 R336). -/
def TlbEntry.serves (e : TlbEntry) (tag : BitVec 12) (va : Word) : Bool :=
  e.tag == tag && e.page == va.toNat / (if e.large then 2 ^ 25 else 2 ^ 16)

/-- An entry put first in a translation cache of 256 entries, least recently used last. -/
def tlbTouch (c : List TlbEntry) (e : TlbEntry) : List TlbEntry := (e :: c.filter fun x => x != e).take 256

/-- The leaf of an address through a tile's translation cache; a walk that faults leaves no entry (16 R336). -/
def State.leafAt (s : State) (t : TileId) (tag : BitVec 12) (va : Word) : Except Cause (Leaf × State) :=
  match (s.tileAt t).tlb.find? fun e => e.serves tag va with
  | some e =>
    if !(⟨e.leaf, e.large⟩ : Leaf).reaches va then .error .xlate
    else .ok (⟨e.leaf, e.large⟩, s.updAt t fun x => { x with tlb := tlbTouch x.tlb e })
  | none =>
    match s.walkTo tag va with
    | .error c => .error c
    | .ok l =>
      let e : TlbEntry := ⟨tag, va.toNat / l.size, l.large, l.w⟩
      .ok (l, (s.bindTag tag).updAt t fun x => { x with tlb := tlbTouch x.tlb e })

/-- The checks of a leaf, first failure first (16 R335). -/
def leafCheck (l : Leaf) (own : BitVec 12) (sp : Space) (k : Acc) (va : Word) : Except Cause Unit :=
  let reads := k != .write
  let writes := k != .read
  if reads && !l.canRead || writes && !l.canWrite then .error .accessDenied
  else if writes && l.sm then .error .settWrite
  else if writes && l.cow then .error .cowWrite
  else if sp == .host then (if l.host then .ok () else .error .accessDenied)
  else if l.host then .error .accessDenied
  else if sp == .loc && !l.sm && physDev (l.phys va) != own then .error .wrongSpace
  else .ok ()

/-- Where the bytes of a translated access are. -/
structure Where where
  tgt : Target
  addr : Nat
  ord : Ord
  fa : Bool
  deriving DecidableEq, Repr, Inhabited

/-- Whether the fabric or Hentia link an access needs is up; traffic waits while it is not (19 R384, R391). -/
def State.linkReady (s : State) (tgt : Target) (addr : Nat) : Bool :=
  match tgt with
  | .remote _ => s.dev.ports.toList.any fun l => l.up
  | .host => (rd s.dev.hentia (nbits addr 12 1)).up
  | _ => true

/-- The Hentia link of a host address is out of service: it is neither up nor training (23 R418). -/
def State.hentiaDead (s : State) (p : Nat) : Bool :=
  let l := rd s.dev.hentia (nbits p 12 1)
  !l.up && l.training.isNone

/-- The target of n bytes at va under a leaf, with the target's own check (16 R339). post: only the fabric ingress checks now, the
owner later (07 R139, 19 R383). While every port of this device is down the access waits there, unchecked (19 R384). -/
def State.place (s : State) (l : Leaf) (tag : BitVec 12) (va : Word) (n : Nat) (k : Acc) (post : Bool) : Except Cause Where :=
  let p := l.phys va
  if l.sm then .ok ⟨.window l.rootTable, va.toNat % 65536, l.ord, false⟩
  else if l.host then
    (if s.hentiaDead p then .error .accessDenied
     else if s.hentiaOk tag p n k then .ok ⟨.host, p, l.ord, false⟩ else .error .accessDenied)
  else
    let a := physLocal p
    if physDev p = s.devNum then
      (if s.localOk tag a n k l.fa then .ok ⟨.hbm, a, l.ord, l.fa⟩ else .error .accessDenied)
    else if !s.linkReady (.remote (physDev p)) a then .ok ⟨.remote (physDev p), a, l.ord, l.fa⟩
    else if s.ingressOk (physDev p) tag a n k && (post || s.remoteOwnerOk (physDev p) tag a n k l.fa) then
      .ok ⟨.remote (physDev p), a, l.ord, l.fa⟩
    else .error .accessDenied

/-- Commons addresses (11 R247): the slice and offset of n bytes, inside a carve-out of the launch. -/
def State.commonsAt (s : State) (launch va : Word) (n : Nat) : Except Cause (TileId × Nat) :=
  if bits va 63 27 != 0 then .error .accessDenied
  else match tileOf? (bits va 26 18) with
    | none => .error .accessDenied
    | some t =>
      match (s.tileAt t).carves.find? fun c => c.launch == launch with
      | some c => if bits va 17 0 + n ≤ c.size then .ok (t, bits va 17 0) else .error .accessDenied
      | none => .error .accessDenied

/-- A path the Derailleur chooses: no failed one (19 R382, 23 R417). -/
def State.newPath (s : State) : Nat :=
  let p := Config.pathChoice s.dev.nextId
  if s.dev.failed.contains p then s.dev.failed.foldl max 0 + 1 else p

/-- A packet or request of a flowlet key is sent: a new key gets a path, an old one keeps its own (19 R381, R382). -/
def State.noteSent (s : State) (k : FlowletKey) : State :=
  if s.dev.paths.any fun f => f.key == k then
    s.updDev fun d => { d with paths := d.paths.map fun f => if f.key == k then { f with last := d.clk } else f }
  else s.updDev fun d => { d with paths := d.paths ++ [⟨k, s.newPath, d.clk⟩] }

/-- A request to another device takes the path of its key (19 R381). -/
def State.noteRequest (s : State) (t : TileId) : Target → State
  | .remote d => s.noteSent (.request s.devNum (tileBits t) d)
  | _ => s

/-- Where n bytes at an address of a space are for tile t's task, inside one page, with every check but alignment (07 R143). -/
def State.resolve (s : State) (t : TileId) (sp : Space) (k : Acc) (va : Word) (n : Nat) (post : Bool) :
    Except Cause (Where × State) :=
  let x := s.tileAt t
  match sp with
  | .spm => if va.toNat + n ≤ spmSize then .ok (⟨.spm, va.toNat, .rc, false⟩, s) else .error .accessDenied
  | .commons =>
    match s.commonsAt x.launch va n with
    | .ok (u, o) => .ok (⟨.commons u x.launch, o, .rc, false⟩, s)
    | .error c => .error c
  | _ =>
    match s.leafAt t x.ctx va with
    | .error c => .error c
    | .ok (l, s) =>
      match leafCheck l s.devNum sp k va with
      | .error c => .error c
      | .ok () =>
        match s.place l x.ctx va n k post with
        | .error c => .error c
        | .ok w => .ok (w, s.noteRequest t w.tgt)

/-- Translation for the control plane in a queue's context, without a translation cache. -/
def State.resolveCtl (s : State) (tag : BitVec 12) (sp : Space) (k : Acc) (va : Word) (n : Nat) (check : BitVec 12) :
    Except Cause Where :=
  match s.walkTo tag va with
  | .error c => .error c
  | .ok l =>
    match leafCheck l s.devNum sp k va with
    | .error c => .error c
    | .ok () => s.place l check va n k false

end Sys2Proof.Machine
end

