-- ==== Sys2Proof/Machine/Sett.lean ====
section
/-! DEFINITION. Setts (17 R343 to R358): the S-hash, the index in HBM, lookup-or-allocate, reference counts, release walks, reads
through Sett-mapped windows and the path of a store that reaches one. -/

namespace Sys2Proof.Machine

/-- A word rotated left (03). -/
def rotl (x : Word) (n : Nat) : Word := x.rotateLeft n

/-- The S-hash of a 128-byte line, 56 bits (03 R62). -/
def sHash (line : Vec) : Nat :=
  let h := (List.range 16).foldl (fun (h : Word) j =>
    rotl (h ^^^ line.extractLsb' (64 * j) 64) 27 * 0xA3C59E1B7D24F60D#64) 0x6A5D39E1C4F20B87#64
  let h := (h ^^^ (h >>> 33)) * 0x5F1EC28A39B704D9#64
  let h := h ^^^ (h >>> 29)
  (h >>> 8).toNat

/-- What a Sett operation answers. at_ is the HBM address of the lost data that a fault ECC_UNCORRECTED has met. -/
inductive SettRes (α : Type) where
  | ok (a : α) (s : State)
  | wait
  | fault (c : Cause) (at_ : Nat)

/-- Buckets of the index (17 R344). -/
def State.buckets (s : State) : Nat := 2 ^ s.dev.sxk.toNat

/-- The metadata address of a slot (17 R345). -/
def State.metaAddr (s : State) (g : Nat) : Nat := s.dev.sxbase.toNat + 16 * g

/-- The line address of a slot (17 R345). -/
def State.lineAddr (s : State) (g : Nat) : Nat := s.dev.sxbase.toNat + 4096 * s.buckets + 128 * g

/-- Slot metadata (17 R345). -/
structure SxSlot where
  name : Word
  count : Nat
  state : Nat
  interior : Bool
  tag : BitVec 12
  deriving DecidableEq, Repr, Inhabited

/-- The metadata of a slot. -/
def State.slot (s : State) (g : Nat) : SxSlot :=
  let w := s.dev.hbm.readN (s.metaAddr g + 8) 8
  ⟨BitVec.ofNat 64 (s.dev.hbm.readN (s.metaAddr g) 8), nbits w 32 32, nbits w 30 2, nbits w 29 1 == 1, BitVec.ofNat 12 (w / 2 ^ 16)⟩

/-- The metadata of a slot written. -/
def State.setSlot (s : State) (g : Nat) (x : SxSlot) : State :=
  let w := x.count * 2 ^ 32 + x.state * 2 ^ 30 + (if x.interior then 2 ^ 29 else 0) + x.tag.toNat * 2 ^ 16
  (s.writeHbm (s.metaAddr g) 8 x.name.toNat).writeHbm (s.metaAddr g + 8) 8 w

/-- n bytes at offset o of a slot's line, read by the hubs under tag 0x000 (16 R339, 17 R344). -/
def State.lineRead (s : State) (g o n : Nat) : Except Cause Nat :=
  let a := s.dev.sxbase.toNat + 4096 * s.buckets + 128 * g + o
  if !s.ownOk a n .read then .error .accessDenied
  else if s.isLost 6 0 a n then .error .eccUncorrected
  else .ok (s.dev.hbm.readN a n)

/-- The line of a slot. -/
def State.lineOf (s : State) (g : Nat) : Vec := BitVec.ofNat 1024 (s.dev.hbm.readN (s.lineAddr g) 128)

/-- The slot freed: its metadata zero. -/
def State.freeSlot (s : State) (g : Nat) : State := s.setSlot g ⟨0, 0, 0, false, 0⟩

/-- The live count changed (17 R344). -/
def State.addLive (s : State) (up : Bool) : State :=
  s.updDev fun d => { d with sxlive := if up then d.sxlive + 1 else d.sxlive - 1 }

/-- The slots of a bucket. -/
def slotsOf (b : Nat) : List Nat := (List.range 256).map fun i => 256 * b + i

/-- The bucket of a hash (17 R346). -/
def State.bucketOf (s : State) (h : Nat) : Nat := h % s.buckets

/-- Whether a bucket's metadata can be served: it is granted to tag 0 and holds no lost unit (16 R339, 23 R413). -/
def State.bucketCheck (s : State) (b : Nat) : Option Cause :=
  if !s.ownOk (s.metaAddr (256 * b)) 4096 .read || !s.ownOk (s.metaAddr (256 * b)) 4096 .write then some .accessDenied
  else if s.isLost 6 0 (s.metaAddr (256 * b)) 4096 || s.isLost 14 0 (s.metaAddr (256 * b)) 4096 then some .eccUncorrected
  else none

/-- The first lost unit of n bytes of HBM at a, or a. -/
def State.lostAt (s : State) (a n : Nat) : Nat :=
  ((s.dev.lost.find? fun u => unitMeets u 6 0 a n || unitMeets u 14 0 a n).map fun u => max a u.off).getD a

/-- Where the lost metadata of a bucket is met. -/
def State.bucketAt (s : State) (b : Nat) : Nat := s.lostAt (s.metaAddr (256 * b)) 4096

/-- The live slot of a name in a context. -/
def State.findName (s : State) (tag : BitVec 12) (name : Word) : Option Nat :=
  if !s.dev.sxen || name == 0 then none
  else (slotsOf (s.bucketOf (name.toNat / 256))).find? fun g =>
    let x := s.slot g
    x.state == 1 && x.name == name && x.tag == tag

/-- A live name's slot, or why the name cannot be used: not in the index, not granted, or lost metadata. -/
def State.needName (s : State) (tag : BitVec 12) (name : Word) : Except Cause Nat :=
  if !s.dev.sxen then .error .accessDenied
  else match s.bucketCheck (s.bucketOf (name.toNat / 256)) with
    | some c => .error c
    | none => match s.findName tag name with
      | some g => .ok g
      | none => .error .accessDenied

/-- The pinned count (17 R348). -/
def pinned : Nat := 0xFFFFFFFF

/-- A count raised by one, saturating. -/
def State.incSlot (s : State) (g : Nat) : State :=
  let x := s.slot g
  s.setSlot g { x with count := min (x.count + 1) pinned }

/-- A count lowered by one: a pinned count stays; at zero a leaf is freed and an interior line goes to the walker (17 R348, R349).
The list names the slot when a walk must begin. -/
def State.decSlot (s : State) (g : Nat) : State × List (Nat × Nat) :=
  let x := s.slot g
  if x.count = pinned then (s, [])
  else if 1 < x.count then (s.setSlot g { x with count := x.count - 1 }, [])
  else if x.interior then ((s.setSlot g { x with count := 0, state := 2 }).addLive false, [(g, 0)])
  else ((s.freeSlot g).addLive false, [])

/-- The metadata of a bucket that a walk or a release meets lost: logged, and the reference is left as it is (23 R413). -/
def State.skipBucket (s : State) (tag : BitVec 12) (b : Nat) : State :=
  let a := s.metaAddr (256 * b)
  s.logOn (dieOf (tileOf (homeOf a))) (mkLog (BitVec.ofNat 64 a) 0 s.clkrd Cause.eccUncorrected.code tag (homeOf a) 14 2)

/-- A bucket's metadata holds a lost unit. -/
def State.bucketLost (s : State) (b : Nat) : Bool := s.isLost 6 0 (s.metaAddr (256 * b)) 4096 || s.isLost 14 0 (s.metaAddr (256 * b)) 4096

/-- A reference released as SREL does; a walk it starts runs on its own (17 R350). A name that is not live is skipped, as is one whose bucket has lost
metadata or is not granted. -/
def State.release (s : State) (tag : BitVec 12) (name : Word) : State :=
  let b := s.bucketOf (name.toNat / 256)
  if s.bucketLost b then s.skipBucket tag b
  else if (s.bucketCheck b).isSome then s
  else match s.findName tag name with
    | none => s
    | some g => match s.decSlot g with
      | (s, []) => s
      | (s, w) => s.updDev fun d => { d with walks := d.walks ++ [(tag, w)] }

/-- One step of a release walk: the top line's next child is decremented, or the line, with no child left, is freed (17 R349). A child that
cannot be read or decremented is skipped (23 R413). -/
def State.walkStep (s : State) (tag : BitVec 12) (st : List (Nat × Nat)) : State × List (Nat × Nat) :=
  match st with
  | [] => (s, [])
  | (g, i) :: r =>
    if 16 ≤ i then (s.freeSlot g, r)
    else
      match s.lineRead g (8 * i) 8 with
      | .error .eccUncorrected =>
        let a := s.lineAddr g + 8 * i
        (s.logOn (dieOf (tileOf (homeOf a))) (mkLog (BitVec.ofNat 64 a) 0 s.clkrd Cause.eccUncorrected.code tag (homeOf a) 6 2), (g, i + 1) :: r)
      | .error _ => (s, (g, i + 1) :: r)
      | .ok v =>
        let n : Word := BitVec.ofNat 64 v
        let b := s.bucketOf (n.toNat / 256)
        if n = 0 then (s, (g, i + 1) :: r)
        else if s.bucketLost b then (s.skipBucket tag b, (g, i + 1) :: r)
        else if (s.bucketCheck b).isSome then (s, (g, i + 1) :: r)
        else match s.findName tag n with
          | none => (s, (g, i + 1) :: r)
          | some c =>
            let (s, w) := s.decSlot c
            (s, w ++ (g, i + 1) :: r)

/-- Where a reading of byte o of a name's line meets lost data: in its bucket's metadata, or in the line. -/
def State.nameLost (s : State) (tag : BitVec 12) (name : Word) (o : Nat) : Nat :=
  let b := s.bucketOf (name.toNat / 256)
  if s.bucketLost b then s.bucketAt b
  else match s.findName tag name with
    | some g => s.lineAddr g + o
    | none => s.bucketAt b

/-- Lookup-or-allocate (17 R347). -/
def State.lookup (s : State) (tag : BitVec 12) (line : Vec) (interior : Bool) : SettRes Word :=
  if line = 0 then .ok 0 s
  else if !s.dev.sxen then .fault .settFull 0
  else
    let h := sHash line
    let b := s.bucketOf h
    match s.bucketCheck b with
    | some c => .fault c (s.bucketAt b)
    | none =>
      let slots := slotsOf b
      if slots.any fun g => (s.slot g).state == 2 then .wait
      else
        let same := fun g => let x := s.slot g; x.state == 1 && x.tag == tag && x.name.toNat / 256 == h
        let kind := fun g => same g && (s.slot g).interior == interior
        match (slots.filter kind).findSome? fun g => match s.lineRead g 0 128 with | .error c => some (c, g) | .ok _ => none with
        | some (c, g) => .fault c (s.lostAt (s.lineAddr g) 128)
        | none => match slots.find? fun g => kind g && s.lineOf g == line with
        | some g => .ok (s.slot g).name (s.incSlot g)
        | none =>
          let used := (slots.filter same).map fun g => (s.slot g).name.toNat % 256
          let ords := (List.range 256).filter fun o => (h != 0 || o != 0) && !used.contains o
          match ords.head?, slots.find? fun g => (s.slot g).state == 0 with
          | some o, some g =>
            let kids := (List.range 16).map fun j => (line.extractLsb' (64 * j) 64 : Word)
            let step := fun (r : Except (Cause × Nat) State) (n : Word) => match r with
              | .error c => .error c
              | .ok s => if n = 0 then .ok s else match s.needName tag n with
                | .ok k => .ok (s.incSlot k)
                | .error c => .error (c, s.nameLost tag n 0)
            match (if interior then kids.foldl step (.ok s) else .ok s) with
            | .error (c, m) => .fault c m
            | .ok s =>
              if !s.ownOk (s.lineAddr g) 128 .write then .fault .accessDenied 0
              else
                let name : Word := BitVec.ofNat 64 (h * 256 + o)
                let s := s.writeHbm (s.lineAddr g) 128 line.toNat
                .ok name ((s.setSlot g ⟨name, 1, 1, interior, tag⟩).addLive true)
          | _, _ => .fault .settFull 0

/-- n bytes at offset o of the line of a name; name 0 reads zeros (07 R144). -/
def State.readLine (s : State) (tag : BitVec 12) (name : Word) (o n : Nat) : Except Cause Nat :=
  if name = 0 then .ok 0
  else match s.needName tag name with
    | .error c => .error c
    | .ok g => s.lineRead g o n

/-- n bytes at offset o of a leaf line by name; an interior line is none (17 R353). -/
def State.readLeaf (s : State) (tag : BitVec 12) (kid : Word) (o n : Nat) : Except Cause Nat :=
  if kid = 0 then .ok 0
  else match s.needName tag kid with
    | .error c => .error c
    | .ok k => if (s.slot k).interior then .error .accessDenied else s.lineRead k o n

/-- n bytes at page offset a of a Sett-mapped page, inside one line, through a root word already read (17 R353). -/
def State.readVia (s : State) (tag : BitVec 12) (r : Word) (a n : Nat) : Except Cause Nat :=
  if r = 0 then .ok 0
  else match s.needName tag r with
    | .error c => .error c
    | .ok g =>
      if !(s.slot g).interior then .error .accessDenied
      else match s.lineRead g (8 * (a % 2048 / 128)) 8 with
        | .error c => .error c
        | .ok v => s.readLeaf tag (BitVec.ofNat 64 v) (a % 128) n

/-- The root word of a granule, read at its home hub slice under the tag of the access that needs it (16 R339, 17 R353, R354; log 64). -/
def State.rootWord (s : State) (check : BitVec 12) (table a : Nat) : Except Cause Word :=
  let p := table + 8 * (a / 2048)
  if !s.localOk check p 8 .read false then .error .accessDenied
  else if s.isLost 6 0 p 8 then .error .eccUncorrected else .ok (BitVec.ofNat 64 (s.dev.hbm.readN p 8))

/-- Where a reading at page offset a of a Sett-mapped page meets lost data: its root word, its root's line or its leaf. -/
def State.windowLost (s : State) (tag : BitVec 12) (table a : Nat) : Nat :=
  match s.rootWord tag table a with
  | .error _ => table + 8 * (a / 2048)
  | .ok r =>
    let o := 8 * (a % 2048 / 128)
    match (s.needName tag r).bind fun g => s.lineRead g o 8 with
    | .error _ => s.nameLost tag r o
    | .ok v => s.nameLost tag (BitVec.ofNat 64 v) (a % 128)

/-! ### Stores to a Sett-mapped window (17 R355, R356) -/

/-- The reason code of a record whose V is 0. -/
def settReason : Cause → Nat
  | .settFull => 4
  | _ => 3

/-- The lines a store of n bytes of v at page offset a would make of root r: the new root, the names of the lines touched. -/
def State.buildLines (s : State) (tag : BitVec 12) (r : Word) (a n v : Nat) : SettRes (Word × List Word) :=
  let root : Except Cause Vec := if r = 0 then .ok 0 else match s.needName tag r with
    | .error c => .error c
    | .ok g => if (s.slot g).interior then (s.lineRead g 0 128).map fun v => BitVec.ofNat 1024 v else .error .accessDenied
  match root with
  | .error c => .fault c (s.nameLost tag r 0)
  | .ok root =>
    let i0 := a % 2048 / 128
    let i1 := (a % 2048 + n - 1) / 128
    let one := fun (acc : SettRes (Vec × List Word)) (i : Nat) => match acc with
      | .wait => .wait
      | .fault c m => .fault c m
      | .ok (y, names) s =>
        let kid : Word := root.extractLsb' (64 * i) 64
        match s.readLeaf tag kid 0 128 with
        | .error c => .fault c (s.nameLost tag kid 0)
        | .ok old =>
          let lo := max (a % 2048) (128 * i)
          let hi := min (a % 2048 + n) (128 * (i + 1))
          let m := (2 ^ (8 * (hi - lo)) - 1) * 2 ^ (8 * (lo - 128 * i))
          let new := nbits v (8 * (lo - a % 2048)) (8 * (hi - lo)) * 2 ^ (8 * (lo - 128 * i))
          let x : Vec := (BitVec.ofNat 1024 old &&& ~~~ BitVec.ofNat 1024 m) ||| BitVec.ofNat 1024 new
          match s.lookup tag x false with
          | .wait => .wait
          | .fault c m => .fault c m
          | .ok name s =>
            let field : Vec := BitVec.ofNat 1024 ((2 ^ 64 - 1) * 2 ^ (64 * i))
            .ok ((y &&& ~~~ field) ||| BitVec.ofNat 1024 (name.toNat * 2 ^ (64 * i)), names ++ [name]) s
    match (List.range (i1 - i0 + 1)).foldl (fun acc k => one acc (i0 + k)) (.ok (root, []) s) with
    | .wait => .wait
    | .fault c m => .fault c m
    | .ok (y, names) s =>
      match s.lookup tag y true with
      | .wait => .wait
      | .fault c m => .fault c m
      | .ok r' s => .ok (r', names) (names.foldl (fun s n => if n = 0 then s else s.release tag n) s)

/-- A Sett-write record of a tile (17 R356). -/
def settRecord (j : Nat) (q : Sequencer) (reason : Nat) (v : Bool) (va r r' n1 n2 : Word) : Nat :=
  let w0 := j * 2 ^ 16 + seqCode q * 2 ^ 8 + reason * 2 ^ 4 + (if v then 1 else 0)
  w0 + va.toNat * 2 ^ 64 + r.toNat * 2 ^ 128 + r'.toNat * 2 ^ 192 + n1.toNat * 2 ^ 256 + n2.toNat * 2 ^ 320

/-- Where a sequencer's record lies. -/
def settRecordAt : Sequencer → Nat
  | .k => 0x2FEF80
  | _ => 0x2FEFC0

/-- What a store to a Sett-mapped page comes to before its sequencer stops: its record is written, and the cause is SETT_WRITE; it waits for a freeing
slot (17 R351); or it has met lost data at an address of HBM, with nothing changed (23 R410, R413). -/
inductive SettStore where
  | done (s : State)
  | wait
  | lost (a : Nat)

/-- What a store of n bytes of v at va to a Sett-mapped page does before K traps (17 R355). plain says that it is a plain store of K or S. -/
def State.settStore (s : State) (t : TileId) (q : Sequencer) (l : Leaf) (va : Word) (n v : Nat) (plain : Bool) : SettStore :=
  let tag := (s.tileAt t).ctx
  let a := va.toNat % 65536
  let j := a / 2048
  let put := fun (s : State) (w : Nat) =>
    SettStore.done ((s.updAt t fun x => { x with spm := x.spm.writeN (settRecordAt q) 64 w }).heal 1 t.val (settRecordAt q) 64)
  if !plain then put s (settRecord j q 1 false va 0 0 0 0)
  else if (a + n - 1) / 2048 ≠ j then put s (settRecord j q 2 false va 0 0 0 0)
  else match s.rootWord tag l.rootTable a with
    | .error .eccUncorrected => .lost (l.rootTable + 8 * j)
    | .error c => put s (settRecord j q (settReason c) false va 0 0 0 0)
    | .ok r => match s.buildLines tag r a n v with
      | .wait => .wait
      | .fault .eccUncorrected m => .lost m
      | .fault c _ => put s (settRecord j q (settReason c) false va r 0 0 0)
      | .ok (r', names) s => put s (settRecord j q 0 true va r r' (names.getD 0 0) (names.getD 1 0))

end Sys2Proof.Machine
end

