-- ==== Sys2Proof/Machine/Access.lean ====
section
/-! DEFINITION. Accesses and when they perform (07 R137 to R147, 11 R254 to R267): pieces, the forwarding table, the order rules,
performing and finishing. -/

namespace Sys2Proof.Machine

/-! ### Reading and writing at a target -/

/-- The scratchpad as an access at a point of token order sees it: S stores before the point are seen although they have not
performed (07 R141). -/
def Tile.spmView (t : Tile) (clk : Clk) : Mem :=
  t.reqs.foldl (fun m r =>
    if r.q == .s && r.clk.before .s clk then
      r.pieces.foldl (fun m p => if p.tgt == .spm && !p.done && r.kind == .store then m.writeN p.addr p.size p.val else m) m
    else m) t.spm

/-- The bytes of a launch's carve-out of a slice. -/
def Tile.carveMem (t : Tile) (l : Word) : Mem := match t.carves.find? fun c => c.launch == l with | some c => c.mem | none => []

/-- n bytes written into a launch's carve-out. -/
def Tile.carveWrite (t : Tile) (l : Word) (a n v : Nat) : Tile :=
  { t with carves := t.carves.map fun c => if c.launch == l then { c with mem := c.mem.writeN a n v } else c }

/-- The offset by which a unit of a launch's carve-out is named among the lost units of structure 4 (log 19). -/
def carveOff (l : Word) (a : Nat) : Nat := 2 ^ 40 * (l.toNat + 1) + a

/-- Some of n bytes at a lie in one of some ranges. -/
def inRanges (rs : List (Nat × Nat)) (a n : Nat) : Bool := rs.any fun r => decide (a < r.1 + r.2) && decide (r.1 < a + n)

/-- The ranges that n written bytes at a do not wholly cover. -/
def outRanges (rs : List (Nat × Nat)) (a n : Nat) : List (Nat × Nat) := rs.filter fun r => !(decide (a ≤ r.1) && decide (r.1 + r.2 ≤ a + n))

/-- Some of n written bytes at a lie in one of some ranges that they do not wholly cover. -/
def partRanges (rs : List (Nat × Nat)) (a n : Nat) : Bool := inRanges (outRanges rs a n) a n

/-- The host refuses an access to n bytes of its memory (19 R391). -/
def State.hostRefuses (s : State) (a n : Nat) : Bool := inRanges s.dev.hostDeny a n

/-- n bytes at an address of a target, as tile t's task reads them at a point of token order. -/
def State.readAt (s : State) (t : TileId) (clk : Clk) (tgt : Target) (a n : Nat) : Except Cause Nat :=
  let tag := (s.tileAt t).ctx
  match tgt with
  | .spm => if s.isLost 1 t.val a n then .error .eccUncorrected else .ok (((s.tileAt t).spmView clk).readN a n)
  | .commons u l =>
    if s.isLost 4 u.val (carveOff l a) n then .error .eccUncorrected else .ok (((s.tileAt u).carveMem l).readN a n)
  | .hbm => if s.isLost 6 0 a n then .error .eccUncorrected else .ok (s.dev.hbm.readN a n)
  | .remote d => match s.remote? d with
    | some r => if inRanges r.lost a n then .error .eccUncorrected else .ok (r.hbm.readN a n)
    | none => .error .accessDenied
  | .host =>
    if s.hostRefuses a n then .error .accessDenied
    else if inRanges s.dev.hostLost a n then .error .eccUncorrected
    else .ok (s.dev.host.readN a n)
  | .line name => s.readLine tag name a n
  | .window root => match s.rootWord tag root a with
    | .error c => .error c
    | .ok r => s.readVia tag r a n

/-- n bytes of v written at an address of a target. A write that covers a lost unit only in part changes nothing (23 R409). -/
def State.writeAt (s : State) (t : TileId) (tgt : Target) (a n v : Nat) : Except Cause State :=
  match tgt with
  | .spm => if s.partLost 1 t.val a n then .error .eccUncorrected else .ok (s.spmStores t a n v)
  | .commons u l =>
    if s.partLost 4 u.val (carveOff l a) n then .error .eccUncorrected
    else .ok ((s.updAt u fun x => x.carveWrite l a n v).heal 4 u.val (carveOff l a) n)
  | .hbm => if s.partLost 6 0 a n then .error .eccUncorrected else .ok (s.writeHbm a n v)
  | .remote d => match s.remote? d with
    | some r =>
      if partRanges r.lost a n then .error .eccUncorrected
      else .ok (s.updDev fun v' => { v' with remote := v'.remote.map fun r =>
        if r.num == d then { r with hbm := r.hbm.writeN a n v, lost := outRanges r.lost a n } else r })
    | none => .error .accessDenied
  | .host =>
    if s.hostRefuses a n then .error .accessDenied
    else .ok (s.updDev fun d => { d with host := d.host.writeN a n v, hostLost := outRanges d.hostLost a n })
  | .line _ => .error .settWrite
  | .window _ => .error .settWrite

/-- Where lost data was met: the target and address of the access, or a page-table entry's. -/
abbrev Met := Option (Target × Nat)

/-- The structure code of HBM at an address: the Sett index's metadata has one of its own (23 R407). -/
def State.hbmCode (s : State) (a : Nat) : Nat :=
  if s.dev.sxen && decide (s.dev.sxbase.toNat ≤ a) && decide (a < s.dev.sxbase.toNat + 4096 * s.buckets) then 14 else 6

/-- Where lost data of a name's bucket is met. -/
def State.nameMet (s : State) (name : Word) : Met := some (.hbm, s.bucketAt (s.bucketOf (name.toNat / 256)))

/-- Where an access of a space is met when its resolving fails: in a page table, or nowhere. -/
def State.walkMet (s : State) (tag : BitVec 12) (sp : Space) (va : Word) : Met :=
  match sp with
  | .spm => none
  | .commons => none
  | _ => some (.hbm, s.lostPte tag va)

/-- Lost data that an access of a context and launch has met is logged on the die that holds it, tile t's for its scratchpad (23 R420, R421). What another
device or the host holds is in no log of this device. -/
def State.logMet (s : State) (t : TileId) (tag : BitVec 12) (launch : Word) (at_ : Met) : State :=
  let log := fun (d : DieId) (a : Nat) (place code : Nat) =>
    s.logOn d (mkLog (BitVec.ofNat 64 a) launch s.clkrd Cause.eccUncorrected.code tag place code 2)
  let hbm := fun (a : Nat) => log (dieOf (tileOf (homeOf a))) a (homeOf a) (s.hbmCode a)
  match at_ with
  | some (.spm, a) => log (dieOf t) a t.val 1
  | some (.commons u _, a) => log (dieOf u) a u.val 4
  | some (.hbm, a) => hbm a
  | some (.line n, a) => hbm (s.nameLost tag n a)
  | some (.window r, a) => hbm (s.windowLost tag r a)
  | _ => s

/-- An access under a context and launch has failed with a cause: lost data that it consumes is logged before the response reaches it. -/
def State.failed (s : State) (t : TileId) (tag : BitVec 12) (launch : Word) (c : Cause) (at_ : Met) : State :=
  if c = .eccUncorrected then s.logMet t tag launch at_ else s

/-- An access of tile t's task has failed with a cause; a walk it made has read its tag's descriptor (16 R331). -/
def State.consumed (s : State) (t : TileId) (c : Cause) (at_ : Met) : State :=
  let x := s.tileAt t
  let s := match at_ with
    | none => s
    | some (.spm, _) => s
    | some (.commons _ _, _) => s
    | _ => s.bindTag x.ctx
  s.failed t x.ctx x.launch c at_

/-! ### Atomics (06 R107, 05 R89) -/

/-- The width of an atomic in bytes. -/
def atomWidth (op : BitVec 4) : Nat := if bit op 3 then 8 else 4

/-- The value an atomic leaves in memory, w bytes wide. -/
def atomNew (op : BitVec 4) (old b expect : Nat) : Nat :=
  let n := 8 * atomWidth op
  let x : BitVec n := BitVec.ofNat n old
  let y : BitVec n := BitVec.ofNat n b
  match bits op 2 0 with
  | 0 => (x + y).toNat
  | 1 => if x.slt y then x.toNat else y.toNat
  | 2 => if x.slt y then y.toNat else x.toNat
  | 3 => (x &&& y).toNat
  | 4 => (x ||| y).toNat
  | 5 => (x ^^^ y).toNat
  | 6 => y.toNat
  | _ => if x = BitVec.ofNat n expect then y.toNat else x.toNat

/-- An old value as its register receives it (06 R107). -/
def signExt (bytes v : Nat) : Word :=
  if bytes = 4 then (BitVec.ofNat 32 v).signExtend 64 else BitVec.ofNat 64 v

/-! ### The order rules (11 R266) -/

/-- Two pieces share a byte. -/
def Piece.meets (a b : Piece) : Bool := a.tgt == b.tgt && a.addr < b.addr + b.size && b.addr < a.addr + a.size

/-- A piece at another device: a store's write there is posted (11 R262). -/
def Piece.far (p : Piece) : Bool := match p.tgt with | .remote _ => true | _ => false

/-- A piece of a request is a posted write. -/
def Req.posts (r : Req) (p : Piece) : Bool := r.kind == .store && p.far

/-- A request that has finished and waits for the acknowledgement of posted writes. -/
def Req.posted (r : Req) : Bool := r.pieces.any fun p => !p.done && r.posts p

/-- Some piece of a request is still to perform. A work-list request performs when it finishes. -/
def Req.open' (r : Req) : Bool := r.pieces.any (fun p => !p.done) || (r.pieces.isEmpty && !r.finished)

/-- An access of a request is still to perform; posted writes count where posted says so (11 R262). Channel and list traffic is no access (07
R146). -/
def Req.openAt (r : Req) (posted : Bool) : Bool := r.pieces.any fun p => !p.done && (posted || !r.posts p)

/-- An acquire of which a piece on a page that is not unordered has not yet performed (07 R146, 11 R260). -/
def Req.acquiring (r : Req) : Bool :=
  (r.order == 2 || (r.order == 1 && r.q == .l)) &&
  (r.pieces.any (fun p => !p.done && p.ord != .unordered) || (r.pieces.isEmpty && !r.finished))

/-- A release (07 R146). -/
def Req.releasing (r : Req) : Bool := r.order == 2 || (r.order == 1 && r.q == .s)

/-- Two pieces lie in one line of one target. -/
def Piece.oneLine (a b : Piece) : Bool := a.tgt == b.tgt && a.addr / 128 == b.addr / 128

/-- Two pieces lie in one 32-byte sector of one target. -/
def Piece.oneSector (a b : Piece) : Bool := a.tgt == b.tgt && a.addr / 32 == b.addr / 32

/-- An earlier request keeps a piece of request r from performing: items 1 to 4 of 11 R266, posted writes to one line in issue order (11 R262, 19
R382), and the sector of a dropped request until it has performed (12 R285). -/
def Req.holds (x r : Req) (p : Piece) : Bool :=
  x.id != r.id &&
  ((x.q == r.q && x.id < r.id && x.pieces.any fun y => !y.done && (y.meets p || (y.ord == .strong && p.ord == .strong) ||
      (x.posts y && r.posts p && y.oneLine p) || ((x.evicted.isSome || x.resent) && y.oneSector p))) ||
   (x.acquiring && x.clk.before x.q r.clk) ||
   (r.releasing && p.ord != .unordered && x.openAt (r.scope == 3) && x.clk.before x.q r.clk))

/-- The posted writes of a tile's engines that have no acknowledgement. -/
def Tile.enginePosts (t : Tile) : List Post := t.orphans ++ t.q.toList.flatMap fun z => z.flatMap fun c => c.posts

/-- An engine's posted write sent before a number to the line of a piece keeps a posted piece from performing (19 R382). -/
def Tile.engineHolds (t : Tile) (n : Nat) (p : Piece) : Bool :=
  t.enginePosts.any fun y => decide (y.id < n) && y.piece.oneLine p

/-- A gather or scatter stands behind a join in the gather unit's queue (06 R124, 07 R149). -/
def Tile.behindJoin (t : Tile) (r : Req) (p : Piece) : Bool :=
  decide (p.size < 32) && (r.kind == .store || (match r.kind with | .load _ => true | _ => false)) &&
  (rd t.q 3).any fun c => match c.body with | .join id _ _ => decide (id < r.id) | _ => false

/-- Whether piece i of request r may not yet perform, for the other requests of its tile, or for its own earlier pieces but those that perform
with it, named by their places. -/
def Tile.blocked (t : Tile) (r : Req) (own : List Nat) (i : Nat) : Bool :=
  match r.pieces[i]? with
  | none => true
  | some p =>
    t.behindJoin r p || t.reqs.any (fun x => x.holds r p) || (r.posts p && t.engineHolds r.id p) ||
    (r.pieces.zipIdx.take i).any fun y => !y.1.done && !own.contains y.2 && (y.1.meets p || (y.1.ord == .strong && p.ord == .strong))

/-! ### Performing and finishing -/

/-- The L or S half of a tile. -/
def Tile.ls (t : Tile) : Sequencer → LSState
  | .s => t.s
  | _ => t.l

/-- The L or S half replaced. -/
def Tile.setLsState (t : Tile) (q : Sequencer) (x : LSState) : Tile :=
  match q with
  | .s => { t with s := x }
  | _ => { t with l := x }

/-- Requests of a tile with the one of a number replaced. -/
def putReq (l : List Req) (r : Req) : List Req := l.map fun x => if x.id == r.id then r else x

/-- A register of L or S written. -/
def Tile.setLs (t : Tile) (q : Sequencer) (r : Reg) (v : Word) : Tile :=
  match q with
  | .s => { t with s := { t.s with regs := wr t.s.regs r.toNat v } }
  | _ => { t with l := { t.l with regs := wr t.l.regs r.toNat v } }

/-- A predicate register with bit n written; predicate 0 is never written. -/
def predSet (p : BitVec 8) (n : BitVec 3) (v : Bool) : BitVec 8 :=
  if n = 0 then p else if v then p ||| (1#8 <<< n.toNat) else p &&& ~~~(1#8 <<< n.toNat)

/-- A predicate of L or S written. -/
def Tile.setPred (t : Tile) (q : Sequencer) (n : BitVec 3) (v : Bool) : Tile :=
  match q with
  | .s => { t with s := { t.s with preds := predSet t.s.preds n v } }
  | _ => { t with l := { t.l with preds := predSet t.l.preds n v } }

/-- The result of a request in its registers, and in what later requests of the sequencer found: d a register, pd a predicate with its
value. -/
def Tile.setResult (t : Tile) (r : Req) (d : Reg) (v : Word) (pd : BitVec 3) (b : Bool) : Tile :=
  let t := (t.setLs r.q d v).setPred r.q pd b
  { t with reqs := t.reqs.map fun x =>
      if x.q == r.q && decide (r.id < x.id) then
        { x with before := { x.before with regs := wr x.before.regs d.toNat v, preds := predSet x.before.preds pd b } }
      else x }

/-- The bytes of a load written at one instant (07 R140). -/
def Tile.landLoad (t : Tile) (vd : Nat) (ps : List Piece) : Tile :=
  ps.foldl (fun t p => t.rwrite (128 * vd + p.off) p.size p.val) t

/-- A request finishes: its result is written and its tokens pushed (07 R138). It stays while posted writes of it are not acknowledged. -/
def Tile.finish (t : Tile) (r : Req) : Tile :=
  let t := { t with reqs := if r.posted then t.reqs.map fun x => if x.id = r.id then { x with finished := true } else x
                            else t.reqs.filter fun x => x.id != r.id }
  let old := match r.pieces with | p :: _ => p.val | [] => 0
  let push := fun (t : Tile) (pay : BitVec 32) => if r.finished then t else t.pushReserved r.q (peersOf r.q r.push) pay r.clk
  match r.kind with
  | .load vd => push (t.landLoad vd.toNat r.pieces) 0
  | .store => push t 0
  | .atomic d op _ => push (t.setResult r d (signExt (atomWidth op) old) 0 false) (BitVec.ofNat 32 old)
  | .facc d wide _ pd => push (t.setResult r d (signExt (if wide then 8 else 4) old) pd true) (BitVec.ofNat 32 old)
  | .wlapp _ _ _ => push t 0
  | .wlpop _ _ _ _ => t
  | .chsend _ _ => push t 0

/-- A request of the kinds whose finish a later load of L awaits: a load (07 R140), and a FACC, whose fault would leave the register space as it was
(07 R139). -/
def Req.landsFirst (r : Req) : Bool :=
  match r.kind with
  | .load _ => true
  | .facc _ _ _ _ => true
  | _ => false

/-- Whether a request may finish now: its pieces are done, posted ones apart, and a load of L comes after the loads and FACCs before it. -/
def Tile.canFinish (t : Tile) (r : Req) : Bool :=
  !r.pieces.isEmpty && r.pieces.all (fun p => p.done || r.posts p) && !(r.finished && r.posted) &&
  (match r.kind with
    | .load _ => !t.reqs.any fun x => x.id < r.id && x.landsFirst
    | _ => true)

/-- Every request of a tile that may finish does so, oldest first. -/
def Tile.finishAll (t : Tile) : Tile :=
  t.reqs.foldl (fun t r => if t.canFinish r then t.finish r else t) t

/-- One piece performed at its serialisation point (11 R254): the request with the piece done, and the state. -/
def State.perform (s : State) (t : TileId) (r : Req) (i : Nat) : Except Cause (Req × State) :=
  match r.pieces[i]? with
  | none => .ok (r, s)
  | some p =>
    let fin := fun (v : Nat) => { r with pieces := r.pieces.set i { p with done := true, val := v } }
    match r.kind with
    | .load _ => match s.readAt t r.clk p.tgt p.addr p.size with
      | .ok v => .ok (fin v, s)
      | .error c => .error c
    | .store => match s.writeAt t p.tgt p.addr p.size p.val with
      | .ok s => .ok (fin p.val, s)
      | .error c => .error c
    | .atomic d op b => match s.readAt t r.clk p.tgt p.addr p.size with
      | .error c => .error c
      | .ok old =>
        let e := rd r.before.regs d.toNat
        match s.writeAt t p.tgt p.addr p.size (atomNew op old b.toNat e.toNat) with
        | .ok s => .ok (fin old, s)
        | .error c => .error c
    | .facc _ wide inc _ => match s.readAt t r.clk p.tgt p.addr p.size with
      | .error c => .error c
      | .ok old => match s.writeAt t p.tgt p.addr p.size (atomNew (if wide then 8 else 0) old inc.toNat 0) with
        | .ok s => .ok (fin old, s)
        | .error c => .error c
    | _ => .ok (r, s)

/-- The pieces that perform together with piece p of a request: the sectors of its granule on a Sett-mapped page, which share one
reading of the root word (17 R354), else p alone. An element of a gather is an access of its own (11 R266). -/
def Req.together (r : Req) (i : Nat) (p : Piece) : List Nat :=
  match p.tgt with
  | .window _ =>
    if p.size < 32 then [i]
    else (List.range r.pieces.length).filter fun j => match r.pieces[j]? with
      | some y => !y.done && y.tgt == p.tgt && y.addr / 2048 == p.addr / 2048
      | none => false
  | _ => [i]

/-- The number of the last word of a sequencer that has had an effect outside it. -/
def Tile.outOf (t : Tile) : Sequencer → Nat
  | .l => t.outL
  | .s => t.outS
  | _ => 0

/-- A later word of its sequencer has had an effect outside it: the request can no longer fail, and performs as if it had met no loss (07 R139, log
28). -/
def Tile.sure (t : Tile) (r : Req) : Bool := decide (r.clk.at r.q < t.outOf r.q)

/-- The state with nothing lost, refused or absent. -/
def State.unlost (s : State) : State :=
  s.updDev fun d => { d with lost := [], hostLost := [], hostDeny := [], remote := d.remote.map fun r => { r with lost := [], present := true } }

/-- A state with the losses, refusals and absences of s. -/
def State.relost (x s : State) : State :=
  x.updDev fun d => { d with
    lost := s.dev.lost, hostLost := s.dev.hostLost, hostDeny := s.dev.hostDeny
    remote := d.remote.map fun r => match s.dev.remote.find? fun y => y.num == r.num with
      | some y => { r with lost := y.lost, present := y.present }
      | none => r }

/-- Some pieces performed, one after another in one step. -/
def State.performs (s : State) (t : TileId) (r : Req) : List Nat → Except Cause (Req × State)
  | [] => .ok (r, s)
  | i :: is => match s.perform t r i with
    | .error c => .error c
    | .ok (r, s) => s.performs t r is

/-- A request's performing changes memory: what no fault of an earlier instruction could take back. -/
def Req.changes (r : Req) : Bool := match r.kind with | .load _ => false | _ => true

/-- Some pieces of a request in flight performed. -/
def State.performNow (s : State) (t : TileId) (r : Req) (is : List Nat) : Except Cause (Req × State) :=
  let x := if (s.tileAt t).sure r then
      (match s.unlost.performs t r is with | .ok (r, y) => Except.ok (r, y.relost s) | .error c => .error c)
    else s.performs t r is
  match x with
  | .ok (r, y) => .ok (r, if r.changes then y.updAt t fun x => x.mark r.q (r.clk.at r.q) else y)
  | .error c => .error c

/-- Written ranges cover every byte of a unit. -/
def coversUnit (rs : List (Nat × Nat)) (u : StoredUnit) : Bool := (List.range (unitSize u)).all fun i => inRanges rs (u.off + i) 1

/-- Where a load into register vd writes the register space. -/
def landsAt (vd : Nat) (ps : List Piece) : List (Nat × Nat) := ps.map fun p => (128 * vd + p.off, p.size)

/-- Lost units of a tile's register space that written ranges wholly cover are lost no longer. -/
def State.healRegs (s : State) (t : TileId) (rs : List (Nat × Nat)) : State :=
  s.updDev fun d => { d with lost := d.lost.filter fun u => !(u.code == 2 && u.place == t.val && coversUnit rs u) }

/-- Lost units of the register space that the loads just finished have rewritten are lost no longer (23 R409). -/
def State.healLanded (s : State) (t : TileId) (before : List Req) : State :=
  if s.dev.lost.isEmpty then s
  else before.foldl (fun s r => match r.kind with
    | .load vd => if (s.tileAt t).reqs.any fun x => x.id == r.id then s else s.healRegs t (landsAt vd.toNat r.pieces)
    | _ => s) s

/-! ### Faults after acceptance (07 R139) -/

/-- A popped entry back in its queue. -/
def Tile.undo (t : Tile) (q : Sequencer) (u : Popped) : Tile :=
  t.setTokQ u.from_ q (let z := t.tokQ u.from_ q; { z with head := (z.head + 15) % 16, items := u.tok :: z.items })

/-- The queues from sequencer q without the pushes and reservations of its words after word n. -/
def Tile.unpush (t : Tile) (q : Sequencer) (n : Nat) : Tile :=
  (seqPeers q).foldl (fun t p => t.setTokQ q p (let z := t.tokQ q p
    { z with items := z.items.filter fun k => decide (k.clk.at q ≤ n), wait := z.wait.filter fun w => decide (w.1 ≤ n) })) t

/-- The engine queues that a sequencer fills. -/
def seqQueues : Sequencer → List Nat
  | .l => [2, 5, 6]
  | .s => [4]
  | _ => []

/-- The engine queues of sequencer q without the commands of its words from word n on: none of them has started. -/
def Tile.uncommand (t : Tile) (q : Sequencer) (n : Nat) : Tile :=
  { t with q := (seqQueues q).foldl (fun z e => wr z e ((rd z e).filter fun c =>
      decide (c.clk.at q < n) || (match c.body with | .join _ _ _ => true | _ => false))) t.q }

/-- Words of L and S from word n of sequencer q on have had no effect outside it. -/
def Tile.unmark (t : Tile) (q : Sequencer) (n : Nat) : Tile :=
  match q with
  | .l => { t with outL := min t.outL (n - 1) }
  | .s => { t with outS := min t.outS (n - 1) }
  | _ => t

/-- The tile with sequencer r.q before the instruction of request r: no later word of it has an effect (07 R139, log 28). The instruction's reservations
are kept (06 R133). -/
def Tile.takeBack (t : Tile) (r : Req) : Tile :=
  let n := r.clk.at r.q
  let t := (((t.ls r.q).trail.filter fun u => decide (n ≤ u.n)).reverse).foldl (fun t u => t.undo r.q u) t
  let t := ((t.unpush r.q n).uncommand r.q n).unmark r.q n
  let t := { t with reqs := t.reqs.filter fun x => x.q != r.q || decide (x.clk.at r.q < n) }
  t.setLsState r.q { r.before with stop := none, since := none, trail := (t.ls r.q).trail.filter fun u => decide (u.n < n) }

/-- The sequencer of a request stops at its instruction with a cause. -/
def State.rewind (s : State) (t : TileId) (r : Req) (c : Cause) (addr : Word) : State :=
  (s.updAt t fun x => x.takeBack r).stopSeq t r.q c addr false true

/-- A request may fail now: no memory instruction of its sequencer before it is unfinished, and of S every earlier store to the scratchpad has
performed (01 R16). -/
def Tile.mayFail (t : Tile) (r : Req) : Bool :=
  !t.reqs.any fun x => x.q == r.q && decide (x.id < r.id) && (!x.finished || x.pieces.any fun p => p.tgt == .spm && !p.done)

/-- Piece i of a request no longer open; what may finish then finishes. -/
def Tile.closePiece (x : Tile) (r : Req) (i : Nat) : Tile :=
  let close := fun (y : Req) =>
    if y.id = r.id then { y with pieces := match y.pieces[i]? with | some p => y.pieces.set i { p with done := true } | none => y.pieces } else y
  { x with reqs := x.reqs.map close }.finishAll

/-- A request has met a cause with a value: its sequencer stops at the instruction, precisely, once the memory instructions before it have
finished (07 R139); until then the cause stands with the request. -/
def State.failNow (s : State) (t : TileId) (r : Req) (c : Cause) (a : Word) : State :=
  if (s.tileAt t).mayFail r then s.rewind t r c a
  else s.updAt t fun x => { x with reqs := putReq x.reqs { r with failed := some (c, a) } }

/-- A piece of a request fails (23 R410); one of a finished request can no longer stop its sequencer: it changes nothing (log 28). -/
def State.failReq (s : State) (t : TileId) (r : Req) (i : Nat) (c : Cause) (p : Piece) : State :=
  let s := s.consumed t c (some (p.tgt, p.addr))
  if r.finished then s.updAt t fun x => x.closePiece r i else s.failNow t r c p.va

/-- A request that can no longer fail need not wait for a link that would have ended it: its response has come before (07 R139, 23 R415, R418). -/
def State.stranded (s : State) (t : TileId) (r : Req) (p : Piece) : Bool :=
  (s.tileAt t).sure r && (decide (r.since + 2 ^ 25 ≤ s.dev.now) || (p.tgt == .host && s.hentiaDead p.addr))

/-- Whether piece p of a request waits in the network: for a link, for a re-send, for its combining record or for an acknowledgement. -/
def State.inNet (s : State) (t : TileId) (r : Req) (p : Piece) : Bool :=
  p.done || (!s.linkReady p.tgt p.addr && !s.stranded t r p) || r.posts p || r.joined || r.evicted.isSome

/-- A piece of a request in flight performs if nothing holds it; a cause it meets is the instruction's. -/
def State.tryPiece (s : State) (t : TileId) (id i : Nat) : State :=
  let x := s.tileAt t
  match x.reqs.find? fun r => r.id == id with
  | none => s
  | some r => match (if x.sure r then none else r.failed), r.pieces[i]? with
    | some (c, a), _ => s.failNow t r c a
    | none, none => s
    | none, some p =>
      let is := r.together i p
      if !p.done && p.tgt == .host && s.hentiaDead p.addr && !x.sure r then s.failReq t r i .accessDenied p
      else if is.any (fun j => x.blocked r is j) || s.inNet t r p then s
      else match s.performNow t r is with
        | .error c => s.failReq t r i c p
        | .ok (r, s) => (s.updAt t fun x => ({ x with reqs := putReq x.reqs { r with failed := none } }).finishAll).healLanded t x.reqs

/-- The owner's access-table check of a posted piece (19 R383). -/
def State.postedOk (s : State) (t : TileId) (p : Piece) : Bool :=
  match p.tgt with
  | .remote d => s.remoteOwnerOk d (s.tileAt t).ctx p.addr p.size .write p.fa
  | _ => true

/-- Every piece of a request is tried, in ascending order (07 R148, 11 R258). -/
def State.tryAll (s : State) (t : TileId) (id n : Nat) : State := (List.range n).foldl (fun s i => s.tryPiece t id i) s

/-! ### Building the pieces of an access -/

/-- What the checks of an access give: its pieces and the state, or the fault and its address, or a wait at a link. -/
inductive Plan where
  | ok (ps : List Piece) (s : State)
  | link (va : Word)
  | fault (c : Cause) (addr : Word) (at_ : Met)

/-- One more piece of n bytes at va, at place off of the register, with data v; every check of it is made now (07 R138, R145), but the owner's of a
posted write (19 R383). -/
def Plan.add (p : Plan) (t : TileId) (sp : Space) (k : Acc) (va : Word) (n off v : Nat) (post : Bool) : Plan :=
  match p with
  | .ok ps s => match s.resolve t sp k va n post with
    | .error c => .fault c va (s.walkMet (s.tileAt t).ctx sp va)
    | .ok (w, s) =>
      if !s.linkReady w.tgt w.addr then .link va
      else
        let bad := match k with
          | .read => (match s.readAt t Clk.zero w.tgt w.addr n with | .error c => some c | .ok _ => none)
          | .write => (match w.tgt, post with
            | .remote _, true => none
            | _, _ => match s.writeAt t w.tgt w.addr n 0 with | .error c => some c | .ok _ => none)
          | .rmw => (match s.readAt t Clk.zero w.tgt w.addr n with | .error c => some c | .ok _ => none)
        match bad with
        | some c => .fault c va (some (w.tgt, w.addr))
        | none => .ok (ps ++ [⟨w.tgt, w.addr, n, off, va, w.ord, w.fa, false, v⟩]) s
  | p => p

/-- The pieces of an access of w bytes at ea, one for each 32-byte sector. -/
def State.planSectors (s : State) (t : TileId) (sp : Space) (k : Acc) (ea : Word) (w v : Nat) (post : Bool) : Plan :=
  (List.range (w / 32)).foldl (fun p i =>
    p.add t sp k (ea + BitVec.ofNat 64 (32 * i)) 32 (32 * i) (nbits v (256 * i) 256) post) (.ok [] s)

/-- The spaces of the L and S opcodes. -/
def Space.checkSpm (sp : Space) (ea : Word) (w : Nat) : Bool := sp != .spm || ea.toNat + w ≤ spmSize

end Sys2Proof.Machine
end

