-- ==== Sys2Proof/Machine/Float.lean ====
section
/-! DEFINITION. Number formats and exact arithmetic (02 R20 to R35, R39): values as signed dyadic numbers, decoding, one rounding, and the
integers. -/

namespace Sys2Proof.Machine

/-- The value of a floating-point encoding: NaN, an infinity, or a sign with m × 2^e; m = 0 is a signed zero. -/
inductive FVal where
  | nan
  | inf (neg : Bool)
  | fin (neg : Bool) (m : Nat) (e : Int)
  deriving DecidableEq, Repr, Inhabited

/-- A floating-point format (02 R20, R21): exponent and fraction bits, bias, largest finite encoding, whether a finite overflow may become an
infinity, the encoding of infinity if there is one, and the canonical NaN. -/
structure FFmt where
  ebits : Nat
  mbits : Nat
  bias : Nat
  maxEnc : Nat
  ovfInf : Bool
  infEnc : Option Nat
  nanEnc : Nat
  deriving DecidableEq, Repr, Inhabited

/-- F32. -/
def fF32 : FFmt := ⟨8, 23, 127, 0x7F7FFFFF, true, some 0x7F800000, 0x7FC00000⟩
/-- BF16. -/
def fBF16 : FFmt := ⟨8, 7, 127, 0x7F7F, true, some 0x7F80, 0x7FC0⟩
/-- F16. -/
def fF16 : FFmt := ⟨5, 10, 15, 0x7BFF, true, some 0x7C00, 0x7E00⟩
/-- E5M2. -/
def fE5M2 : FFmt := ⟨5, 2, 15, 0x7B, false, some 0x7C, 0x7E⟩
/-- E4M3. -/
def fE4M3 : FFmt := ⟨4, 3, 7, 0x7E, false, none, 0x7F⟩
/-- E2M1: no infinity and no NaN; NaN becomes +0 (02 R33). -/
def fE2M1 : FFmt := ⟨2, 1, 1, 7, false, none, 0⟩

/-- The bits of an encoding. -/
def FFmt.width (f : FFmt) : Nat := 1 + f.ebits + f.mbits

/-- The value of an encoding (02 R20, R21). -/
def FFmt.val (f : FFmt) (w : Nat) : FVal :=
  let neg := nbits w (f.ebits + f.mbits) 1 == 1
  let mag := nbits w 0 (f.ebits + f.mbits)
  let x := mag / 2 ^ f.mbits
  let m := mag % 2 ^ f.mbits
  if f.infEnc = some mag then .inf neg
  else if f.maxEnc < mag then .nan
  else if x = 0 then .fin neg m (1 - (f.bias : Int) - f.mbits)
  else .fin neg (2 ^ f.mbits + m) ((x : Int) - f.bias - f.mbits)

/-- Rounding modes (02 R30); stoch carries its 16 random bits. -/
inductive Rnd where
  | rne | rtz | rup | rdn
  | stoch (r : Nat)
  deriving DecidableEq, Repr, Inhabited

/-- Whether a truncated magnitude t with remainder rem of 2^s goes up (02 R30, R31). -/
def Rnd.up (r : Rnd) (neg : Bool) (t rem s : Nat) : Bool :=
  match r with
  | .rne => decide (2 ^ s < 2 * rem) || (2 * rem == 2 ^ s && t % 2 == 1)
  | .rtz => false
  | .rup => !neg && rem != 0
  | .rdn => neg && rem != 0
  | .stoch x => decide (65536 ≤ rem * 65536 / 2 ^ s + x)

/-- The magnitude encoding of m × 2^e rounded, with the exponent unbounded above (02 R33). -/
def FFmt.roundMag (f : FFmt) (r : Rnd) (neg : Bool) (m : Nat) (e : Int) : Nat :=
  if m = 0 then 0
  else
    let top : Int := (Nat.log2 m : Int) + e
    let emin : Int := 1 - f.bias
    let q : Int := max (top - f.mbits) (emin - f.mbits)
    let t := if q ≤ e then m * 2 ^ (e - q).toNat
      else
        let s := (q - e).toNat
        let t := m >>> s
        if r.up neg t (m % 2 ^ s) s then t + 1 else t
    -- t × 2^q: the field of a normal number starts at 2^mbits; a subnormal has q at its least
    t + (q - (emin - f.mbits)).toNat * 2 ^ f.mbits

/-- The sign bit of a format. -/
def FFmt.signBit (f : FFmt) (neg : Bool) : Nat := if neg then 2 ^ (f.ebits + f.mbits) else 0

/-- The result of a finite overflow (02 R33). -/
def FFmt.overflow (f : FFmt) (r : Rnd) (neg : Bool) : Nat :=
  let big := match f.infEnc with | some i => i | none => f.maxEnc
  let mag := if !f.ovfInf then f.maxEnc
    else match r with
      | .rne => big
      | .stoch _ => big
      | .rtz => f.maxEnc
      | .rup => if neg then f.maxEnc else big
      | .rdn => if neg then big else f.maxEnc
  f.signBit neg + mag

/-- A value encoded with one rounding (02 R30 to R33). -/
def FFmt.enc (f : FFmt) (r : Rnd) (v : FVal) : Nat :=
  match v with
  | .nan => f.nanEnc
  | .inf neg => f.signBit neg + (match f.infEnc with | some i => i | none => f.maxEnc)
  | .fin neg m e =>
    let mag := f.roundMag r neg m e
    if f.maxEnc < mag then f.overflow r neg else f.signBit neg + mag

/-- A value overflows a format: a finite one that rounds beyond its largest, or an infinity (02 R37). -/
def FFmt.overflows (f : FFmt) (r : Rnd) (v : FVal) : Bool :=
  match v with
  | .nan => false
  | .inf _ => true
  | .fin neg m e => decide (f.maxEnc < f.roundMag r neg m e)

/-! ### Exact arithmetic (02 R23) -/

/-- Zero of a sign. -/
def FVal.zero (neg : Bool) : FVal := .fin neg 0 0

/-- The value is a zero. -/
def FVal.isZero : FVal → Bool
  | .fin _ 0 _ => true
  | _ => false

/-- The value is a NaN. -/
def FVal.isNan : FVal → Bool
  | .nan => true
  | _ => false

/-- The value is finite. -/
def FVal.isFin : FVal → Bool
  | .fin _ _ _ => true
  | _ => false

/-- The sign of a value; a NaN counts as positive. -/
def FVal.neg? : FVal → Bool
  | .nan => false
  | .inf n => n
  | .fin n _ _ => n

/-- The value with its sign inverted. -/
def FVal.neg : FVal → FVal
  | .nan => .nan
  | .inf n => .inf (!n)
  | .fin n m e => .fin (!n) m e

/-- A signed integer times 2^e as a value; zero is +0. -/
def FVal.ofInt (i : Int) (e : Int) : FVal := .fin (decide (i < 0)) i.natAbs e

/-- The signed mantissa. -/
def signedNat (neg : Bool) (m : Nat) : Int := if neg then -(m : Int) else m

/-- The exact sum; a zero sum of unlike signs is +0, as in RNE (02 R23). -/
def FVal.add (a b : FVal) : FVal :=
  match a, b with
  | .nan, _ => .nan
  | _, .nan => .nan
  | .inf n, .inf k => if n == k then .inf n else .nan
  | .inf n, _ => .inf n
  | _, .inf n => .inf n
  | .fin n m e, .fin k p f =>
    if m = 0 ∧ p = 0 then .fin (n && k) 0 0
    else
      let g := min e f
      let x := signedNat n (m * 2 ^ (e - g).toNat) + signedNat k (p * 2 ^ (f - g).toNat)
      .ofInt x g

/-- The exact difference. -/
def FVal.sub (a b : FVal) : FVal := a.add b.neg

/-- The exact product. -/
def FVal.mul (a b : FVal) : FVal :=
  match a, b with
  | .nan, _ => .nan
  | _, .nan => .nan
  | .inf n, .inf k => .inf (n != k)
  | .inf n, .fin k m _ => if m = 0 then .nan else .inf (n != k)
  | .fin n m _, .inf k => if m = 0 then .nan else .inf (n != k)
  | .fin n m e, .fin k p f => .fin (n != k) (m * p) (e + f)

/-- A value times 2^k. -/
def FVal.scale (a : FVal) (k : Int) : FVal :=
  match a with
  | .fin n m e => .fin n m (e + k)
  | x => x

/-- a < b; false with a NaN. -/
def FVal.lt (a b : FVal) : Bool :=
  match a, b with
  | .nan, _ => false
  | _, .nan => false
  | .inf n, .inf k => n && !k
  | .inf n, _ => n
  | _, .inf k => !k
  | .fin n m e, .fin k p f =>
    let g := min e f
    decide (signedNat n (m * 2 ^ (e - g).toNat) < signedNat k (p * 2 ^ (f - g).toNat))

/-- a = b by value; false with a NaN. -/
def FVal.eqv (a b : FVal) : Bool := !a.isNan && !b.isNan && !a.lt b && !b.lt a

/-- max (02 R43): NaN wins, +0 is above −0, else the larger unchanged. -/
def FVal.max (a b : FVal) : FVal :=
  if a.isNan || b.isNan then .nan
  else if a.isZero && b.isZero then .zero (a.neg? && b.neg?)
  else if a.lt b then b else a

/-- min (02 R43). -/
def FVal.min (a b : FVal) : FVal :=
  if a.isNan || b.isNan then .nan
  else if a.isZero && b.isZero then .zero (a.neg? || b.neg?)
  else if b.lt a then b else a

/-- fl: one rounding to F32 in RNE (03). -/
def fl (v : FVal) : FVal := fF32.val (fF32.enc .rne v)

/-- fma: one rounding of a × b + c (03). -/
def fma (a b c : FVal) : FVal := fl ((a.mul b).add c)

/-- The value of an F32 word. -/
def f32 (w : Nat) : FVal := fF32.val w

/-- The F32 word of a value that F32 holds. -/
def f32enc (v : FVal) : Nat := fF32.enc .rne v

/-- An integer as a value. -/
def FVal.int (i : Int) : FVal := .ofInt i 0

/-- The integer nearest an exact value, ties to even (03 R50). -/
def FVal.nearest (v : FVal) : Int :=
  match v with
  | .fin n m e =>
    if 0 ≤ e then signedNat n (m * 2 ^ e.toNat)
    else
      let s := (-e).toNat
      let t := m >>> s
      signedNat n (if Rnd.rne.up n t (m % 2 ^ s) s then t + 1 else t)
  | _ => 0

/-- The integer a value rounds to in a mode; the stochastic mode counts as RNE (02 R34). -/
def FVal.toInt (r : Rnd) (v : FVal) : Int :=
  match v with
  | .fin n m e =>
    if 0 ≤ e then signedNat n (m * 2 ^ e.toNat)
    else
      let s := (-e).toNat
      let t := m >>> s
      let r := match r with | .stoch _ => Rnd.rne | r => r
      signedNat n (if r.up n t (m % 2 ^ s) s then t + 1 else t)
  | _ => 0

/-! ### Quotients and roots, correctly rounded (03 R56) -/

/-- a quotient of two positive numbers with a sticky last bit, exact enough for any rounding to 32 bits or fewer. -/
def stickyDiv (a b : Nat) (e : Int) (neg : Bool) : FVal :=
  let k := 64 + Nat.log2 b
  let n := a * 2 ^ k
  .fin neg (2 * (n / b) + (if n % b = 0 then 0 else 1)) (e - k - 1)

/-- The exact quotient as far as rounding needs it; special operands as 03 R56 gives. -/
def FVal.div (a b : FVal) : FVal :=
  match a, b with
  | .nan, _ => .nan
  | _, .nan => .nan
  | .inf _, .inf _ => .nan
  | .inf n, .fin k _ _ => .inf (n != k)
  | .fin n _ _, .inf k => .zero (n != k)
  | .fin n m e, .fin k p f =>
    if p = 0 then (if m = 0 then .nan else .inf (n != k))
    else if m = 0 then .zero (n != k)
    else stickyDiv m p (e - f) (n != k)

/-- The integer square root, bit by bit from bit k − 1 down. -/
def isqrtFrom (n : Nat) : Nat → Nat → Nat
  | 0, r => r
  | k + 1, r => isqrtFrom n k (if (r + 2 ^ k) * (r + 2 ^ k) ≤ n then r + 2 ^ k else r)

/-- The integer square root. -/
def isqrt (n : Nat) : Nat := isqrtFrom n (Nat.log2 n / 2 + 1) 0

/-- The exact root as far as rounding needs it; special operands as 03 R56 gives. -/
def FVal.sqrt (a : FVal) : FVal :=
  match a with
  | .nan => .nan
  | .inf n => if n then .nan else .inf false
  | .fin n m e =>
    if m = 0 then .zero n
    else if n then .nan
    else
      let odd := e % 2 != 0
      let x := (if odd then 2 * m else m) * 2 ^ 96
      let r := isqrt x
      .fin false (2 * r + (if r * r = x then 0 else 1)) ((if odd then e - 1 else e) / 2 - 48 - 1)

end Sys2Proof.Machine
end

