-- ==== Sys2Proof/Machine/Convert.lean ====
section
/-! DEFINITION. Conversions between number formats (02 R24, R29 to R38, 08 R186) and the codebook's weights (02 R26, R27). -/

namespace Sys2Proof.Machine

/-- A number format that a conversion takes (08 R185). -/
inductive NumFmt where
  | float (f : FFmt)
  | scale
  | int (signed : Bool) (n : Nat)
  deriving DecidableEq, Repr, Inhabited

/-- The format of a code (02 R38) that a conversion takes: not CB2, not CF32. -/
def numFmt (code : Nat) : Option NumFmt :=
  match code with
  | 0 => some (.float fF32)
  | 1 => some (.float fBF16)
  | 2 => some (.float fF16)
  | 3 => some (.float fE4M3)
  | 4 => some (.float fE5M2)
  | 5 => some (.float fE2M1)
  | 6 => some .scale
  | 9 => some (.int true 8)
  | 10 => some (.int true 16)
  | 11 => some (.int true 32)
  | 12 => some (.int true 64)
  | 13 => some (.int false 8)
  | 14 => some (.int false 16)
  | 15 => some (.int false 32)
  | 16 => some (.int false 64)
  | _ => none

/-- The width of an element in bits. -/
def NumFmt.width : NumFmt → Nat
  | .float f => f.width
  | .scale => 8
  | .int _ n => n

/-- A destination for which rounding code 4 is stochastic (02 R30). -/
def NumFmt.narrow : NumFmt → Bool
  | .float f => f != fF32
  | _ => false

/-- The value of an E8M0 scale (02 R24). -/
def e8m0 (c : Nat) : FVal := if c = 0xFF then .nan else .fin false 1 ((c : Int) - 127)

/-- The integer an n-bit pattern stands for. -/
def intOf (signed : Bool) (n w : Nat) : Int := if signed && nbits w (n - 1) 1 == 1 then (w : Int) - 2 ^ n else w

/-- The value of an element. -/
def NumFmt.val (f : NumFmt) (w : Nat) : FVal :=
  match f with
  | .float f => f.val w
  | .scale => e8m0 w
  | .int s n => .int (intOf s n w)

/-- An integer saturated to a format, as bits (02 R34, 08 R186). -/
def satInt (signed : Bool) (n : Nat) (i : Int) : Nat :=
  let lo : Int := if signed then -2 ^ (n - 1) else 0
  let hi : Int := if signed then 2 ^ (n - 1) - 1 else 2 ^ n - 1
  ((min hi (max lo i)) % 2 ^ n).toNat

/-- Conversion to E8M0 (02 R35). -/
def toE8m0 (r : Rnd) (v : FVal) : Nat :=
  match v with
  | .nan => 0xFF
  | .inf _ => 0xFF
  | .fin _ m e =>
    if m = 0 then 0
    else
      let k := Nat.log2 m
      let x : Int := k + e + 127 + (if r == .rup && m != 2 ^ k then 1 else 0)
      (min 0xFE (max 0 x)).toNat

/-- A value converted to a format (02 R33 to R35). -/
def NumFmt.enc (f : NumFmt) (r : Rnd) (v : FVal) : Nat :=
  match f with
  | .float g => g.enc r v
  | .scale => toE8m0 r v
  | .int s n => match v with
    | .nan => 0
    | .inf neg => satInt s n (if neg then -2 ^ 64 else 2 ^ 64)
    | v => satInt s n (v.toInt r)

/-- The mode of a rounding code for a destination; random is the bits of code 4, none where it counts as RNE (02 R30). -/
def rndOf (code : Nat) (dst : NumFmt) (random : Option Nat) : Rnd :=
  match code with
  | 1 => .rtz
  | 2 => .rup
  | 3 => .rdn
  | 4 => (match random with | some r => if dst.narrow then .stoch r else .rne | none => .rne)
  | _ => .rne

/-- A format table entry is one that FMTSET accepts (02 R38, R39). -/
def fmtEntryOk (w : BitVec 32) : Bool :=
  bits w 31 29 ≤ 4 && bits w 28 27 != 3 && bits w 26 25 == 0 && bits w 24 20 ≤ 16 && bits w 19 15 ≤ 16 && bits w 14 10 ≤ 16 &&
    bits w 9 0 == 0

/-- The entry a format selector names (02 R40): none when it is direct with a loop counter. -/
def CState.ftSel (c : CState) (sel : Nat) : Option (BitVec 32) :=
  let j := nbits sel 4 2
  let o := nbits sel 0 4
  if nbits sel 6 1 = 1 then some (rd c.ft (((rd c.lc j).count.toNat + o) % 16))
  else if j = 0 then some (rd c.ft o) else none

/-! ### Codebook weights (02 R26, R27) -/

/-- Weight j of a CB2 code, times 2^(E − 127) for a scale whose value is given. -/
def cb2Weight (codebook : Vector (BitVec 32) 256) (code j : Nat) (scale : FVal) : FVal :=
  let m := nbits (rd codebook (nbits code 8 8)).toNat (4 * j) 4
  let signs := nbits code 1 7
  let s0 := (List.range 7).foldl (fun (b : Bool) i => b != (nbits signs i 1 == 1)) false
  let s := if j = 0 then s0 else nbits code j 1 == 1
  let x := 2 * m + code % 2
  match scale with
  | .fin _ k e => if x = 0 then .zero false else .fin s (x * k) (e - 1)
  | _ => .nan

end Sys2Proof.Machine
end

