-- ==== Sys2Proof/Machine/Queues.lean ====
section
/-! DEFINITION. The engine queues of a tile (06 R110, R112, 07 R154): heads, entry, leaving, halting, completion. -/

namespace Sys2Proof.Machine

/-- The place of a queue: its engine code less one (06 R110). -/
def qIdx : Queue → Nat
  | .normal => 0
  | .urgent => 1
  | .copy => 2
  | .gather => 3
  | .send => 4
  | .metadata => 5
  | .copyOut => 6

/-- The engine code of a queue. -/
def qCode (q : Queue) : BitVec 8 := BitVec.ofNat 8 (qIdx q + 1)

/-- The commands of a queue, head first. -/
def Tile.cmds (t : Tile) (q : Queue) : List Cmd := rd t.q (qIdx q)

/-- The commands of a queue replaced. -/
def Tile.setCmds (t : Tile) (q : Queue) (l : List Cmd) : Tile := { t with q := wr t.q (qIdx q) l }

/-- A free entry in a queue of 16. -/
def Tile.queueSpace (t : Tile) (q : Queue) : Bool := (t.cmds q).length < 16

/-- A command entering a queue. -/
def Tile.pushCmd (t : Tile) (q : Queue) (c : Cmd) : Tile := t.setCmds q (t.cmds q ++ [c])

/-- The head command leaving a queue. Its writes to other devices that have been posted stay: they remain and perform (07 R154, 18 R367). -/
def Tile.popCmd (t : Tile) (q : Queue) : Tile :=
  { t.setCmds q ((t.cmds q).drop 1) with
      qhead := wr t.qhead (qIdx q) ((rd t.qhead (qIdx q) + 1) % 16)
      orphans := t.orphans ++ (match (t.cmds q).head? with | some c => c.posts | none => []) }

/-- The head command replaced. -/
def Tile.setHead (t : Tile) (q : Queue) (c : Cmd) : Tile := t.setCmds q (c :: (t.cmds q).drop 1)

/-- A queue is halted: its head has faulted (07 R154, 18 R367). -/
def Tile.halted (t : Tile) (q : Queue) : Bool := match (t.cmds q).head? with | some c => c.fault.isSome | none => false

/-- The seven queues in order of engine code. -/
def queues : List Queue := [.normal, .urgent, .copy, .gather, .send, .metadata, .copyOut]

/-- The queue of an engine code 1 to 7. -/
def queueOf (code : Nat) : Option Queue := if code = 0 then none else queues[code - 1]?

/-- An engine fault at the head of a queue: it halts, and its ENGINE_FAULT record is posted (07 R154). -/
def Tile.engineFault (t : Tile) (q : Queue) (c : Cause) (a : Word) : Tile :=
  match (t.cmds q).head? with
  | none => t
  | some h => (t.setHead q { h with fault := some (c, a) }).post (mkRecord (faultDetail c a) kindFault (qCode q) h.signal h.tag)

/-- The end of a command at the head of a queue: its DONE record if it asks for one, then its signal, then it leaves (07 R154). -/
def Tile.completeCmd (t : Tile) (q : Queue) (detail : Word) : Tile :=
  match (t.cmds q).head? with
  | none => t
  | some h =>
    let t := if h.record then t.post (mkRecord detail kindDone (qCode q) h.signal h.tag) else t
    (t.smSignal h.signal).popCmd q

/-- A command's completion can post its record now: the event queue has space, else the engine holds record and signal (06 R111). -/
def Tile.mayPost (t : Tile) (c : Cmd) : Bool := !c.record || t.recordRoom

/-- A fresh command. -/
def newCmd (body : CmdBody) (tag : BitVec 32) (guard : Option (BitVec 4)) (wait signal : BitVec 8) (record : Bool) (clk : Clk) : Cmd :=
  { body := body, tag := tag, guard := guard, decided := false, wait := wait, signal := signal, record := record, started := false
    unit := 0, row := 0, group := 0, fault := none, part := [], waited := 0, waitFrom := none, promoted := false, suspended := false
    rows := 0, posts := [], evicted := none, net := none, injected := false, clk := clk }

/-- The head command of a queue may start: it is no join, has not started or faulted, and is unguarded or decided true (06 R112). -/
def Cmd.startable (c : Cmd) : Bool :=
  !c.started && c.fault.isNone && (c.guard.isNone || c.decided) && (match c.body with | .join _ _ _ => false | _ => true)

/-- A command of L or S has begun to act: an effect outside its sequencer (07 R139, log 28). -/
def Tile.acts (t : Tile) (q : Queue) (c : Cmd) : Tile :=
  match q, c.body with
  | _, .join _ _ _ => t
  | .send, _ => t.mark .s c.clk.s
  | .copy, _ => t.mark .l c.clk.l
  | .metadata, _ => t.mark .l c.clk.l
  | .copyOut, _ => t.mark .l c.clk.l
  | _, _ => t

/-- Who else waits for semaphore n and is served before a waiter that began in cycle since: K if it began no later, an engine if it began
earlier, or in the same cycle with a lower code (06 R109). -/
def Tile.waitersAhead (t : Tile) (code : Nat) (n : BitVec 8) (since : Nat) (kWaits : Bool) : Nat :=
  (if kWaits && (match t.k.since with | some w => w ≤ since | none => false) then 1 else 0) +
  (queues.filter fun q => match (t.cmds q).head? with
    | some c => c.startable && c.wait == n && (match c.waitFrom with
      | some w => w < since || (w == since && qIdx q < code)
      | none => false) && qIdx q != code
    | none => false).length

end Sys2Proof.Machine
end

