-- ==== Sys2Proof/Machine/Matrix.lean ====
section
/-! DEFINITION. The matrix engine (09 R210 to R224, 03 R44 to R47): what a descriptor asks for, the checks at issue, one k-step, and the choice
between the two queues. -/

namespace Sys2Proof.Machine

/-! ### Views (09 R210) -/

/-- A view is valid. -/
def viewV (v : Word) : Bool := bit v 63

/-- The base of a view. -/
def viewBase (v : Word) : Nat := bits v 17 0

/-- The size of a view. -/
def viewSize (v : Word) : Nat := bits v 36 18

/-- A value that a view register may take (09 R210, R211). -/
def viewOk (v : Word) : Bool :=
  bits v 62 37 == 0 && (!viewV v || viewSize v % 128 == 0 && decide (128 ≤ viewSize v) && viewBase v % 128 == 0 &&
    decide (viewBase v + viewSize v ≤ regSize))

/-! ### Descriptors (09 R214) -/

/-- Bits of a word of a descriptor. -/
def mdBits (d : BitVec 512) (w hi lo : Nat) : Nat := bits d (64 * w + hi) (64 * w + lo)

/-- A descriptor that MDSET and MDSETF accept: no reserved op kind, reserved fields zero (09 R215, 05 R97). -/
def mdOk (d : BitVec 512) : Bool :=
  decide (mdBits d 0 3 0 ≤ 9) && mdBits d 0 63 42 == 0 && mdBits d 0 31 30 == 0 && mdBits d 0 16 16 == 0 && mdBits d 0 14 13 == 0 &&
  mdBits d 2 63 36 == 0 && mdBits d 3 63 36 == 0 && mdBits d 4 63 36 == 0 && mdBits d 5 63 50 == 0 && mdBits d 6 63 48 == 0

/-- The tensor of an UNFOLD command (09 R221). -/
structure Unfold where
  row0 : Int
  pad : Nat
  stride : Nat
  kw : Nat
  kh : Nat
  cin : Nat
  w : Nat
  h : Nat
  base : Nat
  deriving DecidableEq, Repr, Inhabited

/-- Output width and height of an unfolded tensor. -/
def Unfold.ow (u : Unfold) : Int := ((u.w : Int) + 2 * u.pad - u.kw) / (u.stride : Int) + 1
/-- Output height. -/
def Unfold.oh (u : Unfold) : Int := ((u.h : Int) + 2 * u.pad - u.kh) / (u.stride : Int) + 1

/-- What a matrix command does, read from its copy of the descriptor, its format entry and its loop index. -/
structure Mx where
  op : Nat
  fa : Nat
  fb : Nat
  out : Nat
  sf : Nat
  m : Nat
  n : Nat
  k : Nat
  oa : Int
  ob : Int
  oc : Int
  pa : Nat
  pb : Nat
  pc : Nat
  soa : Nat
  sob : Nat
  mdo : Nat
  ta : Nat
  tb : Nat
  ac : Nat
  g : Bool
  rsem : BitVec 8
  gran : Nat
  acc : Bool
  uf : Option Unfold
  deriving DecidableEq, Repr, Inhabited

/-- A 16-bit field as a signed number. -/
def signed16 (v : Nat) : Int := (BitVec.ofNat 16 v).toInt

/-- A command read. x is the index of MXLOOP, 0 for the other two (09 R217). -/
def Mx.of (d : BitVec 512) (fmt x : BitVec 32) : Mx :=
  let i := x.toInt
  let unfold := mdBits d 0 12 12 == 1
  let oa : Int := mdBits d 2 17 0
  let da := signed16 (mdBits d 6 15 0)
  { op := mdBits d 0 3 0, fa := bits fmt 14 10, fb := bits fmt 19 15, out := bits fmt 24 20, sf := bits fmt 28 27
    m := mdBits d 1 15 0, n := mdBits d 1 31 16, k := mdBits d 1 55 32
    oa := oa + i * da * 32, ob := mdBits d 3 17 0 + i * signed16 (mdBits d 6 31 16) * 32
    oc := mdBits d 4 17 0 + i * signed16 (mdBits d 6 47 32) * 32
    pa := mdBits d 2 35 18, pb := mdBits d 3 35 18, pc := mdBits d 4 35 18
    soa := mdBits d 5 17 0, sob := mdBits d 5 35 18, mdo := mdBits d 5 49 36
    ta := mdBits d 0 19 17, tb := mdBits d 0 22 20, ac := mdBits d 0 24 23
    g := mdBits d 0 15 15 == 1, rsem := BitVec.ofNat 8 (mdBits d 0 39 32), gran := mdBits d 1 63 56 + 1, acc := mdBits d 0 11 11 == 1
    uf := if unfold then some
        { row0 := oa + i * da, pad := mdBits d 7 63 62, stride := mdBits d 7 61 60 + 1, kw := mdBits d 7 59 57 + 1
          kh := mdBits d 7 56 54 + 1, cin := mdBits d 7 53 42, w := mdBits d 7 41 32, h := mdBits d 7 31 22, base := mdBits d 7 21 0 }
      else none }

/-- Bytes of the first n elements of a row in a format (02 R19, 09 R219). -/
def fmtBytes (f n : Nat) : Nat :=
  match f with
  | 0 => 4 * n
  | 1 => 2 * n
  | 2 => 2 * n
  | 5 => n / 2
  | 7 => 2 * (n / 8)
  | 8 => 8 * n
  | _ => n

/-- E4M3 or E5M2. -/
def isFp8 (f : Nat) : Bool := f == 3 || f == 4
/-- BF16 or F16. -/
def isHalf (f : Nat) : Bool := f == 1 || f == 2

/-- The formats of a command are those its op kind accepts (09 R216). -/
def Mx.fmtOk (x : Mx) : Bool :=
  match x.op with
  | 0 => x.fa == 0 && x.fb == 0 && x.out == 0
  | 1 => x.fa == 1 && x.fb == 1 && x.out == 0
  | 2 => x.fa == 2 && x.fb == 2 && x.out == 0
  | 3 => isFp8 x.fa && isFp8 x.fb && x.out == 0
  | 4 => isFp8 x.fa && isFp8 x.fb && x.out == 0
  | 5 => x.fa == 5 && isFp8 x.fb && x.out == 0
  | 6 => x.fa == 7 && isFp8 x.fb && x.out == 0
  | 7 => x.fa == 8 && x.fb == 8 && x.out == 8
  | 8 => x.fa == 8 && x.fb == 8 && x.out == 8
  | 9 => ((isFp8 x.fa && isFp8 x.fb) || (isHalf x.fa && isHalf x.fb)) && x.out == 0
  | _ => false

/-- The scale block of an operand in elements; 0 for none (02 R25, 09 R216). -/
def Mx.blk (x : Mx) (f : Nat) : Nat := if f = 7 then 64 else if isFp8 f || f == 5 then 32 * x.sf else 0

/-- The k extent of a k-step (09 R216). MMA.SP over BF16 or F16, for which 03 R45 has no row, rounds once per k-step of 8 (log 100). -/
def Mx.kstep (x : Mx) : Nat :=
  match x.op with
  | 0 => 4
  | 1 => 8
  | 2 => 8
  | 7 => 4
  | 8 => 4
  | 9 => if isFp8 x.fa then 32 else 8
  | _ => 32

/-- Complex op kinds. -/
def Mx.cplx (x : Mx) : Bool := x.op == 7 || x.op == 8

/-- Bytes of an A row. -/
def Mx.rowA (x : Mx) : Nat := fmtBytes x.fa (if x.op = 9 then x.k / 2 else x.k)
/-- Bytes of a B row. -/
def Mx.rowB (x : Mx) : Nat := fmtBytes x.fb x.k
/-- Bytes of an element of C. -/
def Mx.cw (x : Mx) : Nat := if x.cplx then 8 else 4
/-- Bytes of a C row. -/
def Mx.rowC (x : Mx) : Nat := x.n * x.cw

/-- Quotient rounded up. -/
def cdiv (a b : Nat) : Nat := (a + b - 1) / b

/-- The rows of an operand: first byte, count, pitch and bytes of each. -/
structure Rows where
  at_ : Int
  n : Nat
  pitch : Nat
  len : Nat
  deriving DecidableEq, Repr, Inhabited

/-- The rows lie inside a view. -/
def Rows.inside (r : Rows) (v : Word) : Bool :=
  decide (0 ≤ r.at_) && decide (r.at_ + (r.n - 1 : Nat) * r.pitch + r.len ≤ (viewSize v : Int))

/-- Two sets of rows, at two bases, share a byte. -/
def Rows.meets (a : Rows) (ab : Nat) (b : Rows) (bb : Nat) : Bool :=
  (List.range a.n).any fun i => (List.range b.n).any fun j =>
    let p := a.at_ + ab + i * a.pitch
    let q := b.at_ + bb + j * b.pitch
    decide (p < q + b.len) && decide (q < p + a.len)

/-- The A rows. -/
def Mx.rowsA (x : Mx) : Rows := ⟨x.oa, x.m, x.pa, x.rowA⟩
/-- The B rows. -/
def Mx.rowsB (x : Mx) : Rows := ⟨x.ob, x.n, x.pb, x.rowB⟩
/-- The C rows. -/
def Mx.rowsC (x : Mx) : Rows := ⟨x.oc, x.m, x.pc, x.rowC⟩
/-- The scale runs of A. -/
def Mx.scalesA (x : Mx) : Rows := let r := cdiv x.k (x.blk x.fa); ⟨x.soa, x.m, r, r⟩
/-- The scale runs of B. -/
def Mx.scalesB (x : Mx) : Rows := let r := cdiv x.k (x.blk x.fb); ⟨x.sob, x.n, r, r⟩

/-- The checks of an UNFOLD command (09 R214, R221). -/
def Mx.unfoldOk (x : Mx) (u : Unfold) : Bool :=
  (isFp8 x.fa || isHalf x.fa || x.fa == 0) && x.op != 9 && x.sf == 0 && x.pa == 0 && u.cin != 0 && u.w != 0 && u.h != 0 &&
  u.base % 32 == 0 && decide (1 ≤ u.ow) && decide (1 ≤ u.oh) && x.k == u.kh * u.kw * u.cin &&
  decide (u.row0 + x.m ≤ u.oh * u.ow) && decide (u.base + fmtBytes x.fa (u.h * u.w * u.cin) ≤ spmSize)

/-- The checks of a command at issue (09 R218). word7 says that descriptor word 7 is zero. -/
def Mx.issueOk (x : Mx) (c : CState) (word7 : Bool) : Bool :=
  let va := rd c.tv x.ta
  let vb := rd c.tv x.tb
  let vc := rd c.av x.ac
  let dim := fun (v hi : Nat) => v % 16 == 0 && decide (16 ≤ v) && decide (v ≤ hi)
  let hasA := x.uf.isNone
  let sa := hasA && x.blk x.fa != 0
  let sb := x.blk x.fb != 0
  x.fmtOk && viewV vb && viewV vc && (!hasA || viewV va) && dim x.m 256 && dim x.n 512 && x.k != 0 &&
  !(x.op == 6 && x.k % 8 != 0) && !(x.op == 5 && x.k % 2 != 0) && !(x.op == 9 && x.k % 4 != 0) && !(x.g && x.rsem == 0) &&
  decide (x.rowB ≤ x.pb) && decide (x.rowC ≤ x.pc) && x.ob % 32 == 0 && x.oc % 32 == 0 && x.pb % 32 == 0 && x.pc % 32 == 0 &&
  x.rowsB.inside vb && x.rowsC.inside vc && (!sb || x.scalesB.inside vb) && (!sa || x.scalesA.inside va) &&
  (match x.uf with
    | some u => x.unfoldOk u
    | none => word7 && decide (x.rowA ≤ x.pa) && x.oa % 32 == 0 && x.pa % 32 == 0 && x.rowsA.inside va) &&
  !x.rowsC.meets (viewBase vc) x.rowsB (viewBase vb) && !(sb && x.rowsC.meets (viewBase vc) x.scalesB (viewBase vb)) &&
  !(hasA && x.rowsC.meets (viewBase vc) x.rowsA (viewBase va)) && !(sa && x.rowsC.meets (viewBase vc) x.scalesA (viewBase va)) &&
  (x.op != 9 || decide (8 * x.mdo + x.m * x.k ≤ 8 * 0x4000))

/-- The command that slot M issues; none is ILLEGAL (09 R217, R218). -/
def Tile.mxCommand (t : Tile) (op : MOp) (f : MSlot) : Option Cmd :=
  let d := rd t.c.md f.md.toNat
  let l := rd t.c.lc (mdBits d 0 41 40)
  let x : BitVec 32 := if op = .mxloop ∧ l.count ≠ 0 then l.index else 0
  match t.c.ftSel (mdBits d 0 10 4) with
  | none => none
  | some fmt =>
    if (Mx.of d fmt x).issueOk t.c (mdBits d 7 63 0 == 0) then
      some (newCmd (.matrix d fmt x (op == .mxloop)) (t.c.pc.setWidth 32) (if f.guard then some (BitVec.ofNat 4 (mdBits d 0 28 25)) else none)
        f.wait f.signal (mdBits d 0 29 29 == 1) (t.c.clk.tick .c))
    else none

/-- The queue of a matrix command (09 R217). -/
def mxQueue (op : MOp) : Queue := if op = .mxgou then .urgent else .normal

/-- The matrix commands queued or running. -/
def Tile.mxCmds (t : Tile) : List Mx :=
  (t.cmds .normal ++ t.cmds .urgent).filterMap fun c => match c.body with
    | .matrix d f x _ => some (Mx.of d f x)
    | _ => none

/-- A command with a CB2 operand is queued or running (02 R28). -/
def Tile.cb2Queued (t : Tile) : Bool := t.mxCmds.any fun x => x.op == 6

/-- A command that names tile view n is queued or running (09 R211). -/
def Tile.namesTv (t : Tile) (n : Nat) : Bool := t.mxCmds.any fun x => x.tb == n || (x.uf.isNone && x.ta == n)

/-- A command that names accumulator view n is queued or running. -/
def Tile.namesAv (t : Tile) (n : Nat) : Bool := t.mxCmds.any fun x => x.ac == n

/-! ### Operands of a k-step (09 R212, R219, R221, R222) -/

/-- The value of an element of w bits in a float format code. -/
def fmtVal (f w : Nat) : FVal := match numFmt f with | some g => g.val w | none => .nan

/-- The bits of an element of a float format code. -/
def fmtWidth (f : Nat) : Nat := match numFmt f with | some g => g.width | none => 64

/-- The scale of a row at k: the E8M0 value, or 1 without scales. -/
def Mx.scale (t : Tile) (blk base row kblks k : Nat) : FVal :=
  if blk = 0 then .fin false 1 0 else e8m0 (t.rbyte (base + row * kblks + k / blk)).toNat

/-- Elements k0 to k0 + n − 1 of a dense row that starts at a, each times its row's scale. -/
def denseRow (t : Tile) (f a k0 n : Nat) (sc : FVal) (scaled : Bool) : List FVal :=
  if f = 7 then
    (List.range n).map fun i => let k := k0 + i
      cb2Weight t.c.codebook (t.rread (a + 2 * (k / 8)) 2) (k % 8) sc
  else
    let w := fmtWidth f
    let v := t.rread (a + k0 * w / 8) ((n * w + 7) / 8)
    (List.range n).map fun i => let x := fmtVal f (nbits v (w * i) w); if scaled then x.mul sc else x

/-- Where element k of row r of the unfolded tensor lies in the scratchpad (09 R221): none outside the tensor. The quotient and the remainder of a
position below zero are those of division that rounds down (log 109). -/
def Unfold.elemAt (u : Unfold) (size r k : Nat) : Option Nat :=
  let pos := u.row0 + r
  let y := pos / u.ow * u.stride + (k / (u.cin * u.kw) : Nat) - u.pad
  let x := pos % u.ow * u.stride + (k / u.cin % u.kw : Nat) - u.pad
  if y < 0 ∨ x < 0 ∨ (u.h : Int) ≤ y ∨ (u.w : Int) ≤ x then none
  else some (u.base + ((y.toNat * u.w + x.toNat) * u.cin + k % u.cin) * size)

/-- n elements of a row of the unfolded tensor from k0 on: +0 outside it. m is the scratchpad the command sees. -/
def Unfold.row (u : Unfold) (m : Mem) (f r k0 n : Nat) : List FVal :=
  (List.range n).map fun i => match u.elemAt (fmtWidth f / 8) r (k0 + i) with
    | none => .zero false
    | some a => fmtVal f (m.readN a (fmtWidth f / 8))

/-- The kept elements of a sparse row with their positions from k0 on (09 R222). -/
def sparseRow (t : Tile) (f a mdo k0 n : Nat) (sc : FVal) (scaled : Bool) : List (Nat × FVal) :=
  let w := fmtWidth f
  (List.range (n / 4)).flatMap fun j =>
    let g := k0 / 4 + j
    let nib := nbits (t.side.get (mdo + g / 2)).toNat (4 * (g % 2)) 4
    let e := fun (i : Nat) => let x := fmtVal f (t.rread (a + (2 * g + i) * w / 8) (w / 8)); if scaled then x.mul sc else x
    [(4 * j + nbits nib 0 2, e 0), (4 * j + nbits nib 2 2, e 1)]

/-- Row r of A from k0, as pairs of a position and a value. -/
def Mx.aRow (x : Mx) (t : Tile) (spm : Mem) (r k0 n : Nat) : List (Nat × FVal) :=
  let vb := viewBase (rd t.c.tv x.ta)
  let b := x.blk x.fa
  let sc := Mx.scale t b (vb + x.soa) r (cdiv x.k b) k0
  let a := vb + (x.oa + r * x.pa).toNat
  match x.uf with
  | some u => (u.row spm x.fa r k0 n).zipIdx.map fun p => (p.2, p.1)
  | none =>
    if x.op = 9 then sparseRow t x.fa a (x.mdo + r * x.k / 8) k0 n sc (b != 0)
    else (denseRow t x.fa a k0 n sc (b != 0)).zipIdx.map fun p => (p.2, p.1)

/-- Row r of B from k0. -/
def Mx.bRow (x : Mx) (t : Tile) (r k0 n : Nat) : List FVal :=
  let vb := viewBase (rd t.c.tv x.tb)
  let b := x.blk x.fb
  denseRow t x.fb (vb + (x.ob + r * x.pb).toNat) k0 n (Mx.scale t b (vb + x.sob) r (cdiv x.k b) k0) (b != 0)

/-- CF32 elements of a row from k0: real and imaginary parts. -/
def cplxRow (t : Tile) (a k0 n : Nat) : List (FVal × FVal) :=
  (List.range n).map fun i =>
    let w := t.rread (a + 8 * (k0 + i)) 8
    (f32 (w % 2 ^ 32), f32 (w / 2 ^ 32))

/-! ### Accumulation (03 R44 to R46) -/

/-- The exact sum of a group's products; an exact zero is +0. A NaN among B's elements makes it NaN, at a position that MMA.SP prunes too (02 R23). -/
def groupSum (a : List (Nat × FVal)) (b : List FVal) : FVal :=
  let s := a.foldl (fun s p => s.add (p.2.mul (b.getD p.1 (.zero false)))) (.zero false)
  if b.any FVal.isNan then .nan else if s.isZero then .zero false else s

/-- One term of a compensated pair (03 R46). -/
def k2Term (p : FVal × FVal) (x y : FVal) : FVal × FVal :=
  let q := x.mul y
  let ph := fl q
  let pl := if ph.isFin then fl (q.sub ph) else .zero false
  let s := fl (p.1.add ph)
  let e := if s.isFin then (p.1.add ph).sub s else .zero false
  (s, fl (p.2.add (fl (e.add pl))))

/-- An accumulator of a complex command: real and imaginary part, with their compensations for K2. -/
structure CAcc where
  re : FVal
  lre : FVal
  im : FVal
  lim : FVal

/-- Accumulators as a command keeps them (18 R375): F32 in 4 bytes, CF32 in 8, K2 in 16. -/
def Mx.accOf (x : Mx) (w : BitVec 128) : CAcc :=
  if x.op = 8 then ⟨f32 (bits w 31 0), f32 (bits w 63 32), f32 (bits w 95 64), f32 (bits w 127 96)⟩
  else ⟨f32 (bits w 31 0), .zero false, f32 (bits w 63 32), .zero false⟩

/-- An accumulator put back. -/
def Mx.accBits (x : Mx) (a : CAcc) : BitVec 128 :=
  BitVec.ofNat 128 (if x.op = 8 then f32enc a.re + f32enc a.lre * 2 ^ 32 + f32enc a.im * 2 ^ 64 + f32enc a.lim * 2 ^ 96
    else f32enc a.re + f32enc a.im * 2 ^ 32)

/-- One k of a complex product (03 R45, R46). -/
def Mx.cplxTerm (x : Mx) (c : CAcc) (a b : FVal × FVal) : CAcc :=
  if x.op = 8 then
    let r := k2Term (k2Term (c.re, c.lre) a.1 b.1) a.2.neg b.2
    let i := k2Term (k2Term (c.im, c.lim) a.1 b.2) a.2 b.1
    ⟨r.1, r.2, i.1, i.2⟩
  else { c with re := fma a.2.neg b.2 (fma a.1 b.1 c.re), im := fma a.2 b.1 (fma a.1 b.2 c.im) }

/-- All rows of B from k0 on, read when the k-step begins: values, or complex pairs. -/
structure BCols where
  real : List (List FVal)
  pairs : List (List (FVal × FVal))

/-- The rows of B of a k-step. -/
def Mx.cols (x : Mx) (t : Tile) (k0 n : Nat) : BCols :=
  if x.cplx then ⟨[], (List.range x.n).map fun (r : Nat) => cplxRow t (viewBase (rd t.c.tv x.tb) + (x.ob + r * x.pb).toNat) k0 n⟩
  else ⟨(List.range x.n).map fun r => x.bRow t r k0 n, []⟩

/-- The accumulators of row r after a k-step. spm is the scratchpad the command sees; row holds the sums so far. -/
def Mx.stepRow (x : Mx) (t : Tile) (spm : Mem) (bs : BCols) (r k0 n : Nat) (row : List (BitVec 128)) : List (BitVec 128) :=
  if x.cplx then
    let a := cplxRow t (viewBase (rd t.c.tv x.ta) + (x.oa + r * x.pa).toNat) k0 n
    List.zipWith (fun w b => x.accBits ((a.zip b).foldl (fun c z => x.cplxTerm c z.1 z.2) (x.accOf w))) row bs.pairs
  else
    let a := x.aRow t spm r k0 n
    List.zipWith (fun w b =>
      let acc := f32 (bits w 31 0)
      BitVec.ofNat 128 (f32enc (if x.op = 0 then (a.zip b).foldl (fun c z => fma z.1.2 z.2 c) acc else fl (acc.add (groupSum a b)))))
      row bs.real

/-- The accumulators at the start of a command (09 R212, 03 R46). -/
def Mx.start (x : Mx) (t : Tile) : List (BitVec 128) :=
  let base := viewBase (rd t.c.av x.ac)
  (List.range x.m).flatMap fun (r : Nat) => (List.range x.n).map fun (j : Nat) =>
    if !x.acc then 0
    else
      let v := t.rread (base + (x.oc + r * x.pc).toNat + x.cw * j) x.cw
      BitVec.ofNat 128 (if x.op = 8 then v % 2 ^ 32 + v / 2 ^ 32 * 2 ^ 64 else v)

/-- The element of C that an accumulator is written as (03 R46, 02 R23). -/
def Mx.result (x : Mx) (w : BitVec 128) : Nat :=
  if !x.cplx then bits w 31 0
  else
    let c := x.accOf w
    let fin := fun (hi lo : FVal) => if x.op = 8 then fl (hi.add lo) else hi
    let re := fin c.re c.lre
    let im := fin c.im c.lim
    if re.isNan || im.isNan then 0x7FC000007FC00000 else f32enc re + f32enc im * 2 ^ 32

/-! ### The engine (09 R220, R223, R224) -/

/-- The matrix command of a queue's head. -/
def Cmd.mx? (c : Cmd) : Option Mx := match c.body with | .matrix d f x _ => some (Mx.of d f x) | _ => none

/-- Row groups of a command: one of 16 rows each when ragged, else one. -/
def Mx.groups (x : Mx) : Nat := if x.g then x.m / 16 else 1

/-- k-steps of a row group. -/
def Mx.steps (x : Mx) : Nat := cdiv x.k x.kstep

/-- A started command without a fault. -/
def Cmd.going (c : Cmd) : Bool := c.started && c.fault.isNone

/-- The urgent head runs. -/
def Tile.urgentRuns (t : Tile) : Bool := match (t.cmds .urgent).head? with | some c => c.going | none => false

/-- The queue whose head the engine runs: an urgent command once started, else the normal one unless it is suspended. -/
def Tile.mxRunning (t : Tile) : Option Queue :=
  if t.urgentRuns then some .urgent
  else match (t.cmds .normal).head? with
    | some c => if c.going && !c.suspended then some .normal else none
    | none => none

/-- A normal command has waited AGE cycles (09 R220). -/
def Tile.promoted (t : Tile) (c : Cmd) : Bool := c.promoted || decide (t.age.toNat ≤ c.waited)

/-- K waits in SMWAIT for a semaphore: its present wait counts among the waiters. -/
def Tile.kWaits (t : Tile) (n : BitVec 8) (smwait : Option (BitVec 8)) : Bool := t.k.since.isSome && smwait == some n

/-- A head that could start now: decided or unguarded, its wait can be taken. -/
def Tile.headReady (t : Tile) (q : Queue) (now : Nat) (smwait : Option (BitVec 8)) : Bool :=
  match (t.cmds q).head? with
  | none => false
  | some c => c.startable &&
      (c.wait == 0 || decide (t.waitersAhead (qIdx q) c.wait (c.waitFrom.getD now) (t.kWaits c.wait smwait) < (t.smGet c.wait).toNat))

/-- The first normal command that no join orders behind urgent commands: joins that do not name the urgent queue are passed over (06 R124, log 108). -/
def firstNormal : List Cmd → Option Cmd
  | [] => none
  | c :: r => match c.body with
    | .join _ mask _ => if mask.getLsbD 1 then none else firstNormal r
    | _ => some c

/-- The first normal command is promoted: no urgent command starts until it has completed. -/
def Tile.normalPromoted (t : Tile) : Bool :=
  match firstNormal (t.cmds .normal) with
  | some c => c.mx?.isSome && t.promoted c
  | none => false

/-- A ready urgent command may take the engine. -/
def Tile.urgentMay (t : Tile) (now : Nat) (smwait : Option (BitVec 8)) : Bool :=
  !t.urgentRuns && t.headReady .urgent now smwait && !t.normalPromoted

/-- A suspended or ready normal head that does not run ages while n cycles pass (09 R220). -/
def Tile.ageBy (t : Tile) (n now : Nat) (smwait : Option (BitVec 8)) : Tile :=
  match (t.cmds .normal).head? with
  | none => t
  | some c =>
    if c.mx?.isSome && ((c.going && (c.suspended || t.urgentRuns)) || t.headReady .normal now smwait) then
      t.setHead .normal { c with waited := c.waited + n, promoted := c.promoted || decide (t.age.toNat ≤ c.waited + n) }
    else t

end Sys2Proof.Machine
end

