-- ==== Sys2Proof/Machine/Issue.lean ====
section
/-! DEFINITION. What every L and S word shares (04 R70, R77, 06 R133, 07 R137 to R139): predicate, hazards, tokens, the outcome,
the loop test (09 R204), and stopping. -/

namespace Sys2Proof.Machine

/-! ### Hardware loops (09 R202 to R205) -/

/-- A counter that is running. -/
def Loop.running (l : Loop) : Bool := l.count != 0

/-- An address lies in the body of a loop. -/
def Loop.inBody (l : Loop) (pc : Word) : Bool := decide (l.start ≤ pc) && decide (pc ≤ l.fin)

/-- Counter numbers sorted by when their loops started: the most recently started first. -/
def insertLoop (lc : Vector Loop 4) (j : Nat) : List Nat → List Nat
  | [] => [j]
  | k :: r => if (rd lc k).born ≤ (rd lc j).born then j :: k :: r else k :: insertLoop lc j r

/-- The running loops that end at pc, innermost first. -/
def loopsAt (lc : Vector Loop 4) (pc : Word) : List Nat :=
  ((List.range 4).filter fun j => (rd lc j).running && (rd lc j).fin == pc).foldr (insertLoop lc) []

/-- The loop test of a word that stands at the end of some loops (09 R204): counters, next address, the counter that looped back. -/
def testLoops (lc : Vector Loop 4) (next : Word) : List Nat → Vector Loop 4 × Word × Option Nat
  | [] => (lc, next, none)
  | j :: r =>
    let l := rd lc j
    if l.count.toNat ≤ 1 then testLoops (wr lc j { l with count := 0 }) next r
    else (wr lc j { l with count := l.count - 1, index := l.index + l.step.signExtend 32, backs := l.backs + 1 }, l.start, some j)

/-- A taken branch stops every running loop whose body does not hold its target (09 R205). -/
def leaveLoops (lc : Vector Loop 4) (target : Word) : Vector Loop 4 :=
  lc.map fun l => if l.running && !l.inBody target then { l with count := 0 } else l

/-- A number greater than that of every loop started before. -/
def nextBorn (lc : Vector Loop 4) : Nat := lc.toList.foldl (fun n l => max n l.born) 0 + 1

/-- What a LOOP does (09 R203, R205): none is ILLEGAL; else the counters and the next address. b is the bound, st the step, w the word
size, pipe 0 or the stage count less one. The count is taken modulo 2^24 (log 118). -/
def startLoop (lc : Vector Loop 4) (pc : Word) (j : Nat) (b : Nat) (st : Int) (w off : Nat) (pipe : Option Nat) :
    Option (Vector Loop 4 × Word × Nat) :=
  let fin := pc + BitVec.ofNat 64 (w * off)
  let others := (List.range 4).filter fun i => i != j && (rd lc i).running
  if (List.range 4).any (fun i => (rd lc i).running && (rd lc i).fin == pc) then none
  else if others.any fun i => decide ((rd lc i).fin < fin) then none
  else
    let st := if st = 0 then 1 else st
    let m := st.natAbs
    let n0 := (b + m - 1) / m
    let n := match pipe with | some k => if n0 = 0 then 0 else n0 + k | none => n0
    if n = 0 then some (lc, fin + BitVec.ofNat 64 w, 0)
    else
      let x0 : Nat := if 0 < st then 0 else (n0 - 1) * m
      let l : Loop := ⟨BitVec.ofNat 24 n, BitVec.ofNat 32 x0, BitVec.ofInt 16 st, pc + BitVec.ofNat 64 w, fin, 0,
        match pipe with | some _ => n0 | none => 0, nextBorn lc⟩
      some (wr lc j l, pc + BitVec.ofNat 64 w, n0)

/-! ### L and S words -/

/-- An address register of L or S. -/
def Tile.areg (t : Tile) (q : Sequencer) (r : Reg) : Word := rd (t.ls q).regs r.toNat

/-- A predicate of L or S; predicate 0 reads true. -/
def Tile.pred (t : Tile) (q : Sequencer) (p : BitVec 3) : Bool := p == 0 || (t.ls q).preds.getLsbD p.toNat

/-- Whether an address lies in the stream of L, C or S (04 R65). -/
def Tile.inStream (t : Tile) (q : Sequencer) (pc : Word) : Bool :=
  match t.task with
  | none => false
  | some k => match q with
    | .k => decide (k.kEnt ≤ pc) && decide (pc ≤ k.kFin)
    | .l => decide (k.lEnt ≤ pc) && decide (pc ≤ k.lFin)
    | .c => decide (k.cEnt ≤ pc) && decide (pc ≤ k.cFin)
    | .s => decide (k.sEnt ≤ pc) && decide (pc ≤ k.sFin)

/-- What the body of an L or S instruction comes to. link is a wait at a link, stop a fault, and stall a wait, with a state of its own, built on
the one before the word; held is the state after the word's turn as it is. -/
inductive Issue where
  | wait
  | link (va : Word)
  | stall (s : State)
  | held (s : State)
  | fault (c : Cause) (addr : Word) (at_ : Met)
  | stop (s : State) (c : Cause) (addr : Word)
  | next (s : State) (pay : BitVec 32)
  | jump (s : State) (pay : BitVec 32) (target : Word)
  | loop (s : State) (lc : Vector Loop 4) (target : Word)
  | pending (s : State)

/-- L or S has issued its word and continues: loops tested, clock ticked, wait over. -/
def Tile.lsGo (t : Tile) (q : Sequencer) (lc : Vector Loop 4) (pc : Word) : Tile :=
  let x := t.ls q
  t.setLsState q { x with lc := lc, pc := pc, since := none, sent := none, resv := false, clk := x.clk.tick q }

/-- The word at pc has issued and is no taken branch (09 R204). -/
def Tile.lsNext (t : Tile) (q : Sequencer) : Tile :=
  let x := t.ls q
  let r := testLoops x.lc (x.pc + 8) (loopsAt x.lc x.pc)
  t.lsGo q r.1 r.2.1

/-- L or S waits at its word. -/
def Tile.lsHold (t : Tile) (q : Sequencer) (now : Nat) : Tile :=
  let x := t.ls q
  t.setLsState q { x with since := some (x.since.getD now) }

/-- The registers and predicate that requests in flight have still to write (07 R137). -/
def Tile.lsBusy (t : Tile) (q : Sequencer) (regs : List Reg) (preds : List (BitVec 3)) : Bool :=
  t.reqs.any fun r => r.q == q && (match r.kind with
    | .atomic d _ _ => regs.contains d
    | .facc d _ _ pd => regs.contains d || (pd != 0 && preds.contains pd)
    | .wlpop d _ _ pd => regs.contains d || (pd != 0 && preds.contains pd)
    | _ => false)

/-- A FACC of L is in flight. It can still fail (12 R297, 23 R414), so no later word of L has an effect outside L until it finishes (07 R139). -/
def Tile.faccOpen (t : Tile) : Bool := t.reqs.any fun r => match r.kind with | .facc _ _ _ _ => true | _ => false

/-- A word of L that moves tokens stands behind a FACC in flight. -/
def Tile.faccHolds (t : Tile) (q : Sequencer) (f : LSF) : Bool := q == .l && t.faccOpen && (f.pop != 0 || f.push != 0)

/-- A load of L still in flight will write some of n bytes of the register space: an instruction of L that uses them follows it (07 R140; log 26). -/
def Tile.loadOver (t : Tile) (a n : Nat) : Bool :=
  t.reqs.any fun r => r.q == Sequencer.l && (match r.kind with
    | .load vd => r.pieces.any fun p => decide (128 * vd.toNat + p.off < a + n) && decide (a < 128 * vd.toNat + p.off + p.size)
    | _ => false)

/-- A stop of the stepping tile's L or S at its word, with its push reservations kept (06 R133). -/
def State.lsStop (s : State) (q : Sequencer) (ps : List Sequencer) (c : Cause) (addr : Word) : State :=
  let t := s.tile
  let s := if (t.ls q).resv then s else s.upd fun t => t.reserve q ps
  s.stopSeq s.cur q c addr false true

/-- The entries popped by a word, which a fault of an earlier memory instruction would put back. -/
def Tile.popFor (t : Tile) (q : Sequencer) (pops : List Sequencer) : Tile :=
  let x := t.ls q
  let old := if t.reqs.any fun r => r.q == q && !r.finished then x.trail else []
  let new := pops.filterMap fun p => ((t.tokQ p q).items.head?).map fun k => (⟨x.clk.at q + 1, p, k⟩ : Popped)
  (t.setLsState q { x with trail := old ++ new }).popToks q pops

/-- One L or S word: q its sequencer, f its fields, regs and preds what it reads or writes of its sequencer, body what it does once it
has popped its tokens (04 R76, R77, 07 R137, R139). -/
def State.lsRun (s : State) (q : Sequencer) (f : LSF) (regs : List Reg) (preds : List (BitVec 3)) (body : State → Issue) : State :=
  let t := s.tile
  let now := s.dev.now
  if t.lsBusy q [] [f.pred] then s.upd fun t => t.lsHold q now
  else if !t.pred q f.pred then s.upd fun t => t.lsNext q
  else
    let pops := peersOf q f.pop
    let ps := peersOf q f.push
    let resv := (t.ls q).resv
    if t.lsBusy q regs preds || t.faccHolds q f then s.upd fun t => t.lsHold q now
    else if t.tokenStalled q pops ps resv then
      (if t.mayStop q then s.stopSeq s.cur q .tokenStall 0 false resv else s.upd fun t => t.lsHold q now)
    else if !t.canPop q pops || !(resv || t.canPush q ps) then s.upd fun t => t.lsHold q now
    else
      let s1 := s.upd fun t => if resv then t.popFor q pops else (t.popFor q pops).reserve q ps
      let clk := (s1.tile.clkOf q).tick q
      match body s1 with
      | .wait => s.upd fun t => t.lsHold q now
      | .link a => (s.bindTag t.ctx).upd fun t =>
        let t := t.lsHold q now
        t.setLsState q { t.ls q with sent := some ((t.ls q).sent.getD (now, a)) }
      | .stall s2 => s2.upd fun t => t.lsHold q now
      | .held s2 => s2
      | .fault c a m => if t.mayStop q then (s.consumed s.cur c m).lsStop q ps c a else s.upd fun t => t.lsHold q now
      | .stop s2 c a => if t.mayStop q then s2.lsStop q ps c a else s.upd fun t => t.lsHold q now
      | .next s2 pay => s2.upd fun t => (t.pushReserved q ps pay clk).lsNext q
      | .jump s2 pay target =>
        if t.inStream q target then
          s2.upd fun t => (t.pushReserved q ps pay clk).lsGo q (leaveLoops (t.ls q).lc target) target
        else if t.mayStop q then s.lsStop q ps .illegal 0 else s.upd fun t => t.lsHold q now
      | .loop s2 lc target =>
        if t.inStream q target then s2.upd fun t => (t.pushReserved q ps 0 clk).lsGo q lc target
        else if t.mayStop q then s.lsStop q ps .illegal 0 else s.upd fun t => t.lsHold q now
      | .pending s2 => s2.upd fun t => t.lsNext q

/-- The offset of an L or S word, sign-extended. -/
def dispOf (f : LSF) : Word := f.imm.signExtend 64

/-- The index of an L or S word: zero where the field is zero (04 R70). -/
def Tile.indexOf (t : Tile) (q : Sequencer) (f : LSF) : Word := if f.index = 0 then 0 else t.areg q f.index

/-- The effective address (04 R70). -/
def Tile.lsEa (t : Tile) (q : Sequencer) (m : AMode) (f : LSF) : Word :=
  match m with
  | .offset => t.areg q f.base + t.indexOf q f + dispOf f
  | .postInc => t.areg q f.base + t.indexOf q f

/-- The post-increment of the base (04 R70). -/
def Tile.postInc (t : Tile) (q : Sequencer) (m : AMode) (f : LSF) : Tile :=
  match m with
  | .offset => t
  | .postInc => t.setLs q f.base (t.areg q f.base + dispOf f)

/-- The width in bytes. -/
def widthBytes : Width → Nat
  | .w128 => 128
  | .w64 => 64
  | .w32 => 32

/-- The registers an address names. -/
def addrRegsOf (f : LSF) : List Reg := if f.index = 0 then [f.base] else [f.base, f.index]

/-- A request put in flight; unless it is deferred, or its kind is left to the network, its pieces are tried at once. before is the state
before the word popped its tokens. -/
def State.launchReq (s before : State) (q : Sequencer) (f : LSF) (kind : ReqKind) (ps : List Piece) (finished defer : Bool) : State :=
  let t := s.tile
  let (id, s) := s.fresh
  let r : Req :=
    { id := id, q := q, clk := (t.clkOf q).tick q, kind := kind, pieces := ps, order := f.order, scope := f.scope, push := f.push
      before := before.tile.ls q, since := s.dev.now, finished := finished, joined := false, evicted := none, resent := false, failed := none }
  let s := s.upd fun t => { t with reqs := t.reqs ++ [r] }
  if defer || s.defer then s else s.tryAll s.cur id ps.length

/-- Requests of a sequencer whose tokens are not yet pushed, or whose writes are not yet performed (07 R137). -/
def Tile.inFlight (t : Tile) (q : Sequencer) : Nat := (t.reqs.filter fun r => r.q == q).length

/-- A posted write of the task still without its acknowledgement (11 R262). -/
def Tile.postedOpen (t : Tile) : Bool := t.reqs.any fun r => r.posted

/-- What a SYS-scope release of S meets before it executes (19 R383): it is halted by a refused posted write, each in its turn, and waits for
those not acknowledged. s is the state before the word; ordered says that a page it writes is not unordered (11 R260). -/
def State.sysRelease (s : State) (f : LSF) (ordered : Bool) : Option Issue :=
  if ordered && f.order != 0 && f.scope == 3 then
    match s.tile.refused with
    | (c, a) :: more =>
      if s.tile.mayStop .s then
        let s := if s.tile.s.resv then s else s.upd fun t => t.reserve .s (peersOf .s f.push)
        some (.held ((s.stopSeq s.cur .s c a true true).upd fun t => { t with refused := more }))
      else some .wait
    | [] => if s.tile.postedOpen then some .wait else none
  else none

/-- A word of S that accepts an order and whose write is not to a page: the release check, then the word (19 R383). -/
def State.sRun (s : State) (f : LSF) (regs : List Reg) (preds : List (BitVec 3)) (body : State → Issue) : State :=
  s.lsRun .s f regs preds fun s1 => match s.sysRelease f true with
    | some i => i
    | none => body s1

/-- A plan's pieces are not all on unordered pages. -/
def anyOrdered (ps : List Piece) : Bool := ps.any fun p => p.ord != .unordered

end Sys2Proof.Machine
end

