-- ==== Sys2Proof/Machine/Image.lean ====
section
/-! DEFINITION. The context image (18 R372 to R375): its layout, its writing, and the reading of what a resume takes from it. -/

namespace Sys2Proof.Machine

/-- A field of the image: offset, bytes, value. -/
abbrev Field := Nat × Nat × Nat

/-- Equal fields of a vector of words, one after another from an offset. -/
def fieldsOf {n w : Nat} (v : Vector (BitVec w) n) (off bytes : Nat) : List Field :=
  v.toList.zipIdx.map fun p => (off + bytes * p.2, bytes, p.1.toNat)

/-- The format, in image bytes, of one partial sum: 4, 8 or 16 (18 R375). -/
def partBytes (desc : BitVec 512) : Nat :=
  match bits desc 3 0 with
  | 7 => 8
  | 8 => 16
  | _ => 4

/-- The descriptor of a copy as its command's body holds it (07 R155). -/
def copyBytes (c : Cmd) (d : CopyDesc) : Nat :=
  let flags := (if c.record then 1 else 0) + (if c.guard.isSome then 2 else 0) + (if d.bar.isSome then 4 else 0) +
    16 * (c.guard.getD 0).toNat
  d.src + d.dst * 2 ^ 64 + d.len * 2 ^ 128 + d.srcSpace * 2 ^ 160 + d.dstSpace * 2 ^ 168 + c.wait.toNat * 2 ^ 176 +
    c.signal.toNat * 2 ^ 184 + flags * 2 ^ 192 + (d.bar.getD 0) * 2 ^ 224

/-- The strides and rows of CPY2 (07 R157). -/
def copy2Bytes (c : Cmd) (d : CopyDesc) : Nat :=
  copyBytes c d + d.rows * 2 ^ 256 + (BitVec.ofInt 64 d.srcStride).toNat * 2 ^ 320 + (BitVec.ofInt 64 d.dstStride).toNat * 2 ^ 384

/-- The 64-byte body of an engine queue entry (18 R374). A prefetch's body is its address and its line count,
a join's its mask in bytes 64 to 70 and its semaphore in bytes 72 to 79 (log 20). -/
def Cmd.bodyBytes (c : Cmd) : Nat :=
  match c.body with
  | .copy d => copyBytes c d
  | .copy2 d => copy2Bytes c d
  | .mdld d => copyBytes c d
  | .prefetch ea n => ea.toNat + n * 2 ^ 64
  | .scout root dst len depth space =>
    root.toNat + dst * 2 ^ 64 + len * 2 ^ 128 + depth * 2 ^ 160 + space * 2 ^ 168 + c.wait.toNat * 2 ^ 176 +
      c.signal.toNat * 2 ^ 184 +
      ((if c.record then 1 else 0) + (if c.guard.isSome then 2 else 0) + 16 * (c.guard.getD 0).toNat) * 2 ^ 192
  | .send w q r1 r2 => w.toNat + q.toNat * 2 ^ 64 + r1 * 2 ^ 80 + r2.getD 0 * 2 ^ 112
  | .matrix d _ _ _ => d.toNat
  | .join _ mask sem => mask.toNat + sem.toNat * 2 ^ 64

/-- The words of an engine queue entry at an offset (18 R374). spill is the offset in the spill area of its partial sums. -/
def Cmd.fields (c : Cmd) (off spill : Nat) : List Field :=
  let isJoin := match c.body with | .join _ _ _ => true | _ => false
  let isMat := match c.body with | .matrix _ _ _ _ => true | _ => false
  let (fmt, x) := match c.body with | .matrix _ f x _ => (f.toNat, x.toNat) | _ => (0, 0)
  let prog := match c.body with | .copy2 _ => c.row + c.unit * 2 ^ 32 | _ => c.unit
  let undecided := c.guard.isSome && !c.decided
  let w := (1 : Nat) + (if isJoin then 2 else 0) + (if c.started then 4 else 0) + (if c.fault.isSome then 8 else 0) +
    (if undecided then 16 else 0) + (c.guard.getD 0).toNat * 2 ^ 6 + (if c.record then 2 ^ 10 else 0) + c.wait.toNat * 2 ^ 16 +
    c.signal.toNat * 2 ^ 24 + (match c.fault with | some (k, _) => k.code * 2 ^ 32 | none => 0)
  [(off, 8, w), (off + 16, 16, c.tag.toNat), (off + 32, 8, fmt + x * 2 ^ 32),
   (off + 40, 8, match c.fault with | some (_, a) => a.toNat | none => 0), (off + 48, 8, prog),
   (off + 56, 8, if isMat && c.started then c.group + spill * 2 ^ 32 else 0), (off + 64, 64, c.bodyBytes)]

/-- Whether a command's partial sums stand in the spill area: a matrix command that has started. -/
def Cmd.spills (c : Cmd) : Bool := c.started && (match c.body with | .matrix _ _ _ _ => true | _ => false)

/-- The bytes of one partial sum of a command. -/
def Cmd.sumBytes (c : Cmd) : Nat := match c.body with | .matrix d _ _ _ => partBytes d | _ => 0

/-- The started commands of the two matrix queues, normal first. -/
def Tile.spilled (t : Tile) : List Cmd := ((rd t.q 0).filter Cmd.spills).take 1 ++ ((rd t.q 1).filter Cmd.spills).take 1

/-- The length of the spill area. -/
def Tile.spillLen (t : Tile) : Nat := t.spilled.foldl (fun n c => n + c.sumBytes * c.part.length) 0

/-- The spill area (18 R375). -/
def Tile.spillFields (t : Tile) : List Field :=
  (t.spilled.foldl (fun (acc : List Field × Nat) c =>
    (acc.1 ++ c.part.zipIdx.map fun p => (acc.2 + c.sumBytes * p.2, c.sumBytes, p.1.toNat % 2 ^ (8 * c.sumBytes)),
     acc.2 + c.sumBytes * c.part.length)) ([], 0x360000)).1

/-- The byte offset in the spill area of the partial sums of the started command of a queue: the urgent one's follow the normal one's
(18 R374, R375). -/
def Tile.spillAt (t : Tile) (e : Nat) : Nat :=
  if e = 1 then (((rd t.q 0).filter Cmd.spills).take 1).foldl (fun n c => n + c.sumBytes * c.part.length) 0 else 0

/-- The fields of a loop counter. -/
def Loop.fields (l : Loop) (off : Nat) : List Field :=
  [(off, 8, l.count.toNat + l.index.toNat * 2 ^ 32), (off + 8, 8, l.step.toNat), (off + 16, 8, l.start.toNat), (off + 24, 8, l.fin.toNat)]

/-- A stop record's fields. -/
def stopFields (r : Option StopRec) (off : Nat) (isC : Bool) : List Field :=
  match r with
  | none => []
  | some r => [(off, 8, r.cause.code), (off + 8, 8, r.pc.toNat), (off + 16, 8, r.addr.toNat), (off + 24, 8, r.word.toNat % 2 ^ 64),
      (off + 32, 8, if isC then r.word.toNat / 2 ^ 64 else 0)]

/-- 1 or 0 at a bit. -/
def flagAt (b : Bool) (i : Nat) : Nat := if b then 2 ^ i else 0

/-- A subscription entry in the layout of 06 R125. -/
def SubEntry.fields (e : SubEntry) (off : Nat) (pub : Bool) : List Field :=
  [(off, 16, e.subBase + e.pubBase * 2 ^ 32 + e.size * 2 ^ 64 + e.peer * 2 ^ 96),
   (off + 16, 8, if pub then e.count.toNat + flagAt e.opened 16 else flagAt e.opened 0 + flagAt e.parked 1)]

/-- The header (18 R373). -/
def Tile.header (x : Tile) (t : TileId) (n : Nat) : List Field :=
  let h := 0x344400
  let k := x.task
  [(h, 8, 1 + flagAt x.k.trap 16 + flagAt (x.endedOf .k) 17 + flagAt (x.endedOf .l) 18 + flagAt (x.endedOf .c) 19 +
      flagAt (x.endedOf .s) 20 + flagAt x.l.stop.isSome 21 + flagAt x.c.stop.isSome 22 + flagAt x.s.stop.isSome 23),
   (h + 8, 8, x.launch.toNat),
   (h + 16, 8, (match k with | some k => k.index % 2 ^ 24 | none => 0) + t.val * 2 ^ 32 + x.ctx.toNat * 2 ^ 48),
   (h + 0x18, 8, x.k.pc.toNat), (h + 0x20, 8, x.l.pc.toNat), (h + 0x28, 8, x.c.pc.toNat), (h + 0x30, 8, x.s.pc.toNat),
   (h + 0x38, 8, n), (h + 0x40, 8, x.evHead % 64 + x.evq.length * 2 ^ 8)]

/-- The held write of C (18 R372). -/
def Held.fields (h : Held) (off : Nat) : List Field :=
  match h with
  | .codebook t => (off, 8, 1) :: fieldsOf t (off + 16) 4
  | .tile n v => [(off, 8, 1 + 1 * 2 + n.val * 8), (off + 8, 8, v.toNat)]
  | .acc n v => [(off, 8, 1 + 2 * 2 + n.val * 8), (off + 8, 8, v.toNat)]

/-- The three entries of the bypass network: the free ones are the oldest (08 R175). -/
def CState.network (c : CState) : List Bypass := List.replicate (3 - c.bypass.length) ⟨0, false, false, 0⟩ ++ c.bypass

/-- The fixed part but for the scratchpad, register space and side memory (18 R372). -/
def Tile.fields (x : Tile) (t : TileId) (n : Nat) : List Field :=
  fieldsOf x.c.codebook 0x344000 4 ++ x.header t n ++
  fieldsOf (wr x.k.regs 0 0) 0x344500 8 ++ fieldsOf x.k.kt 0x344600 8 ++
  [(0x344640, 8, x.age.toNat), (0x344648, 8, x.tvec.toNat), (0x344650, 8, flagAt x.loopmode 0),
   (0x344658, 8, x.c.rot.q + x.c.rot.r % 2048 * 2 ^ 11 + x.c.rot.stages * 2 ^ 22 + x.c.rot.rb * 2 ^ 32)] ++
  x.c.rings.toList.zipIdx.map (fun p => (0x344680 + 8 * p.2, 8, p.1.q + p.1.len % 2048 * 2 ^ 11 + flagAt p.1.v 32)) ++
  x.gd.toList.zipIdx.map (fun p => (0x3446C0 + p.2, 1, match p.1 with | .free => 0 | .yes => 1 | .no => 2)) ++
  [(0x3446D0, 1, x.l.preds.toNat), (0x3446D1, 1, x.s.preds.toNat)] ++
  stopFields x.l.stop 0x344700 false ++ stopFields x.c.stop 0x344740 true ++ stopFields x.s.stop 0x344780 false ++
  fieldsOf x.l.regs 0x344800 8 ++ fieldsOf x.s.regs 0x344900 8 ++ fieldsOf x.c.p 0x344A00 16 ++
  (List.range 4).flatMap (fun j => (rd x.l.lc j).fields (0x344A80 + 32 * j) ++ (rd x.c.lc j).fields (0x344B00 + 32 * j) ++
    (rd x.s.lc j).fields (0x344B80 + 32 * j)) ++
  fieldsOf x.c.tv 0x344C00 8 ++ fieldsOf x.c.av 0x344C40 8 ++ fieldsOf x.c.ft 0x344C60 4 ++ fieldsOf x.c.md 0x344D00 64 ++
  fieldsOf (wr x.sm 0 0) 0x345100 4 ++
  x.evq.zipIdx.map (fun p => (0x345500 + 16 * ((x.evHead + p.2) % 64), 16, p.1.toNat)) ++
  (List.range 12).flatMap (fun q => let z := rd x.tok q
    (0x345C00 + 8 * q, 8, z.head % 16 + z.items.length * 2 ^ 8 + z.resv * 2 ^ 16) ::
      z.items.zipIdx.map fun p => (0x345900 + 64 * q + 4 * ((z.head + p.2) % 16), 4, p.1.pay.toNat)) ++
  (List.range 16).flatMap (fun i => (rd x.subs i).fields (0x345D00 + 32 * i) false ++ (rd x.pubs i).fields (0x345F00 + 32 * i) true) ++
  (List.range 64).flatMap (fun c => let h := rd x.chans c
    [(0x346100 + 32 * c, 16, h.free.toNat + h.sent.toNat * 2 ^ 32 + h.received.toNat * 2 ^ 64 + h.consumed.toNat * 2 ^ 96),
     (0x346110 + 32 * c, 8, h.last.toNat + flagAt h.fault 32 + flagAt h.sender 33 + flagAt h.receiver 34)]) ++
  (List.range 7).flatMap (fun e => let z := rd x.q e
    (0x346900 + 16 * e, 8, rd x.qhead e % 16 + z.length * 2 ^ 8 + flagAt (z.any fun c => c.fault.isSome) 16 +
        flagAt (z.any fun c => c.suspended) 17) ::
      (z.zipIdx.map fun p => p.1.fields (0x346A00 + 0x800 * e + 128 * ((rd x.qhead e + p.2) % 16)) (x.spillAt e)).flatten) ++
  (x.c.network.zipIdx.map fun p =>
    [(0x34A200 + 256 * p.2, 128, p.1.val.toNat), (0x34A280 + 256 * p.2, 8, p.1.reg.toNat + flagAt p.1.v 16 + flagAt p.1.transient 17)]).flatten ++
  (match x.c.held with | some h => h.fields 0x34A500 | none => []) ++ x.spillFields

/-- The base of a save slot (18 R369). -/
def State.slotBase (s : State) (i : Nat) : Nat := s.dev.savebase.toNat + 0x800000 * i

/-- The cells of a memory below n bytes from a, moved to stand at b. -/
def Mem.moved (m : Mem) (a n b : Nat) : Mem := (m.filter fun c => a ≤ c.1 && c.1 < a + n).map fun c => (c.1 - a + b, c.2)

/-- The bytes of another memory put over [a, a + n). -/
def Mem.overlay (m : Mem) (a n : Nat) (x : Mem) : Mem :=
  x.foldl (fun m c => if a ≤ c.1 && c.1 < a + n then m.set c.1 c.2 else m) (m.clear a n)

/-- The register space as read: cleared sectors are zero (10 R227). -/
def Tile.regView (x : Tile) : Mem := x.regspace.filter fun c => x.valid c.1

/-- A tile's task written to its slot (18 R372): every unit that the image covers is written whole, so that none of it is lost any longer
(23 R409), and no copy of its lines stays with the host (19 R389). Its lines stand in HBM at once (log 95). -/
def State.storeImage (s : State) (slot : Nat) (t : TileId) (x : Tile) : State :=
  let b := s.slotBase slot
  let n := 0x360000 + x.spillLen
  (((s.heal 6 0 b n).heal 14 0 b n).recall b n).updDev fun d =>
    let m := d.hbm.clear b n
    let m := m.overlay b spmSize (x.spm.moved 0 spmSize b)
    let m := m.overlay (b + 0x300000) 0x40000 (x.regView.moved 0 0x40000 (b + 0x300000))
    let m := m.overlay (b + 0x340000) 0x4000 (x.side.moved 0 0x4000 (b + 0x340000))
    { d with hbm := (x.fields t n).foldl (fun m f => m.writeN (b + f.1) f.2.1 f.2.2) m }

/-- The fields of an image that a change writes: those that differ from the old ones, and new ones, each with its old value. -/
def changedFields : List Field → List Field → List (Field × Nat)
  | _, [] => []
  | [], n :: ns => (n, 0) :: changedFields [] ns
  | o :: os, n :: ns =>
    if o.1 = n.1 then (if o = n then changedFields os ns else (n, o.2.2) :: changedFields os ns) else (n, 0) :: changedFields (o :: os) ns

/-- The bytes of a field that differ from its old value: offset and byte. -/
def Field.bytesFrom (f : Field) (old : Nat) : List Host.Cell :=
  (List.range f.2.1).filterMap fun i =>
    if nbits f.2.2 (8 * i) 8 = nbits old (8 * i) 8 then none else some (f.1 + i, BitVec.ofNat 8 (nbits f.2.2 (8 * i) 8))

/-- The bytes in which a memory differs from another: what it has there. -/
def Mem.changes (new old : Mem) : List Host.Cell :=
  new.filter (fun c => old.get c.1 != c.2) ++ (old.filter fun c => new.get c.1 == 0).map fun c => (c.1, 0)

/-- The bytes of a saved image that a change of the task writes (18 R371). -/
def Tile.imageChanges (new old : Tile) (t : TileId) : List Host.Cell :=
  new.spm.changes old.spm ++
    (changedFields (old.fields t (0x360000 + old.spillLen)) (new.fields t (0x360000 + new.spillLen))).flatMap fun f => f.1.bytesFrom f.2

/-- Bytes written to the image in a slot under tag 0x000; one that the access tables refuse is not written (16 R339, 18 R371). -/
def State.imagePut (s : State) (slot : Nat) (cs : List Host.Cell) : State :=
  cs.foldl (fun s c => if s.ownOk (s.slotBase slot + c.1) 1 .write then s.writeHbm (s.slotBase slot + c.1) 1 c.2.toNat else s) s

/-- n bytes of v written to the image in a slot at an offset: units written whole are lost no longer (23 R409). -/
def State.imageWrite (s : State) (slot a n v : Nat) : State :=
  if s.ownOk (s.slotBase slot + a) n .write then s.writeHbm (s.slotBase slot + a) n v else s

/-! ### Reading an image back -/

/-- A vector of fields read. -/
def readFields (m : Mem) (off bytes w n : Nat) : Vector (BitVec w) n := Vector.ofFn fun i => BitVec.ofNat w (m.readN (off + bytes * i.val) bytes)

/-- A loop counter read; the model's own fields are those of the saved task. -/
def readLoop (m : Mem) (off : Nat) (l : Loop) : Loop :=
  { l with count := BitVec.ofNat 24 (m.readN off 4), index := BitVec.ofNat 32 (m.readN (off + 4) 4), step := BitVec.ofNat 16 (m.readN (off + 8) 8)
           start := BitVec.ofNat 64 (m.readN (off + 16) 8), fin := BitVec.ofNat 64 (m.readN (off + 24) 8) }

/-- The four counters of a sequencer read. -/
def readLoops (m : Mem) (off : Nat) (lc : Vector Loop 4) : Vector Loop 4 := Vector.ofFn fun i => readLoop m (off + 32 * i.val) (rd lc i.val)

/-- Whether a byte of the fixed part is reserved: the layout gives it no content, or says that it is zero (18 R372 to R374). -/
def reservedByte (o : Nat) : Bool :=
  if o < 0x344400 then false
  else if o < 0x344500 then let i := o - 0x344400; (3 ≤ i && i < 8) || i == 0x13 || 0x42 ≤ i
  else if o < 0x34465E then false
  else if o < 0x344680 then true
  else if o < 0x3446C0 then o % 8 == 3 || 5 ≤ o % 8
  else if o < 0x344700 then 0x3446D2 ≤ o
  else if o < 0x3447C0 then (1 ≤ o % 64 && o % 64 < 8) || (if 0x344740 ≤ o && o < 0x344780 then 0x28 else 0x20) ≤ o % 64
  else if o < 0x344800 then true
  else if o < 0x344A80 then false
  else if o < 0x344C00 then o % 32 == 3 || (10 ≤ o % 32 && o % 32 < 16)
  else if o < 0x344CA0 then false
  else if o < 0x344D00 then true
  else if o < 0x345C00 then false
  else if o < 0x345C60 then 3 ≤ o % 8
  else if o < 0x345D00 then true
  else if o < 0x345F00 then o % 32 == 14 || o % 32 == 15 || 17 ≤ o % 32
  else if o < 0x346100 then o % 32 == 14 || o % 32 == 15 || 19 ≤ o % 32
  else if o < 0x346900 then 21 ≤ o % 32
  else if o < 0x346970 then 3 ≤ o % 16
  else if o < 0x346A00 then true
  else if o < 0x34A200 then (5 ≤ o % 128 && o % 128 < 16) || (20 ≤ o % 128 && o % 128 < 32)
  else if o < 0x34A500 then 0x83 ≤ o % 256
  else if o < 0x34A910 then 1 ≤ o - 0x34A500 && o - 0x34A500 < 8
  else true

/-- The checks of a restore: the version, and every reserved byte of the fixed part zero (18 R372). -/
def imageOk (m : Mem) (b : Nat) : Bool :=
  m.readN (b + 0x344400) 2 == 1 && m.all fun c => c.1 < b || b + 0x360000 ≤ c.1 || !reservedByte (c.1 - b)

/-- A cause by its code (18 R360); of no code, the other. -/
def causeOf (code : Nat) (other : Cause) : Cause :=
  ([.illegal, .priv, .align, .xlate, .accessDenied, .wrongSpace, .settWrite, .settFull, .cowWrite, .eccUncorrected, .faddIndeterminate,
    .barOverrun, .tokenStall, .launchStall, .flowTimeout, .swtrap, .engineFault].find? fun c => Cause.code c == code).getD other

/-- A stop record read; stopped is the header's bit. -/
def readStop (m : Mem) (off : Nat) (stopped : Bool) (old : Option StopRec) : Option StopRec :=
  if stopped then
    some { cause := causeOf (m.readN off 1) .illegal, pc := BitVec.ofNat 64 (m.readN (off + 8) 8), addr := BitVec.ofNat 64 (m.readN (off + 16) 8)
           word := BitVec.ofNat 128 (m.readN (off + 24) 16), imprecise := (match old with | some r => r.imprecise | none => false) }
  else none

/-- A loop-buffer ring read. A length of 2,048 does not fit its field and reads as zero. -/
def readRing (m : Mem) (off : Nat) : Ring :=
  let w := m.readN off 8
  let v := nbits w 32 1 == 1
  { q := nbits w 0 11, len := if v && nbits w 11 11 == 0 then 2048 else nbits w 11 11, v := v }

/-- An event queue read. -/
def readEvents (m : Mem) (b : Nat) : List (BitVec 128) :=
  let w := m.readN (b + 0x344440) 8
  (List.range (min (nbits w 8 7) 64)).map fun i => BitVec.ofNat 128 (m.readN (b + 0x345500 + 16 * ((nbits w 0 6 + i) % 64)) 16)

/-- Token queue q read; an entry's clock, and the word of a reservation, are the saved ones'. -/
def readTok (m : Mem) (b q : Nat) (old : TokQ) : TokQ :=
  let w := m.readN (b + 0x345C00 + 8 * q) 8
  { head := nbits w 0 4, wait := (List.range (nbits w 16 5)).map fun i => old.wait.getD i (0, none)
    items := (List.range (min (nbits w 8 5) 16)).map fun i =>
      { pay := BitVec.ofNat 32 (m.readN (b + 0x345900 + 64 * q + 4 * ((nbits w 0 4 + i) % 16)) 4)
        clk := (match old.items[i]? with | some t => t.clk | none => ⟨0, 0, 0, 0⟩) } }

/-- A subscription entry read. -/
def readEntry (m : Mem) (off : Nat) (pub : Bool) : SubEntry :=
  let w := m.readN off 16
  let f := m.readN (off + 16) 8
  { subBase := nbits w 0 32, pubBase := nbits w 32 32, size := nbits w 64 32, peer := nbits w 96 16
    count := if pub then BitVec.ofNat 16 f else 0
    opened := if pub then nbits f 16 1 == 1 else nbits f 0 1 == 1, parked := !pub && nbits f 1 1 == 1 }

/-- A channel's counters read; its audit timers restart. -/
def readChan (m : Mem) (off : Nat) : Chan :=
  let g := fun (i : Nat) => BitVec.ofNat 32 (m.readN (off + 4 * i) 4)
  let f := m.readN (off + 20) 1
  { free := g 0, sent := g 1, received := g 2, consumed := g 3, last := g 4, fault := nbits f 0 1 == 1, sender := nbits f 1 1 == 1
    receiver := nbits f 2 1 == 1, stallS := none, stallR := none }

/-- An entry of the bypass network read. -/
def readBypass (m : Mem) (off : Nat) : Bypass :=
  let w := m.readN (off + 0x80) 8
  { reg := BitVec.ofNat 11 w, v := nbits w 16 1 == 1, transient := nbits w 17 1 == 1, val := BitVec.ofNat 1024 (m.readN off 128) }

/-- The held write of C read. -/
def readHeld (m : Mem) (off : Nat) : Option Held :=
  let w := m.readN off 8
  let v := BitVec.ofNat 64 (m.readN (off + 8) 8)
  if nbits w 0 1 = 0 then none
  else match nbits w 1 2 with
    | 0 => some (.codebook (readFields m (off + 16) 4 32 256))
    | 1 => some (.tile (Fin.ofNat 8 (nbits w 3 3)) v)
    | _ => some (.acc (Fin.ofNat 4 (nbits w 3 3)) v)

/-- A copy descriptor read from a body (07 R155, R157, R159). -/
def readCopy (w : Nat) (two : Bool) : CopyDesc :=
  { src := nbits w 0 64, dst := nbits w 64 64, len := nbits w 128 32, srcSpace := nbits w 160 8, dstSpace := nbits w 168 8
    bar := if nbits w 194 1 = 1 then some (nbits w 224 32) else none
    rows := if two then nbits w 256 32 else 1
    srcStride := if two then (BitVec.ofNat 64 (nbits w 320 64)).toInt else 0
    dstStride := if two then (BitVec.ofNat 64 (nbits w 384 64)).toInt else 0 }

/-- What the queue of engine code e + 1 holds: the kind of a command whose kind the saved copy does not tell. -/
def CmdBody.kindOf (e : Nat) (join : Bool) : CmdBody :=
  if join then .join 0 0 0
  else match e with
    | 4 => .send 0 0 0 none
    | 5 => .mdld default
    | 6 => .scout 0 0 0 0 0
    | 2 => .copy default
    | _ => .matrix 0 0 0 false

/-- Whether a body is a join. -/
def CmdBody.isJoin : CmdBody → Bool
  | .join _ _ _ => true
  | _ => false

/-- A body read, of the same kind (18 R374): w is the 64 bytes, x the format word and the index of a matrix command. -/
def CmdBody.reread (b : CmdBody) (w x : Nat) : CmdBody :=
  match b with
  | .copy _ => .copy (readCopy w false)
  | .copy2 _ => .copy2 (readCopy w true)
  | .mdld _ => .mdld (readCopy w false)
  | .prefetch _ _ => .prefetch (BitVec.ofNat 64 w) (nbits w 64 32)
  | .scout _ _ _ _ _ => .scout (BitVec.ofNat 64 w) (nbits w 64 64) (nbits w 128 32) (nbits w 160 8) (nbits w 168 8)
  | .send _ _ _ r => .send (BitVec.ofNat 64 w) (BitVec.ofNat 16 (nbits w 64 16)) (nbits w 80 32)
      (match r with | some _ => some (nbits w 112 32) | none => none)
  | .matrix _ _ _ l => .matrix (BitVec.ofNat 512 w) (BitVec.ofNat 32 x) (BitVec.ofNat 32 (x / 2 ^ 32)) l
  | .join i _ _ => .join i (BitVec.ofNat 7 w) (BitVec.ofNat 8 (nbits w 64 8))

/-- Partial sums read from the spill area (18 R375). -/
def readSums (m : Mem) (off bytes n : Nat) : List (BitVec 128) := (List.range n).map fun i => BitVec.ofNat 128 (m.readN (off + bytes * i) bytes)

/-- A command read from the entry at off of the image at b (18 R374): its kind, the number of its partial sums and the model's own fields are
those of the saved command. -/
def Cmd.reread (c : Cmd) (m : Mem) (b off e : Nat) (suspended : Bool) : Cmd :=
  let w := m.readN off 8
  let prog := m.readN (off + 48) 8
  let g := m.readN (off + 56) 8
  let join := nbits w 1 1 == 1
  let body := (if c.body.isJoin == join then c.body else CmdBody.kindOf e join).reread (m.readN (off + 64) 64) (m.readN (off + 32) 8)
  let two := match body with | .copy2 _ => true | _ => false
  let c1 : Cmd :=
    { c with
      body := body, tag := BitVec.ofNat 32 (m.readN (off + 16) 4), wait := BitVec.ofNat 8 (nbits w 16 8), signal := BitVec.ofNat 8 (nbits w 24 8)
      record := nbits w 10 1 == 1, started := nbits w 2 1 == 1
      fault := if nbits w 3 1 = 1 then some (causeOf (nbits w 32 8) .illegal, BitVec.ofNat 64 (m.readN (off + 40) 8)) else none
      guard := if nbits w 4 2 = 1 then some (BitVec.ofNat 4 (nbits w 6 4)) else c.guard
      decided := nbits w 4 2 != 1 && (c.decided || c.guard.isSome)
      unit := if two then prog / 2 ^ 32 else prog, row := if two then prog % 2 ^ 32 else c.row, suspended := suspended }
  if c1.spills then { c1 with group := g % 2 ^ 32, part := readSums m (b + 0x360000 + g / 2 ^ 32) c1.sumBytes c.part.length } else c1

/-- Queue of engine code e + 1 read. -/
def readQueue (m : Mem) (b e : Nat) (old : List Cmd) : List Cmd :=
  let p := m.readN (b + 0x346900 + 16 * e) 8
  (List.range (min (nbits p 8 5) 16)).map fun j =>
    (old.getD j (newCmd (CmdBody.kindOf e false) 0 none 0 0 false ⟨0, 0, 0, 0⟩)).reread m b
      (b + 0x346A00 + 0x800 * e + 128 * ((nbits p 0 4 + j) % 16)) e (nbits p 17 1 == 1 && j == 0)

/-- What a resume takes from the image in HBM: all that its layout holds; what it does not hold stays as saved (18 R376, log 21). -/
def Tile.fromImage (x : Tile) (m : Mem) (b : Nat) : Tile :=
  let g := fun (off n : Nat) => m.readN (b + off) n
  let bit := fun (i : Nat) => nbits (g 0x344400 8) i 1 == 1
  let rotw := g 0x344658 8
  let kpc := BitVec.ofNat 64 (g 0x344418 8)
  let kend := match x.task with | some k => kpc == k.fin .k | none => false
  { x with
    spm := m.moved b spmSize 0
    regspace := m.moved (b + 0x300000) 0x40000 0
    rvalid := BitVec.allOnes 8192
    side := m.moved (b + 0x340000) 0x4000 0
    age := BitVec.ofNat 32 (g 0x344640 8), tvec := BitVec.ofNat 64 (g 0x344648 8), loopmode := g 0x344650 8 % 2 == 1
    gd := Vector.ofFn fun i => (match g (0x3446C0 + i.val) 1 with | 1 => Guard.yes | 2 => .no | _ => .free)
    sm := readFields m (b + 0x345100) 4 32 256
    evq := readEvents m b, evHead := nbits (g 0x344440 8) 0 6
    tok := Vector.ofFn fun i => readTok m b i.val (rd x.tok i.val)
    subs := Vector.ofFn fun i => readEntry m (b + 0x345D00 + 32 * i.val) false
    pubs := Vector.ofFn fun i => readEntry m (b + 0x345F00 + 32 * i.val) true
    chans := Vector.ofFn fun i => readChan m (b + 0x346100 + 32 * i.val)
    q := Vector.ofFn fun i => readQueue m b i.val (rd x.q i.val)
    qhead := Vector.ofFn fun i => nbits (g (0x346900 + 16 * i.val) 8) 0 4
    k := { x.k with regs := readFields m (b + 0x344500) 8 64 32, kt := readFields m (b + 0x344600) 8 64 8, pc := kpc, trap := bit 16
                    ended := bit 17 && (x.k.ended || !kend) }
    l := { x.l with regs := readFields m (b + 0x344800) 8 64 32, preds := BitVec.ofNat 8 (g 0x3446D0 1), pc := BitVec.ofNat 64 (g 0x344420 8)
                    lc := readLoops m (b + 0x344A80) x.l.lc, stop := readStop m (b + 0x344700) (bit 21) x.l.stop }
    s := { x.s with regs := readFields m (b + 0x344900) 8 64 32, preds := BitVec.ofNat 8 (g 0x3446D1 1), pc := BitVec.ofNat 64 (g 0x344430 8)
                    lc := readLoops m (b + 0x344B80) x.s.lc, stop := readStop m (b + 0x344780) (bit 23) x.s.stop }
    c := { x.c with p := readFields m (b + 0x344A00) 16 128 8, pc := BitVec.ofNat 64 (g 0x344428 8), lc := readLoops m (b + 0x344B00) x.c.lc
                    tv := readFields m (b + 0x344C00) 8 64 8, av := readFields m (b + 0x344C40) 8 64 4, ft := readFields m (b + 0x344C60) 4 32 16
                    md := readFields m (b + 0x344D00) 64 512 16, codebook := readFields m (b + 0x344000) 4 32 256
                    rot := ⟨nbits rotw 0 11, if nbits rotw 11 11 = 0 then x.c.rot.r else nbits rotw 11 11, nbits rotw 22 3, nbits rotw 32 11⟩
                    rings := Vector.ofFn fun i => readRing m (b + 0x344680 + 8 * i.val)
                    bypass := (List.range 3).map fun i => readBypass m (b + 0x34A200 + 256 * i)
                    held := readHeld m (b + 0x34A500), stop := readStop m (b + 0x344740) (bit 22) x.c.stop } }

end Sys2Proof.Machine
end

