-- ==== Sys2Proof/Machine/Tasks.lean ====
section
/-! DEFINITION. Launches by number, where a launch's tasks are, and what reaches a task whether it runs or is saved (18 R371). -/

namespace Sys2Proof.Machine

/-- The launch of an ID. -/
def State.launch? (s : State) (id : Word) : Option Launch := s.dev.launches.find? fun l => l.id == id

/-- A launch changed. -/
def State.updLaunch (s : State) (id : Word) (f : Launch → Launch) : State :=
  s.updDev fun d => { d with launches := d.launches.map fun l => if l.id == id then f l else l }

/-- The tile of a task of a launch: by the task map, else where it runs or ran (10 R237). -/
def Launch.tileOfTask (l : Launch) (i : Nat) : Option TileId :=
  match l.taskMap[i]? with
  | some t => tileOf? t
  | none => match l.at_.find? fun p => p.1 == i with
    | some (_, .running t) => some t
    | some (_, .saved t) => some t
    | _ => none

/-- Where a launch's task on a tile is, for traffic that reaches it (18 R371): on the tile, in the image of a slot, between the two, or placed and not
yet started (the Spoke holds the traffic), or nowhere; kept: retired, its tile run by another launch, with the state of launch lifetime that stays with
its own (10 R244). -/
inductive Home where
  | live
  | image (slot : Nat)
  | held
  | kept (launch : Word)
  | absent
  deriving DecidableEq, Repr, Inhabited

/-- Where the task of a launch on a tile is. -/
def State.taskHome (s : State) (t : TileId) (launch : Word) : Home :=
  let x := s.tileAt t
  if launch = 0 then .absent
  else if x.task.isSome && x.launch == launch then
    (if x.preempt = .none && x.live then .live else .held)
  else match s.dev.saves.find? fun v => v.tile == t && v.launch == launch with
    | some v => .image v.slot
    | none => .absent

/-- A tile with the scratchpad and channel counters that it keeps for a launch. -/
def Tile.asKept (x : Tile) (launch : Word) : Tile :=
  match x.kept.find? fun k => k.launch == launch with
  | some k => { x with spm := k.spm, chans := k.chans }
  | none => x

/-- The scratchpad and channel counters that a tile keeps for a launch, as a change of a tile leaves them. -/
def Tile.updKept (x : Tile) (launch : Word) (f : Tile → Tile) : Tile :=
  { x with kept := x.kept.map fun k =>
    if k.launch == launch then { k with spm := (f (x.asKept launch)).spm, chans := (f (x.asKept launch)).chans } else k }

/-- The tile as the task of a launch has it: the live tile, or the saved one. -/
def State.taskTile (s : State) (t : TileId) (h : Home) : Tile :=
  match h with
  | .image slot => (match s.dev.saves.find? fun v => v.slot == slot with | some v => v.img | none => s.tileAt t)
  | .kept l => (s.tileAt t).asKept l
  | _ => s.tileAt t

/-- A change made to a saved task, and to the bytes of its image in HBM that it changes (18 R371). -/
def State.updSave (s : State) (slot : Nat) (f : Tile → Tile) : State :=
  match s.dev.saves.find? fun v => v.slot == slot with
  | none => s
  | some v =>
    let img := f v.img
    (s.updDev fun d => { d with saves := d.saves.map fun w => if w.slot = slot then { w with img := img } else w }).imagePut slot
      (img.imageChanges v.img v.tile)

/-- A change that reaches a task where it is; nothing while the Spoke holds it. -/
def State.updTask (s : State) (t : TileId) (h : Home) (f : Tile → Tile) : State :=
  match h with
  | .live => s.updAt t f
  | .image slot => s.updSave slot f
  | .kept l => s.updAt t fun x => x.updKept l f
  | _ => s

/-- Bytes written to a task's scratchpad from the network, live or saved. -/
def State.spmArrive (s : State) (t : TileId) (h : Home) (a n v : Nat) : State :=
  let s := s.updTask t h fun x => { x with spm := x.spm.writeN a n v }
  match h with
  | .live => s.heal 1 t.val a n
  | .image slot => s.imageWrite slot a n v
  | _ => s

/-- n bytes of a task's scratchpad are lost where the task is, live or saved. -/
def State.spmLost (s : State) (t : TileId) (h : Home) (a n : Nat) : Bool :=
  match h with
  | .live => s.isLost 1 t.val a n
  | .image slot => s.isLost 6 0 (s.slotBase slot + a) n
  | _ => false

/-- Lost scratchpad data of a task that an update from the network meets is logged: a saved task's by its image's address in HBM (23 R420). -/
def State.logSpm (s : State) (t : TileId) (launch : Word) (ctx : BitVec 12) (h : Home) (a : Nat) : State :=
  match h with
  | .image slot => s.logLost (tileOf (homeOf (s.slotBase slot + a))) launch ctx 6 (s.slotBase slot + a)
  | _ => s.logLost t launch ctx 1 a

/-- The index of the task of a launch on a tile, live or saved. -/
def State.taskIndex (s : State) (t : TileId) (h : Home) : Option Nat := (s.taskTile t h).task.map fun k => k.index

/-- A record posted to a task where it is: the record waits with a saved task. One for a task of another index, which has ended, is discarded (01
R17). -/
def State.postTask (s : State) (t : TileId) (launch : Word) (i : Option Nat) (r : BitVec 128) : State :=
  let h := s.taskHome t launch
  if i.isSome && s.taskIndex t h != i then s
  else match h with
    | .absent => s
    | .held => if (s.tileAt t).live then s.updAt t fun x => x.post r else s
    | h => s.updTask t h fun x => x.post r

/-! ### Barrier updates (06 R117, R118) -/

/-- The detail of a BAR_OVERRUN record: source tile and barrier address (06 R110). -/
def overrunDetail (src a : Nat) : Word := BitVec.ofNat 64 (src * 2 ^ 32 + a)

/-- The updates of one object in one cycle, each with its source tile, those that wait for its completion test first, and the records of those
refused. An object of which every update was refused is not written at all (06 R118); a lost one is left as it is (23 R409). -/
def State.barApply (s : State) (t : TileId) (launch : Word) (h : Home) (a : Nat) (us : List (BarUpd × Nat)) : State :=
  let x := s.taskTile t h
  let us := (if h = .live then (x.barDue.filter fun u => u.1 == a).map fun u => u.2 else []) ++ us
  let s := if h = .live then s.updAt t fun x => { x with barDue := x.barDue.filter fun u => u.1 != a } else s
  let b := x.spm.bar a
  let bs := us.map fun u => u.1
  if s.spmLost t h a 16 then s.logSpm t launch x.ctx h a
  else
    let s := if (b.refused bs).length = bs.length then s else s.updTask t h fun x => { x with spm := x.spm.setBar a (b.cycle bs) }
    (b.refused bs).foldl (fun s i =>
      s.postTask t launch none (mkRecord (overrunDetail ((us[i]?.map fun u => u.2).getD 0) a) kindOverrun 8 0 0)) s

/-- At the end of a cycle the updates that waited for others of it are applied. -/
def State.barFlush (s : State) (t : TileId) : State :=
  (((s.tileAt t).barDue.map fun u => u.1).eraseDups).foldl (fun s a => s.barApply t (s.tileAt t).launch .live a [])
    (s.updAt t fun x => { x with barOpen := none })

/-- Updates of one object that a running task, a delivery or a copy makes: while others of the cycle are still to come they wait for them (06
R117, log 107). -/
def State.barMeet (s : State) (t : TileId) (launch : Word) (h : Home) (a : Nat) (us : List (BarUpd × Nat)) : State :=
  if h = .live && (s.tileAt t).barOpen.isSome then s.updAt t fun x => { x with barDue := x.barDue ++ us.map fun u => (a, u.1, u.2) }
  else s.barApply t launch h a us

/-- The partition check of operations that name a tile (16 R329). -/
def State.inPartition (s : State) (tag : BitVec 12) (t : TileId) : Bool :=
  match s.boundOf tag with
  | some b => (s.tileAt t).pmap == (1 : BitVec 1) ++ b.partition_
  | none => false

/-- The publisher entry of a tile that serves a subscriber's entry. -/
def Tile.pubFor (p : Tile) (sub : TileId) (e : SubEntry) : Option Nat :=
  (List.range 16).find? fun i => let x := rd p.pubs i
    x.opened && x.peer == sub.val && x.size == e.size && x.pubBase == e.pubBase && x.subBase == e.subBase

/-- A free publisher entry. -/
def Tile.freePub (p : Tile) : Option Nat := (List.range 16).find? fun i => !(rd p.pubs i).opened

/-- An update from a publisher's tile to a subscriber's that was sent before a stamp is still in flight. -/
def State.updatesInFlight (s : State) (pub sub : TileId) (stamp : Nat) : Bool :=
  s.dev.net.any fun p => p.orig == pub.val && p.at_ == .spoke sub && p.stamp < stamp &&
    (match p.body with | .update _ _ _ _ => true | _ => false)

/-- A tile's open batch closed where its task is: a saved task has none (12 R294). -/
def State.closeBatchOf (s : State) (t : TileId) (h : Home) : State := if h = .live then s.closeBatch t else s

/-- The publisher's side of a SUBOFF, where the publisher is: its batch closes and its entry goes (06 R125, 12 R292). -/
def State.dropPubAt (s : State) (h : Home) (pub sub : TileId) (e : SubEntry) : State :=
  match (s.taskTile pub h).pubFor sub e with
  | none => s
  | some i => (s.closeBatchOf pub h).updTask pub h fun x => { x with pubs := wr x.pubs i SubEntry.closed }

/-- The publisher's side of a SUBOFF. -/
def State.dropPub (s : State) (pub sub : TileId) (launch : Word) (e : SubEntry) : State := s.dropPubAt (s.taskHome pub launch) pub sub e

end Sys2Proof.Machine
end

