-- ==== Sys2Proof/Machine/Sched.lean ====
section
/-! DEFINITION. Placement and scheduling (15 R316 to R323): blocks, scoreboard order, who takes a free tile, victims of pre-emption. -/

namespace Sys2Proof.Machine

/-- The tiles of a context's partition on a die, ascending (16 R329). -/
def State.partTiles (s : State) (tag : BitVec 12) (d : DieId) : List TileId :=
  (List.range 144).filterMap fun i => match tileOf? (144 * d.val + i) with
    | some t => if s.inPartition tag t then some t else none
    | none => none

/-- The tiles a partition holds on each die (15 R317). -/
def State.partCounts (s : State) (tag : BitVec 12) : List Nat := [0, 1, 2].map fun d => (s.partTiles tag d).length

/-- The three dies' remainders ranked: how many dies come before die d, by larger remainder, then lower number. -/
def remRank (m : List Nat) (d : Nat) : Nat :=
  ((List.range m.length).filter fun e => m.getD d 0 < m.getD e 0 || (m.getD d 0 == m.getD e 0 && e < d)).length

/-- The block sizes b_d of T tasks over the counts p (15 R317). A partition that holds no tile gives blocks of 0 (log 122). -/
def blocks (tasks : Nat) (p : List Nat) : List Nat :=
  let total := p.sum
  if total = 0 then p.map fun _ => 0
  else
    let q := p.map fun x => tasks * x / total
    let m := p.map fun x => tasks * x % total
    let r := tasks - q.sum
    (List.range p.length).map fun d => q.getD d 0 + if remRank m d < r then 1 else 0

/-- The first task of die d's block. -/
def blockStart (b : List Nat) (d : Nat) : Nat := (b.take d).sum

/-- The die whose block holds a task. -/
def blockDie (b : List Nat) (i : Nat) : Nat := if i < b.getD 0 0 then 0 else if i < b.getD 0 0 + b.getD 1 0 then 1 else 2

/-- A launch's blocks. -/
def State.blocksOf (s : State) (l : Launch) : List Nat := blocks l.tasks (s.partCounts l.tag)

/-- Bytes of a launch's packet, as a number (15 R311). -/
def Launch.pk (l : Launch) (off n : Nat) : Nat := leNat ((l.packet.drop off).take n)

/-- Word 0 of a command (15 R310). -/
def Launch.word0 (l : Launch) : Nat := l.pk 0 8

/-- Co-resident. -/
def Launch.cores (l : Launch) : Bool := !l.transfer && nbits l.word0 8 1 == 1

/-- The mode: 0 dynamic, 1 record, 2 replay. -/
def Launch.mode (l : Launch) : Nat := if l.transfer then 0 else nbits l.word0 9 2

/-- A final state (15 R316). -/
def LState.final (x : LState) : Bool :=
  match x with
  | .done => true
  | .refused => true
  | .aborted => true
  | _ => false

/-- A launch that may take tiles. -/
def Launch.placing (l : Launch) : Bool := !l.transfer && (l.state == .ready || l.state == .running)

/-- Launches in scoreboard order: highest priority first, then earliest acceptance (15 R316). -/
def scoreboard (ls : List Launch) : List Launch := [3, 2, 1, 0].flatMap fun p => ls.filter fun l => l.prio == p

/-- A tile runs nothing. -/
def Tile.free (t : Tile) : Bool := t.task.isNone

/-- The launch that has a tile reserved. -/
def State.reservedBy (s : State) (t : TileId) : Option Launch :=
  s.dev.launches.find? fun l => !l.state.final && l.reserved.contains t

/-- The next task of a launch that is not co-resident for a tile: the die's next in modes 0 and 1, the tile's next in replay
(15 R318, R321). -/
def State.nextTask (s : State) (l : Launch) (t : TileId) : Option Nat :=
  let d := dieOf t
  if l.mode = 2 then (l.replay.find? fun p => p.2 == t.val && !l.at_.any fun a => a.1 == p.1).map fun p => p.1
  else
    let b := s.blocksOf l
    let n := l.next[d]
    if n < blockStart b d.val + b.getD d.val 0 then some n else none

/-- The tiles a co-resident launch has reserved on a die. -/
def Launch.reservedOn (l : Launch) (d : DieId) : List TileId := l.reserved.filter fun t => dieOf t == d

/-- A co-resident launch still lacks tiles on a die, and t may be one of them. -/
def State.wantsTile (s : State) (l : Launch) (t : TileId) : Bool :=
  let d := dieOf t
  !l.mapped && !l.reserved.contains t &&
  (if l.mode = 2 then l.replay.any fun p => p.2 == t.val
   else (l.reservedOn d).length < (s.blocksOf l).getD d.val 0)

/-- Tiles that a co-resident launch has still to reserve on a die. -/
def State.lacking (s : State) (l : Launch) (d : DieId) : Nat :=
  (if l.mode = 2 then (l.replay.filter fun p => p.2 / 144 == d.val).length else (s.blocksOf l).getD d.val 0) - (l.reservedOn d).length

/-- A co-resident launch that still reserves tiles of a die. -/
def State.reserving (s : State) (l : Launch) (d : DieId) : Bool :=
  !l.transfer && l.cores && l.state == .ready && !l.mapped && decide (0 < s.lacking l d)

/-- The first co-resident launch in scoreboard order that still reserves on a die (15 R319). -/
def State.reserver (s : State) (d : DieId) : Option Launch := (scoreboard s.dev.launches).find? fun l => s.reserving l d

/-- A co-resident launch may reserve tile t: it is the one that reserves on the die, and lacks the tile (15 R319). -/
def State.mayReserve (s : State) (l : Launch) (t : TileId) : Bool :=
  s.wantsTile l t && l.state == .ready && (match s.reserver (dieOf t) with | some m => m.id == l.id | none => false)

/-- A launch wants a free tile t. -/
def State.wants (s : State) (l : Launch) (t : TileId) : Bool :=
  l.placing && s.inPartition l.tag t && (if l.cores then s.mayReserve l t else (s.nextTask l t).isSome)

/-- The saved tasks that wait to resume on a tile. -/
def State.savesAt (s : State) (t : TileId) : List Save := s.dev.saves.filter fun v => v.tile == t

/-- The launch that a tile is reserved for and that can still use it (15 R322). -/
def State.holder (s : State) (t : TileId) : Option Launch :=
  match s.reservedBy t with
  | some l => if l.cores || (s.nextTask l t).isSome || (s.savesAt t).any (fun v => v.launch == l.id) then some l else none
  | none => none

/-- The launch that takes a free tile for a new task or reservation: the one it is reserved for, else, where no saved task waits for it,
the first in scoreboard order that wants it (15 R318, R319, R322). A launch's own saved task takes the tile before a new one. -/
def State.takerOf (s : State) (t : TileId) : Option Launch :=
  match s.holder t with
  | some l => if l.cores || (s.nextTask l t).isNone || (s.savesAt t).any (fun v => v.launch == l.id) then none else some l
  | none =>
    if !(s.savesAt t).isEmpty then none
    else (scoreboard s.dev.launches).find? fun l => s.wants l t

/-- A free tile to which a new task could be handed. -/
def State.offered (s : State) (t : TileId) : Bool := (s.tileAt t).free && (s.takerOf t).isSome

/-- No lower tile of the same die is free for the same launch: several free tiles take tasks in ascending number (15 R318). -/
def State.lowestFree (s : State) (l : Launch) (t : TileId) : Bool :=
  l.mode == 2 || !(s.partTiles l.tag (dieOf t)).any fun u => u.val < t.val && (s.tileAt u).free &&
    (match s.takerOf u with | some m => m.id == l.id | none => false)

/-- A launch waits for tile t: it has a task for it, or a saved task of it waits there; in replay only a task still to start counts (15 R322). -/
def State.waitsFor (s : State) (l : Launch) (t : TileId) : Bool :=
  s.wants l t || (l.placing && s.inPartition l.tag t && l.mode != 2 && (s.savesAt t).any fun v => v.launch == l.id)

/-- The cycles a launch has waited, and a task has run. -/
def State.waited (s : State) (l : Launch) : Nat := s.dev.now - l.since

/-- The timeslice of a launch's queue in cycles. -/
def State.tslice (s : State) (l : Launch) : Nat := (rd s.dev.queues l.queue).tslice.toNat * 1024

/-- The cycles a task has run since its last start or resume. -/
def State.ran (s : State) (l : Launch) (i : Nat) : Nat :=
  s.dev.now - (match l.lastRun.find? fun p => p.1 == i with | some p => p.2 | none => 0)

/-- Whether launch w may pre-empt the task on tile t, of launch v and index i (15 R322). -/
def State.mayPreempt (s : State) (w v : Launch) (i : Nat) : Bool :=
  v.prio < w.prio ||
  (v.prio == w.prio && w.id != v.id && s.tslice w != 0 && s.tslice v != 0 && s.tslice w ≤ s.waited w && s.tslice v ≤ s.ran v i)

/-- Position in order of acceptance. -/
def State.acceptPos (s : State) (id : Word) : Nat := (s.dev.launches.findIdx? fun l => l.id == id).getD 0

/-- The launch and index of a task that runs and is not being pre-empted. -/
def State.runs (s : State) (t : TileId) : Option (Launch × Nat) :=
  let x := s.tileAt t
  match x.task with
  | some k => if x.live && x.preempt == .none then (s.launch? k.launch).map fun l => (l, k.index) else none
  | none => none

/-- Task a of tile t is a better victim than task b of tile u: lower priority, then later acceptance, then higher index. -/
def State.betterVictim (s : State) (a b : Launch × Nat) : Bool :=
  a.1.prio < b.1.prio || (a.1.prio == b.1.prio && (s.acceptPos b.1.id < s.acceptPos a.1.id ||
    (a.1.id == b.1.id && b.2 < a.2)))

/-- Tile t holds the victim of launch w: w may pre-empt it and no better victim stands on the tiles w could take on that die. -/
def State.victim (s : State) (w : Launch) (t : TileId) : Bool :=
  match s.runs t with
  | none => false
  | some v => s.waitsFor w t && s.mayPreempt w v.1 v.2 &&
    !(s.partTiles w.tag (dieOf t)).any fun u => (s.waitsFor w u) && (match s.runs u with
      | some x => s.mayPreempt w x.1 x.2 && s.betterVictim x v
      | none => false)

/-- The tiles whose tasks stop together with the one on t: all of a co-resident launch, else t alone (15 R322). -/
def State.stopSet (s : State) (t : TileId) : List TileId :=
  match s.runs t with
  | none => []
  | some (l, _) =>
    if l.cores then l.at_.filterMap fun a => match a.2 with | .running u => some u | _ => none else [t]

/-- The numbers of the free save slots (18 R369). -/
def State.freeSlots (s : State) : List Nat :=
  let used := s.dev.saves.map fun v => v.slot
  let stopping := s.dev.tiles.toList.filterMap fun x => match x.preempt with | .stopping n _ => some n | .none => none
  (List.range s.dev.saveslots.toNat).filter fun i => !used.contains i && !stopping.contains i

/-- The tasks on some tiles are asked to stop, each for a free slot; nothing when slots are lacking (18 R369, R370). The open batch of a
publisher closes. -/
def State.preempt (s : State) (ts : List TileId) (by_ : Word) : State :=
  let slots := s.freeSlots
  if ts.isEmpty || slots.length < ts.length then s
  else (ts.zip slots).foldl (fun s p =>
    (s.closeBatch p.1).updAt p.1 fun x => { x with preempt := .stopping p.2 by_ }) s

end Sys2Proof.Machine
end

