-- ==== Sys2Proof/Machine/Engine.lean ====
section
/-! DEFINITION. Engine heads (06 R109, R112, 07 R154) and the steps of the matrix engine (09 R220 to R224). -/

namespace Sys2Proof.Machine

/-- The outcome of a step. -/
abbrev EOut := Host.Outcome State Fault Refusal

/-- The semaphore of the SMWAIT at which K of a tile stands (06 R109). -/
def State.smwaitOf (s : State) (t : TileId) : Option (BitVec 8) :=
  let x := s.tileAt t
  match decodeK (BitVec.ofNat 32 (s.codeAt t .k x.k.pc 4)) 0 with
  | .ok (.smwait a) => some ((x.kget a).setWidth 8)
  | _ => none

/-- The map register of a tile is valid (16 R329). -/
def Tile.mapped (t : Tile) : Bool := bit t.pmap 4

/-- A tile may run tasks of a context: its map register is valid and names the context's partition (16 R329). -/
def State.runsOn (s : State) (t : TileId) (tag : BitVec 12) : Bool :=
  (s.tileAt t).mapped && (match s.boundOf tag with
    | some b => (s.tileAt t).pmap == (1 : BitVec 1) ++ b.partition_
    | none => true)

/-- The engines of a tile run: it has a task of its partition that is not being stopped for pre-emption or killed (16 R329, 18 R366, R370). -/
def State.enginesRun (s : State) (t : TileId) : Bool :=
  let x := s.tileAt t
  x.task.isSome && x.live && s.runsOn t x.ctx && x.preempt == .none && x.kill.isNone

/-- A head whose start found no unit of its semaphore begins to wait (06 R109). -/
def Tile.noteWait (t : Tile) (q : Queue) (now : Nat) : Tile :=
  match (t.cmds q).head? with
  | some c => if c.startable && c.waitFrom.isNone && t.smGet c.wait == 0 then t.setHead q { c with waitFrom := some now } else t
  | none => t

/-- COMMAND_DECIDED (06 R112): the head command of a queue is decided by its guard slot; false discards it. -/
def execCommandDecided (t : TileId) (q : Queue) (s : State) : EOut :=
  let x := s.tileAt t
  if !s.enginesRun t then .next s
  else match (x.cmds q).head? with
    | none => .next s
    | some c => match c.guard with
      | none => .next s
      | some g =>
        if c.decided || c.started || c.fault.isSome then .next s
        else match rd x.gd g.toNat with
          | .free => .next s
          | .yes => .next (s.updAt t fun x => x.setHead q { c with decided := true })
          | .no => .next (s.updAt t fun x => (x.acts q c).popCmd q)

/-- An engine fault of lost data, logged before its record is posted (23 R410, R421). code is the structure and a the unit. -/
def State.engineLost (s : State) (t : TileId) (q : Queue) (u : StoredUnit) : State :=
  let x := s.tileAt t
  let s := s.logOn (dieOf t) (mkLog (BitVec.ofNat 64 u.off) x.launch s.clkrd Cause.eccUncorrected.code x.ctx t.val u.code.toNat 2)
  s.updAt t fun x => x.engineFault q .eccUncorrected 0

/-- A lost unit of a tile that some bytes of a structure touch. A clear sector of the register space is never read. -/
def State.lostIn (s : State) (t : TileId) (rs : List (BitVec 8 × Nat × Nat)) : Option StoredUnit :=
  let x := s.tileAt t
  s.dev.lost.find? fun u => u.place == t.val && (u.code != 2 || x.valid u.off) &&
    rs.any fun r => r.1 == u.code && r.2.1 < u.off + 8 && u.off < r.2.1 + r.2.2

/-- The bytes of the register space that a row of an operand takes from its element e0 on, and its scale at k0. -/
def Mx.regionsOf (f row scaleAt : Nat) (blk kblks r k0 e0 n : Nat) : List (BitVec 8 × Nat × Nat) :=
  (2, row + fmtBytes f e0, fmtBytes f (e0 + n) - fmtBytes f e0) ::
    (if blk = 0 then [] else [(2, scaleAt + r * kblks + k0 / blk, 1)])

/-- The bytes that a k-step reads: rows rs of A from k0, all of B, and the side memory. -/
def Mx.regions (x : Mx) (t : Tile) (rs : List Nat) (k0 n : Nat) : List (BitVec 8 × Nat × Nat) :=
  let va := viewBase (rd t.c.tv x.ta)
  let vb := viewBase (rd t.c.tv x.tb)
  let ba := x.blk x.fa
  let bb := x.blk x.fb
  (match x.uf with
    | some u => rs.flatMap fun (r : Nat) => (List.range n).filterMap fun i =>
      (u.elemAt (fmtWidth x.fa / 8) r (k0 + i)).map fun a => (1, a, fmtWidth x.fa / 8)
    | none => rs.flatMap fun (r : Nat) =>
      let a := va + (x.oa + r * x.pa).toNat
      if x.op = 9 then (3, x.mdo + r * x.k / 8 + k0 / 8, (n + 7) / 8) :: Mx.regionsOf x.fa a (va + x.soa) ba (cdiv x.k ba) r k0 (k0 / 2) (n / 2)
      else Mx.regionsOf x.fa a (va + x.soa) ba (cdiv x.k ba) r k0 k0 n) ++
  (List.range x.n).flatMap fun (r : Nat) => Mx.regionsOf x.fb (vb + (x.ob + r * x.pb).toNat) (vb + x.sob) bb (cdiv x.k bb) r k0 k0 n

/-- The accumulator window's bytes. -/
def Mx.window (x : Mx) (t : Tile) : List (BitVec 8 × Nat × Nat) :=
  (List.range x.m).map fun (r : Nat) => (2, viewBase (rd t.c.av x.ac) + (x.oc + r * x.pc).toNat, x.rowC)

/-- The start of the head of a matrix queue: its unit is taken and its accumulator read (09 R212, R220). An urgent command that takes the
engine from a normal one suspends it. -/
def State.mxStart (s : State) (t : TileId) (q : Queue) (c : Cmd) (x : Mx) : State :=
  let y := s.tileAt t
  let y := if q = .urgent && y.mxRunning == some .normal then
      (match (y.cmds .normal).head? with | some n => y.setHead .normal { n with suspended := true } | none => y)
    else y
  let y := y.smTake c.wait
  match (if x.acc then s.lostIn t (x.window y) else none) with
  | some u => (s.setTileAt t (y.setHead q { c with started := true, waitFrom := none })).engineLost t q u
  | none => s.setTileAt t (y.setHead q { c with started := true, waitFrom := none, part := x.start y })

/-- MATRIX_COMMAND_START (09 R217, R220): the head of one of the two queues starts, if the engine may run it. -/
def execMatrixCommandStart (t : TileId) (q : Queue) (s : State) : EOut :=
  let y := s.tileAt t
  let w := s.smwaitOf t
  let may := match q with
    | .urgent => y.urgentMay s.dev.now w
    | .normal => y.headReady .normal s.dev.now w && y.mxRunning.isNone && !y.urgentMay s.dev.now w
    | _ => false
  if !s.enginesRun t then .next s
  else match (y.cmds q).head? with
    | none => .next s
    | some c => match c.mx? with
      | none => .next s
      | some x => if may then .next (s.mxStart t q c x) else .next (s.updAt t fun y => y.noteWait q s.dev.now)

/-- Rows of row group g that are computed: those whose bit is set. -/
def rowsIn (x : Mx) (rows : BitVec 256) (g : Nat) : List Nat :=
  if x.g then (List.range 16).filterMap fun i => if rows.getLsbD (16 * g + i) then some (16 * g + i) else none
  else (List.range x.m).filter fun r => rows.getLsbD r

/-- The bits of rows a to b − 1. -/
def rowBits (a b : Nat) : BitVec 256 := BitVec.ofNat 256 (2 ^ b - 2 ^ a)

/-- The rows at the start of a row group (09 R223): none ends the command. -/
def Mx.openGroup (x : Mx) (t : Tile) (c : Cmd) : Option (BitVec 256) :=
  if !x.g then some (rowBits 0 x.m)
  else
    let lim := min x.m ((t.smGet x.rsem).toNat * x.gran)
    if lim ≤ 16 * c.group then none else some (c.rows ||| rowBits (16 * c.group) (min (16 * c.group + 16) lim))

/-- Rows of a list of sums replaced. -/
def putRows (n : Nat) (part : List (BitVec 128)) (rs : List Nat) (f : Nat → List (BitVec 128) → List (BitVec 128)) : List (BitVec 128) :=
  rs.foldl (fun p r => p.take (n * r) ++ f r ((p.drop (n * r)).take n) ++ p.drop (n * (r + 1))) part

/-- One k-step of the running command (09 R219 to R223). -/
def State.mxStep (s : State) (t : TileId) (q : Queue) (c : Cmd) (x : Mx) : State :=
  let y := s.tileAt t
  if x.groups ≤ c.group then s
  else match (if c.unit = 0 then x.openGroup y c else some c.rows) with
    | none => s.setTileAt t (y.setHead q { c with group := x.groups })
    | some rows =>
      let rs := rowsIn x rows c.group
      let k0 := c.unit * x.kstep
      let n := min x.kstep (x.k - k0)
      match s.lostIn t (x.regions y rs k0 n) with
      | some u => (s.setTileAt t (y.setHead q { c with rows := rows })).engineLost t q u
      | none =>
        let bs := x.cols y k0 n
        let part := putRows x.n c.part rs (fun r row => x.stepRow y (y.spmView c.clk) bs r k0 n row)
        let last := x.steps ≤ c.unit + 1
        s.setTileAt t (y.setHead q { c with rows := rows, part := part, unit := if last then 0 else c.unit + 1
                                            group := if last then c.group + 1 else c.group })

/-- The step of the running command; a command halted at its start reads its accumulator first. -/
def State.mxRun (s : State) (t : TileId) (q : Queue) : State :=
  let y := s.tileAt t
  match (y.cmds q).head? with
  | none => s
  | some c => match c.mx? with
    | none => s
    | some x =>
      if c.part.isEmpty then
        (match (if x.acc then s.lostIn t (x.window y) else none) with
          | some u => s.engineLost t q u
          | none => s.mxStep t q { c with part := x.start y } x)
      else s.mxStep t q c x

/-- MATRIX_K_STEP (09 R219, R220): at the boundary a ready urgent command takes the engine from a normal one that is not promoted; else
a suspended normal command resumes, and the running command makes one k-step. -/
def execMatrixKStep (t : TileId) (s : State) : EOut :=
  let y := s.tileAt t
  let w := s.smwaitOf t
  if !s.enginesRun t then .next s
  else if y.mxRunning != some .urgent && y.urgentMay s.dev.now w then
    (match (y.cmds .urgent).head? with
      | some c => (match c.mx? with | some x => .next (s.mxStart t .urgent c x) | none => .next s)
      | none => .next s)
  else match y.mxRunning with
    | some q => .next (s.mxRun t q)
    | none => match (y.cmds .normal).head? with
      | some c =>
        if c.going && c.suspended then .next ((s.updAt t fun y => y.setHead .normal { c with suspended := false }).mxRun t .normal)
        else .next s
      | none => .next s

/-- MATRIX_PROMOTION (09 R220): the normal command's count has reached AGE. -/
def execMatrixPromotion (t : TileId) (s : State) : EOut :=
  let y := s.tileAt t
  match (y.cmds .normal).head? with
  | none => .next s
  | some c =>
    if s.enginesRun t && c.mx?.isSome && y.promoted c then
      .next (s.updAt t fun y => y.setHead .normal { c with promoted := true })
    else .next s

/-- How many bits of a row set are set. -/
def rowCount (rows : BitVec 256) : Nat := ((List.range 256).filter fun i => rows.getLsbD i).length

/-- The computed rows of C written in one instant (09 R212). -/
def Mx.write (x : Mx) (t : Tile) (c : Cmd) : Tile :=
  let base := viewBase (rd t.c.av x.ac)
  ((List.range x.m).filter fun r => c.rows.getLsbD r).foldl (fun t r =>
    let row := (c.part.drop (x.n * r)).take x.n
    t.rwrite (base + (x.oc + r * x.pc).toNat) x.rowC (row.foldr (fun w a => x.result w + a * 2 ^ (8 * x.cw)) 0)) t

/-- The accumulator window of a command written, and what it rewrites lost no longer. The command counts one row group more: it has still to post its
record and signal. -/
def State.mxWrite (s : State) (t : TileId) (q : Queue) (c : Cmd) (x : Mx) : State :=
  let y := s.tileAt t
  let s := s.setTileAt t ((x.write y c).setHead q { c with group := x.groups + 1 })
  (x.window y).zipIdx.foldl (fun s r => if c.rows.getLsbD r.2 then s.heal 2 t.val r.1.2.1 r.1.2.2 else s) s

/-- MATRIX_COMMAND_COMPLETE (09 R224): the window is written, then the record, for which the event queue may have to wait (06 R111), then the
signal. -/
def execMatrixCommandComplete (t : TileId) (s : State) : EOut :=
  let y := s.tileAt t
  if !s.enginesRun t then .next s
  else match y.mxRunning with
    | none => .next s
    | some q => match (y.cmds q).head? with
      | none => .next s
      | some c => match c.mx? with
        | none => .next s
        | some x =>
          if c.group < x.groups then .next s
          else
            let s := if c.group = x.groups then s.mxWrite t q c x else s
            if y.mayPost c then .next (s.updAt t fun y => y.completeCmd q (BitVec.ofNat 64 (rowCount c.rows))) else .next s

end Sys2Proof.Machine
end

