-- ==== Sys2Proof/Machine/EngCopy.lean ====
section
/-! DEFINITION. The copy, metadata, copy-out and send engines (07 R154 to R162) and QFENCE joins (06 R124). -/

namespace Sys2Proof.Machine

/-- The unit of a head's wait is taken and the head starts. -/
def Tile.startHead (t : Tile) (q : Queue) : Tile :=
  match (t.cmds q).head? with
  | some c => ((t.acts q c).smTake c.wait).setHead q { c with started := true, waitFrom := none }
  | none => t

/-! ### Flow sends (07 R161, R162) -/

/-- The header of a send of a tile (07 R162). -/
def sendHeader (t : TileId) (dev : BitVec 12) (w : Word) (seq : BitVec 16) : Word :=
  mkHeader (w.extractLsb' 0 16) (tileBits t) dev seq (w.extractLsb' 18 2) (w.extractLsb' 16 2) 0

/-- The payload's places in the register space (07 R161): one run of 2 × flits registers, or two of flits registers. -/
def sendRegs (w : Word) (r1 : Nat) (r2 : Option Nat) : List (Nat × Nat) :=
  let n := bits w 17 16 + 1
  match r2 with
  | none => [(128 * r1, 256 * n)]
  | some r => [(128 * r1, 128 * n), (128 * r, 128 * n)]

/-- A started send reads its payload and injects its packet; lost payload is an engine fault (07 R162, 23 R410). -/
def State.sendInject (s : State) (t : TileId) : State :=
  let x := s.tileAt t
  match (x.cmds .send).head? with
  | none => s
  | some c => match c.body with
    | .send w seq r1 r2 =>
      let rs := sendRegs w r1 r2
      (match s.lostIn t (rs.map fun r => (2, r.1, r.2)) with
        | some u => s.engineLost t .send u
        | none =>
          let data := rs.flatMap fun r => leBytes r.2 (x.rread r.1 r.2)
          let s := s.inject { hdr := sendHeader t s.devNum w seq, ctx := x.ctx, launch := x.launch, body := .flow data, at_ := .spoke t
                              orig := t.val, own := some (c.signal, c.tag), task := x.task.map fun k => k.index, miss := false, lcopy := false
                              stamp := 0, clk := c.clk }
          s.updAt t fun x => x.setHead .send { c with injected := true })
    | _ => s

/-- The head of the send queue starts, or, started before a fault, sends now. -/
def State.sendStart (s : State) (t : TileId) : State :=
  let x := s.tileAt t
  match (x.cmds .send).head? with
  | none => s
  | some c =>
    if !s.enginesRun t then s
    else if c.going && !c.injected then s.sendInject t
    else if x.headReady .send s.dev.now (s.smwaitOf t) then (s.updAt t fun x => x.startHead .send).sendInject t
    else s.updAt t fun x => x.noteWait .send s.dev.now

/-- FLOW_SEND_START (07 R162). -/
def execFlowSendStart (t : TileId) (s : State) : EOut := .next (s.sendStart t)

/-- FLOW_SEND_COMPLETE (07 R162): the first Spoke has accepted the packet; DONE with the header, then the signal. -/
def execFlowSendComplete (t : TileId) (s : State) : EOut :=
  let x := s.tileAt t
  match (x.cmds .send).head? with
  | none => .next s
  | some c => match c.body with
    | .send w seq _ _ =>
      if s.enginesRun t && c.injected && x.mayPost c && !s.dev.net.any (fun p => p.orig == t.val && p.own.isSome) then
        .next (s.updAt t fun x => x.completeCmd .send (sendHeader t s.devNum w seq))
      else .next s
    | _ => .next s

/-! ### Starting (07 R154, R158) -/

/-- ENGINE_COMMAND_START (07 R154): the head takes its unit and starts. A prefetch changes nothing and is over at once (07 R158); a send starts
as FLOW_SEND_START. -/
def execEngineCommandStart (t : TileId) (q : Queue) (s : State) : EOut :=
  let x := s.tileAt t
  match (x.cmds q).head? with
  | none => .next s
  | some c =>
    if !s.enginesRun t then .next s
    else match c.body with
      | .matrix _ _ _ _ => .next s
      | .join _ _ _ => .next s
      | .send _ _ _ _ => .next (s.sendStart t)
      | .prefetch _ _ => .next (s.updAt t fun x => (x.acts q c).popCmd q)
      | _ =>
        if x.headReady q s.dev.now (s.smwaitOf t) then .next (s.updAt t fun x => x.startHead q)
        else .next (s.updAt t fun x => x.noteWait q s.dev.now)

/-! ### Copies (07 R156, R157, R159) -/

/-- The space of a descriptor's code. -/
def spaceOf : Nat → Space
  | 0 => .spm
  | 1 => .commons
  | 2 => .loc
  | 3 => .far
  | _ => .host

/-- A copy's descriptor, and whether it writes the side memory. -/
def Cmd.copy? (c : Cmd) : Option (CopyDesc × Bool) :=
  match c.body with
  | .copy d => some (d, false)
  | .copy2 d => some (d, false)
  | .mdld d => some (d, true)
  | _ => none

/-- A copy has moved every sector. -/
def Cmd.copied (c : Cmd) (d : CopyDesc) : Bool := d.len == 0 || decide (d.rows ≤ c.row)

/-- The command after one more sector; row counts rows. -/
def Cmd.nextSector (c : Cmd) (d : CopyDesc) : Cmd :=
  if d.len ≤ 32 * (c.unit + 1) then { c with unit := if d.rows ≤ 1 then c.unit + 1 else 0, row := c.row + 1 } else { c with unit := c.unit + 1 }

/-- An engine fault for a cause met at an address, logged first where data was lost. -/
def State.engineStop (s : State) (t : TileId) (q : Queue) (c : Cause) (a : Word) (m : Met) : State :=
  (s.consumed t c m).updAt t fun x => x.engineFault q c a

/-- A store of S before a command in token order has still to write bytes of the scratchpad (07 R141). -/
def Tile.storePending (t : Tile) (clk : Clk) (a n : Nat) : Bool :=
  t.reqs.any fun r => r.q == .s && r.clk.before .s clk &&
    r.pieces.any fun p => p.tgt == .spm && !p.done && decide (p.addr < a + n) && decide (a < p.addr + p.size)

/-- An access of a queue's head waits at its link (19 R384, R391); its walk has read the tag's descriptor (16 R331). -/
def State.engineWaits (s : State) (t : TileId) (q : Queue) (c : Cmd) (va : Word) : State :=
  (s.bindTag (s.tileAt t).ctx).updAt t fun x => x.setHead q { c with net := some (c.net.getD (s.dev.now, va)) }

/-- An engine's write of n bytes of v at va in a space, c the head before it and c' after: a write to another device is posted (11 R262). -/
def State.engineWrite (s : State) (t : TileId) (q : Queue) (c c' : Cmd) (sp : Space) (va : Word) (n v : Nat) : State :=
  let tag := (s.tileAt t).ctx
  match s.resolve t sp .write va n true with
  | .error e => s.engineStop t q e va (s.walkMet tag sp va)
  | .ok (w, s1) =>
    if !s1.linkReady w.tgt w.addr then s.engineWaits t q c va
    else if w.tgt == .spm && (s.tileAt t).storePending c.clk w.addr n then s
    else match w.tgt with
      | .remote _ =>
        let (id, s2) := s1.fresh
        s2.updAt t fun x => x.setHead q { c' with
          net := none, posts := c.posts ++ [⟨id, s.dev.now, ⟨w.tgt, w.addr, n, 0, va, w.ord, w.fa, false, v⟩⟩] }
      | _ => match s1.writeAt t w.tgt w.addr n v with
        | .error e => s.engineStop t q e va (some (w.tgt, w.addr))
        | .ok s2 => s2.updAt t fun x => x.setHead q { c' with net := none }

/-- An address in row r of a copy. -/
def rowAddr (base : Nat) (stride : Int) (r unit : Nat) : Word := BitVec.ofInt 64 (base + r * stride + 32 * unit)

/-- One sector of the head of a copy queue. -/
def State.copySector (s : State) (t : TileId) (q : Queue) (c : Cmd) (d : CopyDesc) (side : Bool) : State :=
  let x := s.tileAt t
  let src := rowAddr d.src d.srcStride c.row c.unit
  let dst := rowAddr d.dst d.dstStride c.row c.unit
  match s.resolve t (spaceOf d.srcSpace) .read src 32 false with
  | .error e => s.engineStop t q e src (s.walkMet x.ctx (spaceOf d.srcSpace) src)
  | .ok (w, s1) =>
    if !s1.linkReady w.tgt w.addr then s.engineWaits t q c src
    else if c.posts.any (fun p => p.piece.tgt == w.tgt && p.piece.addr < w.addr + 32 && w.addr < p.piece.addr + p.piece.size) then s
    else match s1.readAt t c.clk w.tgt w.addr 32 with
      | .error e => s.engineStop t q e src (some (w.tgt, w.addr))
      | .ok v =>
        if side then
          ((s1.updAt t fun x => { x with side := x.side.writeN dst.toNat 32 v }.setHead q { c.nextSector d with net := none })).heal 3 t.val dst.toNat 32
        else s1.engineWrite t q c (c.nextSector d) (spaceOf d.dstSpace) dst 32 v

/-- COPY_SECTOR (07 R156, R157, R159). -/
def execCopySector (t : TileId) (q : Queue) (s : State) : EOut :=
  let x := s.tileAt t
  match (x.cmds q).head? with
  | none => .next s
  | some c => match c.copy? with
    | none => .next s
    | some (d, side) => if s.enginesRun t && c.going && c.evicted.isNone && !c.copied d then .next (s.copySector t q c d side) else .next s

/-- COPY_COMPLETE (07 R156): the barrier's bytes, then the record, then the signal. -/
def execCopyComplete (t : TileId) (q : Queue) (s : State) : EOut :=
  let x := s.tileAt t
  match (x.cmds q).head? with
  | none => .next s
  | some c => match c.copy? with
    | none => .next s
    | some (d, _) =>
      if !(s.enginesRun t && c.going && c.copied d && c.posts.isEmpty && x.mayPost c) then .next s
      else
        let total := d.rows * d.len
        match d.bar with
        | none => .next (s.updAt t fun x => x.completeCmd q (BitVec.ofNat 64 total))
        | some b =>
          if s.isLost 1 t.val b 16 then .next (s.engineStop t q .eccUncorrected (BitVec.ofNat 64 b) (some (.spm, b)))
          else if x.storePending c.clk b 16 then .next s
          else .next ((s.barMeet t x.launch .live b [(.bytes (0 - BitVec.ofNat 64 total), t.val)]).updAt t fun x => x.completeCmd q (BitVec.ofNat 64 total))

/-! ### Copy-out (07 R160) -/

/-- The line of leaf p of a tree: depth levels of interior lines above the leaves; a null name yields zeros. -/
def State.leafLine (s : State) (tag : BitVec 12) (name : Word) (p : Nat) : Nat → Except Cause Nat
  | 0 => s.readLine tag name 0 128
  | level + 1 =>
    if name = 0 then .ok 0
    else match s.needName tag name with
      | .error c => .error c
      | .ok g =>
        if !(s.slot g).interior then .error .accessDenied
        else match s.readLine tag name (8 * (p / 16 ^ level % 16)) 8 with
          | .error c => .error c
          | .ok kid => s.leafLine tag (BitVec.ofNat 64 kid) p level

/-- Where the walk to leaf p of a tree meets lost data. -/
def State.leafLost (s : State) (tag : BitVec 12) (name : Word) (p : Nat) : Nat → Nat
  | 0 => s.nameLost tag name (s.lostAt (((s.findName tag name).map s.lineAddr).getD 0) 128 - ((s.findName tag name).map s.lineAddr).getD 0)
  | level + 1 => match s.readLine tag name (8 * (p / 16 ^ level % 16)) 8 with
    | .error _ => s.nameLost tag name (8 * (p / 16 ^ level % 16))
    | .ok kid => s.leafLost tag (BitVec.ofNat 64 kid) p level

/-- Leaves that a copy-out writes. -/
def scoutLeaves (len depth : Nat) : Nat := min (len / 128) (16 ^ depth)

/-- SCOUT_LEAF (07 R160): the next leaf is walked to and written. -/
def execScoutLeaf (t : TileId) (s : State) : EOut :=
  let x := s.tileAt t
  match (x.cmds .copyOut).head? with
  | none => .next s
  | some c => match c.body with
    | .scout root dst len depth space =>
      if !(s.enginesRun t && c.going && c.evicted.isNone && decide (c.unit < scoutLeaves len depth)) then .next s
      else
        let a : Word := BitVec.ofNat 64 (dst + 128 * c.unit)
        (match s.leafLine x.ctx root c.unit depth with
          | .error e => .next (s.engineStop t .copyOut e a (some (.hbm, s.leafLost x.ctx root c.unit depth)))
          | .ok v => .next (s.engineWrite t .copyOut c { c with unit := c.unit + 1 } (spaceOf space) a 128 v))
    | _ => .next s

/-- SCOUT_COMPLETE (07 R160). -/
def execScoutComplete (t : TileId) (s : State) : EOut :=
  let x := s.tileAt t
  match (x.cmds .copyOut).head? with
  | none => .next s
  | some c => match c.body with
    | .scout _ _ len depth _ =>
      if s.enginesRun t && c.going && decide (scoutLeaves len depth ≤ c.unit) && c.posts.isEmpty && x.mayPost c then
        .next (s.updAt t fun x => x.completeCmd .copyOut (BitVec.ofNat 64 (128 * scoutLeaves len depth)))
      else .next s
    | _ => .next s

/-! ### QFENCE (06 R124) -/

/-- The join of a number stands at the head of a queue. -/
def joinAt (z : List Cmd) (id : Nat) : Bool :=
  match z.head? with
  | some c => (match c.body with | .join j _ _ => j == id | _ => false)
  | none => false

/-- A gather or scatter of the tile from before a join has elements to perform. -/
def Tile.gathersBefore (t : Tile) (id : Nat) : Bool :=
  t.reqs.any fun r => decide (r.id < id) && (r.kind == .store || (match r.kind with | .load _ => true | _ => false)) &&
    r.pieces.any fun p => decide (p.size < 32) && !p.done

/-- QFENCE_JOIN_COMPLETE (06 R124): the join at the head of queue q heads every queue it names; it leaves them and its semaphore is signalled. -/
def execQfenceJoinComplete (t : TileId) (q : Queue) (s : State) : EOut :=
  let x := s.tileAt t
  match (x.cmds q).head? with
  | none => .next s
  | some c => match c.body with
    | .join id mask sem =>
      if s.enginesRun t && (List.range 7).all (fun e => !mask.getLsbD e || joinAt (rd x.q e) id) && !(mask.getLsbD 3 && x.gathersBefore id) then
        .next (s.updAt t fun x => (queues.foldl (fun x q => if mask.getLsbD (qIdx q) then x.popCmd q else x) x).smSignal sem)
      else .next s
    | _ => .next s

end Sys2Proof.Machine
end

