-- ==== Sys2Proof/Machine/KInt.lean ====
section
/-! DEFINITION. K integer arithmetic, branches and jumps (06 R100 to R103, 04 R68). -/

namespace Sys2Proof.Machine

/-- What a meaning answers. -/
abbrev Out := Host.Outcome State Fault Refusal

/-- kd := f ka kb (06 R100). -/
def State.kReg (s : State) (d a b : Reg) (f : Word → Word → Word) : State := s.kDone d (f (s.tile.kget a) (s.tile.kget b))

/-- kd := f ka imm, imm sign-extended (06 R102). -/
def State.kImm (s : State) (d a : Reg) (imm : BitVec 15) (f : Word → Word → Word) : State :=
  s.kDone d (f (s.tile.kget a) (imm.signExtend 64))

/-- The high half of the signed product. -/
def mulHi (x y : Word) : Word := (x.signExtend 128 * y.signExtend 128).extractLsb' 64 64

/-- The high half of the unsigned product. -/
def mulHiN (x y : Word) : Word := (x.zeroExtend 128 * y.zeroExtend 128).extractLsb' 64 64

/-- The signed quotient; all ones for a zero divisor (06 R101). -/
def divS (x y : Word) : Word := if y = 0 then BitVec.allOnes 64 else BitVec.sdiv x y

/-- The unsigned quotient; all ones for a zero divisor. -/
def divU (x y : Word) : Word := if y = 0 then BitVec.allOnes 64 else x / y

/-- The signed remainder with the sign of x; x for a zero divisor. -/
def remS (x y : Word) : Word := if y = 0 then x else BitVec.srem x y

/-- The unsigned remainder; x for a zero divisor. -/
def remU (x y : Word) : Word := if y = 0 then x else x % y

/-- 1 or 0. -/
def flagWord (b : Bool) : Word := if b then 1 else 0

/-- ADD: kd is the sum (06 R100). -/
def execAdd (d a b : Reg) (s : State) : Out := .next (s.kReg d a b (fun x y => x + y))

/-- SUB: kd is the difference (06 R100). -/
def execSub (d a b : Reg) (s : State) : Out := .next (s.kReg d a b (fun x y => x - y))

/-- AND: kd is the and (06 R100). -/
def execAnd (d a b : Reg) (s : State) : Out := .next (s.kReg d a b (fun x y => x &&& y))

/-- OR: kd is the or (06 R100). -/
def execOr (d a b : Reg) (s : State) : Out := .next (s.kReg d a b (fun x y => x ||| y))

/-- XOR: kd is the xor (06 R100). -/
def execXor (d a b : Reg) (s : State) : Out := .next (s.kReg d a b (fun x y => x ^^^ y))

/-- SHL: kd is the left shift by kb mod 64 (06 R100). -/
def execShl (d a b : Reg) (s : State) : Out := .next (s.kReg d a b (fun x y => x <<< (y.toNat % 64)))

/-- SHR: kd is the logical right shift by kb mod 64 (06 R100). -/
def execShr (d a b : Reg) (s : State) : Out := .next (s.kReg d a b (fun x y => x >>> (y.toNat % 64)))

/-- SAR: kd is the arithmetic right shift by kb mod 64 (06 R100). -/
def execSar (d a b : Reg) (s : State) : Out := .next (s.kReg d a b (fun x y => x.sshiftRight (y.toNat % 64)))

/-- MUL: kd is the low half of the product (06 R100). -/
def execMul (d a b : Reg) (s : State) : Out := .next (s.kReg d a b (fun x y => x * y))

/-- MULH: kd is the high half of the signed product (06 R100). -/
def execMulh (d a b : Reg) (s : State) : Out := .next (s.kReg d a b mulHi)

/-- MULHN: kd is the high half of the unsigned product (06 R100). -/
def execMulhn (d a b : Reg) (s : State) : Out := .next (s.kReg d a b mulHiN)

/-- DIV: kd is the signed quotient (06 R100, R101). -/
def execDiv (d a b : Reg) (s : State) : Out := .next (s.kReg d a b divS)

/-- DIVN: kd is the unsigned quotient (06 R100, R101). -/
def execDivn (d a b : Reg) (s : State) : Out := .next (s.kReg d a b divU)

/-- REM: kd is the signed remainder (06 R100, R101). -/
def execRem (d a b : Reg) (s : State) : Out := .next (s.kReg d a b remS)

/-- REMN: kd is the unsigned remainder (06 R100, R101). -/
def execRemn (d a b : Reg) (s : State) : Out := .next (s.kReg d a b remU)

/-- MIN: kd is the signed minimum (06 R100). -/
def execMin (d a b : Reg) (s : State) : Out := .next (s.kReg d a b (fun x y => if x.slt y then x else y))

/-- MAX: kd is the signed maximum (06 R100). -/
def execMax (d a b : Reg) (s : State) : Out := .next (s.kReg d a b (fun x y => if x.slt y then y else x))

/-- MINN: kd is the unsigned minimum (06 R100). -/
def execMinn (d a b : Reg) (s : State) : Out := .next (s.kReg d a b (fun x y => if x.ult y then x else y))

/-- MAXN: kd is the unsigned maximum (06 R100). -/
def execMaxn (d a b : Reg) (s : State) : Out := .next (s.kReg d a b (fun x y => if x.ult y then y else x))

/-- SLT: kd is the signed less-than (06 R100). -/
def execSlt (d a b : Reg) (s : State) : Out := .next (s.kReg d a b (fun x y => flagWord (x.slt y)))

/-- SLTN: kd is the unsigned less-than (06 R100). -/
def execSltn (d a b : Reg) (s : State) : Out := .next (s.kReg d a b (fun x y => flagWord (x.ult y)))

/-- ADDI (06 R102). -/
def execAddi (d a : Reg) (imm : BitVec 15) (s : State) : Out := .next (s.kImm d a imm (fun x y => x + y))

/-- ANDI (06 R102). -/
def execAndi (d a : Reg) (imm : BitVec 15) (s : State) : Out := .next (s.kImm d a imm (fun x y => x &&& y))

/-- ORI (06 R102). -/
def execOri (d a : Reg) (imm : BitVec 15) (s : State) : Out := .next (s.kImm d a imm (fun x y => x ||| y))

/-- XORI (06 R102). -/
def execXori (d a : Reg) (imm : BitVec 15) (s : State) : Out := .next (s.kImm d a imm (fun x y => x ^^^ y))

/-- SLTI (06 R102). -/
def execSlti (d a : Reg) (imm : BitVec 15) (s : State) : Out := .next (s.kImm d a imm (fun x y => flagWord (x.slt y)))

/-- SHLI (06 R102). -/
def execShli (d a : Reg) (sh : BitVec 6) (s : State) : Out :=
  .next (s.kReg d a 0 (fun x _ => x <<< sh.toNat))

/-- SHRI (06 R102). -/
def execShri (d a : Reg) (sh : BitVec 6) (s : State) : Out :=
  .next (s.kReg d a 0 (fun x _ => x >>> sh.toNat))

/-- SARI (06 R102). -/
def execSari (d a : Reg) (sh : BitVec 6) (s : State) : Out :=
  .next (s.kReg d a 0 (fun x _ => x.sshiftRight sh.toNat))

/-- K goes on behind a KX pair (04 R68). -/
def State.kLit (s : State) (d : Reg) (v : Word) : State := s.upd fun t => (t.kset d v).kGo (t.k.pc + 8)

/-- LIT (04 R68): the literal sign-extended. -/
def execLit (d : Reg) (w : BitVec 32) (s : State) : Out := .next (s.kLit d (w.signExtend 64))

/-- LIT.ZX (04 R68): the literal zero-extended. -/
def execLitZx (d : Reg) (w : BitVec 32) (s : State) : Out := .next (s.kLit d (w.zeroExtend 64))

/-- LIT.HI (04 R68): the literal over the low half of kd. -/
def execLitHi (d : Reg) (w : BitVec 32) (s : State) : Out :=
  .next (s.kLit d (w ++ (s.tile.kget d).extractLsb' 0 32))

/-- The target of a branch: its offset counts words (04 R64). -/
def kTarget {n : Nat} (pc : Word) (off : BitVec n) : Word := pc + 4 * off.signExtend 64

/-- A branch (06 R103): a target outside the stream raises ILLEGAL (04 R65). -/
def State.kBranch (s : State) (a b : Reg) (off : BitVec 15) (c : Word → Word → Bool) : State :=
  if c (s.tile.kget a) (s.tile.kget b) then s.kJump (kTarget s.tile.k.pc off) id else s.kSkip

/-- BEQ (06 R103). -/
def execBeq (a b : Reg) (off : BitVec 15) (s : State) : Out := .next (s.kBranch a b off (fun x y => x == y))

/-- BNE (06 R103). -/
def execBne (a b : Reg) (off : BitVec 15) (s : State) : Out := .next (s.kBranch a b off (fun x y => x != y))

/-- BLT (06 R103). -/
def execBlt (a b : Reg) (off : BitVec 15) (s : State) : Out := .next (s.kBranch a b off (fun x y => x.slt y))

/-- BGE (06 R103). -/
def execBge (a b : Reg) (off : BitVec 15) (s : State) : Out := .next (s.kBranch a b off (fun x y => !x.slt y))

/-- BLTN (06 R103). -/
def execBltn (a b : Reg) (off : BitVec 15) (s : State) : Out := .next (s.kBranch a b off (fun x y => x.ult y))

/-- BGEN (06 R103). -/
def execBgen (a b : Reg) (off : BitVec 15) (s : State) : Out := .next (s.kBranch a b off (fun x y => !x.ult y))

/-- JAL (06 R103): links into k31. -/
def execJal (off : BitVec 25) (s : State) : Out :=
  let pc := s.tile.k.pc
  .next (s.kJump (kTarget pc off) (fun t => t.kset 31 (pc + 4)))

/-- JALR (06 R103): the target is read before kd is written; a misaligned one is ALIGN. -/
def execJalr (d a : Reg) (imm : BitVec 15) (s : State) : Out :=
  let pc := s.tile.k.pc
  let t := s.tile.kget a + imm.signExtend 64
  if t.toNat % 4 ≠ 0 then .next (s.kFault .align t)
  else .next (s.kJump t (fun x => x.kset d (pc + 4)))

end Sys2Proof.Machine
end

