-- ==== Sys2Proof/Machine/Operands.lean ====
section
/-! DEFINITION. Operands in the register space: lost units met by a reading sequencer (23 R409, R410). -/

namespace Sys2Proof.Machine

/-- A lost unit of the stepping tile's register space met by its task is logged (23 R420). -/
def State.logReg (s : State) (u : StoredUnit) : State := s.logLost s.cur s.tile.launch s.tile.ctx 2 u.off

/-- Register-space bytes that an instruction of the stepping tile's L or S is about to consume: where a unit that is read is lost, the state
with the consumption logged (23 R410, R420). A sector whose valid bit is clear is never read. -/
def State.regLost (s : State) (a n : Nat) : Option State :=
  let t := s.tile
  match s.dev.lost.find? fun u => u.code == 2 && u.place == s.cur.val && a < u.off + 8 && u.off < a + n && t.valid u.off with
  | none => none
  | some u => some (s.logReg u)

/-- Bytes of the register space, address and length, that the stepping tile's L is about to write: where a lost unit is covered only in part, the state
with the error logged (23 R409, log 110). -/
def State.regPart (s : State) (rs : List (Nat × Nat)) : Option State :=
  (s.dev.lost.find? fun u => u.code == 2 && u.place == s.cur.val && s.tile.valid u.off && inRanges rs u.off 8 && !coversUnit rs u).map s.logReg

end Sys2Proof.Machine
end

