-- ==== Sys2Proof/Machine/LSCmd.lean ====
section
/-! DEFINITION. The engine commands of L and S at issue (07 R154 to R161): the descriptor's checks and the entry into the queue. -/

namespace Sys2Proof.Machine

/-- A space code of a copy descriptor is one of 0 S, 1 M, 2 L, 3 F, 5 H (07 R155). -/
def spaceCodeOk (c : Nat) : Bool := c == 0 || c == 1 || c == 2 || c == 3 || c == 5

/-- The flag byte of a descriptor: record, guard, barrier; reserved bits must be zero, and the guard slot without G (07 R155). -/
structure DescFlags where
  r : Bool
  guard : Option (BitVec 4)
  b : Bool
  ok : Bool
  deriving DecidableEq, Repr, Inhabited

/-- A flag byte read. barrier says whether flag B is allowed. -/
def descFlags (w : Nat) (barrier : Bool) : DescFlags :=
  let g := nbits w 1 1 == 1
  { r := nbits w 0 1 == 1, guard := if g then some (BitVec.ofNat 4 (nbits w 4 4)) else none, b := nbits w 2 1 == 1
    ok := nbits w 3 1 == 0 && (barrier || nbits w 2 1 == 0) && (g || nbits w 4 4 == 0) }

/-- A range of rows in space S that leaves the scratchpad: the first or last row does. -/
def leavesSpm (space addr len rows : Nat) (stride : Int) : Bool :=
  space == 0 && len != 0 && rows != 0 &&
    (let last : Int := addr + (rows - 1 : Nat) * stride
     decide (min (addr : Int) last < 0) || decide ((spmSize : Int) < max (addr : Int) last + len))

/-- What the checks of a descriptor give. -/
abbrev DescRes := Except (Cause × Word) (CmdBody × DescFlags × BitVec 8 × BitVec 8)

/-- A copy descriptor checked (07 R155, R157). With a reserved value and a misaligned or outside field both there, ILLEGAL is raised (log 106). -/
def copyDesc (w : Nat) (two : Bool) : DescRes :=
  let f := descFlags (nbits w 192 8) true
  let d : CopyDesc :=
    { src := nbits w 0 64, dst := nbits w 64 64, len := nbits w 128 32, srcSpace := nbits w 160 8, dstSpace := nbits w 168 8
      bar := if f.b then some (nbits w 224 32) else none
      rows := if two then nbits w 256 32 else 1
      srcStride := if two then (BitVec.ofNat 64 (nbits w 320 64)).toInt else 0
      dstStride := if two then (BitVec.ofNat 64 (nbits w 384 64)).toInt else 0 }
  let bar := nbits w 224 32
  if !f.ok || nbits w 200 24 != 0 || (!f.b && bar != 0) || !spaceCodeOk d.srcSpace || !spaceCodeOk d.dstSpace ||
      (two && (nbits w 288 32 != 0 || nbits w 448 64 != 0)) then .error (.illegal, 0)
  else if d.src % 32 != 0 then .error (.align, BitVec.ofNat 64 d.src)
  else if d.dst % 32 != 0 then .error (.align, BitVec.ofNat 64 d.dst)
  else if d.len % 32 != 0 || d.srcStride % 32 != 0 || d.dstStride % 32 != 0 then .error (.align, 0)
  else if bar % 16 != 0 || decide (spmSize ≤ bar) then .error (.align, BitVec.ofNat 64 bar)
  else if leavesSpm d.srcSpace d.src d.len d.rows d.srcStride then .error (.align, BitVec.ofNat 64 d.src)
  else if leavesSpm d.dstSpace d.dst d.len d.rows d.dstStride then .error (.align, BitVec.ofNat 64 d.dst)
  else .ok (if two then .copy2 d else .copy d, f, BitVec.ofNat 8 (nbits w 176 8), BitVec.ofNat 8 (nbits w 184 8))

/-- The size of the sparsity side memory (01 R8). -/
def sideSize : Nat := 0x4000

/-- An MDLD descriptor checked (07 R159). -/
def mdldDesc (w : Nat) : DescRes :=
  let f := descFlags (nbits w 192 8) false
  let d : CopyDesc :=
    { src := nbits w 0 64, dst := nbits w 64 64, len := nbits w 128 32, srcSpace := nbits w 160 8, dstSpace := 0, bar := none
      rows := 1, srcStride := 0, dstStride := 0 }
  if !f.ok || nbits w 200 24 != 0 || nbits w 224 32 != 0 || nbits w 168 8 != 0 || !(d.srcSpace == 0 || d.srcSpace == 2) then
    .error (.illegal, 0)
  else if d.src % 32 != 0 then .error (.align, BitVec.ofNat 64 d.src)
  else if d.dst % 32 != 0 || decide (sideSize < d.dst + d.len) then .error (.align, BitVec.ofNat 64 d.dst)
  else if d.len % 32 != 0 then .error (.align, 0)
  else if leavesSpm d.srcSpace d.src d.len 1 0 then .error (.align, BitVec.ofNat 64 d.src)
  else .ok (.mdld d, f, BitVec.ofNat 8 (nbits w 176 8), BitVec.ofNat 8 (nbits w 184 8))

/-- A copy-out descriptor checked (07 R160): a reserved byte or flag, a depth over 7 and a space code that is none raise ILLEGAL, a dst or a
length off its multiple of 128 ALIGN (log 106). A leaf outside the scratchpad is an engine fault when it is written. -/
def scoutDesc (w : Nat) : DescRes :=
  let f := descFlags (nbits w 192 8) false
  let dst := nbits w 64 64
  let len := nbits w 128 32
  let depth := nbits w 160 8
  let space := nbits w 168 8
  if !f.ok || nbits w 200 56 != 0 || decide (7 < depth) || !spaceCodeOk space then .error (.illegal, 0)
  else if dst % 128 != 0 then .error (.align, BitVec.ofNat 64 dst)
  else if len % 128 != 0 then .error (.align, 0)
  else .ok (.scout (BitVec.ofNat 64 (nbits w 0 64)) dst len depth space, f, BitVec.ofNat 8 (nbits w 176 8), BitVec.ofNat 8 (nbits w 184 8))

/-- A word whose descriptor stands in a register: the checks, then the command enters its queue (07 R154). n is the descriptor's length. Lost
register-space data under the descriptor is ECC_UNCORRECTED with address 0 (log 117). -/
def State.lsDesc (s : State) (f : LSF) (q : Queue) (n : Nat) (check : Nat → DescRes) : State :=
  s.lsRun .l f [] [] fun s1 =>
    let t := s1.tile
    let clk := (t.clkOf .l).tick .l
    if !t.queueSpace q || t.faccOpen || t.loadOver (128 * f.vreg.toNat) n then .wait
    else match s.regLost (128 * f.vreg.toNat) n with
    | some s' => .stop s' .eccUncorrected 0
    | none => match check (t.rread (128 * f.vreg.toNat) n) with
      | .error (c, a) => .fault c a none
      | .ok (body, fl, wait, signal) =>
        .next (s1.upd fun t => t.pushCmd q (newCmd body (t.l.pc.setWidth 32) fl.guard wait signal fl.r clk)) 0

/-- CPY (07 R155). -/
def execCpy (f : LSF) (s : State) : Out := .next (s.lsDesc f .copy 32 fun w => copyDesc w false)

/-- CPY2 (07 R157). -/
def execCpy2 (f : LSF) (s : State) : Out := .next (s.lsDesc f .copy 64 fun w => copyDesc w true)

/-- MDLD (07 R159). -/
def execMdld (f : LSF) (s : State) : Out := .next (s.lsDesc f .metadata 32 mdldDesc)

/-- SCOUT (07 R160). -/
def execScout (f : LSF) (s : State) : Out := .next (s.lsDesc f .copyOut 32 scoutDesc)

/-- PFH (07 R158): the vector field holds n − 1. -/
def execPfh (f : LSF) (s : State) : Out :=
  .next <| s.lsRun .l f (addrRegsOf f) [] fun s1 =>
    let t := s1.tile
    if !t.queueSpace .copy || t.faccOpen then .wait
    else
      let c := newCmd (.prefetch (t.lsEa .l .offset f) (f.vreg.toNat + 1)) (t.l.pc.setWidth 32) none 0 0 false ((t.clkOf .l).tick .l)
      .next (s1.upd fun t => t.pushCmd .copy c) 0

/-- A send word and its registers are ones that FSEND (r2 none) or FSEND2 takes (07 R161). -/
def sendOk (w : Word) (r1 : Nat) (r2 : Option Nat) : Bool :=
  let flits := bits w 17 16 + 1
  bits w 63 42 == 0 && (bit w 37 || bits w 41 38 == 0) &&
    (match r2 with
      | none => decide (r1 + 2 * flits ≤ 2048)
      | some r => flits % 2 == 0 && decide (r1 + flits ≤ 2048) && decide (r + flits ≤ 2048))

/-- FSEND and FSEND2 at issue (07 R161). -/
def State.lsSend (s : State) (f : LSF) (r2 : Option Nat) (seq : Tile → BitVec 16) : State :=
  s.sRun f (addrRegsOf f) [] fun s1 =>
    let t := s1.tile
    let w := t.areg .s f.base
    if !t.queueSpace .send then .wait
    else if !sendOk w f.vreg.toNat r2 then .fault .illegal 0 none
    else
      let g := if bit w 37 then some (w.extractLsb' 38 4) else none
      let c := newCmd (.send w (seq t) f.vreg.toNat r2) (t.s.pc.setWidth 32) g (w.extractLsb' 20 8) (w.extractLsb' 28 8) (bit w 36)
        ((t.clkOf .s).tick .s)
      .next (s1.upd fun t => t.pushCmd .send c) 0

/-- FSEND (07 R161): the sequence is index + imm20. -/
def execFsend (f : LSF) (s : State) : Out :=
  .next (s.lsSend f none fun t => (t.indexOf .s f + dispOf f).setWidth 16)

/-- FSEND2 (07 R161): the sequence is index; imm20 names the second payload register. -/
def execFsend2 (f : LSF) (s : State) : Out :=
  .next (s.lsSend f (some (bits f.imm 10 0)) fun t => (t.indexOf .s f).setWidth 16)

end Sys2Proof.Machine
end

