-- ==== Sys2Proof/Machine/CLoop.lean ====
section
/-! DEFINITION. How C advances (09 R204, R208): the loop test of a bundle, the rotating base and the stage predicates. -/

namespace Sys2Proof.Machine

/-- The stage predicates at a loop-back of a pipelined loop of n trips, b counted from 1 (09 R208). -/
def stageShift (p : Vector Mask 8) (stages n b : Nat) : Vector Mask 8 :=
  let p := (List.range (stages - 1)).reverse.foldl (fun p t => wr p (5 + t) (rd p (4 + t))) p
  wr p 4 (if b < n then BitVec.allOnes 128 else 0)

/-- What a loop-back of counter j does beside the counter: the rotating base steps back and a pipelined loop shifts its stages
(09 R208). -/
def CState.loopedBack (x : CState) (rotating : Bool) (j : Nat) : CState :=
  let l := rd x.lc j
  let x := if rotating && x.rot.r != 0 then { x with rot := { x.rot with rb := (x.rot.rb + x.rot.r - 1) % x.rot.r } } else x
  if l.pipe != 0 && x.rot.stages != 0 then { x with p := stageShift x.p x.rot.stages l.pipe l.backs } else x

/-- C has issued its bundle and continues at an address. -/
def Tile.cGo (t : Tile) (lc : Vector Loop 4) (pc : Word) : Tile :=
  { t with c := { t.c with lc := lc, pc := pc, since := none, resv := false, clk := t.c.clk.tick .c } }

/-- C has issued its bundle, which is no taken branch: the loop test, then the next bundle (09 R204). -/
def Tile.cNext (t : Tile) : Tile :=
  let r := testLoops t.c.lc (t.c.pc + 16) (loopsAt t.c.lc t.c.pc)
  let t' := t.cGo r.1 r.2.1
  match r.2.2 with
  | none => t'
  | some j => { t' with c := t'.c.loopedBack (!t.loopmode) j }

/-- C waits at its bundle. -/
def Tile.cHold (t : Tile) (now : Nat) : Tile := { t with c := { t.c with since := some (t.c.since.getD now) } }

end Sys2Proof.Machine
end

