-- ==== Sys2Proof/Machine/Flags.lean ====
section
/-! DEFINITION. Lanes and predicates of C (08 R173, R174, R179, R180): elements of a register, lane masks, and what compares and predicate
logic write. -/

namespace Sys2Proof.Machine

/-- The elements of a register, w bytes each (02 R19). -/
def elems (w : Nat) (v : Vec) : List Nat := (List.range (128 / w)).map fun e => nbits v.toNat (8 * w * e) (8 * w)

/-- A register of elements of w bytes. -/
def pack (w : Nat) (l : List Nat) : Vec := BitVec.ofNat 1024 (l.foldr (fun x a => x % 2 ^ (8 * w) + a * 2 ^ (8 * w)) 0)

/-- Element e of width w is active under a mask (08 R173). -/
def active (m : Mask) (w e : Nat) : Bool := m.getLsbD (e * w)

/-- The bits of n elements that are w bits wide in a mask, as one number. -/
def spread (n w : Nat) (f : Nat → Bool) : Nat :=
  (List.range n).foldr (fun e a => (if f e then 2 ^ w - 1 else 0) + a * 2 ^ w) 0

/-- A register formed from new elements where active, else from old ones, or zero with the zero bit (04 R74). -/
def mergeLanes (m : Mask) (w : Nat) (zero : Bool) (new old : Vec) : Vec :=
  let k := BitVec.ofNat 1024 (spread (128 / w) (8 * w) (active m w))
  (new &&& k) ||| (if zero then 0 else old &&& ~~~k)

/-- A predicate formed from the outcomes of active elements, else from the old bits, or cleared with the zero bit (08 R173, 04 R74). -/
def mergePred (m : Mask) (w : Nat) (zero : Bool) (f : Nat → Bool) (old : Mask) : Mask :=
  let k := BitVec.ofNat 128 (spread (128 / w) w (active m w))
  let new := BitVec.ofNat 128 (spread (128 / w) w f)
  (new &&& k) ||| (if zero then 0 else old &&& ~~~k)

/-- The outcome of predicate logic under its bit mask (08 R180). -/
def mergeBits (m : Mask) (zero : Bool) (new old : Mask) : Mask := (new &&& m) ||| (if zero then 0 else old &&& ~~~m)

/-- The outcomes of the floating-point compares (08 R179). -/
def cmpFloat (op : VCode) (a b : FVal) : Bool :=
  match op with
  | .vcmpeq => a.eqv b
  | .vcmplt => a.lt b
  | .vcmple => !a.isNan && !b.isNan && !b.lt a
  | _ => a.isNan || b.isNan

/-- The outcomes of the integer compares (08 R178). -/
def cmpInt (op : VCode) (n a b : Nat) : Bool :=
  match op with
  | .vicmpeq => a == b
  | _ => (BitVec.ofNat n a).slt (BitVec.ofNat n b)

end Sys2Proof.Machine
end

