-- ==== Sys2Proof/Machine/Rng.lean ====
section
/-! DEFINITION. The generator of 03 R60 and R61. -/

namespace Sys2Proof.Machine

/-- One round of the generator (03 R61). -/
def rngRound (key x : Word) (mul : Word) (sh kr xr : Nat) : Word :=
  let x := x ^^^ key.rotateLeft kr
  let x := x ^^^ (x >>> sh)
  (x * mul).rotateLeft xr

/-- The generator word of a key and counter (03 R61). -/
def rngWord (key c : Word) : Word :=
  let x := rngRound key c 0x8F3B6A91D54C2E07 31 0 23
  let x := rngRound key x 0xE5A10C4793F268BB 29 17 41
  let x := rngRound key x 0x9B2DE7164C08AF35 32 34 9
  let x := rngRound key x 0xD46F39A2B7E15C13 27 51 37
  x ^^^ (x >>> 31)

/-- The counter of a lane (03 R60). -/
def rngCounter (cbase : Word) (task : Nat) (v : Nat) (lane : Nat) : Word :=
  cbase + BitVec.ofNat 64 (task * 2 ^ 32 + v % 2 ^ 27 * 32 + lane)

end Sys2Proof.Machine
end

