-- ==== Sys2Proof/Machine/Special.lean ====
section
/-! DEFINITION. Lane trees, special functions, row statistics and softmax (03 R42, R43, R49 to R58). -/

namespace Sys2Proof.Machine

/-! ### Lane trees (03 R42) -/

/-- One level of a tree: neighbours combined, a child without a partner kept. -/
def treeLevel (f : FVal → FVal → FVal) : List (Option FVal) → List (Option FVal)
  | a :: b :: r => (match a, b with
      | some x, some y => some (f x y)
      | some x, none => some x
      | none, y => y) :: treeLevel f r
  | [a] => [a]
  | [] => []

/-- n levels of a tree. -/
def treeLevels (f : FVal → FVal → FVal) : Nat → List (Option FVal) → List (Option FVal)
  | 0, l => l
  | n + 1, l => treeLevels f n (treeLevel f l)

/-- The root of the tree over a row, absent leaves none. -/
def tree (f : FVal → FVal → FVal) (l : List (Option FVal)) : Option FVal :=
  (treeLevels f (Nat.log2 l.length + 1) l).headD none

/-- The sum at a node. -/
def flAdd (a b : FVal) : FVal := fl (a.add b)

/-- The R42 sum of a row; +0 if nothing is present. -/
def treeSum (l : List (Option FVal)) : FVal := (tree flAdd l).getD (.zero false)

/-! ### Special functions (03 R50 to R56), on F32 values -/

/-- A Horner chain: fma with each coefficient in turn. -/
def horner (p x : FVal) (cs : List Nat) : FVal := cs.foldl (fun p c => fma p x (f32 c)) p

/-- EXP2 (03 R50). -/
def fexp2 (x : FVal) : FVal :=
  match x with
  | .nan => .nan
  | .inf n => if n then .zero false else .inf false
  | _ =>
    if !x.lt (.int 256) then .inf false
    else if !(FVal.int (-256)).lt x then .zero false
    else
      let n := x.nearest
      let f := x.sub (.int n)
      let p := horner (f32 0x39218489) f [0x3AAEC3FF, 0x3C1D955B, 0x3D635847, 0x3E75FDF0, 0x3F317218, 0x3F800000]
      fl (p.scale n)

/-- The exponent and significand of a positive finite value: x = 2^e × m with m in [1, 2). -/
def normParts (m : Nat) (e : Int) : Int × FVal :=
  let k := Nat.log2 m
  ((k : Int) + e, .fin false m (-(k : Int)))

/-- LOG2 (03 R51). -/
def flog2 (x : FVal) : FVal :=
  match x with
  | .nan => .nan
  | .inf n => if n then .nan else .inf false
  | .fin n m e =>
    if m = 0 then .inf true
    else if n then .nan
    else
      let (e, y) := normParts m e
      let half := !y.lt (f32 0x3FB504F3)
      let y := if half then y.scale (-1) else y
      let e := if half then e + 1 else e
      let t := fl ((y.sub (.int 1)).div (fl (y.add (.int 1))))
      let z := fl (t.mul t)
      let p := horner (f32 0x3ED30BB1) z [0x3F13BB63, 0x3F76384F, 0x4038AA3B]
      fl ((FVal.int e).add (fl (p.mul t)))

/-- The reduced argument of VSIN and VCOS: f and q (03 R52). -/
def turnParts (x : FVal) : FVal × Int :=
  let n := (x.scale 2).nearest
  (x.sub (.ofInt n (-2)), n % 4)

/-- The sine core. -/
def sinCore (f : FVal) : FVal :=
  fl (f.mul (horner (f32 0x42283C1A) (fl (f.mul f)) [0xC2996966, 0x42A335E3, 0xC2255DE7, 0x40C90FDB]))

/-- The cosine core. -/
def cosCore (f : FVal) : FVal :=
  horner (f32 0x4270FA83) (fl (f.mul f)) [0xC2AAE9E4, 0x4281E0F8, 0xC19DE9E6, 0x3F800000]

/-- A zero result takes the sign given (03 R52). -/
def zeroSign (v : FVal) (neg : Bool) : FVal := if v.isZero then .zero neg else v

/-- VSIN (03 R52). -/
def fsin (x : FVal) : FVal :=
  match x with
  | .fin neg m _ =>
    let (f, q) := turnParts x
    let r := if q = 0 then sinCore f else if q = 1 then cosCore f else if q = 2 then (sinCore f).neg else (cosCore f).neg
    zeroSign r (neg && m == 0 && q == 0)
  | _ => .nan

/-- VCOS (03 R52). -/
def fcos (x : FVal) : FVal :=
  match x with
  | .fin _ _ _ =>
    let (f, q) := turnParts x
    let r := if q = 0 then cosCore f else if q = 1 then (sinCore f).neg else if q = 2 then (cosCore f).neg else sinCore f
    zeroSign r false
  | _ => .nan

/-- The magnitude of a value. -/
def FVal.abs (v : FVal) : FVal := if v.neg? then v.neg else v

/-- The constant L (03 R53, R58). -/
def log2e : FVal := f32 0x3FB8AA3B

/-- VTANH (03 R53). -/
def ftanh (x : FVal) : FVal :=
  match x with
  | .nan => .nan
  | _ =>
    let a := x.abs
    if x.isZero then x
    else if a.lt (.ofInt 1 (-3)) then
      let z := fl (x.mul x)
      fma (fl ((horner (f32 0xBD5D0DD1) z [0x3E088889, 0xBEAAAAAB]).mul z)) x x
    else if a.lt (.int 9) then
      let u := fexp2 (fl ((a.scale 1).neg.mul log2e))
      let r := fl ((fl ((FVal.int 1).sub u)).div (fl ((FVal.int 1).add u)))
      if x.neg? then r.neg else r
    else if x.neg? then .int (-1) else .int 1

/-- The reciprocal seed of fraction bits [22:15]: 512 / (513 + 2i) to 12 fraction bits (03 R55). -/
def rcpSeed (i : Nat) : FVal :=
  let d := 513 + 2 * i
  .fin false ((2 * (512 * 2 ^ 13) + d) / (2 * d)) (-13)

/-- The reciprocal square-root seed (03 R55): j is fraction bits [22:16]. -/
def rsqrtSeed (odd : Bool) (j : Nat) : FVal :=
  let x := (if odd then 2 ^ 28 * 128 else 2 ^ 28 * 256) / (257 + 2 * j)
  .fin false ((isqrt x + 1) / 2) (-13)

/-- Fraction bits hi to lo of a significand in [1, 2). -/
def fracBits (y : FVal) (hi lo : Nat) : Nat := nbits (f32enc y) lo (hi + 1 - lo)

/-- VRCP (03 R55, R56). -/
def frcp (x : FVal) : FVal :=
  match x with
  | .nan => .nan
  | .inf n => .zero n
  | .fin n m e =>
    if m = 0 then .inf n
    else
      let (e, y) := normParts m e
      let step := fun (v : FVal) => fma v (fma y.neg v (.int 1)) v
      let r := fl ((step (step (rcpSeed (fracBits y 22 15)))).scale (-e))
      if n then r.neg else r

/-- VRSQRT (03 R55, R56). -/
def frsqrt (x : FVal) : FVal :=
  match x with
  | .nan => .nan
  | .inf n => if n then .nan else .zero false
  | .fin n m e =>
    if m = 0 then .inf n
    else if n then .nan
    else
      let (e, y) := normParts m e
      let odd := e % 2 != 0
      let w := if odd then y.scale 1 else y
      let step := fun (v : FVal) => fma (fl (v.scale (-1))) (fma w.neg (fl (v.mul v)) (.int 1)) v
      let r := step (step (rsqrtSeed odd (fracBits y 22 16)))
      fl (r.scale (-((if odd then e - 1 else e) / 2)))

/-- VSQRT (03 R56). -/
def fsqrt (x : FVal) : FVal := fl x.sqrt

/-- VDIV (03 R56). -/
def fdiv (a b : FVal) : FVal := fl (a.div b)

/-! ### Row statistics (03 R57) -/

/-- What VRSTAT computes: mean, variance, whether the overflow flag is set. -/
structure RowStat where
  mean : FVal
  var : FVal
  ovf : Bool
  n : Nat
  deriving DecidableEq, Repr, Inhabited

/-- VRSTAT of a row, masked positions none. -/
def rowStat (row : List (Option FVal)) : RowStat :=
  let xs := row.filterMap id
  let n := xs.length
  match xs with
  | [] => ⟨.zero false, .zero false, false, 0⟩
  | x0 :: _ =>
    if xs.any fun x => !x.isFin then ⟨.nan, .nan, false, n⟩
    else
      let d := row.map fun x => x.map fun v => fl (v.sub x0)
      let sq := d.map fun x => x.map fun v => fl (v.mul v)
      let s1 := treeSum d
      let s2 := treeSum sq
      let k := FVal.int n
      let mean := fl (x0.add (fdiv s1 k))
      let q := fdiv (fl (s1.mul s1)) k
      let ovf := !s1.isFin || !s2.isFin || !(fl (s1.mul s1)).isFin || d.any (fun x => x.any fun v => !v.isFin) ||
        sq.any (fun x => x.any fun v => !v.isFin)
      if ovf then ⟨mean, .inf false, true, n⟩
      else ⟨mean, (FVal.zero false).max (fdiv (fl (s2.sub q)) k), false, n⟩

/-! ### Softmax (03 R58) -/

/-- The row of VRSOFT: its results by position, and whether it had no included lane. -/
def rowSoft (row : List (Option FVal)) : List FVal × Bool :=
  let inc := row.map fun x => x.bind fun v => if v = .inf true then none else some v
  let live := inc.filterMap id
  let zero := row.map fun _ => FVal.zero false
  if live.any FVal.isNan then (row.map fun _ => .nan, false)
  else if live.isEmpty then (zero, true)
  else
    let k := (live.filter fun v => v == .inf false).length
    if k ≠ 0 then
      let r := fdiv (.int 1) (.int k)
      (inc.map fun x => if x = some (.inf false) then r else .zero false, false)
    else
      let m := (tree FVal.max inc).getD (.zero false)
      let e := inc.map fun x => x.map fun v => fexp2 (fl ((fl (v.sub m)).mul log2e))
      let t := treeSum e
      (e.map fun x => match x with | some v => fdiv v t | none => .zero false, false)

end Sys2Proof.Machine
end

