-- ==== Sys2Proof/Machine/CVec.lean ====
section
/-! DEFINITION. The vector slots of C (08 R172 to R195): operands through the bypass network and what each instruction computes. -/

namespace Sys2Proof.Machine

/-- The launch's part of the generator: key, counter base, task index (03 R60). -/
structure RngKey where
  seed : Word
  cbase : Word
  task : Nat
  deriving DecidableEq, Repr, Inhabited

/-- What a vector slot leaves: registers from the first on, a predicate, and bytes of the register space written after them. net says that
the result is one register, which enters the bypass network (08 R175). -/
structure SlotOut where
  regs : List (Nat × Vec)
  net : Bool
  pred : Option (BitVec 3 × Mask)
  mem : List (Nat × Nat × Nat)
  deriving DecidableEq, Repr, Inhabited

/-- A slot that leaves nothing. -/
def SlotOut.nothing : SlotOut := ⟨[], false, none, []⟩

/-- One register. -/
def SlotOut.one (r : Nat) (v : Vec) : SlotOut := ⟨[(r, v)], true, none, []⟩

/-- A predicate. -/
def SlotOut.prd (p : BitVec 3) (m : Mask) : SlotOut := ⟨[], false, some (p, m), []⟩

/-- A register as a bundle reads it: the newest entry of the bypass network, else the register space (08 R175). -/
def Tile.cread (t : Tile) (r : Nat) : Vec :=
  match t.c.bypass.reverse.find? fun b => b.v && b.reg.toNat == r with
  | some b => b.val
  | none => t.vreg r

/-- The mask a slot's predicate and negate bit give (08 R173). -/
def CState.mask (c : CState) (f : SlotF) : Mask :=
  let m := if f.pred = 0 then BitVec.allOnes 128 else rd c.p f.pred.toNat
  if f.neg then ~~~m else m

/-- A predicate read as a source; p0 is all ones. -/
def CState.pget (c : CState) (n : Nat) : Mask := if n % 8 = 0 then BitVec.allOnes 128 else rd c.p (n % 8)

/-- The literal as an element of w bytes (04 R73). -/
def litElem (w : Nat) (l : BitVec 32) : Nat :=
  if w = 8 then (l.signExtend 64).toNat else l.toNat % 2 ^ (8 * w)

/-- A register with one element everywhere. -/
def splat (w x : Nat) : Vec := pack w (List.replicate (128 / w) x)

/-- What a vector slot is evaluated with: the tile, the generator's key, the zero bit, the literal, and the renamed slot. -/
structure SlotIn where
  t : Tile
  key : RngKey
  zero : Bool
  lit : Option (BitVec 32)
  s : Slot

/-- The mask of the slot. -/
def SlotIn.m (x : SlotIn) : Mask := x.t.c.mask x.s.f

/-- Operand va. -/
def SlotIn.va (x : SlotIn) : Vec := x.t.cread x.s.f.va.toNat

/-- Operand vb at element width w: the literal, or the register. -/
def SlotIn.vb (x : SlotIn) (w : Nat) : Vec :=
  match x.lit with
  | some l => splat w (litElem w l)
  | none => x.t.cread x.s.f.vb.toNat

/-- The old destination. -/
def SlotIn.old (x : SlotIn) : Vec := x.t.cread x.s.f.vd.toNat

/-- A one-register result under the lane mask at width w. -/
def SlotIn.out (x : SlotIn) (w : Nat) (v : Vec) : SlotOut := .one x.s.f.vd.toNat (mergeLanes x.m w x.zero v x.old)

/-- The element format of the float families. -/
def SlotIn.fmt (x : SlotIn) : FFmt :=
  match x.s.ty.toNat with
  | 1 => fBF16
  | 2 => fF16
  | _ => fF32

/-- Its width in bytes. -/
def SlotIn.fw (x : SlotIn) : Nat := if x.s.ty = 0 then 4 else 2

/-- The element width of the integer and permute families (05 R94). -/
def SlotIn.iw (x : SlotIn) : Nat :=
  match x.s.ty.toNat with
  | 1 => 2
  | 2 => 1
  | 3 => 8
  | _ => 4

/-- Three lists combined element by element. -/
def zip3 {α β γ δ : Type} (f : α → β → γ → δ) (a : List α) (b : List β) (c : List γ) : List δ :=
  List.zipWith (fun p z => f p.1 p.2 z) (a.zip b) c

/-! ### Floating-point and integer families (08 R176 to R178, R181, R182) -/

/-- A float operation of two operands, rounded once in RNE. -/
def SlotIn.f2 (x : SlotIn) (f : FVal → FVal → FVal) : SlotOut :=
  let g := x.fmt
  x.out x.fw (pack x.fw (List.zipWith (fun a b => g.enc .rne (f (g.val a) (g.val b))) (elems x.fw x.va) (elems x.fw (x.vb x.fw))))

/-- A float operation with vd as third source. -/
def SlotIn.f3 (x : SlotIn) (f : FVal → FVal → FVal → FVal) : SlotOut :=
  let g := x.fmt
  x.out x.fw (pack x.fw (zip3 (fun a b c => g.enc .rne (f (g.val a) (g.val b) (g.val c)))
    (elems x.fw x.va) (elems x.fw (x.vb x.fw)) (elems x.fw x.old)))

/-- A copy of bit patterns. -/
def SlotIn.bitwise2 (x : SlotIn) (w : Nat) (f : Nat → Nat → Nat) : SlotOut :=
  x.out w (pack w (List.zipWith f (elems w x.va) (elems w (x.vb w))))

/-- A copy of va's bit patterns. -/
def SlotIn.bitwise1 (x : SlotIn) (w : Nat) (f : Nat → Nat) : SlotOut := x.out w (pack w ((elems w x.va).map f))

/-- An integer operation at the element width. -/
def SlotIn.i2 (x : SlotIn) (f : (n : Nat) → BitVec n → BitVec n → BitVec n) : SlotOut :=
  let n := 8 * x.iw
  x.bitwise2 x.iw fun a b => (f n (BitVec.ofNat n a) (BitVec.ofNat n b)).toNat

/-- The high half of a signed product. -/
def mulHighS (n : Nat) (a b : BitVec n) : BitVec n := (a.signExtend (2 * n) * b.signExtend (2 * n)).extractLsb' n n

/-- A float compare. -/
def SlotIn.cmpF (x : SlotIn) : SlotOut :=
  let g := x.fmt
  let rs := List.zipWith (fun a b => cmpFloat x.s.op (g.val a) (g.val b)) (elems x.fw x.va) (elems x.fw (x.vb x.fw))
  let pd : BitVec 3 := x.s.f.vd.setWidth 3
  .prd pd (mergePred x.m x.fw x.zero (fun e => rs.getD e false) (x.t.c.pget pd.toNat))

/-- An integer compare. -/
def SlotIn.cmpI (x : SlotIn) : SlotOut :=
  let rs := List.zipWith (cmpInt x.s.op (8 * x.iw)) (elems x.iw x.va) (elems x.iw (x.vb x.iw))
  let pd : BitVec 3 := x.s.f.vd.setWidth 3
  .prd pd (mergePred x.m x.iw x.zero (fun e => rs.getD e false) (x.t.c.pget pd.toNat))

/-- Predicate logic. -/
def SlotIn.plog (x : SlotIn) (f : Mask → Mask → Mask) : SlotOut :=
  let pd : BitVec 3 := x.s.f.vd.setWidth 3
  .prd pd (mergeBits x.m x.zero (f (x.t.c.pget x.s.f.va.toNat) (x.t.c.pget x.s.f.vb.toNat)) (x.t.c.pget pd.toNat))

/-- VSEL: byte by byte under the selector. -/
def SlotIn.vsel (x : SlotIn) : SlotOut :=
  let k := BitVec.ofNat 1024 (spread 128 8 (active x.m 1))
  .one x.s.f.vd.toNat ((x.va &&& k) ||| (x.vb 4 &&& ~~~k))

/-- VBCAST, VSHUF, VROT and VIOTA. -/
def SlotIn.perm (x : SlotIn) : SlotOut :=
  let w := x.iw
  let n := 128 / w
  let a := elems w x.va
  let b := elems w (x.vb w)
  let b0 := b.headD 0
  let r := match x.s.op with
    | .vbcast => List.replicate n b0
    | .vshuf => b.map fun i => if i < n then a.getD i 0 else 0
    | .vrot => (List.range n).map fun e => a.getD ((e + b0) % n) 0
    | _ => (List.range n).map fun e => b0 + e
  x.out w (pack w r)

/-- VCOMPR: the selected elements packed to the bottom. -/
def SlotIn.vcompr (x : SlotIn) : SlotOut :=
  let w := x.iw
  .one x.s.f.vd.toNat (pack w ((elems w x.va).zipIdx.filterMap fun p => if active x.m w p.2 then some p.1 else none))

/-- A list of indices filled up with absent offsets (08 R184). -/
def fillAbsent (l : List Nat) : Vec := pack 4 (l ++ List.replicate (32 - l.length) 0xFFFFFFFF)

/-- VPART: the two lists and their lengths. -/
def SlotIn.vpart (x : SlotIn) : SlotOut :=
  let a := (elems 4 x.va).zipIdx
  let t := a.filterMap fun p => if active x.m 4 p.2 then some p.1 else none
  let f := a.filterMap fun p => if active x.m 4 p.2 then none else some p.1
  let d := x.s.f.vd.toNat
  ⟨[(d, fillAbsent t), (d + 1, fillAbsent f), (d + 2, pack 4 [t.length, f.length])], false, none, []⟩

/-! ### Conversions (08 R185 to R188) -/

/-- Whether VCVTO takes a pair of formats (02 R37). -/
def cvtoOk (src dst : NumFmt) : Bool :=
  match src, dst with
  | .float f, .float g => (f == fF32 || f == fBF16 || f == fF16) && g != fF32
  | _, _ => false

/-- The plan of a conversion: the formats, the rounding code, element count, and the offset of each side in elements. -/
structure CvtPlan where
  src : NumFmt
  dst : NumFmt
  mode : Nat
  n : Nat
  so : Nat
  dof : Nat
  deriving DecidableEq, Repr, Inhabited

/-- The plan of VCVT, VCVTO or VCVTS; none is ILLEGAL (02 R40, 08 R185 to R187). -/
def SlotIn.cvtPlan (x : SlotIn) : Option CvtPlan :=
  let vb := x.s.f.vb
  match x.t.c.ftSel (bits vb 6 0) with
  | none => none
  | some e => match numFmt (bits e 14 10), numFmt (bits e 24 20) with
    | some src, some dst =>
      let big := max src.width dst.width
      let p := bits vb 9 7
      let n := 1024 / big
      let mode := match x.s.op with
        | .vcvt => if bits e 31 29 = 4 then 0 else bits e 31 29
        | .vcvts => 4
        | _ => bits e 31 29
      if big / min src.width dst.width ≤ p || (x.s.op == .vcvto && !cvtoOk src dst) ||
          (x.s.op != .vcvt && decide (2047 < x.s.f.vd.toNat + 1)) then none
      else some ⟨src, dst, mode, n, if src.width < dst.width then p * n else 0, if dst.width < src.width then p * n else 0⟩
    | _, _ => none

/-- The part field of a conversion between two formats is too large, which makes the encoding reserved (08 R185). -/
def CState.partBad (c : CState) (vb : BitVec 11) : Bool :=
  match c.ftSel (bits vb 6 0) with
  | none => false
  | some e => match numFmt (bits e 14 10), numFmt (bits e 24 20) with
    | some a, some b => decide (max a.width b.width / min a.width b.width ≤ bits vb 9 7)
    | _, _ => false

/-- Element e of a conversion is active (08 R185). -/
def CvtPlan.active (c : CvtPlan) (m : Mask) (e : Nat) : Bool := m.getLsbD (e * max c.src.width c.dst.width / 8)

/-- The random bits of element e (02 R31). -/
def SlotIn.random (x : SlotIn) (v e : Nat) : Nat :=
  nbits (rngWord x.key.seed (rngCounter x.key.cbase x.key.task v (e / 4))).toNat (16 * (e % 4)) 16

/-- The rounding of element e. v is word 5 of vd + 1. -/
def SlotIn.rnd (x : SlotIn) (c : CvtPlan) (v e : Nat) : Rnd := rndOf c.mode c.dst (some (if c.mode = 4 then x.random v e else 0))

/-- The source value of element e. -/
def SlotIn.srcVal (x : SlotIn) (c : CvtPlan) (e : Nat) : FVal :=
  c.src.val (nbits x.va.toNat ((c.so + e) * c.src.width) c.src.width)

/-- The destination register of a conversion: converted elements where active, else as 04 R74; other bytes as merge says. -/
def SlotIn.cvtReg (x : SlotIn) (c : CvtPlan) (y : Nat → Nat) : Vec :=
  let old := x.old.toNat
  let w := c.dst.width
  let lo := c.dof * w
  let part := (List.range c.n).foldr (fun e a =>
    (if c.active x.m e then y e % 2 ^ w else if x.zero then 0 else nbits old (lo + e * w) w) + a * 2 ^ w) 0
  let keep := if bit x.s.f.vb 10 then old - nbits old lo (c.n * w) * 2 ^ lo else 0
  BitVec.ofNat 1024 (keep + part * 2 ^ lo)

/-- VCVT and VCVTS. -/
def SlotIn.cvt (x : SlotIn) : Except (Cause × Word) SlotOut :=
  match x.cvtPlan with
  | none => .error (.illegal, 0)
  | some c =>
    let v := if x.s.op = .vcvts then nbits (x.t.cread (x.s.f.vd.toNat + 1)).toNat 160 32 else 0
    .ok (.one x.s.f.vd.toNat (x.cvtReg c fun e => c.dst.enc (x.rnd c v e) (x.srcVal c e)))

/-- What a conversion to an outlier list has made so far: outputs, list entries, count, saturation. -/
structure Outliers where
  out : List Nat
  entries : List (Nat × Nat × Nat)
  count : Nat
  sat : Bool

/-- VCVTO (02 R36, R37). -/
def SlotIn.cvto (x : SlotIn) : Except (Cause × Word) SlotOut :=
  match x.cvtPlan with
  | none => .error (.illegal, 0)
  | some c => match c.dst with
    | .float g =>
      let d := (x.t.cread (x.s.f.vd.toNat + 1)).toNat
      let addr := nbits d 0 32
      let limit := nbits d 32 32
      let flags := nbits d 128 32
      if addr % 8 ≠ 0 ∨ regSize < addr + 8 * limit ∨ 2 ≤ flags then .error (.align, BitVec.ofNat 64 addr)
      else
        let step := fun (a : Outliers) (e : Nat) =>
          if !c.active x.m e then { a with out := a.out ++ [0] }
          else
            let s := x.srcVal c e
            let r := x.rnd c (nbits d 160 32) e
            if !(g.overflows r s || (g == fE2M1 && s.isNan)) then { a with out := a.out ++ [g.enc r s] }
            else if a.count < limit then
              { out := a.out ++ [0], count := a.count + 1, sat := a.sat
                entries := a.entries ++ [(addr + 8 * a.count, 8, (nbits d 96 32 + e) % 2 ^ 32 + f32enc s * 2 ^ 32)] }
            else { a with out := a.out ++ [if s.isNan then 0 else g.signBit s.neg? + g.maxEnc], sat := true }
        let a := (List.range c.n).foldl step ⟨[], [], nbits d 64 32, false⟩
        let r1 := 128 * (x.s.f.vd.toNat + 1)
        .ok { SlotOut.one x.s.f.vd.toNat (x.cvtReg c fun e => a.out.getD e 0) with
          mem := a.entries ++ [(r1 + 8, 4, a.count), (r1 + 16, 4, if a.sat then 1 else flags)] }
    | _ => .error (.illegal, 0)

/-- VCBDEC (08 R188). -/
def SlotIn.cbdec (x : SlotIn) : Except (Cause × Word) SlotOut :=
  let w := nbits (x.vb 4).toNat 0 32
  if 2 ^ 11 ≤ w then .error (.illegal, 0)
  else
    let q := nbits w 8 3
    let r := (List.range 64).map fun i =>
      fBF16.enc .rne (cb2Weight x.t.c.codebook (nbits x.va.toNat (8 * (16 * q + 2 * (i / 8))) 16) (i % 8) (e8m0 (w % 256)))
    .ok (x.out 2 (pack 2 r))

/-! ### Special functions and reductions (08 R190 to R193) -/

/-- A special function of one operand: F32, rounded once to the destination (03 R49). -/
def SlotIn.sf (x : SlotIn) (f : FVal → FVal) : SlotOut :=
  let g := x.fmt
  x.out x.fw (pack x.fw ((elems x.fw x.va).map fun a => g.enc .rne (f (g.val a))))

/-- The registers of a row. -/
def SlotIn.rows (x : SlotIn) : Nat := bits x.s.f.vb 5 0 + 1

/-- A row by position, excluded positions none (08 R191). -/
def SlotIn.row (x : SlotIn) : List (Option FVal) :=
  (List.range x.rows).flatMap fun i => (elems x.fw (x.t.cread (x.s.f.va.toNat + i))).zipIdx.map fun p =>
    if active x.m x.fw p.2 then some (x.fmt.val p.1) else none

/-- VRSUM, VRMAX and VRMIN. -/
def SlotIn.red (x : SlotIn) : SlotOut :=
  let v := match x.s.op with
    | .vrsum => treeSum x.row
    | .vrmax => (tree FVal.max x.row).getD (.inf true)
    | _ => (tree FVal.min x.row).getD (.inf false)
  .one x.s.f.vd.toNat (splat 4 (f32enc v))

/-- VRSTAT. -/
def SlotIn.rstat (x : SlotIn) : SlotOut :=
  let r := rowStat x.row
  let flag := nbits x.old.toNat 64 32
  .one x.s.f.vd.toNat (pack 4 [f32enc r.mean, f32enc r.var, if r.ovf then flag ||| 1 else flag, r.n])

/-- VRSOFT. -/
def SlotIn.rsoft (x : SlotIn) : SlotOut :=
  let r := rowSoft x.row
  let n := 128 / x.fw
  let d := x.s.f.vd.toNat
  let pe : BitVec 3 := x.s.f.vb.extractLsb' 8 3
  { regs := (List.range x.rows).map fun i => (d + i, pack x.fw (((r.1.drop (n * i)).take n).map fun v => x.fmt.enc .rne v))
    net := x.rows == 1
    pred := if pe = 0 then none else some (pe, if r.2 then BitVec.allOnes 128 else 0)
    mem := [] }

/-! ### Complex arithmetic and the generator (08 R194, R195) -/

/-- A CF32 pair encoded; a NaN in either part makes both canonical (02 R23). -/
def cf32enc (re im : FVal) : Nat :=
  if re.isNan || im.isNan then 0x7FC000007FC00000 else f32enc re + f32enc im * 2 ^ 32

/-- The operand vb of the complex family: the literal is the real part. -/
def SlotIn.vbc (x : SlotIn) : Vec :=
  match x.lit with
  | some l => splat 8 l.toNat
  | none => x.t.cread x.s.f.vb.toNat

/-- VCMUL and VCFMA. -/
def SlotIn.complex (x : SlotIn) (acc : Bool) : SlotOut :=
  let one := fun (a b c : Nat) =>
    let ar := f32 (a % 2 ^ 32)
    let ai := f32 (a / 2 ^ 32)
    let br := f32 (b % 2 ^ 32)
    let bi := f32 (b / 2 ^ 32)
    let r1 := if acc then fma ar br (f32 (c % 2 ^ 32)) else fl (ar.mul br)
    let i1 := if acc then fma ar bi (f32 (c / 2 ^ 32)) else fl (ar.mul bi)
    cf32enc (fma ai.neg bi r1) (fma ai br i1)
  x.out 8 (pack 8 (zip3 one (elems 8 x.va) (elems 8 x.vbc) (elems 8 x.old)))

/-- VRAND: lanes 0 to 15 in vd and 16 to 31 in vd + 1. -/
def SlotIn.vrand (x : SlotIn) : SlotOut :=
  let v := nbits (x.vb 4).toNat 0 32
  let reg := fun (i : Nat) => pack 8 ((List.range 16).map fun l => (rngWord x.key.seed (rngCounter x.key.cbase x.key.task v (16 * i + l))).toNat)
  let d := x.s.f.vd.toNat
  ⟨[(d, mergeLanes x.m 8 x.zero (reg 0) (x.t.cread d)), (d + 1, mergeLanes x.m 8 x.zero (reg 1) (x.t.cread (d + 1)))], false, none, []⟩

/-! ### All vector instructions -/

/-- What a vector slot computes, before anything of its bundle is written; an error is a fault at C (08 R199). Control instructions and
those of views, formats, descriptors and the codebook leave nothing here. -/
def SlotIn.eval (x : SlotIn) : Except (Cause × Word) SlotOut :=
  let sign := 2 ^ (8 * x.fw - 1)
  match x.s.op with
  | .vadd => .ok (x.f2 FVal.add)
  | .vsub => .ok (x.f2 FVal.sub)
  | .vmul => .ok (x.f2 FVal.mul)
  | .vfma => .ok (x.f3 fun a b c => (a.mul b).add c)
  | .vfms => .ok (x.f3 fun a b c => c.sub (a.mul b))
  | .vmin => .ok (x.f2 FVal.min)
  | .vmax => .ok (x.f2 FVal.max)
  | .vabs => .ok (x.bitwise1 x.fw fun a => a % sign)
  | .vneg => .ok (x.bitwise1 x.fw fun a => (a + sign) % (2 * sign))
  | .vcpys => .ok (x.bitwise2 x.fw fun a b => a % sign + b / sign * sign)
  | .viadd => .ok (x.i2 fun _ a b => a + b)
  | .visub => .ok (x.i2 fun _ a b => a - b)
  | .vimul => .ok (x.i2 fun _ a b => a * b)
  | .vimulh => .ok (x.i2 mulHighS)
  | .vand => .ok (x.bitwise2 4 fun a b => a &&& b)
  | .vor => .ok (x.bitwise2 4 fun a b => a ||| b)
  | .vxor => .ok (x.bitwise2 4 fun a b => a ^^^ b)
  | .vnot => .ok (x.bitwise1 4 fun a => 0xFFFFFFFF ^^^ a)
  | .vshl => .ok (x.i2 fun n a b => a <<< (b.toNat % n))
  | .vshr => .ok (x.i2 fun n a b => a >>> (b.toNat % n))
  | .vsar => .ok (x.i2 fun n a b => a.sshiftRight (b.toNat % n))
  | .vimin => .ok (x.i2 fun _ a b => if b.slt a then b else a)
  | .vimax => .ok (x.i2 fun _ a b => if a.slt b then b else a)
  | .vicmpeq => .ok x.cmpI
  | .vicmplt => .ok x.cmpI
  | .vcmpeq => .ok x.cmpF
  | .vcmplt => .ok x.cmpF
  | .vcmple => .ok x.cmpF
  | .vcmpun => .ok x.cmpF
  | .vsel => .ok x.vsel
  | .vmov => .ok (x.bitwise1 1 fun a => a)
  | .vpart => .ok x.vpart
  | .vbcast => .ok x.perm
  | .vshuf => .ok x.perm
  | .vrot => .ok x.perm
  | .viota => .ok x.perm
  | .vcompr => .ok x.vcompr
  | .vcvt => x.cvt
  | .vcvto => x.cvto
  | .vcvts => x.cvt
  | .vcbdec => x.cbdec
  | .vexp2 => .ok (x.sf fexp2)
  | .vlog2 => .ok (x.sf flog2)
  | .vsin => .ok (x.sf fsin)
  | .vcos => .ok (x.sf fcos)
  | .vtanh => .ok (x.sf ftanh)
  | .vrcp => .ok (x.sf frcp)
  | .vrsqrt => .ok (x.sf frsqrt)
  | .vsqrt => .ok (x.sf fsqrt)
  | .vdiv => .ok (x.f2 fdiv)
  | .vrsum => .ok x.red
  | .vrmax => .ok x.red
  | .vrmin => .ok x.red
  | .vrstat => .ok x.rstat
  | .vrsoft => .ok x.rsoft
  | .vcmul => .ok (x.complex false)
  | .vcfma => .ok (x.complex true)
  | .vconj => .ok (x.bitwise1 8 fun a => (a + 2 ^ 63) % 2 ^ 64)
  | .vrand => .ok x.vrand
  | .pand => .ok (x.plog fun a b => a &&& b)
  | .por => .ok (x.plog fun a b => a ||| b)
  | .pxor => .ok (x.plog fun a b => a ^^^ b)
  | .pnot => .ok (x.plog fun a _ => ~~~a)
  | _ => .ok .nothing

end Sys2Proof.Machine
end

