-- ==== Sys2Proof/Machine/CBundle.lean ====
section
/-! DEFINITION. A bundle of C (04 R72 to R76, 08 R172 to R175, R196 to R200, 09 R200 to R218): renaming, the checks at issue, the control
instructions of slot A, and what the whole bundle does. -/

namespace Sys2Proof.Machine

/-- A bundle: its two vector slots, the literal, slot M, and its token and zero fields. -/
structure Bundle where
  a : Option Slot
  b : Option Slot
  lit : Option (BitVec 32)
  m : Option MCmd
  k : Toks
  deriving DecidableEq, Repr, Inhabited

/-- The bundle named by a vector slot. -/
def bundleOf (x : Bun) (op : VCode) (ty : BitVec 2) (f : SlotF) : Bundle :=
  let k : Toks := ⟨x.pop, x.push, x.zero⟩
  if x.inB then ⟨none, some ⟨op, ty, f⟩, none, x.m, k⟩
  else match x.b with
    | .empty => ⟨some ⟨op, ty, f⟩, none, none, x.m, k⟩
    | .lit w => ⟨some ⟨op, ty, f⟩, none, some w, x.m, k⟩
    | .slot b => ⟨some ⟨op, ty, f⟩, some b, none, x.m, k⟩

/-! ### Renaming (09 R207 to R209) -/

/-- The innermost running loop of C: the one started last. -/
def CState.innermost (c : CState) : Option Loop :=
  (((List.range 4).filter fun j => (rd c.lc j).running).foldr (insertLoop c.lc) []).head?.map fun j => rd c.lc j

/-- A register number renamed. -/
def CState.rename (c : CState) (loopmode : Bool) (f : BitVec 11) : BitVec 11 :=
  let n := f.toNat
  if loopmode then
    match c.rings.toList.find? fun r => r.v && decide (r.q ≤ n) && decide (n < r.q + r.len) with
    | some r => BitVec.ofNat 11 (r.q + (n - r.q + (match c.innermost with | some l => l.backs | none => 0)) % r.len)
    | none => f
  else if c.rot.r != 0 && decide (c.rot.q ≤ n) && decide (n < c.rot.q + c.rot.r) then
    BitVec.ofNat 11 (c.rot.q + (n - c.rot.q + c.rot.rb) % c.rot.r)
  else f

/-- Field vd names a register. -/
def VForm.vdReg : VForm → Bool
  | .v3 | .v2 | .v1 | .vsel | .sel1 | .cvt | .cbd | .red | .rsoft => true
  | _ => false

/-- Field va names a register. -/
def VForm.vaReg : VForm → Bool
  | .v3 | .v2 | .cmp | .vsel | .sel1 | .cvt | .cbd | .red | .rsoft | .viewT | .viewA | .mdset | .mdsetf | .cbload => true
  | _ => false

/-- Field vb names a register, when there is no literal. -/
def VForm.vbReg : VForm → Bool
  | .v3 | .v1 | .cmp | .vsel | .cbd | .fmt => true
  | _ => false

/-- A slot with its register fields renamed. -/
def CState.renamed (c : CState) (loopmode : Bool) (lit : Bool) (s : Slot) : Slot :=
  let g := s.op.form
  let r := fun (yes : Bool) (f : BitVec 11) => if yes && s.f.rot then c.rename loopmode f else f
  { s with f := { s.f with vd := r (VForm.vdReg g) s.f.vd, va := r (VForm.vaReg g) s.f.va, vb := r (VForm.vbReg g && !lit) s.f.vb } }

/-! ### Checks on renamed registers (08 R174, 04 R74) -/

/-- Registers of a row reduction. -/
def rowRegs (s : Slot) : Nat := bits s.f.vb 5 0 + 1

/-- The registers a slot writes: first and count. Of VCVTO, vd alone: the list or descriptor that it writes from vd + 1 on is no destination field
(log 99). -/
def slotDest (s : Slot) : Nat × Nat :=
  let d := s.f.vd.toNat
  match s.op with
  | .vpart => (d, 3)
  | .vrand => (d, 2)
  | .vrsoft => (d, rowRegs s)
  | op => if VForm.vdReg op.form then (d, 1) else (0, 0)

/-- The predicate a slot writes; 0 for none. -/
def slotPred (s : Slot) : Nat :=
  match s.op.form with
  | .cmp => bits s.f.vd 2 0
  | .pl => bits s.f.vd 2 0
  | .pnot => bits s.f.vd 2 0
  | .rsoft => bits s.f.vb 10 8
  | _ => 0

/-- The registers a slot reads beside its old destination: first and count. lit: the literal stands for vb. -/
def slotSrcs (s : Slot) (lit : Bool) : List (Nat × Nat) :=
  let g := s.op.form
  let a := s.f.va.toNat
  let rows := match g with
    | .red => rowRegs s
    | .rsoft => rowRegs s
    | .cbload => 8
    | _ => 1
  (if VForm.vaReg g then [(a, rows)] else []) ++ (if VForm.vbReg g && !lit then [(s.f.vb.toNat, 1)] else []) ++
  (match s.op with
    | .vcvto => [(s.f.vd.toNat + 1, 1)]
    | .vcvts => [(s.f.vd.toNat + 1, 1)]
    | _ => [])

/-- No range of a slot passes v2047 (08 R174). -/
def slotInRange (s : Slot) : Bool :=
  let d := slotDest s
  decide (d.1 + d.2 ≤ 2048) && (slotSrcs s true).all fun r => decide (r.1 + r.2 ≤ 2048)

/-- Two slots name one destination (04 R74). -/
def slotsClash (a b : Slot) : Bool :=
  let x := slotDest a
  let y := slotDest b
  (decide (x.1 < y.1 + y.2) && decide (y.1 < x.1 + x.2) && x.2 != 0 && y.2 != 0) || (slotPred a != 0 && slotPred a == slotPred b)

/-- A renamed bundle is no reserved encoding: no range passes v2047 and its slots name no common destination (04 R74, R78, 08 R174). -/
def Bundle.encOk (b : Bundle) : Bool :=
  (match b.a with | some s => slotInRange s | none => true) && (match b.b with | some s => slotInRange s | none => true) &&
  !(match b.a, b.b with | some x, some y => slotsClash x y | _, _ => false)

/-- A renamed slot whose encoding the loop mode or the format entry makes reserved (08 R185, 09 R207). -/
def Tile.slotReserved (t : Tile) (s : Slot) : Bool :=
  match s.op with
  | .lbhdr => !t.loopmode
  | .rotb => t.loopmode
  | .loopC => t.loopmode && bit s.f.vd 4
  | .vcvt => t.c.partBad s.f.vb
  | .vcvto => t.c.partBad s.f.vb
  | .vcvts => t.c.partBad s.f.vb
  | _ => false

/-- A bundle with its slots' register fields renamed (09 R207). -/
def Tile.renamedBundle (t : Tile) (b : Bundle) : Bundle :=
  let ren := t.c.renamed t.loopmode
  { b with a := b.a.map (ren b.lit.isSome), b := b.b.map (ren false) }

/-- A renamed bundle is a reserved encoding, where C stands: it moves nothing (04 R78, 10 R231). -/
def Tile.bundleReserved (t : Tile) (b : Bundle) : Bool := !b.encOk || b.a.any t.slotReserved || b.b.any t.slotReserved

/-- The bundle that a word holds, where it is one. -/
def Bundle.ofWord (w : BitVec 128) : Option Bundle :=
  match decodeC w, decodeSlot (w.extractLsb' 72 48), decodeB (bit w 121) (w.extractLsb' 24 48), decodeM (w.extractLsb' 0 24) with
  | .ok _, .ok a, .ok b, .ok m =>
    let k : Toks := ⟨w.extractLsb' 125 3, w.extractLsb' 122 3, bit w 120⟩
    match b with
    | .empty => some ⟨a, none, none, m, k⟩
    | .lit l => some ⟨a, none, some l, m, k⟩
    | .slot s => some ⟨a, some s, none, m, k⟩
  | _, _, _, _ => none

/-- The bundle of a word at C with its fields renamed, unless the word is a reserved encoding. -/
def Tile.cBundle (t : Tile) (w : BitVec 128) : Option Bundle :=
  match Bundle.ofWord w with
  | none => none
  | some b => if t.bundleReserved (t.renamedBundle b) then none else some (t.renamedBundle b)

/-- The old destination is read: as a source, or to keep inactive elements. -/
def CState.readsOld (c : CState) (s : Slot) (zero : Bool) : Bool :=
  match s.op with
  | .vfma => true
  | .vfms => true
  | .vcfma => true
  | .vrstat => true
  | .vcvt => bit s.f.vb 10 || (!zero && c.mask s.f != BitVec.allOnes 128)
  | .vcvto => bit s.f.vb 10 || (!zero && c.mask s.f != BitVec.allOnes 128)
  | .vcvts => bit s.f.vb 10 || (!zero && c.mask s.f != BitVec.allOnes 128)
  | op => (match op.form with
    | .v3 => true
    | .v2 => true
    | .v1 => true
    | .cbd => true
    | _ => false) && !zero && c.mask s.f != BitVec.allOnes 128

/-- The registers that the slots of a bundle read from the register space: those the bypass network does not serve. -/
def Tile.bundleReads (t : Tile) (b : Bundle) : List Nat :=
  let one := fun (s : Slot) (lit : Bool) =>
    slotSrcs s lit ++ (if t.c.readsOld s b.k.zero then [((slotDest s).1, max 1 (slotDest s).2)] else [])
  let rs := (match b.a with | some s => one s b.lit.isSome | none => []) ++ (match b.b with | some s => one s false | none => [])
  (rs.flatMap fun r => (List.range r.2).map fun i => r.1 + i).filter fun r => !t.c.bypass.any fun e => e.v && e.reg.toNat == r

/-! ### Control instructions of slot A (08 R196, R197, 09 R200 to R215) -/

/-- What a control instruction of slot A does beside its bundle: the change of C's own state, a write that may have to be held, where C
goes (a taken branch or a LOOP), and the payload of its pushes. -/
structure CtlOut where
  c : CState
  held : Option Held
  jump : Option (Word × Bool)
  pay : BitVec 32

/-- Nothing but the payload 0. -/
def CtlOut.none (c : CState) : CtlOut := ⟨c, .none, .none, 0⟩

/-- A branch, taken or not; CBR and CBRT push the outcome (09 R200). -/
def CtlOut.branch (c : CState) (pc : Word) (lit : Option (BitVec 32)) (taken pays : Bool) : CtlOut :=
  ⟨c, .none, if taken then some (pc + (lit.getD 0).signExtend 64 * 16, true) else .none, if pays && taken then 1 else 0⟩

/-- The condition of CBR (08 R196). -/
def cbrTaken (mode : Nat) (m : Mask) : Bool :=
  match mode with
  | 0 => m.getLsbD 0
  | 1 => m != 0
  | _ => m == BitVec.allOnes 128

/-- LOOP of C (09 R203, R205, R208): bound and step, from the field or the token. -/
def CState.startLoopC (c : CState) (loopmode : Bool) (s : Slot) (lit pay : BitVec 32) : Option CtlOut :=
  let tok := bit s.f.vd 3
  let p := bit s.f.vd 4
  let b := if tok then bits pay 23 0 else s.f.va.toNat
  let st : Int := if tok then (pay.extractLsb' 24 8 : BitVec 8).toInt else 1
  if p && loopmode then .none
  else
    let pipe := p && c.rot.stages != 0
    match startLoop c.lc c.pc (bits s.f.vd 1 0) b st 16 lit.toNat (if pipe then some (c.rot.stages - 1) else .none) with
    | .none => .none
    | some (lc, target, n) =>
      let ps := if pipe && n != 0 then
          (List.range (c.rot.stages - 1)).foldl (fun v i => wr v (5 + i) 0) (wr c.p 4 (BitVec.allOnes 128))
        else c.p
      some ⟨{ c with lc := lc, p := ps }, .none, some (target, false), 0⟩

/-- LOOP.SET (09 R206). -/
def CState.loopSetC (c : CState) (s : Slot) (pay : BitVec 32) : CState :=
  let j := bits s.f.vd 1 0
  let v := if bit s.f.vd 3 then bits pay 23 0 else s.f.va.toNat
  let l := rd c.lc j
  if l.running then { c with lc := wr c.lc j { l with count := BitVec.ofNat 24 (max v 1) } } else c

/-- LBHDR (09 R209): none when the ring would overlap another. -/
def CState.lbhdrC (c : CState) (s : Slot) : Option CState :=
  let i := bits s.f.vb 2 0
  let q := s.f.vd.toNat
  let len := s.f.va.toNat + 1
  if bit s.f.vb 3 then some { c with rings := wr c.rings i { rd c.rings i with v := false } }
  else if (List.range 8).any fun j => j != i && (let r := rd c.rings j; r.v && decide (r.q < q + len) && decide (q < r.q + r.len)) then .none
  else some { c with rings := wr c.rings i ⟨q, len, true⟩ }

/-- A word of a descriptor replaced. -/
def setMdWord (d : BitVec 512) (w : Nat) (v : Word) : BitVec 512 :=
  let m : BitVec 512 := (BitVec.allOnes 64).setWidth 512 <<< (64 * w)
  (d &&& ~~~m) ||| (v.setWidth 512 <<< (64 * w))

/-- The 256 entries that CBLOAD takes from eight registers (02 R28). -/
def codebookOf (t : Tile) (va : Nat) : Vector (BitVec 32) 256 :=
  Vector.ofFn fun i => BitVec.ofNat 32 (nbits (t.cread (va + i.val / 32)).toNat (32 * (i.val % 32)) 32)

/-- Slot A when it holds a control instruction or one of views, formats, descriptors and the codebook; an error is ILLEGAL. pay is the
payload of the first peer popped. -/
def Tile.control (t : Tile) (s : Slot) (lit : Option (BitVec 32)) (pay : BitVec 32) : Option CtlOut :=
  let c := t.c
  let low := fun (r : BitVec 11) => (t.cread r.toNat).extractLsb' 0 64
  let keep := fun (c : CState) => some (CtlOut.none c)
  match s.op with
  | .cbr => some (.branch c c.pc lit (cbrTaken (bits s.f.vd 1 0) (c.mask s.f)) true)
  | .cbrt => some (.branch c c.pc lit ((pay != 0) != bit s.f.vd 0) true)
  | .cj => some (.branch c c.pc lit true false)
  | .loopC => c.startLoopC t.loopmode s (lit.getD 0) pay
  | .loopSet => keep (c.loopSetC s pay)
  | .rotb => if t.loopmode then .none else keep { c with rot := ⟨s.f.vd.toNat, s.f.va.toNat + 1, bits s.f.vb 2 0, 0⟩ }
  | .lbhdr => if !t.loopmode then .none else (c.lbhdrC s).map CtlOut.none
  | .viewt =>
    let v : Word := low s.f.va
    if viewOk v then some ⟨c, some (.tile ⟨bits s.f.vd 2 0 % 8, Nat.mod_lt _ (by decide)⟩ v), .none, 0⟩ else .none
  | .viewa =>
    let v : Word := low s.f.va
    if viewOk v then some ⟨c, some (.acc ⟨bits s.f.vd 1 0 % 4, Nat.mod_lt _ (by decide)⟩ v), .none, 0⟩ else .none
  | .fmtset =>
    let w : BitVec 32 := match lit with | some l => l | .none => (t.cread s.f.vb.toNat).extractLsb' 0 32
    if fmtEntryOk w then keep { c with ft := wr c.ft (bits s.f.vd 3 0) w } else .none
  | .mdset =>
    let d : BitVec 512 := (t.cread s.f.va.toNat).extractLsb' 0 512
    if mdOk d then keep { c with md := wr c.md (bits s.f.vd 3 0) d } else .none
  | .mdsetf =>
    let n := bits s.f.vd 3 0
    let d := setMdWord (rd c.md n) (bits s.f.vd 6 4) (low s.f.va)
    if mdOk d then keep { c with md := wr c.md n d } else .none
  | .cbload => some ⟨c, some (.codebook (codebookOf t s.f.va.toNat)), .none, 0⟩
  | _ => keep c

/-- A queued or running command keeps a held write from taking effect (02 R28, 09 R211). -/
def Tile.heldBack (t : Tile) (h : Held) : Bool :=
  match h with
  | .codebook _ => t.cb2Queued
  | .tile n _ => t.namesTv n.val
  | .acc n _ => t.namesAv n.val

/-- A held write takes effect. -/
def CState.applyHeld (c : CState) (h : Held) : CState :=
  match h with
  | .codebook t => { c with codebook := t }
  | .tile n v => { c with tv := wr c.tv n.val v }
  | .acc n v => { c with av := wr c.av n.val v }

/-- Slot A would write a view or the codebook that commands of earlier bundles still use: the bundle does not issue. -/
def Tile.controlWaits (t : Tile) (s : Slot) : Bool :=
  match s.op with
  | .cbload => t.cb2Queued
  | .viewt => t.namesTv (bits s.f.vd 2 0)
  | .viewa => t.namesAv (bits s.f.vd 1 0)
  | _ => false

/-! ### The whole bundle -/

/-- What a bundle comes to when it issues: the results of the vector slots, the control outcome and the command. -/
structure BundleOut where
  a : Option (SlotOut × Bool)
  b : Option (SlotOut × Bool)
  ctl : CtlOut
  cmd : Option (Queue × Cmd)

/-- The generator's key of a tile's task (03 R60). -/
def State.rngKey (s : State) (t : TileId) : RngKey :=
  let x := s.tileAt t
  let l := (s.launch? x.launch).getD default
  ⟨l.seed, l.cbase, match x.task with | some k => k.index | none => 0⟩

/-- A bundle computed whole before anything of it is written (04 R74, 08 R199). b is renamed and no reserved encoding. -/
def Tile.bundleOut (t : Tile) (key : RngKey) (b : Bundle) (pay : BitVec 32) : Except (Cause × Word) BundleOut :=
  let ill : Except (Cause × Word) BundleOut := .error (.illegal, 0)
  let slot : Option Slot → Option (BitVec 32) → Except (Cause × Word) (Option (SlotOut × Bool)) := fun s lit => match s with
    | none => .ok none
    | some s => match (SlotIn.mk t key b.k.zero lit s).eval with
        | .ok o => .ok (some (o, s.f.tr))
        | .error e => .error e
  match (match b.m with | none => some none | some m => (t.mxCommand m.op m.m).map fun c => some (mxQueue m.op, c)) with
    | none => ill
    | some cmd => match slot b.a b.lit, slot b.b none with
      | .error e, _ => .error e
      | _, .error e => .error e
      | .ok ra, .ok rb => match (match b.a with | some s => t.control s b.lit pay | none => some (.none t.c)) with
        | none => ill
        | some ctl => match ctl.jump with
          | none => .ok ⟨ra, rb, ctl, cmd⟩
          | some (target, _) => if t.inStream .c target then .ok ⟨ra, rb, ctl, cmd⟩ else ill

/-- The bypass network with a new entry: three entries, oldest first (08 R175). -/
def pushBypass (l : List Bypass) (e : Bypass) : List Bypass := let l := l ++ [e]; l.drop (l.length - 3)

/-- A slot's results written (08 R175). A one-register result enters the network, and the register space unless it is transient; other
writes void what they overwrite. -/
def Tile.cWrite (t : Tile) (o : SlotOut) (tr : Bool) : Tile :=
  let t := if o.net then
      o.regs.foldl (fun t r =>
        let t := { t with c := { t.c with bypass := pushBypass t.c.bypass ⟨BitVec.ofNat 11 r.1, true, tr, r.2⟩ } }
        if tr then t
        else let t := t.openSectors (128 * r.1) 128
          { t with regspace := t.regspace.writeN (128 * r.1) 128 r.2.toNat }) t
    else o.regs.foldl (fun t r => t.rwrite (128 * r.1) 128 r.2.toNat) t
  let t := o.mem.foldl (fun t m => t.rwrite m.1 m.2.1 m.2.2) t
  match o.pred with
  | some (p, m) => if p = 0 then t else { t with c := { t.c with p := wr t.c.p p.toNat m } }
  | none => t

/-- Units of the register space that a slot's results rewrite are lost no longer. -/
def State.healSlot (s : State) (o : SlotOut) (tr : Bool) : State :=
  if tr || s.dev.lost.isEmpty then s
  else
    let s := o.regs.foldl (fun s r => s.heal 2 s.cur.val (128 * r.1) 128) s
    o.mem.foldl (fun s m => s.heal 2 s.cur.val m.1 m.2.1) s

/-- A fault of a bundle stops C at it, with its push reservations (06 R133, 08 R199). -/
def State.cStop (s : State) (ps : List Sequencer) (c : Cause) (a : Word) : State :=
  (if s.tile.c.resv then s else s.upd fun t => t.reserve .c ps).stopSeq s.cur .c c a false true

/-- C goes on after a bundle (09 R204, R205). -/
def Tile.cAdvance (t : Tile) (jump : Option (Word × Bool)) : Tile :=
  match jump with
  | none => t.cNext
  | some (target, branch) => t.cGo (if branch then leaveLoops t.c.lc target else t.c.lc) target

/-- A bundle's outcome taken: slot M first, then slot A's writes, then slot B's, which stand where VCVTO's list meets them (log 99), then slot A's control; a write that the bundle's own command keeps back is held,
with the pushes (08 R189, 09 R211). pushes is the push code. -/
def Tile.cIssue (t : Tile) (pushes : BitVec 3) (o : BundleOut) : Tile :=
  let clk := t.c.clk.tick .c
  let t := match o.cmd with | some (q, c) => t.pushCmd q { c with clk := clk } | none => t
  let c1 := o.ctl.c
  let t := { t with c := { t.c with lc := c1.lc, p := c1.p, rot := c1.rot, rings := c1.rings, ft := c1.ft, md := c1.md } }
  let t := match o.a with | some r => t.cWrite r.1 r.2 | none => t
  let t := match o.b with | some r => t.cWrite r.1 r.2 | none => t
  let push := fun (t : Tile) => t.pushReserved .c (peersOf .c pushes) o.ctl.pay clk
  let t := match o.ctl.held with
    | none => push t
    | some h =>
      if t.heldBack h then { t with c := { t.c with held := some h, heldPush := pushes } }
      else push { t with c := t.c.applyHeld h }
  t.cAdvance o.ctl.jump

/-- A bundle at C (08 R172, R199). A reserved encoding moves nothing (04 R78, 10 R231). -/
def State.cRun (s : State) (b : Bundle) : State :=
  let t := s.tile
  let now := s.dev.now
  let pops := peersOf .c b.k.pop
  let ps := peersOf .c b.k.push
  let b := t.renamedBundle b
  if t.c.held.isSome then s.upd fun t => t.cHold now
  else if t.bundleReserved b then s.stopSeq s.cur .c .illegal 0 false t.c.resv
  else if t.tokenStalled .c pops ps t.c.resv then s.stopSeq s.cur .c .tokenStall 0 false t.c.resv
  else if !t.canPop .c pops || !(t.c.resv || t.canPush .c ps) then s.upd fun t => t.cHold now
  else if (match b.a with | some x => t.controlWaits x | none => false) ||
      (match b.m with | some m => !t.queueSpace (mxQueue m.op) | none => false) then s.upd fun t => t.cHold now
  else match (t.bundleReads b).findSome? fun r => s.regLost (128 * r) 128 with
    | some s => s.tileError s.cur .c
    | none =>
      let pay := match t.heads .c pops with | h :: _ => h.pay | [] => 0
      match t.bundleOut (s.rngKey s.cur) b pay with
      | .error (c, a) => s.cStop ps c a
      | .ok o =>
        let s := s.upd fun t => (if t.c.resv then t.popToks .c pops else (t.popToks .c pops).reserve .c ps).cIssue b.k.push o
        let s := match o.a with | some r => s.healSlot r.1 r.2 | none => s
        match o.b with | some r => s.healSlot r.1 r.2 | none => s

/-- The write that C holds takes effect once the command that kept it back has retired; then the bundle finishes with its pushes. -/
def State.releaseHeld (s : State) (t : TileId) (book : Bool) : State :=
  let x := s.tileAt t
  match x.c.held with
  | none => s
  | some h =>
    let isBook : Bool := match h with | .codebook _ => true | _ => false
    if book != isBook || x.heldBack h || !x.live then s
    else s.updAt t fun x =>
      let c := { x.c.applyHeld h with held := none, heldPush := 0 }
      { x with c := c }.pushReserved .c (peersOf .c x.c.heldPush) 0 x.c.clk

/-- HELD_CODEBOOK_WRITE (02 R28, 08 R189). -/
def execHeldCodebookWrite (t : TileId) (s : State) : Host.Outcome State Fault Refusal := .next (s.releaseHeld t true)

/-- HELD_VIEW_WRITE (09 R211). -/
def execHeldViewWrite (t : TileId) (s : State) : Host.Outcome State Fault Refusal := .next (s.releaseHeld t false)

end Sys2Proof.Machine
end

