-- ==== Sys2Proof/Machine/KMem.lean ====
section
/-! DEFINITION. K loads, stores and atomics (06 R104 to R107). K waits for its reply, so no other K instruction falls inside one. -/

namespace Sys2Proof.Machine

/-- An acquire of L or S before K in token order has not performed: K's next access waits (11 R266 item 3). -/
def Tile.kOrdered (t : Tile) : Bool := t.reqs.any fun x => x.acquiring && x.clk.before x.q t.k.clk

/-- A walk of a space that names memory by pages has read the descriptor of the task's tag (16 R331). -/
def State.bindFor (s : State) (t : TileId) : Space → State
  | .spm => s
  | .commons => s
  | _ => s.bindTag (s.tileAt t).ctx

/-- K's request stays in the network for now: its turn leaves it there (06 R98, 23 R415; log 126). The scratchpad is no
request. -/
def State.kAway (s : State) (sp : Space) : Bool := s.defer && sp != .spm

/-- K's access has left it and waits for its reply (06 R98). -/
def State.kLink (s : State) (ea : Word) : State :=
  s.upd fun t => match t.k.pend with
    | some _ => t
    | none => { t with k := { t.k with pend := some (.access ea), since := some s.dev.now } }

/-- A K access of n bytes at ea, translated and checked (06 R105, R106). go performs it at its place; it answers nothing to wait. A store that
meets a Sett-mapped page first takes the path of 17 R355: plain says a plain store, v its bytes. -/
def State.kAccess (s : State) (sp : Space) (k : Acc) (ea : Word) (n : Nat) (plain : Bool) (v : Nat)
    (go : State → Where → State) : State :=
  if ea.toNat % n ≠ 0 then s.kFault .align ea
  else match s.resolve s.cur sp k ea n false with
    | .error .settWrite =>
      (match s.leafAt s.cur s.tile.ctx ea with
        | .error c => s.kFault c ea
        | .ok (l, s1) => if s.tile.kOrdered then s.kWait else match s1.settStore s.cur .k l ea n v plain with
          | .wait => (s.bindFor s.cur sp).kLink ea
          | .lost a => (s.consumed s.cur .eccUncorrected (some (.hbm, a))).kFault .eccUncorrected ea
          | .done s2 => s2.kFault .settWrite ea)
    | .error c => (s.consumed s.cur c (s.walkMet s.tile.ctx sp ea)).kFault c ea
    | .ok (w, s1) => if s.tile.kOrdered then s.kWait
      else if s.kAway sp || !s1.linkReady w.tgt w.addr then (s.bindFor s.cur sp).kLink ea
      else go s1 w

/-- A K load of eight bytes. -/
def State.kLoad (s : State) (sp : Space) (d a : Reg) (imm : BitVec 15) : State :=
  let ea := s.tile.kget a + imm.signExtend 64
  s.kAccess sp .read ea 8 false 0 fun s1 w => match s1.readAt s.cur s.tile.k.clk w.tgt w.addr 8 with
    | .error c => (s.consumed s.cur c (some (w.tgt, w.addr))).kFault c ea
    | .ok v => s1.kDone d (BitVec.ofNat 64 v)

/-- A K store of eight bytes. -/
def State.kStore (s : State) (sp : Space) (a b : Reg) (imm : BitVec 15) : State :=
  let ea := s.tile.kget a + imm.signExtend 64
  let v := (s.tile.kget b).toNat
  s.kAccess sp .write ea 8 true v fun s1 w => match s1.writeAt s.cur w.tgt w.addr 8 v with
    | .error c => (s.consumed s.cur c (some (w.tgt, w.addr))).kFault c ea
    | .ok s2 => s2.kSkip

/-- A K atomic (06 R107): one read-modify-write; CAS compares with kd. -/
def State.kAtomic (s : State) (sp : Space) (d a b : Reg) (op : BitVec 4) : State :=
  let ea := s.tile.kget a
  let n := atomWidth op
  s.kAccess sp .rmw ea n false 0 fun s1 w => match s1.readAt s.cur s.tile.k.clk w.tgt w.addr n with
    | .error c => (s.consumed s.cur c (some (w.tgt, w.addr))).kFault c ea
    | .ok old => match s1.writeAt s.cur w.tgt w.addr n (atomNew op old (s.tile.kget b).toNat (s.tile.kget d).toNat) with
      | .error c => (s.consumed s.cur c (some (w.tgt, w.addr))).kFault c ea
      | .ok s2 => s2.kDone d (signExt n old)

/-- KLDS (06 R104): a load from the scratchpad. -/
def execKlds (d a : Reg) (imm : BitVec 15) (s : State) : Out := .next (s.kLoad .spm d a imm)

/-- KLDM (06 R104): a load from commons. -/
def execKldm (d a : Reg) (imm : BitVec 15) (s : State) : Out := .next (s.kLoad .commons d a imm)

/-- KLDL (06 R104): a load from local global memory. -/
def execKldl (d a : Reg) (imm : BitVec 15) (s : State) : Out := .next (s.kLoad .loc d a imm)

/-- KLDF (06 R104): a load from far global memory. -/
def execKldf (d a : Reg) (imm : BitVec 15) (s : State) : Out := .next (s.kLoad .far d a imm)

/-- KLDH (06 R104): a load from host memory. -/
def execKldh (d a : Reg) (imm : BitVec 15) (s : State) : Out := .next (s.kLoad .host d a imm)

/-- KSTS (06 R104): a store to the scratchpad. -/
def execKsts (a b : Reg) (imm : BitVec 15) (s : State) : Out := .next (s.kStore .spm a b imm)

/-- KSTM (06 R104): a store to commons. -/
def execKstm (a b : Reg) (imm : BitVec 15) (s : State) : Out := .next (s.kStore .commons a b imm)

/-- KSTL (06 R104): a store to local global memory. -/
def execKstl (a b : Reg) (imm : BitVec 15) (s : State) : Out := .next (s.kStore .loc a b imm)

/-- KSTF (06 R104): a store to far global memory. -/
def execKstf (a b : Reg) (imm : BitVec 15) (s : State) : Out := .next (s.kStore .far a b imm)

/-- KSTH (06 R104): a store to host memory. -/
def execKsth (a b : Reg) (imm : BitVec 15) (s : State) : Out := .next (s.kStore .host a b imm)

/-- KATM (06 R107): an atomic on commons. -/
def execKatm (d a b : Reg) (op : BitVec 4) (s : State) : Out := .next (s.kAtomic .commons d a b op)

/-- KATL (06 R107): an atomic on local global memory. -/
def execKatl (d a b : Reg) (op : BitVec 4) (s : State) : Out := .next (s.kAtomic .loc d a b op)

/-- KATF (06 R107): an atomic on far global memory. -/
def execKatf (d a b : Reg) (op : BitVec 4) (s : State) : Out := .next (s.kAtomic .far d a b op)

end Sys2Proof.Machine
end

