-- ==== Sys2Proof/Machine/KSync.lean ====
section
/-! DEFINITION. K synchronisation (06 R108 to R126): semaphores, events, guards, tokens, barriers, groups, fences, subscriptions and
channel resynchronisation. -/

namespace Sys2Proof.Machine

/-! ### Semaphores (06 R108, R109) -/

/-- Engine commands that wait at their heads for semaphore n and began to wait before a cycle: they are served first (06 R109). -/
def Tile.engineAhead (t : Tile) (n : BitVec 8) (since : Nat) : Nat :=
  (t.q.toList.filter fun z => match z.head? with
    | some c => c.wait == n && !c.started && (match c.waitFrom with | some w => w < since | none => false)
    | none => false).length

/-- SMWAIT (06 R108). -/
def execSmwait (a : Reg) (s : State) : Out :=
  let t := s.tile
  let n := (t.kget a).setWidth 8
  if n = 0 then .next s.kSkip
  else if t.engineAhead n (t.k.since.getD s.dev.now) < (t.smGet n).toNat then .next (s.upd fun t => (t.smTake n).kNext)
  else .next s.kWait

/-- SMSIG (06 R108). -/
def execSmsig (a : Reg) (s : State) : Out := .next (s.upd fun t => (t.smSignal ((t.kget a).setWidth 8)).kNext)

/-- SMSET (06 R108). -/
def execSmset (a b : Reg) (s : State) : Out :=
  .next (s.upd fun t => (t.smSet ((t.kget a).setWidth 8) ((t.kget b).setWidth 32)).kNext)

/-- SMRD (06 R108). -/
def execSmrd (d a : Reg) (s : State) : Out :=
  .next (s.kDone d ((s.tile.smGet ((s.tile.kget a).setWidth 8)).zeroExtend 64))

/-! ### The event queue (06 R111) -/

/-- The two words of a record into kd and kd + 1. -/
def Tile.putRecord (t : Tile) (d : Reg) (r : BitVec 128) : Tile :=
  (t.kset d (r.extractLsb' 0 64)).kset (d + 1) (r.extractLsb' 64 64)

/-- EVPOP (06 R111): waits for a record, removes the oldest. -/
def execEvpop (d : Reg) (s : State) : Out :=
  match s.tile.evq with
  | [] => .next s.kWait
  | r :: _ => .next (s.upd fun t => (t.popRecord.putRecord d r).kNext)

/-- EVPEEK (06 R111): zeros when the queue is empty. -/
def execEvpeek (d : Reg) (s : State) : Out :=
  .next (s.upd fun t => (t.putRecord d (t.evq.headD 0)).kNext)

/-- GRES (06 R113). -/
def execGres (a b : Reg) (s : State) : Out :=
  let t := s.tile
  let g := bits (t.kget a) 3 0
  let v := if bit (t.kget a) 4 then Guard.free else if t.kget b ≠ 0 then .yes else .no
  .next (s.upd fun t => { t with gd := wr t.gd g v }.kNext)

/-! ### Tokens (06 R114, 10 R231, R232) -/

/-- TKPUSH: pushes ka into every named queue from K. -/
def execTkpush (a : Reg) (c : BitVec 3) (s : State) : Out :=
  let t := s.tile
  let ps := peersOf .k c
  if t.tokenStalled .k [] ps false then .next (s.kFault .tokenStall 0)
  else if !t.canPush .k ps then .next s.kWait
  else .next (s.upd fun t => ((t.reserve .k ps).pushReserved .k ps ((t.kget a).setWidth 32) (t.k.clk.tick .k)).kNext)

/-- TKPOP: pops one entry from every named queue into K; kd receives the first peer's payload. -/
def execTkpop (d : Reg) (c : BitVec 3) (s : State) : Out :=
  let t := s.tile
  let ps := peersOf .k c
  if t.tokenStalled .k ps [] false then .next (s.kFault .tokenStall 0)
  else if !t.canPop .k ps then .next s.kWait
  else
    let v : Word := match t.heads .k ps with | h :: _ => h.pay.zeroExtend 64 | [] => 0
    .next (s.upd fun t => ((t.popToks .k ps).kset d v).kNext)

/-! ### Order at K (06 R116, R118, R123) -/

/-- An access of the task before K in token order has still to perform. reads: only those with a read half; posted: posted writes count. -/
def Tile.kOpen (t : Tile) (reads posted : Bool) : Bool :=
  t.reqs.any fun x => x.clk.before x.q t.k.clk && x.openAt posted && (!reads || x.kind != .store)

/-- FENCE (06 R123): K waits for the earlier accesses that the kind covers; at SYS scope for posted writes too. -/
def execFence (kind scope : BitVec 2) (s : State) : Out :=
  let t := s.tile
  let acq := kind = 1 ∨ kind = 3
  let rel := kind = 2 ∨ kind = 3
  if (acq ∧ t.kOpen true false) ∨ (rel ∧ t.kOpen false (scope == 3)) then .next s.kWait
  else .next s.kSkip

/-- QFENCE (06 R124): a join into every named queue. K waits while a named queue is full (log 22). -/
def execQfence (a b : Reg) (s : State) : Out :=
  let t := s.tile
  let mask : BitVec 7 := (t.kget a).setWidth 7
  let sem : BitVec 8 := (t.kget b).setWidth 8
  if mask = 0 then .next (s.upd fun t => (t.smSignal sem).kNext)
  else if (List.range 7).any fun e => mask.getLsbD e && decide (16 ≤ (rd t.q e).length) then .next s.kWait
  else
    let (id, s) := s.fresh
    let c : Cmd :=
      { body := .join id mask sem, tag := t.k.pc.setWidth 32, guard := none, decided := false, wait := 0, signal := 0, record := false
        started := false, unit := 0, row := 0, group := 0, fault := none, part := [], waited := 0, waitFrom := none
        promoted := false, suspended := false, rows := 0, posts := [], evicted := none, net := none, injected := false, clk := t.k.clk }
    let add := fun (q : Vector (List Cmd) 7) (e : Nat) => if mask.getLsbD e then wr q e (rd q e ++ [c]) else q
    .next (s.upd fun t => { t with q := (List.range 7).foldl add t.q }.kNext)

/-! ### Barriers (06 R115 to R119) -/

/-- A local barrier instruction on the object at ka, with its updates, made together with those of the cycle that wait there. release: K's earlier
accesses perform first (06 R116). An update of its own that would take pending or reload below zero is a fault, and changes nothing (06 R117). -/
def State.kBar (s : State) (a : Reg) (release : Bool) (us : List BarUpd) (d : Reg) : State :=
  let t := s.tile
  let ea := t.kget a
  if ea.toNat % 16 ≠ 0 then s.kFault .align ea
  else if spmSize ≤ ea.toNat then s.kFault .accessDenied ea
  else if t.kOrdered || release && t.kOpen false false then s.kWait
  else if s.isLost 1 s.cur.val ea.toNat 16 then (s.consumed s.cur .eccUncorrected (some (.spm, ea.toNat))).kFault .eccUncorrected ea
  else
    let o := t.spm.bar ea.toNat
    let due := (t.barDue.filter fun u => u.1 == ea.toNat).map fun u => u.2.1
    if (o.refused (due ++ us)).any fun i => decide (due.length ≤ i) then s.kFault .barOverrun ea
    else
      ((s.barMeet s.cur t.launch .live ea.toNat (us.map fun u => (u, s.cur.val))).upd fun x => { x with barOpen := x.barOpen.map fun _ => true }).kDone d
        (BitVec.ofNat 64 o.phase)

/-- BARR (06 R116, R117): an arrival with a byte count; closes the open batch (12 R292). -/
def execBarr (d a b : Reg) (s : State) : Out :=
  let n := s.tile.kget b
  let s := if s.tile.kOpen false false then s else s.closeBatch s.cur
  .next (s.kBar a true [.bytes n, .arrive 1] d)

/-- BARD (06 R116, R117): an arrival that leaves the barrier. -/
def execBard (d a : Reg) (s : State) : Out := .next (s.kBar a true [.drop] d)

/-- BARX (06 R116): a byte change. -/
def execBarx (a b : Reg) (s : State) : Out :=
  let n := s.tile.kget b
  .next (s.kBar a false [.bytes n] 0)

/-- BARW (06 R116, 10 R238): waits until the phase differs. -/
def execBarw (d a b : Reg) (s : State) : Out :=
  let t := s.tile
  let ea := t.kget a
  if ea.toNat % 16 ≠ 0 then .next (s.kFault .align ea)
  else if spmSize ≤ ea.toNat then .next (s.kFault .accessDenied ea)
  else if t.kOrdered then .next s.kWait
  else if s.isLost 1 s.cur.val ea.toNat 16 then
    .next ((s.consumed s.cur .eccUncorrected (some (.spm, ea.toNat))).kFault .eccUncorrected ea)
  else
    let p := (t.spm.bar ea.toNat).phase
    if p = bits (t.kget b) 11 0 then .next s.kWait else .next (s.kDone d (BitVec.ofNat 64 p))

/-- A barrier packet to each tile of a list (06 R118, R119): checks, then release at DEV scope, then the open batch closes and the packets
leave. -/
def State.kFlag (s : State) (a : Reg) (tiles : List Nat) (body : Nat → PktBody) : State :=
  let t := s.tile
  let addr := bits (t.kget a) 21 0
  let ea : Word := BitVec.ofNat 64 addr
  if addr % 16 ≠ 0 then s.kFault .align ea
  else if spmSize ≤ addr || tiles.any (fun n => match tileOf? n with
      | some u => !s.inPartition t.ctx u
      | none => true) then s.kFault .accessDenied ea
  else if t.kOpen false false then s.kWait
  else
    let s := s.closeBatch s.cur
    let s := tiles.foldl (fun s n => s.sendTo s.cur (tileOf n) 4 0 2 (body addr) t.k.clk) s
    s.kSkip

/-- FLAGADD (06 R118): a count of 0 does nothing. -/
def execFlagadd (a b : Reg) (s : State) : Out :=
  let n := bits (s.tile.kget b) 19 0
  if n = 0 then .next s.kSkip else .next (s.kFlag a [bits (s.tile.kget a) 40 32] fun p => .flagadd p n)

/-- FLAGSET (06 R119): a mask of zero does nothing. -/
def execFlagset (a b : Reg) (s : State) : Out :=
  let m := s.tile.kget b
  let t0 := bits (s.tile.kget a) 40 32
  let tiles := ((List.range 64).filter fun i => bit m i).map fun i => t0 + i
  if tiles.isEmpty then .next s.kSkip else .next (s.kFlag a tiles .flagset)

/-! ### Groups (06 R120, R121, 10 R234 to R236) -/

/-- A die's copy of a launch's group; unused where it has no members. -/
def Launch.group (l : Launch) (d : DieId) (g : Nat) : Group := ((l.groups[d]).find? fun x => x.g == g).getD ⟨g, [], 0⟩

/-- All ones. -/
def ones : Word := BitVec.allOnes 64

/-- What GRPQ answers (06 R120). -/
def grpAnswer (g : Group) (self sel rank : Nat) : Word :=
  match sel with
  | 0 => BitVec.ofNat 64 g.members.length
  | 1 => if g.members.isEmpty then ones else BitVec.ofNat 64 g.master
  | 2 => (match g.members.findIdx? fun m => m == self with | some r => BitVec.ofNat 64 r | none => ones)
  | _ => (match g.members[rank]? with | some m => BitVec.ofNat 64 m | none => ones)

/-- GRPQ (06 R120). -/
def execGrpq (d a b : Reg) (s : State) : Out :=
  let t := s.tile
  let g := match s.launch? t.launch with
    | some l => l.group (dieOf s.cur) (bits (t.kget a) 7 0)
    | none => ⟨0, [], 0⟩
  .next (s.kDone d (grpAnswer g (match t.task with | some k => k.index | none => 0) (bits (t.kget b) 1 0) (bits (t.kget a) 39 16)))

/-- The address of a group's barrier object (10 R234). -/
def groupObj (g : Nat) : Nat := 0x2FF000 + 16 * g

/-- One write of a GRPSET of tile self's task (10 R236): a die's copy of the table, or the object on a member's tile; a lost one is left as it is (23
R409). The caller's own tile takes it even while its task is being stopped (18 R370). -/
def State.grpWrite (s : State) (self : TileId) (launch : Word) (g n master : Nat) (members : List Nat) (x : GrpTarget) : State :=
  match x with
  | .die d => s.updLaunch launch fun l => { l with groups := l.groups.set d (⟨g, members, master⟩ :: (l.groups[d]).filter fun y => y.g != g) }
  | .tile t =>
    let h := if t = self then .live else s.taskHome t launch
    let k := match (s.taskTile t h).task with | some k => k.index | none => 0
    let c := if k = master then n else 1
    if s.spmLost t h (groupObj g) 16 then s.logSpm t launch (s.taskTile t h).ctx h (groupObj g)
    else s.updTask t h fun y => { y with spm := y.spm.setBar (groupObj g) { y.spm.bar (groupObj g) with pending := c, reload := c } }

/-- A write of a GRPSET must wait: the Spoke of a member's tile, other than the caller's own, holds it (18 R371). -/
def State.grpHeld (s : State) (self : TileId) (launch : Word) (x : GrpTarget) : Bool :=
  match x with
  | .die _ => false
  | .tile u => u != self && s.taskHome u launch == .held

/-- The list of task indices at a scratchpad address. -/
def Mem.taskList (m : Mem) (a : Nat) : Nat → List Nat
  | 0 => []
  | n + 1 => m.readN a 4 :: Mem.taskList m (a + 4) n

/-- Strictly ascending. -/
def ascending : List Nat → Bool
  | a :: b :: r => decide (a < b) && ascending (b :: r)
  | _ => true

/-- The conditions of 06 R121 on a list already read. -/
def grpListOk (l : Launch) (d : DieId) (g n master : Nat) (ms : List Nat) : Bool :=
  ascending ms && ms.all (fun m => m < l.tasks) && ms.contains master && ms.length == n &&
  ms.all fun m => ((l.groups[d]).filter fun x => x.g != g && x.members.contains m).length < 4

/-- GRPSET (06 R121): K waits until every write is in place. -/
def execGrpset (a b : Reg) (s : State) : Out :=
  let t := s.tile
  let g := bits (t.kget a) 7 0
  let p := (t.kget b).toNat
  let d := dieOf s.cur
  let self := match t.task with | some k => k.index | none => 0
  if p % 8 ≠ 0 then .next (s.kFault .align (t.kget b))
  else match s.launch? t.launch with
    | none => .next (s.kFault .accessDenied (t.kget b))
    | some l =>
      let m := t.spmView t.k.clk
      let w := m.readN p 8
      let n := nbits w 0 24
      let master := nbits w 32 24
      let e := l.group d g
      let o := t.spm.bar (groupObj g)
      if s.isLost 1 s.cur.val p 8 || s.isLost 1 s.cur.val (p + 8) (4 * n) || s.isLost 1 s.cur.val (groupObj g) 16 then
        .next ((s.consumed s.cur .eccUncorrected (some (.spm, p))).kFault .eccUncorrected (t.kget b))
      else if spmSize < p + 8 || e.members.isEmpty || e.master != self || nbits w 24 8 != 0 || nbits w 56 8 != 0 ||
          o.pending != o.reload || o.bytes != 0 || n == 0 || decide (2 ^ 20 ≤ n) || decide (spmSize < p + 8 + 4 * n) then
        .next (s.kFault .accessDenied (t.kget b))
      else
        let ms := m.taskList (p + 8) n
        if !grpListOk l d g n master ms then .next (s.kFault .accessDenied (t.kget b))
        else
          let targets := [GrpTarget.die 0, .die 1, .die 2] ++ (ms.filterMap fun i => l.tileOfTask i).map GrpTarget.tile
          if s.defer || targets.any (s.grpHeld s.cur t.launch) then
            .next (s.upd fun t => { t with k := { t.k with pend := some (.grpset g n master ms targets), since := some s.dev.now } })
          else .next (targets.foldl (fun s x => s.grpWrite s.cur t.launch g n master ms x) s).kSkip

/-! ### Subscriptions (06 R125) -/

/-- A subscription descriptor's fields are valid. -/
def subDescOk (w : Nat) : Bool :=
  let sub := nbits w 0 32
  let pub := nbits w 32 32
  let size := nbits w 64 32
  nbits w 112 16 == 0 && sub % 32 == 0 && pub % 32 == 0 && size % 32 == 0 && decide (32 ≤ size) &&
  decide (sub + size ≤ spmSize) && decide (pub + size ≤ spmSize)

/-- The publisher's answer to a SUBON (06 R125): only stores made after it reach the new
entry: 0 with the entries open, the publisher's lowest free one (log 125), 2 or 4; nothing while its Spoke holds the handshake. -/
def State.subOpen (s : State) (sub : TileId) (e pubTile size pubBase subBase : Nat) : Option (Nat × State) :=
  let x := s.tileAt sub
  match tileOf? pubTile with
  | none => some (4, s)
  | some p =>
    let h := s.taskHome p x.launch
    if !s.inPartition x.ctx p || h == .absent then some (4, s)
    else if h == .held then none
    else match (s.taskTile p h).freePub with
      | none => some (2, s)
      | some i =>
        let s := s.updTask p h fun y => { y with
          pubs := wr y.pubs i ⟨true, false, sub.val, size, pubBase, subBase, 0⟩
          batch := y.batch.map fun b => { b with fresh := (i, 0) :: b.fresh.filter fun f => f.1 != i } }
        some (0, s.updAt sub fun y => { y with subs := wr y.subs e ⟨true, false, pubTile, size, pubBase, subBase, 0⟩ })

/-- SUBON (06 R125). -/
def execSubon (d a b : Reg) (s : State) : Out :=
  let t := s.tile
  let e := bits (t.kget a) 3 0
  let p := (t.kget b).toNat
  if p % 16 ≠ 0 then .next (s.kFault .align (t.kget b))
  else if spmSize < p + 16 then .next (s.kFault .accessDenied (t.kget b))
  else if s.isLost 1 s.cur.val p 16 then
    .next ((s.consumed s.cur .eccUncorrected (some (.spm, p))).kFault .eccUncorrected (t.kget b))
  else
    let w := (t.spmView t.k.clk).readN p 16
    if (rd t.subs e).opened then .next (s.kDone d 1)
    else if !subDescOk w then .next (s.kDone d 3)
    else
      let pend := s.upd fun t => { t with k := { t.k with
        pend := some (.subon d e (nbits w 96 16) (nbits w 64 32) (nbits w 32 32) (nbits w 0 32)), since := some s.dev.now } }
      if s.defer then .next pend
      else match s.subOpen s.cur e (nbits w 96 16) (nbits w 64 32) (nbits w 32 32) (nbits w 0 32) with
        | none => .next pend
        | some (r, s) => .next (s.kDone d (BitVec.ofNat 64 r))

/-- One step of a SUBOFF (06 R125): the publisher drops its entry; when its earlier updates are written here the entry closes. -/
def State.subClose (s : State) (sub : TileId) (d : Reg) (e : Nat) (removed : Option Nat) : State :=
  let x := s.tileAt sub
  let ent := rd x.subs e
  let p := tileOf ent.peer
  if removed.isNone && s.taskHome p x.launch == .held then s
  else
    let (stamp, s) := match removed with
      | some n => (n, s)
      | none => let s := s.dropPub p sub x.launch ent; (s.dev.nextId, s)
    if s.updatesInFlight p sub stamp then
      s.updAt sub fun t => { t with k := { t.k with pend := some (.suboff d e (some stamp)) } }
    else s.updAt sub fun t =>
      let t := { t with subs := wr t.subs e SubEntry.closed, k := { t.k with pend := none } }
      (t.kset d 0).kNext

/-- SUBOFF (06 R125). -/
def execSuboff (d a : Reg) (s : State) : Out :=
  let t := s.tile
  let e := bits (t.kget a) 3 0
  if !(rd t.subs e).opened then .next (s.kDone d 1)
  else
    let s := s.upd fun t => { t with k := { t.k with pend := some (.suboff d e none), since := some s.dev.now } }
    if s.defer then .next s else .next (s.subClose s.cur d e none)

/-! ### Channel resynchronisation (06 R126, 12 R290) -/

/-- A channel's declaration. -/
def State.chanDecl (s : State) (launch : Word) (c : Nat) : Option (Launch × ChanDecl) :=
  match s.launch? launch with
  | none => none
  | some l => match s.dev.images[l.image]? with
    | none => none
    | some i => (i.chans.find? fun x => x.id == c).map fun x => (l, x)

/-- A slot packet of a channel is in flight. -/
def State.slotsInFlight (s : State) (launch : Word) (c : Nat) : Bool :=
  s.dev.net.any fun p => p.launch == launch && (match p.body with | .slot k _ _ => k == c | _ => false)

/-- The tile state that holds a channel's receiver: its task, live or saved, or, retired, the tile that still holds the
launch's counters, in place or, once another launch's task runs there, among those it keeps (10 R244). -/
def State.chanHome (s : State) (t : TileId) (launch : Word) : Home :=
  match s.taskHome t launch with
  | .absent =>
    if (s.tileAt t).spmLaunch = launch then .live
    else if (s.tileAt t).kept.any fun k => k.launch == launch then .kept launch else .absent
  | h => h

/-- The ring positions of a channel's lost slots: those that no later send has used again (12 R290). -/
def Launch.lostRing (l : Launch) (k : ChanDecl) (sent : BitVec 32) : List Nat :=
  (l.slotsLost.filter fun p => p.1 == k.id && decide ((sent - p.2).toNat ≤ k.slots)).map fun p => k.ring + k.bytes * (p.2.toNat % k.slots)

/-- Ring positions of the tile where a channel's receiver is written zero. -/
def State.zeroRing (s : State) (u : TileId) (h : Home) (n : Nat) (as : List Nat) : State :=
  let s := s.updTask u h fun z => { z with spm := as.foldl (fun m a => m.clear a n) z.spm }
  match h with
  | .live => as.foldl (fun s a => s.heal 1 u.val a n) s
  | .image slot => as.foldl (fun s a => s.imageWrite slot a n 0) s
  | _ => s

/-- The receiver's part and the sender's (12 R290): received becomes sent, lost positions read zero, free and fault follow from the
receiver's consumed count, which is the answer. Nothing while a slot is in flight or the receiver's Spoke holds the handshake. -/
def State.resync (s : State) (t : TileId) (c : Nat) : Option (Word × State) :=
  let x := s.tileAt t
  match s.chanDecl x.launch c with
  | none => none
  | some (l, k) => match l.tileOfTask k.dst with
    | none => none
    | some u =>
      let h := s.chanHome u x.launch
      if s.slotsInFlight x.launch c || h == .held || h == .absent then none
      else
        let me := rd x.chans c
        let y := rd (s.taskTile u h).chans c
        let s := (s.zeroRing u h k.bytes (l.lostRing k me.sent)).updTask u h fun z => { z with
          chans := wr z.chans c { rd z.chans c with received := me.sent } }
        let s := s.updLaunch l.id fun l => { l with slotsLost := l.slotsLost.filter fun p => p.1 != c }
        let s := s.updAt t fun z => { z with chans := wr z.chans c { rd z.chans c with
          free := BitVec.ofNat 32 k.slots - (me.sent - y.consumed), last := y.consumed, fault := false } }
        some (y.consumed.zeroExtend 64, s)

/-- CHRESYNC (06 R126): a pure wait for the receiver's consumed count. -/
def execChresync (d a : Reg) (s : State) : Out :=
  let c := bits (s.tile.kget a) 5 0
  if !(rd s.tile.chans c).sender then .next (s.kFault .accessDenied 0)
  else
    let pend := s.upd fun t => { t with k := { t.k with pend := some (.chresync d c), since := some (t.k.since.getD s.dev.now) } }
    if s.defer then .next pend
    else match s.resync s.cur c with
      | none => .next pend
      | some (v, s) => .next (s.kDone d v)

/-! ### The handshakes K waits for -/

/-- A K that finishes a handshake with a value for kd. -/
def State.kAnswer (s : State) (t : TileId) (d : Reg) (v : Word) : State :=
  s.updAt t fun x => ({ x with k := { x.k with pend := none } }.kset d v).kNext

/-- SUBSCRIPTION_HANDSHAKE (06 R125, 12 R291): the publisher's reply to the SUBON or SUBOFF that tile t's K waits in. -/
def execSubscriptionHandshake (t : TileId) (s : State) : Out :=
  match (s.tileAt t).k.pend with
  | some (.subon d e p size pb sb) => (match s.subOpen t e p size pb sb with
    | some (r, s) => .next (s.kAnswer t d (BitVec.ofNat 64 r))
    | none => .next s)
  | some (.suboff d e r) => .next (s.subClose t d e r)
  | _ => .next s

/-- CHRESYNC_HANDSHAKE (06 R126, 12 R290): the receiver's reply to the CHRESYNC that tile t's K waits in. -/
def execChresyncHandshake (t : TileId) (s : State) : Out :=
  match (s.tileAt t).k.pend with
  | some (.chresync d c) => (match s.resync t c with
    | some (v, s) => .next (s.kAnswer t d v)
    | none => .next s)
  | _ => .next s

/-- GRPSET_HANDSHAKE (06 R121, 10 R236): the next write of the GRPSET that tile t's K waits in; after the last K goes on. A write to a tile
whose Spoke holds the handshake waits (18 R371). -/
def execGrpsetHandshake (t : TileId) (s : State) : Out :=
  let x := s.tileAt t
  match x.k.pend with
  | some (.grpset g n m ms left) => (match left with
    | [] => .next (s.updAt t fun x => { x with k := { x.k with pend := none } }.kNext)
    | y :: r =>
      if s.grpHeld t x.launch y then .next s
      else
        let s := s.grpWrite t x.launch g n m ms y
        if r.isEmpty then .next (s.updAt t fun x => { x with k := { x.k with pend := none } }.kNext)
        else .next (s.updAt t fun x => { x with k := { x.k with pend := some (.grpset g n m ms r) } }))
  | _ => .next s

end Sys2Proof.Machine
end

