-- ==== Sys2Proof/Machine/KSys.lean ====
section
/-! DEFINITION. K's Sett references and roots, system registers, traps and the handler's instructions (06 R127 to R136, 18 R361 to
R367), and TRAP_ENTRY. -/

namespace Sys2Proof.Machine

/-! ### Setts (06 R127, R128) -/

/-- SINC (06 R127). -/
def execSinc (d a : Reg) (s : State) : Out :=
  let n := s.tile.kget a
  if n = 0 then .next (s.kDone d 0)
  else if s.tile.kOrdered then .next s.kWait
  else if s.defer then .next (s.kLink n)
  else match s.needName s.tile.ctx n with
    | .error c => .next ((s.consumed s.cur c (s.nameMet n)).kFault c n)
    | .ok g => let s := s.incSlot g; .next (s.kDone d (BitVec.ofNat 64 (s.slot g).count))

/-- SREL (06 R127): at zero the line is freed; K does not wait for the walk. -/
def execSrel (d a : Reg) (s : State) : Out :=
  let n := s.tile.kget a
  if n = 0 then .next (s.kDone d 0)
  else if s.tile.kOrdered then .next s.kWait
  else if s.defer then .next (s.kLink n)
  else match s.needName s.tile.ctx n with
    | .error c => .next ((s.consumed s.cur c (s.nameMet n)).kFault c n)
    | .ok g =>
      let c := (s.slot g).count
      .next ((s.release s.tile.ctx n).kDone d (BitVec.ofNat 64 (if c = pinned then c else c - 1)))

/-- SROOT (06 R128): compare and swap of a root slot; an acq_rel access at DEV scope, whose release half has no effect on an unordered page
(07 R146). -/
def execSroot (d a b : Reg) (s : State) : Out :=
  let t := s.tile
  let ea := t.kget a
  let new := t.kget b
  .next <| s.kAccess .loc .rmw ea 8 false 0 fun s1 w =>
    if w.ord != .unordered && t.kOpen false false then s.kWait
    else match (if new = 0 then .ok none else (s1.needName t.ctx new).map some) with
    | .error c => (s.consumed s.cur c (s.nameMet new)).kFault c ea
    | .ok g => match s1.readAt s.cur t.k.clk w.tgt w.addr 8 with
      | .error c => (s.consumed s.cur c (some (w.tgt, w.addr))).kFault c ea
      | .ok old =>
        if BitVec.ofNat 64 old ≠ t.kget d then s1.kDone d (BitVec.ofNat 64 old)
        else if old ≠ 0 && s1.bucketLost (s1.bucketOf (old / 256)) then
          (s.consumed s.cur .eccUncorrected (s.nameMet (BitVec.ofNat 64 old))).kFault .eccUncorrected ea
        else
          let s2 := match g with | some g => s1.incSlot g | none => s1
          match s2.writeAt s.cur w.tgt w.addr 8 new.toNat with
          | .error c => s.kFault c ea
          | .ok s3 => (if old = 0 then s3 else s3.release t.ctx (BitVec.ofNat 64 old)).kDone d (BitVec.ofNat 64 old)

/-! ### System registers (06 R129 to R131) -/

/-- The value of a system register; a number not listed reads zero (06 R129). -/
def State.sysReg (s : State) (n : Nat) : Word :=
  let t := s.tile
  let l := (s.launch? t.launch).getD default
  match n with
  | 0x000 => BitVec.ofNat 64 (match t.task with | some k => k.index | none => 0)
  | 0x001 => BitVec.ofNat 64 s.cur.val
  | 0x002 => BitVec.ofNat 64 l.tasks
  | 0x003 => t.launch
  | 0x004 => l.seed
  | 0x005 => l.cbase
  | 0x006 => if t.loopmode then 1 else 0
  | 0x007 => t.ctx.zeroExtend 64
  | 0x008 => s.devNum.zeroExtend 64
  | 0x009 => BitVec.ofNat 64 t.evq.length
  | 0x010 => t.age.zeroExtend 64
  | 0x011 => t.tvec
  | _ => 0

/-- SRRD (06 R130). -/
def execSrrd (d a : Reg) (s : State) : Out := .next (s.kDone d (s.sysReg (bits (s.tile.kget a) 11 0)))

/-- An address is a multiple of 4 within K's stream, its end left out (06 R130). -/
def Tile.kAddrOk (t : Tile) (a : Word) : Bool :=
  a.toNat % 4 == 0 && (match t.task with | some k => decide (k.kEnt ≤ a) && decide (a < k.kFin) | none => false)

/-- SRWR (06 R130). -/
def execSrwr (a b : Reg) (s : State) : Out :=
  let t := s.tile
  let n := bits (t.kget a) 11 0
  let v := t.kget b
  if n = 0x010 then .next (s.upd fun t => { t with age := v.setWidth 32 }.kNext)
  else if n = 0x011 ∧ t.k.trap = true then
    (if v = 0 ∨ t.kAddrOk v then .next (s.upd fun t => { t with tvec := v }.kNext) else .next (s.kFault .align v))
  else .next (s.kFault .priv 0)

/-- RNG (06 R131): the generator word of lane 0. -/
def execRng (d a : Reg) (s : State) : Out :=
  let t := s.tile
  let l := (s.launch? t.launch).getD default
  let i := match t.task with | some k => k.index | none => 0
  .next (s.kDone d (rngWord l.seed (rngCounter l.cbase i (t.kget a).toNat 0)))

/-- CLKRD (06 R131). -/
def execClkrd (d : Reg) (s : State) : Out := .next (s.kDone d s.clkrd)

/-- NOP (06 R136). -/
def execNop (s : State) : Out := .next s.kSkip

/-! ### Traps (06 R132 to R134, 18 R361 to R367) -/

/-- The sequencer of a code 1 to 3. -/
def seqOf (n : Nat) : Option Sequencer :=
  match n with
  | 1 => some .l
  | 2 => some .c
  | 3 => some .s
  | _ => none

/-- What SQRD reads (06 R132). -/
def Tile.sqItem (t : Tile) (q : Sequencer) (item kb : Nat) : Word :=
  match item, t.stopOf q with
  | 0, some _ => 1
  | 0, none => if t.endedOf q then 2 else 0
  | 1, some r => r.pc
  | 2, some r => BitVec.ofNat 64 r.cause.code
  | 3, some r => r.addr
  | 4, some r => if q = .c ∧ kb = 1 then r.word.extractLsb' 64 64 else r.word.extractLsb' 0 64
  | 5, some _ => (match q with
    | .l => rd t.l.regs (kb % 32)
    | .s => rd t.s.regs (kb % 32)
    | _ => 0)
  | 6, some _ => (match q with
    | .l => t.l.preds.zeroExtend 64
    | .s => t.s.preds.zeroExtend 64
    | _ => (rd t.c.p (kb % 8)).extractLsb' (if kb / 8 % 2 = 1 then 64 else 0) 64)
  | 7, some _ =>
    let l := rd (match q with | .l => t.l.lc | .s => t.s.lc | _ => t.c.lc) (kb % 4)
    BitVec.ofNat 64 (l.count.toNat + l.index.toNat * 2 ^ 32)
  | _, _ => 0

/-- SQRD (06 R132): a handler's instruction, PRIV outside trap mode (05 R88). -/
def execSqrd (d a b : Reg) (s : State) : Out :=
  let t := s.tile
  if !t.k.trap then .next (s.kFault .priv 0)
  else
    let v := match seqOf (bits (t.kget a) 1 0) with
      | some q => t.sqItem q (bits (t.kget a) 15 8) (t.kget b).toNat
      | none => 0
    .next (s.kDone d v)

/-- A stopped sequencer released to execute its instruction again. -/
def Tile.unstop (t : Tile) (q : Sequencer) : Tile :=
  match q with
  | .k => t
  | .l => { t with l := { t.l with stop := none } }
  | .c => { t with c := { t.c with stop := none } }
  | .s => { t with s := { t.s with stop := none } }

/-- SQRES (06 R133, 18 R367): the stopped instruction executes again; of a halted queue, the head restarts. -/
def execSqres (a : Reg) (s : State) : Out :=
  let t := s.tile
  let v := t.kget a
  if !t.k.trap then .next (s.kFault .priv 0)
  else match seqOf (bits v 1 0) with
    | some q => .next (s.upd fun t => (if (t.stopOf q).isSome then t.unstop q else t).kNext)
    | none => match queueOf (bits v 10 8) with
      | none => .next s.kSkip
      | some q => .next (s.upd fun t => (match (t.cmds q).head? with
        | some c => if c.fault.isSome then t.setHead q { c with fault := none } else t
        | none => t).kNext)

/-- The words of an L or S instruction's bookkeeping at SQSKIP (06 R133): an encoding that is none has no tokens and no base (04 R78,
log 23). -/
def skipWord (q : Sequencer) (w : BitVec 64) : Option LSF :=
  let ok := match q with
    | .l => (match decodeL w with | .ok _ => true | .error _ => false)
    | _ => (match decodeS w with | .ok _ => true | .error _ => false)
  if ok then some (LSF.ofWord w) else none

/-- Whether an L or S word is a memory access in post-increment mode (05 R90). -/
def isPostInc (w : BitVec 64) : Bool := 0x10 ≤ bits w 63 56 && bits w 63 56 < 0x40 && bit w 58

/-- The payload of a skipped instruction's pushes: 0, or the base value's low half for FADD_INDETERMINATE (06 R133). -/
def skipPay (r : StopRec) : BitVec 32 := if r.cause = .faddIndeterminate then r.addr.setWidth 32 else 0

/-- A stopped L or S word skipped: entries present are popped, the base is incremented, reserved pushes are made, and the word counts as
issued (06 R133, 18 R365). -/
def Tile.skipLs (t : Tile) (q : Sequencer) (r : StopRec) : Tile :=
  let w : BitVec 64 := r.word.extractLsb' 0 64
  let resv := (t.ls q).resv
  let t := t.unstop q
  match skipWord q w with
  | none => t.lsNext q
  | some f =>
    let t := t.popToks q (peersOf q f.pop)
    let t := if isPostInc w then t.postInc q .postInc f else t
    (if resv then t.pushReserved q (peersOf q f.push) (skipPay r) ((t.clkOf q).tick q) else t).lsNext q

/-- A stopped bundle of C skipped, slot M included (06 R133); one with a reserved encoding moves nothing (10 R231, log 23). -/
def Tile.skipC (t : Tile) (r : StopRec) : Tile :=
  let resv := t.c.resv
  let t := t.unstop .c
  match t.cBundle r.word with
  | none => t.cNext
  | some b =>
    let t := t.popToks .c (peersOf .c b.k.pop)
    (if resv then t.pushReserved .c (peersOf .c b.k.push) 0 (t.c.clk.tick .c) else t).cNext

/-- SQSKIP (06 R133, 18 R365, R367): the stopped instruction's bookkeeping without its operation; of a halted queue, the head is
discarded. -/
def execSqskip (a : Reg) (s : State) : Out :=
  let t := s.tile
  let v := t.kget a
  if !t.k.trap then .next (s.kFault .priv 0)
  else match seqOf (bits v 1 0) with
    | some q => .next (s.upd fun t => (match t.stopOf q with
      | none => t
      | some r => if q = Sequencer.c then t.skipC r else t.skipLs q r).kNext)
    | none => match queueOf (bits v 10 8) with
      | none => .next s.kSkip
      | some q => .next (s.upd fun t => (if t.halted q then t.popCmd q else t).kNext)

/-- TRAP (06 R134): SWTRAP with value ka; the handler resumes behind it. -/
def execTrap (a : Reg) (s : State) : Out :=
  .next (s.upd fun t =>
    if t.k.trap || t.tvec == 0 then t.kRaise .swtrap (t.kget a) t.k.pc s.kWord
    else (t.kRaise .swtrap (t.kget a) (t.k.pc + 4) s.kWord).setClk .k (t.k.clk.tick .k))

/-- The first stopped sequencer in order L, C, S with its record (18 R363). -/
def Tile.firstStop (t : Tile) : Option (Sequencer × StopRec) :=
  match t.l.stop, t.c.stop, t.s.stop with
  | some r, _, _ => some (.l, r)
  | none, some r, _ => some (.c, r)
  | none, none, some r => some (.s, r)
  | none, none, none => none

/-- K enters its handler for a stopped sequencer (18 R362, R363). -/
def Tile.enterFor (t : Tile) (ret : Word) (q : Sequencer) (r : StopRec) : Tile :=
  t.enterTrap ret r.cause q r.imprecise r.addr r.pc 0

/-- ERET (06 R134, 18 R363, R364): with nothing stopped K resumes at kt0; else the next stop is delivered. -/
def execEret (s : State) : Out :=
  let t := s.tile
  let kt0 := rd t.k.kt 0
  if !t.k.trap then .next (s.kFault .priv 0)
  else if !t.kAddrOk kt0 then .next (s.kFault .illegal 0)
  else match t.firstStop with
    | none => .next (s.upd fun t => { t with k := { t.k with trap := false } }.kGo kt0)
    | some (q, r) =>
      if t.tvec = 0 then .next (s.upd fun t => { t.kNext with kill := some ⟨false, r.cause, q, r.pc⟩ })
      else .next (s.upd fun t => t.kNext.enterFor kt0 q r)

/-- K takes the trap of the first stopped sequencer at its instruction boundary; a pure wait is abandoned (18 R361). -/
def State.trapNow (s : State) (t : TileId) : State :=
  let x := s.tileAt t
  let reply := match x.k.pend with
    | none => false
    | some (.chresync _ _) => false
    | some _ => true
  if x.task.isNone || !x.live || x.preempt != .none || x.kill.isSome || x.k.trap || x.endedOf .k || x.tvec == 0 || reply then s
  else match x.firstStop with
    | none => s
    | some (q, r) => s.updAt t fun x => { x with k := { x.k with pend := none } }.enterFor x.k.pc q r

/-- TRAP_ENTRY (18 R361, R362). -/
def execTrapEntry (t : TileId) (s : State) : Out := .next (s.trapNow t)

/-- YIELD (06 R135): if a launch of equal or higher priority waits for this tile, the task is pre-empted; else nothing. The task's own
launch, waiting for tiles for its later tasks, does not count (log 116). -/
def execYield (s : State) : Out :=
  let s1 := s.kSkip
  match s.runs s.cur with
  | none => .next s1
  | some (v, _) =>
    match (scoreboard s.dev.launches).find? fun w => w.id != v.id && v.prio ≤ w.prio && s.waitsFor w s.cur with
    | none => .next s1
    | some w => .next (s1.preempt (s.stopSet s.cur) w.id)

/-- EXIT (06 R136): K ends; in trap mode the task is killed. -/
def execExit (s : State) : Out :=
  .next (s.upd fun t =>
    if t.k.trap then { t with kill := some ⟨true, .swtrap, .k, t.k.pc⟩ }
    else { t with k := { t.k with ended := true, since := none, clk := t.k.clk.tick .k } })

end Sys2Proof.Machine
end

