-- ==== Sys2Proof/Machine/Launches.lean ====
section
/-! DEFINITION. Launch records and final states (15 R325, R326, 24 R428), dispatch traces (15 R320, R321), retirement (10 R243 to R245)
and kills (18 R366, R368). -/

namespace Sys2Proof.Machine

/-! ### Physical addresses of the control plane (15 R307) -/

/-- n bytes that stand at a physical address of local or host memory. -/
def State.physRead (s : State) (p : Word) (n : Nat) : Nat :=
  if bit p 63 then s.dev.host.readN (bits p 47 0) n else s.dev.hbm.readN (bits p 39 0) n

/-- n bytes written at a physical address of local or host memory, under tag 0x000: a write that a target refuses has no effect (16 R339). -/
def State.physWrite (s : State) (p : Word) (n v : Nat) : State :=
  if !s.physOk p n .write then s
  else if bit p 63 then s.updDev fun d => { d with host := d.host.writeN (bits p 47 0) n v } else s.writeHbm (bits p 39 0) n v

/-! ### Accesses of the control plane in a queue's context (16 R328, R339) -/

/-- n bytes at a place for an access that is checked under a tag, names of Sett-mapped pages being those of a context. -/
def State.ctlReadAt (s : State) (tag check : BitVec 12) (tgt : Target) (a n : Nat) : Except Cause Nat :=
  match tgt with
  | .window root => (match s.rootWord check root a with
    | .error c => .error c
    | .ok r => s.readVia tag r a n)
  | .commons u l =>
    if s.isLost 4 u.val (carveOff l a) n then .error .eccUncorrected else .ok (((s.tileAt u).carveMem l).readN a n)
  | t => s.readAt 0 Clk.zero t a n

/-- Where n bytes of a launch at an address of space M, L, F or H are, for an access that is checked under a tag: 0x000, or the queue's own for a
transfer command (15 R310, 16 R328). -/
def State.ctlWhere (s : State) (tag : BitVec 12) (id : Word) (sp : Space) (k : Acc) (va : Word) (n : Nat) (check : BitVec 12) :
    Except Cause Where :=
  match sp with
  | .commons => (match s.commonsAt id va n with
    | .ok (u, o) => .ok ⟨.commons u id, o, .rc, false⟩
    | .error c => .error c)
  | _ => s.resolveCtl tag sp k va n check

/-- Where an access of the control plane is met when its resolving fails. -/
def State.ctlMet (s : State) (tag : BitVec 12) (sp : Space) (va : Word) : Met :=
  match sp with
  | .commons => none
  | _ => some (.hbm, s.lostPte tag va)

/-- n bytes of v written in a queue's context under tag 0x000, and whether they were. -/
def State.ctlWrite (s : State) (tag : BitVec 12) (id : Word) (sp : Space) (va : Word) (n v : Nat) : State × Bool :=
  let s := s.bindTag tag
  match s.ctlWhere tag id sp .write va n 0 with
  | .error c => (s.failed 0 tag id c (s.ctlMet tag sp va), false)
  | .ok w => match s.writeAt 0 w.tgt w.addr n v with
    | .error c => (s.failed 0 tag id c (some (w.tgt, w.addr)), false)
    | .ok s => (s, true)

/-! ### Launch records (15 R325) -/

/-- The fields of a launch packet (15 R311). -/
def Launch.imageVa (l : Launch) : Nat := l.pk 24 8
/-- AGE of the packet. -/
def Launch.ageOf (l : Launch) : Nat := l.pk 32 8
/-- The trace address. -/
def Launch.traceVa (l : Launch) : Nat := l.pk 104 8
/-- Bytes per die region of the trace. -/
def Launch.traceCap (l : Launch) : Nat := l.pk 96 8
/-- The flow timeout in cycles (12 R282). -/
def Launch.flowTmo (l : Launch) : Nat := if l.pk 152 8 = 0 then 2 ^ 27 else l.pk 152 8

/-- The status word. -/
def Launch.status (l : Launch) : Nat :=
  l.state.code * 2 ^ 24 + l.reason % 256 * 2 ^ 16 + l.queue % 256 * 2 ^ 8 + l.mode % 4

/-- The 128 bytes of the record as one number. -/
def Launch.record (l : Launch) : Nat :=
  let x := if l.transfer then 0 else 1
  l.id.toNat + l.word0 * 2 ^ 64 + x * (l.imageVa * 2 ^ 128) + l.status * 2 ^ 192 + x * (l.pk 8 4 * 2 ^ 224) + l.seed.toNat * 2 ^ 256 +
    l.cbase.toNat * 2 ^ 320 + (if l.mode = 0 then 0 else l.traceVa * 2 ^ 384) + l.digest.toNat * 2 ^ 448 + l.events % 2 ^ 32 * 2 ^ 512 +
    l.tokens % 2 ^ 32 * 2 ^ 544 + l.guarded % 2 ^ 32 * 2 ^ 576 + l.killed % 2 ^ 32 * 2 ^ 608 + l.tacc.toNat * 2 ^ 640 +
    l.tdone.toNat * 2 ^ 704

/-- Where a launch's record lies (15 R316). -/
def State.recordAt (s : State) (l : Launch) : Word :=
  (rd s.dev.queues l.queue).recBase + BitVec.ofNat 64 (128 * (l.id.toNat % 256))

/-- The whole record written. -/
def State.writeRecord (s : State) (id : Word) : State :=
  match s.launch? id with
  | some l => s.physWrite (s.recordAt l) 128 l.record
  | none => s

/-- A change of state: the status word is rewritten. -/
def State.moveLaunch (s : State) (id : Word) (st : LState) (f : Launch → Launch) : State :=
  let s := s.updLaunch id fun l => { f l with state := st }
  match s.launch? id with
  | some l => s.physWrite (s.recordAt l + 24) 4 l.status
  | none => s

/-- The launch chain of a queue takes in a record (24 R428). -/
def Mgmt.fold (m : Mgmt) (q record : Nat) : Mgmt :=
  let c := rd m.chains q
  { m with chains := wr m.chains q (sha384 (leBytes 48 c.1.toNat ++ leBytes 128 record), c.2 + 1) }

/-- A final record put with those of its cycle, in ascending launch ID: its fold is made when the cycle ends (24 R428). -/
def insertFold (f : Word × Nat × Nat) : List (Word × Nat × Nat) → List (Word × Nat × Nat)
  | [] => [f]
  | g :: r => if f.1 ≤ g.1 then f :: g :: r else g :: insertFold f r

/-- The record of a launch is to be folded into the chain of its queue. -/
def State.foldChain (s : State) (id : Word) (q : Nat) (record : Nat) : State :=
  s.updDev fun d => { d with mgmt := { d.mgmt with folds := insertFold (id, q, record) d.mgmt.folds } }

/-- The folds of a cycle made, in order. -/
def Mgmt.foldAll (m : Mgmt) : Mgmt := { m.folds.foldl (fun m f => m.fold f.2.1 f.2.2) m with folds := [] }

/-- A wave occupies some of n slots from a. -/
def Wave.meets (w : Wave) (a n : Nat) : Bool := decide (w.base < a + n) && decide (a < w.base + w.flits)

/-- Lost accumulator slots that no wave, hold or standing input of a launch has any longer are lost no longer: the next that takes one starts anew. -/
def State.dropSlots (s : State) : State :=
  if s.dev.lost.isEmpty then s
  else s.updDev fun d => { d with lost := d.lost.filter fun u =>
    u.code != 8 ||
    (match tileOf? u.place with
      | some t => (d.tiles[t]).acc.any (fun a => a.n == u.off / 256) || (d.tiles[t]).waves.any fun w => w.meets (u.off / 256) 1
      | none => d.portWaves.any fun w => w.1 + 432 == u.place && w.2.meets (u.off / 256) 1) }

/-- What belongs to a launch is released once its final state is written (01 R17, 15 R316). -/
def State.releaseLaunch (s : State) (id : Word) : State :=
  ((s.updDev fun d => { d with
    dies := d.dies.map fun x => { x with
      warren := x.warren.filter fun e => e.launch != id
      lists := x.lists.filter fun w => w.launch != id }
    portT := d.portT.filter fun e => e.launch != id
    portWaves := d.portWaves.filter fun w => w.2.launch != id
    saves := d.saves.filter fun v => v.launch != id
    tiles := d.tiles.map fun x => { x with
      matchT := x.matchT.filter fun e => e.launch != id
      waves := x.waves.filter fun w => w.launch != id
      acc := x.acc.filter fun a => a.launch != id
      carves := x.carves.filter fun c => c.launch != id
      kept := x.kept.filter fun k => k.launch != id } }).dropSlots).updLaunch id fun l =>
    { l with groups := Vector.replicate 3 [], reserved := [] }

/-- The final state of a launch: the record written whole, folded into the queue's chain, and the launch's resources released. -/
def State.endLaunch (s : State) (id : Word) (st : LState) (reason : Nat) (digest : Word) : State :=
  let s := s.updLaunch id fun l => { l with state := st, reason := reason, digest := digest, tdone := s.clkrd }
  match s.launch? id with
  | some l => ((s.writeRecord id).foldChain id l.queue l.record).releaseLaunch id
  | none => s

/-! ### Dispatch traces (15 R320, R321) -/

/-- A record added to a die's region in record mode; false when the write cannot be made. -/
def State.traceAdd (s : State) (id : Word) (d : DieId) (r : BitVec 128) : State × Bool :=
  match s.launch? id with
  | none => (s, true)
  | some l =>
    if l.mode ≠ 1 then (s, true)
    else
      let va : Word := BitVec.ofNat 64 (l.traceVa + d.val * l.traceCap + 64 + 16 * (l.trace[d]).length)
      match s.ctlWrite l.tag id .loc va 16 r.toNat with
      | (s, false) => (s, false)
      | (s, true) => (s.updLaunch id fun l => { l with trace := l.trace.set d (l.trace[d] ++ [r]) }, true)

/-- The header of a die's region. -/
def State.traceHeader (s : State) (l : Launch) (d : DieId) : Nat :=
  1 + d.val * 2 ^ 8 + (s.partCounts l.tag).getD d.val 0 * 2 ^ 16 + (s.blocksOf l).getD d.val 0 * 2 ^ 32 + l.tasks * 2 ^ 64 +
    (l.trace[d]).length * 2 ^ 96 + l.id.toNat * 2 ^ 128 + l.seed.toNat * 2 ^ 192 + l.cbase.toNat * 2 ^ 256

/-- The three headers written in record mode. -/
def State.traceHeaders (s : State) (id : Word) : State × Bool :=
  match s.launch? id with
  | none => (s, true)
  | some l =>
    if l.mode ≠ 1 then (s, true)
    else [(0 : DieId), 1, 2].foldl (fun (a : State × Bool) d =>
      if !a.2 then a
      else a.1.ctlWrite l.tag id .loc (BitVec.ofNat 64 (l.traceVa + d.val * l.traceCap)) 64 (a.1.traceHeader l d)) (s, true)

/-! ### Retirement (10 R243 to R245) -/

/-- A retire record. -/
def retireRecord (index tile status guarded tokens events : Nat) : BitVec 128 :=
  BitVec.ofNat 128 (index * 2 ^ 96 + tile * 2 ^ 80 + status * 2 ^ 72 + guarded % 65536 * 2 ^ 48 + tokens * 2 ^ 32 + events * 2 ^ 24)

/-- Commands still undecided under a free guard slot. -/
def Tile.undecided (x : Tile) : Nat :=
  x.q.toList.foldl (fun n z => n + (z.filter fun c => !c.decided && (match c.guard with
    | some g => rd x.gd g.toNat == .free
    | none => false)).length) 0

/-- A retirement counted in its launch and traced; false when the trace cannot be written. x is the tile as the task leaves it. -/
def State.countRetire (s : State) (t : TileId) (x : Tile) (status guarded : Nat) : State × Bool :=
  match x.task with
  | none => (s, true)
  | some k =>
    let tokens := x.tok.toList.foldl (fun n z => n + z.items.length) 0
    let events := x.evq.length
    let s := s.updLaunch k.launch fun l => { l with
      at_ := (k.index, .retired) :: l.at_.filter (fun a => a.1 != k.index)
      retired := l.retired + 1
      killed := if status = 0 then l.killed else l.killed + 1
      byCore := if status = 2 ∨ status = 3 then l.byCore + 1 else l.byCore
      guarded := l.guarded + guarded, tokens := l.tokens + tokens, events := l.events + events }
    s.traceAdd k.launch (dieOf t) (retireRecord k.index t.val status guarded tokens events)

/-- Where a peer's subscription entries are: a task that is being stopped has them in its tile. -/
def State.peerHome (s : State) (u : TileId) (launch : Word) : Home :=
  match s.taskHome u launch with | .held => .live | h => h

/-- A publisher's entry of tile t and an entry of another tile are the two ends of a subscription. -/
def SubEntry.pairs (e p : SubEntry) (pub : TileId) : Bool :=
  e.opened && e.peer == pub.val && e.size == p.size && e.pubBase == p.pubBase && e.subBase == p.subBase

/-- The far ends of a tile's open subscriber and publisher entries close (10 R243, 06 R125). -/
def State.closeEntries (s : State) (t : TileId) : State :=
  let x := s.tileAt t
  let s := x.subs.toList.foldl (fun s e =>
    match (if e.opened then tileOf? e.peer else none) with
    | some p => s.dropPubAt (s.peerHome p x.launch) p t e
    | none => s) s
  x.pubs.toList.foldl (fun s p =>
    match (if p.opened then tileOf? p.peer else none) with
    | some u => s.updTask u (s.peerHome u x.launch) fun y => { y with subs := y.subs.map fun e => if e.pairs p t then SubEntry.closed else e }
    | none => s) s

/-- The tiles at the far ends that have still to close an entry for a tile. -/
def State.openPeers (s : State) (t : TileId) : List TileId :=
  let x := s.tileAt t
  let at_ := fun (u : TileId) => s.taskTile u (s.peerHome u x.launch)
  (x.subs.toList.filterMap fun e => match (if e.opened then tileOf? e.peer else none) with
    | some p => if ((at_ p).pubFor t e).isSome && s.peerHome p x.launch != .absent then some p else none
    | none => none) ++
  x.pubs.toList.filterMap fun p => match (if p.opened then tileOf? p.peer else none) with
    | some u => if (at_ u).subs.toList.any (fun e => e.pairs p t) && s.peerHome u x.launch != .absent then some u else none
    | none => none

/-- Updates forwarded to a tile by a publisher of its open entries are in flight (06 R125). -/
def State.updatesComing (s : State) (t : TileId) : Bool :=
  (s.tileAt t).subs.toList.any fun e => e.opened && s.updatesInFlight (tileOf e.peer) t s.dev.nextId

/-- What a task leaves behind on its tile: state of launch and context lifetime (10 R244). -/
def Tile.leave (x : Tile) : Tile :=
  { Tile.reset with
    loopmode := x.loopmode, age := x.age, tvec := x.tvec, chans := x.chans, spm := x.spm, spmLaunch := x.spmLaunch, tlb := x.tlb
    pmap := x.pmap, matchT := x.matchT, waves := x.waves, acc := x.acc, carves := x.carves, kept := x.kept }

/-- A write put in its place by the number it was issued under. -/
def insertWrite (x : Nat × Piece) : List (Nat × Piece) → List (Nat × Piece)
  | [] => [x]
  | y :: r => if x.1 ≤ y.1 then x :: y :: r else y :: insertWrite x r

/-- The writes of a tile that were accepted and have still to perform, in issue order: stores of S that have finished, and engine writes to other devices
(07 R141, 11 R262). -/
def Tile.acceptedWrites (x : Tile) : List (Nat × Piece) :=
  ((x.reqs.filter fun r => r.finished && r.kind == .store).flatMap (fun r => (r.pieces.filter fun p => !p.done).map fun p => (r.id, p)) ++
    x.enginePosts.map fun p => (p.id, p.piece)).foldr insertWrite []

/-- Writes of a task that were accepted before it was killed perform, those to one line in issue order (19 R382); one that its owner refuses has no effect
(19 R383). -/
def State.landAccepted (s : State) (t : TileId) : State :=
  (s.tileAt t).acceptedWrites.foldl (fun s w =>
    if s.postedOk t w.2 then (match s.writeAt t w.2.tgt w.2.addr w.2.size w.2.val with | .ok s => s | .error _ => s) else s) s

/-- The send engine of a killed task no longer has the packets it has injected: they stay in the network (12 R281). -/
def State.disown (s : State) (t : TileId) : State :=
  s.updDev fun d => { d with net := d.net.map fun p => if p.orig == t.val then { p with own := none } else p }

/-- The tile is freed after its task's end. -/
def State.vacate (s : State) (t : TileId) : State := (((((s.disown t).landAccepted t).barFlush t).closeBatch t).closeEntries t).updAt t Tile.leave

/-- The log entry of a task killed by the command core (18 R366, 23 R420). -/
def State.logKill (s : State) (t : TileId) (x : Tile) (cause : Nat) (q : Sequencer) (pc : Word) : State :=
  let i := match x.task with | some k => k.index | none => 0
  s.logOn (dieOf t) (mkLog (BitVec.ofNat 64 (pc.toNat % 2 ^ 32 * 2 ^ 32 + seqCode q * 2 ^ 24 + i % 2 ^ 24)) x.launch s.clkrd cause x.ctx
    t.val 0 5)

/-- The status of a killed task: whether a sequencer of it stopped with LAUNCH_STALL is asked of its whole life (18 R366). -/
def Tile.killStatus (x : Tile) (byHandler : Bool) : Nat :=
  match byHandler, x.lstall with
  | true, true => 4
  | true, false => 1
  | false, true => 3
  | false, false => 2

/-- A task killed by an abort of its launch, running or saved (15 R326). -/
def State.killAborted (s : State) (id : Word) : State :=
  let s := (List.range 432).foldl (fun s i =>
    let t := tileOf i
    let x := s.tileAt t
    if x.task.isSome && x.launch == id then
      (((s.logKill t x 0 .k x.k.pc).countRetire t x (x.killStatus false) (x.guarded + x.undecided)).1).vacate t
    else s) s
  s.dev.saves.foldl (fun s v =>
    if v.launch == id then
      ((s.logKill v.tile v.img 0 .k v.img.k.pc).countRetire v.tile v.img (v.img.killStatus false)
        (v.img.guarded + v.img.undecided)).1
    else s) s

/-- A launch ends ABORTED for a reason (15 R326). -/
def State.abort (s : State) (id : Word) (reason : Nat) : State := (s.killAborted id).endLaunch id .aborted reason 0

/-- The task on a tile retires with a status; a trace that cannot be written, or a launch all of whose tasks the command core has
killed, ends ABORTED. -/
def State.retireTask (s : State) (t : TileId) (status guarded : Nat) : State :=
  let x := s.tileAt t
  let id := x.launch
  match s.countRetire t x status guarded with
  | (s, ok) =>
    let s := s.vacate t
    if !ok then s.abort id 13
    else match s.launch? id with
      | some l => if l.byCore = l.tasks then s.abort id 11 else s
      | none => s

/-- The kill that a tile's task is due: one that was ordered, the one of K's end in trap mode, which EXIT would make (04 R65, 06 R136), or the first
stop when K has ended or there is no handler (18 R361). -/
def Tile.killDue (x : Tile) : Option Kill :=
  match x.kill with
  | some k => some k
  | none =>
    if x.k.trap && x.endedOf .k then some ⟨true, .swtrap, .k, x.k.pc⟩
    else if x.endedOf .k || (x.tvec == 0 && !x.k.trap) then x.firstStop.map fun r => ⟨false, r.2.cause, r.1, r.2.pc⟩ else none

/-- A task killed: logged unless its own handler did it, and retired at once (18 R366). -/
def State.killTask (s : State) (t : TileId) (k : Kill) : State :=
  let x := s.tileAt t
  let s := if k.byHandler then s else s.logKill t x k.cause.code k.seq k.pc
  s.retireTask t (x.killStatus k.byHandler) (x.guarded + x.undecided)

/-- The kill that is due on a tile is made. -/
def State.killNow (s : State) (t : TileId) : State :=
  let x := s.tileAt t
  if x.task.isNone || !x.live then s
  else match x.killDue with
    | some k => s.killTask t k
    | none => s

/-- TASK_KILL (18 R366). -/
def execTaskKill (t : TileId) (s : State) : EOut := .next (s.killNow t)

/-- All four sequencers have ended. -/
def Tile.allEnded (x : Tile) : Bool := x.endedOf .k && x.endedOf .l && x.endedOf .c && x.endedOf .s

/-- Free slots that hold undecided commands resolve false, and those commands are counted (06 R113, 10 R243). -/
def Tile.resolveGuards (x : Tile) : Tile :=
  let used := fun (g : Nat) => x.q.toList.any fun z => z.any fun c => !c.decided && (match c.guard with | some h => h.toNat == g | none => false)
  { x with guarded := x.guarded + x.undecided
           gd := Vector.ofFn fun g => if rd x.gd g.val == .free && used g.val then .no else rd x.gd g.val }

/-- TASK_RETIRE (10 R243): the conditions in order; each firing makes what the present one still needs. Open subscriptions close as by SUBOFF: a peer
being stopped holds the handshake, and updates sent before an entry went are written first (06 R125, 18 R371). -/
def execTaskRetire (t : TileId) (s : State) : EOut :=
  let x := s.tileAt t
  if !s.enginesRun t || !x.allEnded then .next s
  else if x.killDue.isSome then .next (s.killNow t)
  else if queues.any x.halted then .next (s.killTask t ⟨false, .engineFault, .k, x.k.pc⟩)
  else if x.c.held.isSome then .next s
  else if 0 < x.undecided then .next (s.setTileAt t x.resolveGuards)
  else if x.batch.isSome then .next (s.closeBatch t)
  else if x.barOpen.isSome || !x.barDue.isEmpty then .next (s.barFlush t)
  else if x.q.toList.any (fun z => !z.isEmpty) then .next s
  else match x.refused with
    | (c, _) :: _ => .next (s.killTask t ⟨false, c, .s, x.s.pc⟩)
    | [] =>
      if !x.reqs.isEmpty || !x.orphans.isEmpty || s.dev.net.any (fun p => p.orig == t.val && (match p.body with | .update _ _ _ _ => true | _ => false)) then
        .next s
      else if !(s.openPeers t).isEmpty then
        .next (if (s.openPeers t).any fun u => s.taskHome u x.launch == .held then s else s.closeEntries t)
      else if s.updatesComing t then .next s
      else .next (s.retireTask t 0 x.guarded)

end Sys2Proof.Machine
end

