-- ==== Sys2Proof/Machine/Packet.lean ====
section
/-! DEFINITION. Reading a launch packet, its tables and its image, and the checks made at acceptance (15 R311, R312, R314), with the fields
of flow entries (12 R272). -/

namespace Sys2Proof.Machine

/-! ### Reading in a queue's context -/

/-- One byte that a command core reads at a virtual address of a context, under tag 0x000: of device or host memory, as its page says. One that cannot
be read, denied (16 R339, log 64) or lost (log 121), is none. -/
def State.ctlByte (s : State) (tag : BitVec 12) (va : Word) : Option Byte :=
  ([Space.far, Space.host].findSome? fun sp => (s.resolveCtl tag sp .read va 1 0).toOption).bind fun w =>
    (s.ctlReadAt tag 0 w.tgt w.addr 1).toOption.map fun v => BitVec.ofNat 8 v

/-- n little-endian bytes at a virtual address of a context. -/
def State.ctlRead (s : State) (tag : BitVec 12) (va : Nat) : Nat → Option Nat
  | 0 => some 0
  | n + 1 => match s.ctlByte tag (BitVec.ofNat 64 va), s.ctlRead tag (va + 1) n with
    | some b, some v => some (b.toNat + 256 * v)
    | _, _ => none

/-- A table of n entries of w bytes. -/
def State.table (s : State) (tag : BitVec 12) (va w : Nat) : Nat → Option (List Nat)
  | 0 => some []
  | n + 1 => match s.ctlRead tag va w, s.table tag (va + w) w n with
    | some v, some r => some (v :: r)
    | _, _ => none

/-- Every 128-byte line that a range touches has a translation and is denied neither by its page nor by an access table, under tag 0x000.
A copy-on-write page denies nothing: the write itself faults later (15 R314, 16 R335). -/
def State.linesOk (s : State) (tag : BitVec 12) (sp : Space) (k : Acc) (va n : Nat) : Bool :=
  n == 0 || (List.range ((va + n - 1) / 128 - va / 128 + 1)).all fun i =>
    match s.resolveCtl tag sp k (BitVec.ofNat 64 (max va (128 * (va / 128 + i)))) 1 0 with
    | .ok _ => true
    | .error e => e == .cowWrite

/-! ### Flow entries (12 R272) -/

/-- Bits hi to lo of word n of a flow entry. -/
def fe (e : BitVec 512) (n hi lo : Nat) : Nat := bits e (64 * n + hi) (64 * n + lo)

/-- Bits of a flow entry replaced. -/
def fePut (e : BitVec 512) (n hi lo v : Nat) : BitVec 512 :=
  let m : BitVec 512 := BitVec.ofNat 512 ((2 ^ (hi + 1 - lo) - 1) * 2 ^ (64 * n + lo))
  (e &&& ~~~ m) ||| (BitVec.ofNat 512 (v % 2 ^ (hi + 1 - lo) * 2 ^ (64 * n + lo)))

/-- The flow ID. -/
def feFlow (e : BitVec 512) : BitVec 16 := BitVec.ofNat 16 (fe e 0 63 48)
/-- The at field. -/
def feAt (e : BitVec 512) : Nat := fe e 0 47 39
/-- The gate: 0 none, 1 combine, 2 hold. -/
def feGate (e : BitVec 512) : Nat := fe e 0 26 25
/-- The output: 0 forward, 1 duplicate, 2 deliver. -/
def feOut (e : BitVec 512) : Nat := fe e 0 24 23
/-- The first slot. -/
def feBase (e : BitVec 512) : Nat := fe e 0 22 16
/-- The slot count. -/
def feCount (e : BitVec 512) : Nat := fe e 0 15 8
/-- The task mask. -/
def feMask (e : BitVec 512) : Nat := fe e 0 6 0
/-- Combine inputs. -/
def feN (e : BitVec 512) : Nat := fe e 1 56 54
/-- Where input i stands: word and lowest bit. -/
def inAt (i : Nat) : Nat × Nat := if i < 3 then (2, 21 * i) else (3, 21 * (i - 3))
/-- Input i: device and tile. -/
def feIn (e : BitVec 512) (i : Nat) : Nat := fe e (inAt i).1 ((inAt i).2 + 20) (inAt i).2
/-- Input i is a standing input. -/
def feStand (e : BitVec 512) (i : Nat) : Bool := fe e 1 (6 + i) (6 + i) == 1
/-- The device and tile of input i. -/
def feInDev (e : BitVec 512) (i : Nat) : Nat := feIn e i / 512
/-- Its tile, or the first slot of a standing input. -/
def feInTile (e : BitVec 512) (i : Nat) : Nat := feIn e i % 512
/-- Bit i of the task mask. -/
def feMarked (e : BitVec 512) (i : Nat) : Bool := nbits (feMask e) i 1 == 1
/-- Bit i of the self mask. -/
def feSelf (e : BitVec 512) (i : Nat) : Bool := fe e 1 i i == 1

/-- A tile field holds a tile, or, marked, a task below T. -/
def tileFieldOk (tasks : Nat) (marked : Bool) (v : Nat) : Bool := if marked then v < tasks else v < 432

/-- The gate fields of an entry (12 R272). -/
def feGateOk (e : BitVec 512) (tasks : Nat) : Bool :=
  let n := feN e
  let unusedIn := fun (i : Nat) => feIn e i == 0 && !feStand e i && !feMarked e (2 + i) && !feSelf e i
  let types := fe e 1 63 57
  let slotsOk := 1 ≤ feCount e && feBase e + feCount e ≤ 128
  match feGate e with
  | 0 => feBase e == 0 && feCount e == 0 && types == 0 && n == 0 && fe e 1 53 48 == 0 && fe e 1 10 6 == 0 && (List.range 5).all unusedIn
  | 1 =>
    slotsOk && fe e 1 63 61 ≤ 2 && ((fe e 1 60 59 == 3) == (fe e 1 58 57 == 3)) && 1 ≤ n && n ≤ 5 && fe e 1 53 48 == 0 &&
    (List.range 5).all (fun i =>
      if n ≤ i then unusedIn i
      else if feStand e i then feInDev e i == 0 && feInTile e i < 128 && !feMarked e (2 + i) && !feSelf e i
      else tileFieldOk tasks (feMarked e (2 + i)) (feInTile e i)) &&
    (List.range n).any fun i => !feStand e i
  | 2 =>
    slotsOk && types == 0 && n == 0 && fe e 1 10 6 == 0 && (List.range 5).all unusedIn
  | _ => false

/-- The delivery fields of an entry; used says whether it delivers. -/
def feDeliverOk (e : BitVec 512) (used : Bool) : Bool :=
  if used then
    fe e 5 63 62 ≤ 2 && fe e 5 26 0 == 0 && fe e 7 31 0 == 0 && fe e 7 63 32 % 32 == 0 &&
    (if fe e 5 49 49 = 1 then fe e 5 48 27 % 16 == 0 && fe e 5 48 27 < spmSize else fe e 5 48 27 == 0) &&
    (fe e 5 63 62 != 2 || (fe e 6 63 0 ≤ 127 && fe e 7 63 32 == 0))
  else fe e 5 63 0 == 0 && fe e 6 63 0 == 0 && fe e 7 63 0 == 0

/-- The output fields of an entry. -/
def feOutOk (e : BitVec 512) (tasks : Nat) : Bool :=
  let port := 432 ≤ feAt e && !feMarked e 0
  let copies := fe e 4 36 31
  let noForward := fe e 4 63 37 == 0 && !feMarked e 1 && !feSelf e 5
  match feOut e with
  | 0 =>
    fe e 4 36 26 == 0 && tileFieldOk tasks (feMarked e 1) (fe e 4 57 49) && feDeliverOk e false &&
    (match fe e 4 63 62 with
      | 0 => fe e 4 61 58 == 0 && fe e 4 48 37 == 0 && !feSelf e 5
      | 1 => fe e 4 61 58 == 0
      | 2 => fe e 4 61 58 ≤ 11 && fe e 4 48 37 == 0 && !feSelf e 5
      | _ => false)
  | 1 =>
    noForward && (copies / 32 == 1 || fe e 4 30 26 == 0) && !(port && copies % 32 != 0) && feDeliverOk e (copies % 2 == 1)
  | 2 => noForward && copies == 0 && fe e 4 30 26 == 0 && !port && feDeliverOk e true
  | _ => false

/-- A flow entry of an image for a launch of T tasks (12 R272, R279, R280). -/
def flowOk (e : BitVec 512) (tasks : Nat) : Bool :=
  fe e 0 7 7 == 0 && fe e 1 47 11 == 0 && fe e 2 63 63 == 0 && fe e 3 63 42 == 0 && fe e 4 25 0 == 0 &&
  (if feMarked e 0 then feAt e < tasks else feAt e < 464) && feGateOk e tasks && feOutOk e tasks

/-- Two entries with one key. -/
def sameKey (a b : BitVec 512) : Bool := feFlow a == feFlow b && feAt a == feAt b && (feMarked a 0 == feMarked b 0)

/-- An entry as the loader writes it: context, marked tiles and devices (12 R272, R273). -/
def flowEntry (e : BitVec 512) (tag dev : BitVec 12) (tile : Nat → Nat) : BitVec 512 :=
  let e1 := fePut e 0 38 27 tag.toNat
  let e2 := if feMarked e 0 then fePut e1 0 47 39 (tile (feAt e)) else e1
  let e3 := if feMarked e 1 then fePut e2 4 57 49 (tile (fe e 4 57 49)) else e2
  let e4 := if feSelf e 5 then fePut e3 4 48 37 dev.toNat else e3
  let one := fun (x : BitVec 512) (i : Nat) =>
    let b := (inAt i).2
    let x := if feMarked e (2 + i) then fePut x (inAt i).1 (b + 8) b (tile (feInTile e i)) else x
    if feSelf e i then fePut x (inAt i).1 (b + 20) (b + 9) dev.toNat else x
  let e5 := (List.range 5).foldl one e4
  fePut (fePut e5 0 6 0 0) 1 5 0 0

/-- The die whose Warren holds entries at a place: a Spoke's die, or that of a fabric port (12 R272). -/
def dieOfPlace (at_ : Nat) : Nat := if at_ < 432 then at_ / 144 else if at_ < 448 then 0 else 2

/-! ### Declarations -/

/-- No two of a list stand in a relation. -/
def noPair {α : Type} (r : α → α → Bool) : List α → Bool
  | [] => true
  | a :: t => t.all (fun b => !r a b) && noPair r t

end Sys2Proof.Machine

namespace Sys2Proof

/-- The subscribers of a declaration (12 R291). -/
def SubDecl.tasks (d : SubDecl) (tasks : Nat) : List Nat :=
  match d.subscribers with
  | some l => l
  | none => (List.range tasks).filter fun i => i != d.publisher

end Sys2Proof

namespace Sys2Proof.Machine

/-- Subscriber entries that a task opens. -/
def Image.subCount (i : Image) (tasks t : Nat) : Nat := (i.subs.filter fun d => (d.tasks tasks).contains t).length

/-- Publisher entries that a task opens. -/
def Image.pubCount (i : Image) (tasks t : Nat) : Nat :=
  i.subs.foldl (fun n d => if d.publisher = t then n + (d.tasks tasks).length else n) 0

/-- The groups of an image satisfy 10 R234 for T tasks. -/
def Image.groupsOk (i : Image) (tasks : Nat) : Bool :=
  i.groups.all fun g => g.members.contains g.master && g.members.all fun m =>
    m < tasks && (i.groups.filter fun h => h.members.contains m).length ≤ 4

/-- The windows and subscriptions of an image satisfy 11 R250 and 12 R291. -/
def Image.windowsOk (i : Image) : Bool :=
  i.windows.all (fun w => w.span ≤ 5) &&
  noPair (fun (a b : Window) => a.base < b.base + b.size && b.base < a.base + a.size) i.windows &&
  i.subs.all fun d => ((i.windows[d.window]?.map fun w => w.size).getD 0) ≤ ((i.windows[d.pubWindow]?.map fun w => w.size).getD 0)

/-! ### The tables of a packet (15 R312) -/

/-- A launch's tables, as acceptance reads them. -/
structure Tables where
  carves : List Nat
  inputs : List Nat
  outputs : List Nat
  lists : List Nat
  deriving DecidableEq, Repr, Inhabited

/-- The tables of a packet; none when an address has no translation. -/
def State.tables (s : State) (l : Launch) : Option Tables :=
  match s.table l.tag (l.pk 56 8) 8 (l.pk 48 8), s.table l.tag (l.pk 72 8) 32 (l.pk 64 8), s.table l.tag (l.pk 88 8) 16 (l.pk 80 8),
      s.table l.tag (l.pk 128 8) 16 (l.pk 120 8) with
  | some c, some i, some o, some w => some ⟨c, i, o, w⟩
  | _, _, _, _ => none

/-- The slice and size of a carve-out entry. -/
def carveOf (w : Nat) : Nat × Nat := (nbits w 32 9, nbits w 0 32)

/-- n bytes at a commons address lie inside a carve-out of the table. -/
def inCarve (cs : List Nat) (va n : Nat) : Bool :=
  decide (va < 2 ^ 27) && cs.any fun c => (carveOf c).1 == va / 2 ^ 18 && va % 2 ^ 18 + n ≤ (carveOf c).2

/-- Strictly ascending slices, sizes multiples of 128 and not zero. -/
def carvesOk (cs : List Nat) : Bool :=
  cs.all (fun c => decide (c < 2 ^ 41) && (carveOf c).1 < 432 && (carveOf c).2 % 128 == 0 && (carveOf c).2 != 0) &&
  ascending (cs.map fun c => (carveOf c).1)

/-- The copy descriptor of a transfer: no barrier, flags, signal or wait, and spaces from two lists (15 R310, R312). -/
def transferOf (w : Nat) (dst : List Nat) : Option CopyDesc :=
  match copyDesc w false with
  | .ok (.copy d, f, wait, signal) =>
    if !f.r && f.guard.isNone && !f.b && wait == 0 && signal == 0 && [2, 3, 5].contains d.srcSpace && dst.contains d.dstSpace then some d
    else none
  | _ => none

/-- An output entry: address and length in bytes, and whether it lies in commons. -/
structure OutEntry where
  addr : Nat
  len : Nat
  commons : Bool
  deriving DecidableEq, Repr, Inhabited

/-- An output entry read; none for a value it may not hold. -/
def outputOf (w : Nat) : Option OutEntry :=
  let a := nbits w 64 64
  let n := nbits w 0 56
  let sp := nbits w 56 8
  if a % 128 != 0 || n % 128 != 0 || n == 0 then none
  else if sp = 1 then some ⟨a, n, true⟩
  else if sp = 2 then some ⟨a, n, false⟩ else none

/-- A work-list entry: die, list number, ring and capacity. -/
structure ListEntry where
  die : Nat
  n : Nat
  ring : Nat
  cap : Nat
  deriving DecidableEq, Repr, Inhabited

/-- A work-list entry read; none for a value it may not hold (15 R312, 10 R239). -/
def listOf (w : Nat) (cs : List Nat) : Option ListEntry :=
  let e : ListEntry := ⟨nbits w 8 8, nbits w 16 16, nbits w 64 64, nbits w 32 32⟩
  if nbits w 0 8 = 0 && e.die ≤ 2 && e.n ≤ 255 && 16 ≤ e.cap && e.cap ≤ 65536 && e.cap == 2 ^ e.cap.log2 && e.ring % 128 == 0 &&
      inCarve cs e.ring (8 * e.cap) && e.ring / 2 ^ 18 / 144 == e.die then some e
  else none

/-! ### Traces read in replay (15 R320, R321) -/

/-- The header of a die's region of a trace, where it can be read. -/
def State.traceHead (s : State) (l : Launch) (d : Nat) : Option Nat := s.ctlRead l.tag (l.traceVa + d * l.traceCap) 64

/-- A die's region of a trace as replay reads it: header and records. -/
def State.traceRegion (s : State) (l : Launch) (d : Nat) : Option (Nat × List Nat) :=
  match s.traceHead l d with
  | none => none
  | some h => (s.table l.tag (l.traceVa + d * l.traceCap + 64) 16 (nbits h 96 32)).map fun r => (h, r)

/-- The tasks and tiles of the start records of a region. -/
def startsOf (r : List Nat) : List (Nat × Nat) :=
  (r.filter fun w => nbits w 64 8 == 1).map fun w => (nbits w 96 32, nbits w 80 16)

/-- A region's header matches the launch and the partition (15 R321). -/
def State.headOk (s : State) (l : Launch) (tasks d h : Nat) : Bool :=
  nbits h 0 1 == 1 && nbits h 64 32 == tasks && nbits h 16 16 == (s.partCounts l.tag).getD d 0

/-- The start records of a region name tasks of the launch and tiles of the partition on its die. -/
def State.startsOk (s : State) (l : Launch) (tasks d : Nat) (r : List Nat) : Bool :=
  (startsOf r).all fun p => p.1 < tasks && (match tileOf? p.2 with
    | some t => (dieOf t).val == d && s.inPartition l.tag t
    | none => false)

/-- The regions of a trace, where all three can be read. -/
def State.replayRegions (s : State) (l : Launch) : Option (List (Nat × List Nat)) :=
  match s.traceRegion l 0, s.traceRegion l 1, s.traceRegion l 2 with
  | some a, some b, some c => some [a, b, c]
  | _, _, _ => none

/-! ### The checks (15 R314) -/

/-- What acceptance works with. -/
structure Checked where
  l : Launch
  t : Tables
  img : Image
  kern : Kernel
  tasks : Nat
  deriving DecidableEq, Repr, Inhabited

/-- The T of a packet. -/
def Launch.tasksOf (l : Launch) : Nat := l.pk 8 8

/-- A predecessor field names no other queue than 0 to 63, and not the launch itself (15 R311). -/
def predOk (l : Launch) (p : Nat) : Bool := p != l.id.toNat && p / 2 ^ 56 ≤ 63

/-- The fields of a launch packet that need no table. -/
def packetOk (l : Launch) : Bool :=
  l.word0 / 2 ^ 23 == 0 && l.mode != 3 && leNat (l.packet.drop 168) == 0 && 1 ≤ l.tasksOf && l.tasksOf ≤ 2 ^ 24 - 1 &&
  decide (l.pk 32 8 < 2 ^ 32) && l.pk 48 8 ≤ 432 && l.pk 64 8 ≤ 16 && l.pk 80 8 ≤ 16 && l.pk 120 8 ≤ 768 &&
  l.traceVa % 128 == 0 && l.traceCap % 128 == 0 && (l.mode != 0 || l.traceVa == 0) &&
  l.pk 112 8 % 128 == 0 && ((l.pk 112 8 != 0) == l.cores) && predOk l (l.pk 136 8) && predOk l (l.pk 144 8)

/-- tvec is 0, or a multiple of 4 from K's entry address to below its end address. -/
def tvecOk (k : Kernel) (v : Nat) : Bool :=
  v == 0 || (v % 4 == 0 && decide (k.kEnt.toNat ≤ v) && decide (v < k.kFin.toNat))

/-- The image a launch names: loaded at that address in its context (log 5). -/
def State.imageOf (s : State) (l : Launch) : Option (Nat × Image) :=
  match s.dev.images.findIdx? fun i => i.tag == l.tag && i.va.toNat == l.imageVa with
  | some n => (s.dev.images[n]?).map fun i => (n, i)
  | none => none

/-- Reason PACKET, or what the later checks work with. -/
def State.checkPacket (s : State) (l : Launch) : Option Checked :=
  if !packetOk l then none
  else match s.imageOf l, s.tables l with
    | some (_, i), some t => (match i.kernels[l.pk 16 8]? with
      | none => none
      | some k =>
        if tvecOk k (l.pk 160 8) && carvesOk t.carves && t.inputs.all (fun w => match transferOf w [1, 2] with
              | some d => d.dstSpace != 1 || inCarve t.carves d.dst d.len
              | none => false) &&
            t.outputs.all (fun w => (outputOf w).isSome) && t.lists.all (fun w => (listOf w t.carves).isSome) &&
            noPair (fun a b => nbits a 8 24 == nbits b 8 24) t.lists &&
            (match s.walk l.tag (BitVec.ofNat 64 l.imageVa) with | .ok _ => true | .error _ => false) then
          some ⟨l, t, i, k, l.tasksOf⟩
        else none)
    | _, _ => none

/-- The die against whose Warren an entry counts (15 R314). -/
def State.entryDie (s : State) (c : Checked) (replay : List (Nat × Nat)) (e : BitVec 512) : Nat :=
  if feMarked e 0 then
    (if c.l.mode = 2 then ((replay.find? fun p => p.1 == feAt e).map fun p => p.2 / 144).getD 0
     else blockDie (blocks c.tasks (s.partCounts c.l.tag)) (feAt e))
  else dieOfPlace (feAt e)

/-- Entries of the launches not yet final that a die's Warren holds or will hold. -/
def State.warrenUse (s : State) (d : Nat) : Nat :=
  s.dev.launches.foldl (fun n l =>
    if l.state.final || l.transfer then n
    else match s.dev.images[l.image]? with
      | some i => n + (i.flows.filter fun e =>
          (if feMarked e 0 then
            (if l.mode = 2 then ((l.replay.find? fun p => p.1 == feAt e).map fun p => p.2 / 144).getD 0
             else blockDie (s.blocksOf l) (feAt e))
           else dieOfPlace (feAt e)) == d).length
      | none => n) 0

/-- Reason FLOWS. -/
def State.flowsBad (s : State) (c : Checked) (replay : List (Nat × Nat)) : Bool :=
  !noPair sameKey c.img.flows || c.img.flows.any (fun e => !flowOk e c.tasks) ||
  [0, 1, 2].any fun d => decide (4096 < s.warrenUse d + (c.img.flows.filter fun e => s.entryDie c replay e == d).length)

/-- Reason TASKMAP. -/
def taskmapBad (c : Checked) : Bool :=
  !c.l.cores && (!c.img.subs.isEmpty || !c.img.chans.isEmpty || c.img.flows.any fun e => feMask e != 0)

/-- Reason RESOURCES. -/
def State.resourcesBad (s : State) (c : Checked) : Bool :=
  let p := s.partCounts c.l.tag
  let b := blocks c.tasks p
  (c.l.cores && (List.range 3).any fun d => decide (p.getD d 0 < b.getD d 0)) ||
  c.img.chans.any (fun x => decide (63 < x.id)) || !noPair (fun (a b : ChanDecl) => a.id == b.id) c.img.chans ||
  (!c.img.subs.isEmpty && (List.range c.tasks).any fun t => decide (16 < c.img.subCount c.tasks t) || decide (16 < c.img.pubCount c.tasks t)) ||
  c.t.carves.any fun w => decide (0x40000 < (carveOf w).2)

/-- Reason TRACE. A region that cannot be read is judged by the check of its addresses (15 R314). -/
def State.traceBad (s : State) (c : Checked) : Bool :=
  match c.l.mode with
  | 1 => (blocks c.tasks (s.partCounts c.l.tag)).any fun b => decide (c.l.traceCap < 64 + 32 * b)
  | 2 =>
    [0, 1, 2].any (fun d => (match s.traceHead c.l d with | some h => !s.headOk c.l c.tasks d h | none => false) ||
      (match s.traceRegion c.l d with | some r => !s.startsOk c.l c.tasks d r.2 | none => false)) ||
    !noPair (fun (a b : Nat × Nat) => a.1 == b.1)
      ([0, 1, 2].flatMap fun d => match s.traceRegion c.l d with | some r => startsOf r.2 | none => [])
  | _ => false

/-- Some of n bytes at an address of a context lie on a Sett-mapped page. -/
def State.onSett (s : State) (tag : BitVec 12) (va n : Nat) : Bool :=
  n != 0 && (List.range ((va + n - 1) / 65536 - va / 65536 + 1)).any fun i =>
    match s.walk tag (BitVec.ofNat 64 (65536 * (va / 65536 + i))) with
    | .ok l => l.sm
    | .error _ => false

/-- Reason ACCESS. An output in commons must lie in a carve-out, as any access of commons (11 R247, log 101); a trace region lies on no Sett-mapped
page. -/
def State.accessBad (s : State) (c : Checked) : Bool :=
  let tag := c.l.tag
  (c.t.inputs.any fun w => match transferOf w [1, 2] with
    | some d => !s.linesOk tag (spaceOf d.srcSpace) .read d.src d.len ||
        (d.dstSpace == 2 && !s.linesOk tag .loc .write d.dst d.len)
    | none => false) ||
  (c.t.outputs.any fun w => match outputOf w with
    | some o => if o.commons then !inCarve c.t.carves o.addr o.len else !s.linesOk tag .loc .read o.addr o.len
    | none => false) ||
  (c.l.mode == 1 && (List.range 3).any fun d =>
    !s.linesOk tag .loc .write (c.l.traceVa + d * c.l.traceCap) c.l.traceCap) ||
  (c.l.mode == 2 && (match s.replayRegions c.l with
    | none => true
    | some _ => (List.range 3).any fun d =>
      let a := c.l.traceVa + d * c.l.traceCap
      !s.linesOk tag .loc .read a c.l.traceCap || s.onSett tag a c.l.traceCap)) ||
  (c.l.cores && !s.linesOk tag .loc .write (c.l.pk 112 8) (2 * c.tasks))

/-- The start records that replay takes its tiles from. -/
def State.replayOf (s : State) (l : Launch) : List (Nat × Nat) :=
  if l.mode = 2 then (match s.replayRegions l with
    | some rs => rs.flatMap fun r => startsOf r.2
    | none => [])
  else []

/-- The first reason for refusal that applies, and what was read (15 R314). -/
def State.checkLaunch (s : State) (l : Launch) : Nat × Option Checked :=
  if (s.boundOf l.tag).isNone then (8, none)
  else if l.word0 % 256 ≠ 1 then (1, none)
  else match s.checkPacket l with
    | none => (1, none)
    | some c =>
      let owl := bits (BitVec.ofNat 64 l.word0) 21 14
      if !c.img.groupsOk c.tasks || (!c.t.lists.isEmpty && nbits l.word0 13 1 == 0 && !c.img.groups.any fun g => g.g == owl) then (2, some c)
      else if !c.img.windowsOk then (3, some c)
      else if s.flowsBad c (s.replayOf l) then (4, some c)
      else if taskmapBad c then (5, some c)
      else if s.resourcesBad c then (6, some c)
      else if s.traceBad c then (7, some c)
      else if s.accessBad c then (8, some c)
      else (0, some c)

/-- The check of a transfer command (15 R310, R314): the bytes that it does not hold are reserved. A queue whose QCTX names no valid
descriptor has it refused with ACCESS, as a launch (log 120). -/
def State.checkTransfer (s : State) (l : Launch) : Nat :=
  if (s.boundOf l.tag).isNone then 8
  else if l.word0 / 256 % 2 ^ 56 - nbits l.word0 12 1 * 16 ≠ 0 || (transferOf (l.pk 32 32) [1, 2, 5]).isNone ||
      !predOk l (l.pk 136 8) || !predOk l (l.pk 144 8) || leNat ((l.packet.take 32).drop 8) != 0 ||
      leNat ((l.packet.take 136).drop 64) != 0 || leNat (l.packet.drop 152) != 0 then 1
  else 0

end Sys2Proof.Machine
end

