-- ==== Sys2Proof/Machine/Accept.lean ====
section
/-! DEFINITION. Command acceptance, transfers, staging and readiness (15 R307 to R316). -/

namespace Sys2Proof.Machine

/-! ### Acceptance (15 R308, R309, R314, R315) -/

/-- The tail of a queue as its tail line holds it; where the command cores may not read the line, they know of no command (16 R339, log 64). -/
def State.tailOf (s : State) (q : CmdQueue) : Nat := if s.physOk q.tailA 8 .read then s.physRead q.tailA 8 else q.head.toNat

/-- Where the command at the head of a queue lies (15 R308). -/
def CmdQueue.headAt (q : CmdQueue) : Word := q.base + BitVec.ofNat 64 (256 * (q.head.toNat % q.cap.toNat))

/-- A tail below the head, or more than QCAP above it. -/
def tailBad (q : CmdQueue) (tail : Nat) : Bool := tail < q.head.toNat || q.head.toNat + q.cap.toNat < tail

/-- A queue changed. -/
def State.updQueue (s : State) (q : Nat) (f : CmdQueue → CmdQueue) : State :=
  s.updDev fun d => { d with queues := wr d.queues q (f (rd d.queues q)) }

/-- TAIL_WRITE (15 R308): the command cores learn of the tail; a bad one sets ERR. -/
def execTailWrite (q : QueueId) (s : State) : EOut :=
  let z := rd s.dev.queues q.val
  if z.en && tailBad z (s.tailOf z) then .next (s.updQueue q.val fun z => { z with err := true }) else .next s

/-- Launches and transfers that are not in a final state. -/
def State.open' (s : State) : List Launch := s.dev.launches.filter fun l => !l.state.final

/-- The launch ID of a queue's n-th command (15 R316). -/
def launchId (q n : Nat) : Word := BitVec.ofNat 64 (q * 2 ^ 56 + n)

/-- A queue may accept a command: a command waits, the command cores may read it (log 64), the scoreboard has room, and the record slot is free (15 R309). -/
def State.mayAccept (s : State) (q : Nat) : Bool :=
  let z := rd s.dev.queues q
  z.en && !z.err && decide (z.head.toNat < s.tailOf z) && !tailBad z (s.tailOf z) && s.physOk z.headAt 256 .read && decide (s.open'.length < 256) &&
  s.open'.all fun l => !(l.queue == q && l.id.toNat % 256 == (z.accepted + 1) % 256)

/-- The command at the head of a queue as the scoreboard takes it in. -/
def State.nextCommand (s : State) (q : Nat) : Launch :=
  let z := rd s.dev.queues q
  let bytes := leBytes 256 (s.physRead z.headAt 256)
  { (default : Launch) with
    id := launchId q (z.accepted + 1), queue := q, transfer := bytes.headD 0 == 2, packet := bytes, tag := z.ctx, prio := z.prio.toNat
    state := .accepted, tacc := s.clkrd, since := s.dev.now }

/-- The queue after one more command: the head advances and is written to the tail line (15 R308). -/
def State.advanceHead (s : State) (q : Nat) : State :=
  let s := s.updQueue q fun z => { z with head := z.head + 1, accepted := z.accepted + 1 }
  let z := rd s.dev.queues q
  s.physWrite (z.tailA + 8) 8 z.head.toNat

/-- A register's value as acceptance reads it: without the host's writes of the same cycle (15 R315). -/
def asRead (now : Nat) (was : Option (Nat × Word)) (v : Word) : Word :=
  match was with
  | some (c, w) => if c = now then w else v
  | none => v

/-- The seed and counter base that a launch captures, and the queue after it. A CTRBASE written in the same cycle replaces the advanced value (15
R315). -/
def State.capture (s : State) (l : Launch) : Word × Word × State :=
  if l.mode = 2 then
    match s.traceRegion l 0 with
    | some (h, _) => (BitVec.ofNat 64 (nbits h 192 64), BitVec.ofNat 64 (nbits h 256 64), s)
    | none => (0, 0, s)
  else
    let z := rd s.dev.queues l.queue
    let c := asRead s.dev.now z.baseWas z.ctrBase
    let next := c + BitVec.ofNat 64 (l.pk 40 8)
    (asRead s.dev.now z.seedWas z.seed, c, s.updQueue l.queue fun z =>
      if z.baseWas.any fun w => w.1 == s.dev.now then { z with baseWas := some (s.dev.now, next) } else { z with ctrBase := next })

/-- A launch that has passed its checks, with what acceptance read and captured. -/
def State.admitLaunch (s : State) (c : Checked) : Launch × State :=
  match s.capture c.l with
  | (seed, cbase, s') =>
    ({ c.l with
       seed := seed, cbase := cbase, image := ((s.imageOf c.l).map fun p => p.1).getD 0, kern := c.l.pk 16 8, tasks := c.tasks
       carves := c.t.carves.filterMap fun w => (tileOf? (carveOf w).1).map fun t => (t, (carveOf w).2)
       inputs := c.t.inputs, outputs := c.t.outputs, lists := c.t.lists, replay := s.replayOf c.l }, s')

/-- The command at a queue's head accepted or refused. -/
def State.accept (s : State) (q : Nat) : State :=
  let l := s.nextCommand q
  let s := s.bindTag l.tag
  let add := fun (s : State) (l : Launch) => (s.updDev fun d => { d with launches := d.launches ++ [l] }).advanceHead q
  if l.transfer then
    match s.checkTransfer l with
    | 0 => (add s l).writeRecord l.id
    | r => (add s l).endLaunch l.id .refused r 0
  else
    match s.checkLaunch l with
    | (0, some c) => let r := s.admitLaunch c; (add r.2 r.1).writeRecord l.id
    | (r, _) => (add s l).endLaunch l.id .refused r 0

/-- The queue that is served next: the first after the one served last that may have a command accepted (15 R309). -/
def State.nextQueue (s : State) : Option Nat := ((List.range 64).map fun i => (s.dev.served + 1 + i) % 64).find? s.mayAccept

/-- COMMAND_ACCEPT (15 R309): the command at the head of a queue, when it is the queue's turn. -/
def execCommandAccept (q : QueueId) (s : State) : EOut :=
  .next (if s.nextQueue = some q.val then (s.accept q.val).updDev fun d => { d with served := q.val } else s)

/-! ### Leaving ACCEPTED (15 R311, R316) -/

/-- A predecessor is final; one not yet accepted is not. -/
def State.predFinal (s : State) (p : Nat) : Bool :=
  p == 0 || (match s.launch? (BitVec.ofNat 64 p) with | some l => l.state.final | none => false)

/-- The queue's previous command is final, where the command asks for it. -/
def State.waitA (s : State) (l : Launch) : Bool :=
  nbits l.word0 12 1 == 0 || l.id.toNat % 2 ^ 56 ≤ 1 || s.predFinal (l.id.toNat - 1)

/-- Nothing before a command keeps it in ACCEPTED. -/
def State.predsDone (s : State) (l : Launch) : Bool :=
  l.state == .accepted && s.predFinal (l.pk 136 8) && s.predFinal (l.pk 144 8) && s.waitA l

/-- Every carve-out fits its slice beside those of the launches already staged. -/
def State.carvesFit (s : State) (l : Launch) : Bool :=
  l.carves.all fun c => ((s.tileAt c.1).carves.foldl (fun n x => n + x.size) 0) + c.2 ≤ 0x40000

/-- A launch able to move to STAGING. -/
def State.stageable (s : State) (l : Launch) : Bool := !l.transfer && s.predsDone l && s.carvesFit l

/-! ### Input transfers (15 R310, R312) -/

/-- One sector of an input transfer or a transfer command: none waits for a link. The Bool says that it was made. What crosses the fabric takes the
path of a key whose tile is 0 (19 R381, log 25). -/
def State.inputSector (s : State) (l : Launch) (d : CopyDesc) (i : Nat) : Option (State × Bool) :=
  let src : Word := BitVec.ofNat 64 (d.src + 32 * i)
  let dst : Word := BitVec.ofNat 64 (d.dst + 32 * i)
  let check := if l.transfer then l.tag else 0
  match s.ctlWhere l.tag l.id (spaceOf d.srcSpace) .read src 32 check with
  | .error c => some (s.failed 0 l.tag l.id c (s.ctlMet l.tag (spaceOf d.srcSpace) src), false)
  | .ok w =>
    if !s.linkReady w.tgt w.addr then none
    else match s.ctlReadAt l.tag check w.tgt w.addr 32 with
      | .error c => some (s.failed 0 l.tag l.id c (some (w.tgt, w.addr)), false)
      | .ok v => match s.ctlWhere l.tag l.id (spaceOf d.dstSpace) .write dst 32 check with
        | .error c => some (s.failed 0 l.tag l.id c (s.ctlMet l.tag (spaceOf d.dstSpace) dst), false)
        | .ok x =>
          if !s.linkReady x.tgt x.addr then none
          else match s.writeAt 0 x.tgt x.addr 32 v with
            | .error c => some (s.failed 0 l.tag l.id c (some (x.tgt, x.addr)), false)
            | .ok s => some ((s.noteRequest 0 w.tgt).noteRequest 0 x.tgt, true)

/-- The transfer and sector that n sectors done leave next. -/
def nextInput : List CopyDesc → Nat → Option (CopyDesc × Nat)
  | [], _ => none
  | d :: r, n => if 32 * n < d.len then some (d, n) else nextInput r (n - d.len / 32)

/-- A launch's input transfers. -/
def Launch.copies (l : Launch) : List CopyDesc :=
  if l.transfer then (transferOf (l.pk 32 32) [1, 2, 5]).toList else l.inputs.filterMap fun w => transferOf w [1, 2]

/-- The next sector of a launch in STAGING. -/
def State.stageSector (s : State) (l : Launch) : State :=
  match nextInput l.copies l.copied with
  | none => s
  | some (d, i) => match (s.bindTag l.tag).inputSector l d i with
    | none => s.bindTag l.tag
    | some (s, true) => s.updLaunch l.id fun l => { l with copied := l.copied + 1 }
    | some (s, false) => s.abort l.id 10

/-- TRANSFER_COMMAND (15 R310): out of ACCEPTED, then one sector, then DONE. -/
def execTransferCommand (id : Word) (s : State) : EOut :=
  match s.launch? id with
  | none => .next s
  | some l =>
    if !l.transfer then .next s
    else if l.state = .accepted then .next (if s.predsDone l then s.moveLaunch id .staging fun l => l else s)
    else if l.state = .staging then
      (if (nextInput l.copies l.copied).isNone then .next (s.endLaunch id .done 0 0) else .next (s.stageSector l))
    else .next s

/-! ### Staging (15 R316) -/

/-- A flow entry installed in the Warren of its die (12 R274). -/
def State.installFlow (s : State) (l : Launch) (e : BitVec 512) : State :=
  let w := flowEntry e l.tag s.devNum fun i => l.taskMap.getD i 0
  let d := dieOfPlace (feAt w)
  s.updDie ⟨d % 3, Nat.mod_lt _ (by decide)⟩ fun x => { x with warren := x.warren ++ [⟨l.id, w⟩] }

/-- What a launch installs when it enters STAGING: carve-outs zeroed, whose slices write back what they no longer hold, work lists, groups, and the flow entries without a task mask. -/
def State.stage (s : State) (l : Launch) : State :=
  let s := l.carves.foldl (fun s c => (s.updAt c.1 fun x => { x with carves := x.carves ++ [⟨l.id, c.2, []⟩] }).fitHub c.1.val) s
  let s := (l.lists.filterMap fun w => (listOf w ((l.carves.map fun c => c.1.val * 2 ^ 32 + c.2)))).foldl (fun s e =>
    s.updDie ⟨e.die % 3, Nat.mod_lt _ (by decide)⟩ fun x => { x with lists := x.lists ++ [⟨l.id, e.n, e.ring, e.cap, []⟩] }) s
  let i := (s.dev.images[l.image]?).getD default
  let s := s.moveLaunch l.id .staging fun l => { l with groups := Vector.replicate 3 i.groups }
  (i.flows.filter fun e => feMask e == 0).foldl (fun s e => s.installFlow l e) s

/-- LAUNCH_STAGING (15 R316): out of ACCEPTED, the first able launch of the scoreboard; then one sector of its inputs. -/
def execLaunchStaging (id : Word) (s : State) : EOut :=
  match s.launch? id with
  | none => .next s
  | some l =>
    if l.transfer then .next s
    else if l.state = .accepted then
      (match (scoreboard s.dev.launches).find? s.stageable with
        | some m => if m.id = id then .next (s.stage l) else .next s
        | none => .next s)
    else if l.state = .staging then .next (s.stageSector l)
    else .next s

/-- LAUNCH_READY (15 R316, R318): every input has performed; each die's next task is the first of its block. -/
def execLaunchReady (id : Word) (s : State) : EOut :=
  match s.launch? id with
  | none => .next s
  | some l =>
    if l.transfer || l.state != .staging || (nextInput l.copies l.copied).isSome then .next s
    else
      let b := s.blocksOf l
      .next (s.moveLaunch id .ready fun l => { l with
        next := Vector.ofFn fun d => blockStart b d.val, since := s.dev.now })

end Sys2Proof.Machine
end

