-- ==== Sys2Proof/Machine/CSlots.lean ====
section
/-! DEFINITION. The instructions of a C bundle, one meaning for each slot instruction, each matrix command and the token bundle. Each is the
bundle it names: what its slot computes stands in SlotIn.eval, Tile.control and Tile.mxCommand. -/

namespace Sys2Proof.Machine

/-- The outcome of a bundle. -/
abbrev COut := Host.Outcome State Fault Refusal

/-- VADD (R176): C adds floating-point elements. -/
def execVadd (ty : BitVec 2) (f : SlotF) (x : Bun) (s : State) : COut := .next (s.cRun (bundleOf x .vadd ty f))

/-- VSUB (R176): C subtracts floating-point elements. -/
def execVsub (ty : BitVec 2) (f : SlotF) (x : Bun) (s : State) : COut := .next (s.cRun (bundleOf x .vsub ty f))

/-- VMUL (R176): C multiplies floating-point elements. -/
def execVmul (ty : BitVec 2) (f : SlotF) (x : Bun) (s : State) : COut := .next (s.cRun (bundleOf x .vmul ty f))

/-- VFMA (R176): C computes a fused multiply-add onto vd. -/
def execVfma (ty : BitVec 2) (f : SlotF) (x : Bun) (s : State) : COut := .next (s.cRun (bundleOf x .vfma ty f))

/-- VFMS (R176): C computes vd − va × vb fused. -/
def execVfms (ty : BitVec 2) (f : SlotF) (x : Bun) (s : State) : COut := .next (s.cRun (bundleOf x .vfms ty f))

/-- VMIN (R176): C takes the floating-point minimum. -/
def execVmin (ty : BitVec 2) (f : SlotF) (x : Bun) (s : State) : COut := .next (s.cRun (bundleOf x .vmin ty f))

/-- VMAX (R176): C takes the floating-point maximum. -/
def execVmax (ty : BitVec 2) (f : SlotF) (x : Bun) (s : State) : COut := .next (s.cRun (bundleOf x .vmax ty f))

/-- VABS (R176): C clears sign bits. -/
def execVabs (ty : BitVec 2) (f : SlotF) (x : Bun) (s : State) : COut := .next (s.cRun (bundleOf x .vabs ty f))

/-- VNEG (R176): C inverts sign bits. -/
def execVneg (ty : BitVec 2) (f : SlotF) (x : Bun) (s : State) : COut := .next (s.cRun (bundleOf x .vneg ty f))

/-- VCPYS (R176): C copies the sign of vb onto va. -/
def execVcpys (ty : BitVec 2) (f : SlotF) (x : Bun) (s : State) : COut := .next (s.cRun (bundleOf x .vcpys ty f))

/-- VIADD (R178): C adds integer elements with wrapping. -/
def execViadd (ty : BitVec 2) (f : SlotF) (x : Bun) (s : State) : COut := .next (s.cRun (bundleOf x .viadd ty f))

/-- VISUB (R178): C subtracts integer elements with wrapping. -/
def execVisub (ty : BitVec 2) (f : SlotF) (x : Bun) (s : State) : COut := .next (s.cRun (bundleOf x .visub ty f))

/-- VIMUL (R178): C multiplies integer elements, low half. -/
def execVimul (ty : BitVec 2) (f : SlotF) (x : Bun) (s : State) : COut := .next (s.cRun (bundleOf x .vimul ty f))

/-- VIMULH (R178): C multiplies integer elements, signed high half. -/
def execVimulh (ty : BitVec 2) (f : SlotF) (x : Bun) (s : State) : COut := .next (s.cRun (bundleOf x .vimulh ty f))

/-- VAND (R178): C ANDs all 128 bytes. -/
def execVand (ty : BitVec 2) (f : SlotF) (x : Bun) (s : State) : COut := .next (s.cRun (bundleOf x .vand ty f))

/-- VOR (R178): C ORs all 128 bytes. -/
def execVor (ty : BitVec 2) (f : SlotF) (x : Bun) (s : State) : COut := .next (s.cRun (bundleOf x .vor ty f))

/-- VXOR (R178): C XORs all 128 bytes. -/
def execVxor (ty : BitVec 2) (f : SlotF) (x : Bun) (s : State) : COut := .next (s.cRun (bundleOf x .vxor ty f))

/-- VNOT (R178): C inverts all 128 bytes. -/
def execVnot (ty : BitVec 2) (f : SlotF) (x : Bun) (s : State) : COut := .next (s.cRun (bundleOf x .vnot ty f))

/-- VSHL (R178): C shifts integer elements left. -/
def execVshl (ty : BitVec 2) (f : SlotF) (x : Bun) (s : State) : COut := .next (s.cRun (bundleOf x .vshl ty f))

/-- VSHR (R178): C shifts integer elements right logically. -/
def execVshr (ty : BitVec 2) (f : SlotF) (x : Bun) (s : State) : COut := .next (s.cRun (bundleOf x .vshr ty f))

/-- VSAR (R178): C shifts integer elements right arithmetically. -/
def execVsar (ty : BitVec 2) (f : SlotF) (x : Bun) (s : State) : COut := .next (s.cRun (bundleOf x .vsar ty f))

/-- VIMIN (R178): C takes the signed integer minimum. -/
def execVimin (ty : BitVec 2) (f : SlotF) (x : Bun) (s : State) : COut := .next (s.cRun (bundleOf x .vimin ty f))

/-- VIMAX (R178): C takes the signed integer maximum. -/
def execVimax (ty : BitVec 2) (f : SlotF) (x : Bun) (s : State) : COut := .next (s.cRun (bundleOf x .vimax ty f))

/-- VICMPEQ (R178): C writes a predicate from integer equality. -/
def execVicmpeq (ty : BitVec 2) (f : SlotF) (x : Bun) (s : State) : COut := .next (s.cRun (bundleOf x .vicmpeq ty f))

/-- VICMPLT (R178): C writes a predicate from a signed integer less-than. -/
def execVicmplt (ty : BitVec 2) (f : SlotF) (x : Bun) (s : State) : COut := .next (s.cRun (bundleOf x .vicmplt ty f))

/-- VCMPEQ (R179): C writes a predicate from floating-point equality. -/
def execVcmpeq (ty : BitVec 2) (f : SlotF) (x : Bun) (s : State) : COut := .next (s.cRun (bundleOf x .vcmpeq ty f))

/-- VCMPLT (R179): C writes a predicate from floating-point less-than. -/
def execVcmplt (ty : BitVec 2) (f : SlotF) (x : Bun) (s : State) : COut := .next (s.cRun (bundleOf x .vcmplt ty f))

/-- VCMPLE (R179): C writes a predicate from floating-point less-or-equal. -/
def execVcmple (ty : BitVec 2) (f : SlotF) (x : Bun) (s : State) : COut := .next (s.cRun (bundleOf x .vcmple ty f))

/-- VCMPUN (R179): C writes a predicate where either operand is NaN. -/
def execVcmpun (ty : BitVec 2) (f : SlotF) (x : Bun) (s : State) : COut := .next (s.cRun (bundleOf x .vcmpun ty f))

/-- VSEL (R181): C selects bytes from va or vb by a predicate. -/
def execVsel (ty : BitVec 2) (f : SlotF) (x : Bun) (s : State) : COut := .next (s.cRun (bundleOf x .vsel ty f))

/-- VMOV (R181): C copies va to vd under a byte mask. -/
def execVmov (ty : BitVec 2) (f : SlotF) (x : Bun) (s : State) : COut := .next (s.cRun (bundleOf x .vmov ty f))

/-- VPART (R184): C sorts indices into two dense lists and counts. -/
def execVpart (ty : BitVec 2) (f : SlotF) (x : Bun) (s : State) : COut := .next (s.cRun (bundleOf x .vpart ty f))

/-- VBCAST (R182): C broadcasts element 0. -/
def execVbcast (ty : BitVec 2) (f : SlotF) (x : Bun) (s : State) : COut := .next (s.cRun (bundleOf x .vbcast ty f))

/-- VSHUF (R182): C permutes elements by index. -/
def execVshuf (ty : BitVec 2) (f : SlotF) (x : Bun) (s : State) : COut := .next (s.cRun (bundleOf x .vshuf ty f))

/-- VROT (R182): C rotates elements. -/
def execVrot (ty : BitVec 2) (f : SlotF) (x : Bun) (s : State) : COut := .next (s.cRun (bundleOf x .vrot ty f))

/-- VIOTA (R182): C writes a counting sequence. -/
def execViota (ty : BitVec 2) (f : SlotF) (x : Bun) (s : State) : COut := .next (s.cRun (bundleOf x .viota ty f))

/-- VCOMPR (R183): C packs selected elements to the bottom. -/
def execVcompr (ty : BitVec 2) (f : SlotF) (x : Bun) (s : State) : COut := .next (s.cRun (bundleOf x .vcompr ty f))

/-- VCVT (R185): C converts elements between formats from the format table. -/
def execVcvt (ty : BitVec 2) (f : SlotF) (x : Bun) (s : State) : COut := .next (s.cRun (bundleOf x .vcvt ty f))

/-- VCVTO (R37): C converts and records outliers in a list. -/
def execVcvto (ty : BitVec 2) (f : SlotF) (x : Bun) (s : State) : COut := .next (s.cRun (bundleOf x .vcvto ty f))

/-- VCVTS (R187): C converts with stochastic rounding. -/
def execVcvts (ty : BitVec 2) (f : SlotF) (x : Bun) (s : State) : COut := .next (s.cRun (bundleOf x .vcvts ty f))

/-- VCBDEC (R188): C decodes eight CB2 codes into 64 BF16 weights. -/
def execVcbdec (ty : BitVec 2) (f : SlotF) (x : Bun) (s : State) : COut := .next (s.cRun (bundleOf x .vcbdec ty f))

/-- VEXP2 (R50): C computes 2^x by the fixed sequence. -/
def execVexp2 (ty : BitVec 2) (f : SlotF) (x : Bun) (s : State) : COut := .next (s.cRun (bundleOf x .vexp2 ty f))

/-- VLOG2 (R51): C computes log2 by the fixed sequence. -/
def execVlog2 (ty : BitVec 2) (f : SlotF) (x : Bun) (s : State) : COut := .next (s.cRun (bundleOf x .vlog2 ty f))

/-- VSIN (R52): C computes sine of an argument in turns. -/
def execVsin (ty : BitVec 2) (f : SlotF) (x : Bun) (s : State) : COut := .next (s.cRun (bundleOf x .vsin ty f))

/-- VCOS (R52): C computes cosine of an argument in turns. -/
def execVcos (ty : BitVec 2) (f : SlotF) (x : Bun) (s : State) : COut := .next (s.cRun (bundleOf x .vcos ty f))

/-- VTANH (R53): C computes tanh. -/
def execVtanh (ty : BitVec 2) (f : SlotF) (x : Bun) (s : State) : COut := .next (s.cRun (bundleOf x .vtanh ty f))

/-- VRCP (R55): C computes a reciprocal by seeded Newton steps. -/
def execVrcp (ty : BitVec 2) (f : SlotF) (x : Bun) (s : State) : COut := .next (s.cRun (bundleOf x .vrcp ty f))

/-- VRSQRT (R55): C computes a reciprocal square root. -/
def execVrsqrt (ty : BitVec 2) (f : SlotF) (x : Bun) (s : State) : COut := .next (s.cRun (bundleOf x .vrsqrt ty f))

/-- VSQRT (R56): C computes a correctly rounded square root. -/
def execVsqrt (ty : BitVec 2) (f : SlotF) (x : Bun) (s : State) : COut := .next (s.cRun (bundleOf x .vsqrt ty f))

/-- VDIV (R56): C computes a correctly rounded quotient. -/
def execVdiv (ty : BitVec 2) (f : SlotF) (x : Bun) (s : State) : COut := .next (s.cRun (bundleOf x .vdiv ty f))

/-- VRSUM (R191): C sums a row by the lane tree. -/
def execVrsum (ty : BitVec 2) (f : SlotF) (x : Bun) (s : State) : COut := .next (s.cRun (bundleOf x .vrsum ty f))

/-- VRMAX (R191): C takes a row maximum. -/
def execVrmax (ty : BitVec 2) (f : SlotF) (x : Bun) (s : State) : COut := .next (s.cRun (bundleOf x .vrmax ty f))

/-- VRMIN (R191): C takes a row minimum. -/
def execVrmin (ty : BitVec 2) (f : SlotF) (x : Bun) (s : State) : COut := .next (s.cRun (bundleOf x .vrmin ty f))

/-- VRSTAT (R192): C computes a row's mean and variance with a sticky overflow flag. -/
def execVrstat (ty : BitVec 2) (f : SlotF) (x : Bun) (s : State) : COut := .next (s.cRun (bundleOf x .vrstat ty f))

/-- VRSOFT (R193): C computes a row softmax. -/
def execVrsoft (ty : BitVec 2) (f : SlotF) (x : Bun) (s : State) : COut := .next (s.cRun (bundleOf x .vrsoft ty f))

/-- VCMUL (R194): C multiplies complex elements. -/
def execVcmul (ty : BitVec 2) (f : SlotF) (x : Bun) (s : State) : COut := .next (s.cRun (bundleOf x .vcmul ty f))

/-- VCFMA (R194): C fuses a complex multiply-add onto vd. -/
def execVcfma (ty : BitVec 2) (f : SlotF) (x : Bun) (s : State) : COut := .next (s.cRun (bundleOf x .vcfma ty f))

/-- VCONJ (R194): C conjugates complex elements. -/
def execVconj (ty : BitVec 2) (f : SlotF) (x : Bun) (s : State) : COut := .next (s.cRun (bundleOf x .vconj ty f))

/-- VRAND (R195): C writes 32 generator words to two registers. -/
def execVrand (ty : BitVec 2) (f : SlotF) (x : Bun) (s : State) : COut := .next (s.cRun (bundleOf x .vrand ty f))

/-- PAND (R180): C ANDs predicates. -/
def execPand (ty : BitVec 2) (f : SlotF) (x : Bun) (s : State) : COut := .next (s.cRun (bundleOf x .pand ty f))

/-- POR (R180): C ORs predicates. -/
def execPor (ty : BitVec 2) (f : SlotF) (x : Bun) (s : State) : COut := .next (s.cRun (bundleOf x .por ty f))

/-- PXOR (R180): C XORs predicates. -/
def execPxor (ty : BitVec 2) (f : SlotF) (x : Bun) (s : State) : COut := .next (s.cRun (bundleOf x .pxor ty f))

/-- PNOT (R180): C inverts a predicate. -/
def execPnot (ty : BitVec 2) (f : SlotF) (x : Bun) (s : State) : COut := .next (s.cRun (bundleOf x .pnot ty f))

/-- CBR (R196): C branches on a predicate condition. -/
def execCbr (ty : BitVec 2) (f : SlotF) (x : Bun) (s : State) : COut := .next (s.cRun (bundleOf x .cbr ty f))

/-- CBRT (R197): C branches on a popped token payload. -/
def execCbrt (ty : BitVec 2) (f : SlotF) (x : Bun) (s : State) : COut := .next (s.cRun (bundleOf x .cbrt ty f))

/-- CJ (R196): C jumps. -/
def execCj (ty : BitVec 2) (f : SlotF) (x : Bun) (s : State) : COut := .next (s.cRun (bundleOf x .cj ty f))

/-- LOOP_C (R203): C starts a hardware loop, optionally pipelined or with trip from a token. -/
def execLoopC (ty : BitVec 2) (f : SlotF) (x : Bun) (s : State) : COut := .next (s.cRun (bundleOf x .loopC ty f))

/-- LOOP_SET (R206): C writes the count of a running loop. -/
def execLoopSet (ty : BitVec 2) (f : SlotF) (x : Bun) (s : State) : COut := .next (s.cRun (bundleOf x .loopSet ty f))

/-- ROTB (R208): C sets the rotating region and stage count. -/
def execRotb (ty : BitVec 2) (f : SlotF) (x : Bun) (s : State) : COut := .next (s.cRun (bundleOf x .rotb ty f))

/-- LBHDR (R209): C defines or clears a loop-buffer ring. -/
def execLbhdr (ty : BitVec 2) (f : SlotF) (x : Bun) (s : State) : COut := .next (s.cRun (bundleOf x .lbhdr ty f))

/-- VIEWT (R211): C writes a tile view, held while commands use it. -/
def execViewt (ty : BitVec 2) (f : SlotF) (x : Bun) (s : State) : COut := .next (s.cRun (bundleOf x .viewt ty f))

/-- VIEWA (R211): C writes an accumulator view, held while commands use it. -/
def execViewa (ty : BitVec 2) (f : SlotF) (x : Bun) (s : State) : COut := .next (s.cRun (bundleOf x .viewa ty f))

/-- FMTSET (R213): C writes a format table entry. -/
def execFmtset (ty : BitVec 2) (f : SlotF) (x : Bun) (s : State) : COut := .next (s.cRun (bundleOf x .fmtset ty f))

/-- MDSET (R215): C writes a whole matrix descriptor. -/
def execMdset (ty : BitVec 2) (f : SlotF) (x : Bun) (s : State) : COut := .next (s.cRun (bundleOf x .mdset ty f))

/-- MDSETF (R215): C writes one word of a matrix descriptor. -/
def execMdsetf (ty : BitVec 2) (f : SlotF) (x : Bun) (s : State) : COut := .next (s.cRun (bundleOf x .mdsetf ty f))

/-- CBLOAD (R189): C replaces the codebook table, held until CB2 commands retire. -/
def execCbload (ty : BitVec 2) (f : SlotF) (x : Bun) (s : State) : COut := .next (s.cRun (bundleOf x .cbload ty f))

/-- MXGO (R217): Slot M queues a matrix command on the normal queue. -/
def execMxgo (m : MSlot) (k : Toks) (s : State) : COut := .next (s.cRun ⟨none, none, none, some ⟨.mxgo, m⟩, k⟩)

/-- MXGOU (R217): Slot M queues a matrix command on the urgent queue. -/
def execMxgou (m : MSlot) (k : Toks) (s : State) : COut := .next (s.cRun ⟨none, none, none, some ⟨.mxgou, m⟩, k⟩)

/-- MXLOOP (R217): Slot M queues a matrix command displaced by a loop index. -/
def execMxloop (m : MSlot) (k : Toks) (s : State) : COut := .next (s.cRun ⟨none, none, none, some ⟨.mxloop, m⟩, k⟩)

/-- TOKEN_BUNDLE (R172): A C bundle with empty slots only pops and pushes tokens. -/
def execTokenBundle (k : Toks) (s : State) : COut := .next (s.cRun ⟨none, none, none, none, k⟩)

end Sys2Proof.Machine
end

