-- ==== Sys2Proof/Machine/LSNet.lean ====
section
/-! DEFINITION. Channels, work lists, fetch-and-add and Sett lookups of L and S (07 R163 to R169), and what reaches a die's compaction unit
(10 R239). -/

namespace Sys2Proof.Machine

/-- An access of the task before sequencer q's next instruction has still to perform. posted: posted writes count. -/
def Tile.openBefore (t : Tile) (q : Sequencer) (posted : Bool) : Bool :=
  t.reqs.any fun x => x.clk.before x.q (t.clkOf q) && x.openAt posted

/-- An acquire before sequencer q's next instruction has still to perform (11 R266 item 3). -/
def Tile.acquireBefore (t : Tile) (q : Sequencer) : Bool :=
  t.reqs.any fun x => x.acquiring && x.clk.before x.q (t.clkOf q)

/-- The release of an instruction that performs when it issues still waits (07 R146). -/
def Tile.releaseWaits (t : Tile) (q : Sequencer) (f : LSF) : Bool := f.order != 0 && t.openBefore q (f.scope == 3)

/-! ### Channels (07 R163, R164, 12 R287 to R289) -/

/-- The channel of an instruction. -/
def chanOf (f : LSF) : Nat := bits f.imm 5 0

/-- A work-list or channel request of a tile is held by its own release (07 R146). -/
def Tile.listHeld (t : Tile) (r : Req) : Bool :=
  r.releasing && t.reqs.any fun x => x.id != r.id && x.openAt (r.scope == 3) && x.clk.before x.q r.clk

/-- A request leaves the tile and its tokens are pushed; what it did is an effect outside its sequencer. -/
def Tile.endReq (t : Tile) (r : Req) (pay : BitVec 32) : Tile :=
  (({ t with reqs := t.reqs.filter fun x => x.id != r.id }).mark r.q (r.clk.at r.q)).pushReserved r.q (peersOf r.q r.push) pay r.clk

/-- A request is a send on a channel. -/
def Req.onChan (r : Req) (c : Nat) : Bool := match r.kind with | .chsend k _ => k == c | _ => false

/-- Sends of a tile on a channel that are accepted and not yet injected. -/
def Tile.sends (t : Tile) (c : Nat) : List Req := t.reqs.filter fun r => r.onChan c

/-- The oldest accepted send of a tile on a channel injects its slot's packet, unless its release holds it (07 R138, R146, R163; log 123). -/
def State.chanSend (s : State) (t : TileId) (c : Nat) : State :=
  let x := s.tileAt t
  let h := rd x.chans c
  match (x.sends c).head? with
  | none => s
  | some r => match r.kind, s.chanDecl x.launch c with
    | .chsend _ data, some (l, k) =>
      if h.free = 0 || x.listHeld r then s
      else (match l.tileOfTask k.dst with
        | none => s
        | some u =>
          let s := s.sendTo t u 1 (h.sent.setWidth 16) 1 (.slot c h.sent data) r.clk
          s.updAt t fun x => { x.endReq r 0 with chans := wr x.chans c { h with free := h.free - 1, sent := h.sent + 1 } })
    | _, _ => s

/-- CHSEND: it takes a free slot that no earlier send will take, and its data when it issues (07 R140). -/
def execChsend (f : LSF) (s : State) : Out :=
  .next <| s.sRun f [] [] fun s1 =>
    let t := s1.tile
    let c := chanOf f
    let h := rd t.chans c
    if !h.sender then .fault .accessDenied 0 none
    else match s1.chanDecl t.launch c with
      | none => .fault .accessDenied 0 none
      | some (l, k) =>
        if h.free = 0 then
          let h' : Chan := { h with stallS := some (h.stallS.getD s.dev.now) }
          .stall (s.upd fun t => { t with chans := wr t.chans c h' })
        else if h.fault || decide (h.free.toNat ≤ (t.sends c).length) || (l.tileOfTask k.dst).isNone then .wait
        else match s.regLost (128 * f.vreg.toNat) k.bytes with
          | some s' => .stop s' .eccUncorrected 0
          | none =>
            let data := leBytes k.bytes (t.rread (128 * f.vreg.toNat) k.bytes)
            let s2 := (s1.upd fun t => { t with chans := wr t.chans c { h with stallS := none } }).launchReq s .s f (.chsend c data) [] false true
            .pending (if s.defer then s2 else s2.chanSend s2.cur c)

/-- CHRECV. -/
def execChrecv (f : LSF) (s : State) : Out :=
  .next <| s.lsRun .l f [] [] fun s1 =>
    let t := s1.tile
    let c := chanOf f
    let h := rd t.chans c
    if !h.receiver then .fault .accessDenied 0 none
    else match s1.chanDecl t.launch c with
      | none => .fault .accessDenied 0 none
      | some (l, k) =>
        if h.received = h.consumed then
          let h' : Chan := { h with stallR := some (h.stallR.getD s.dev.now) }
          .stall (s.upd fun t => { t with chans := wr t.chans c h' })
        else if t.faccOpen || t.loadOver (128 * f.vreg.toNat) k.bytes then .wait
        else
          let a := k.ring + k.bytes * (h.consumed.toNat % k.slots)
          if s1.isLost 1 s1.cur.val a k.bytes then .fault .eccUncorrected (BitVec.ofNat 64 a) (some (.spm, a))
          else match l.tileOfTask k.src with
            | none => .wait
            | some u =>
              let v := (t.spmView t.l.clk).readN a k.bytes
              let n := h.consumed + 1
              let h' : Chan := { h with consumed := n, stallR := none }
              let s2 := s1.upd fun t => { (t.rwrite (128 * f.vreg.toNat) k.bytes v).mark .l (t.l.clk.l + 1) with chans := wr t.chans c h' }
              let s2 := s2.heal 2 s2.cur.val (128 * f.vreg.toNat) k.bytes
              .next (s2.sendTo s2.cur u 2 (n.setWidth 16) 2 (.ret c n) ((t.clkOf .l).tick .l)) h.consumed

/-! ### Work lists (07 R165, R166, 10 R239) -/

/-- The list an instruction names. -/
def Tile.listOf (t : Tile) (q : Sequencer) (f : LSF) : Nat := (t.indexOf q f + dispOf f).toNat % 256

/-- A declared list of a launch on a die. -/
def State.workList (s : State) (d : DieId) (launch : Word) (n : Nat) : Option WorkList :=
  (s.dev.dies[d]).lists.find? fun w => w.launch == launch && w.n == n

/-- A list replaced. -/
def State.setList (s : State) (d : DieId) (w : WorkList) : State :=
  s.updDie d fun x => { x with lists := x.lists.map fun y => if y.launch == w.launch && y.n == w.n then w else y }

/-- Requests of a launch for a die's list that have not reached its unit: appends or pops. -/
def State.listReqs (s : State) (d : DieId) (launch : Word) (n : Nat) (append : Bool) : Nat :=
  s.dev.tiles.toList.foldl (fun m x =>
    if x.launch == launch then m + (x.reqs.filter fun r => match r.kind with
      | .wlapp e k _ => append && e == d && k == n
      | .wlpop _ e k _ => !append && e == d && k == n
      | _ => false).length
    else m) 0

/-- The oldest append of a tile reaches its die's unit, which accepts it. -/
def State.appendArrives (s : State) (t : TileId) : State :=
  let x := s.tileAt t
  match x.reqs.find? fun r => match r.kind with | .wlapp _ _ _ => true | _ => false with
  | none => s
  | some r => match r.kind with
    | .wlapp d n item => (match s.workList d x.launch n with
      | none => s
      | some w =>
        if w.cap ≤ w.items.length || x.listHeld r then s
        else (s.setList d { w with items := w.items ++ [item] }).updAt t fun x => x.endReq r 0)
    | _ => s

/-- The oldest pop of a tile reaches its die's unit, which serves it. -/
def State.popArrives (s : State) (t : TileId) : State :=
  let x := s.tileAt t
  match x.reqs.find? fun r => match r.kind with | .wlpop _ _ _ _ => true | _ => false with
  | none => s
  | some r => match r.kind with
    | .wlpop d die n pd => (match s.workList die x.launch n with
      | none => s
      | some w => match w.items with
        | [] => s
        | v :: rest =>
          if x.listHeld r then s
          else (s.setList die { w with items := rest }).updAt t fun x =>
            (x.setResult r d v pd true).endReq r (v.setWidth 32))
    | _ => s

/-- WLAPP: it needs a free entry of the list; after quiescence it is LAUNCH_STALL (10 R240). -/
def execWlapp (f : LSF) (s : State) : Out :=
  .next <| s.sRun f (addrRegsOf f) [] fun s1 =>
    let t := s1.tile
    let d := dieOf s1.cur
    let n := t.listOf .s f
    match s1.workList d t.launch n, s1.launch? t.launch with
    | some w, some l =>
      if l.quiescent then .fault .launchStall 0 none
      else if w.cap ≤ w.items.length + s1.listReqs d t.launch n true then .wait
      else
        let s2 := s1.launchReq s .s f (.wlapp d n (t.areg .s f.base)) [] false true
        .pending (if s.defer then s2 else s2.appendArrives s2.cur)
    | _, _ => .fault .accessDenied 0 none

/-- WLPOP: DONE after quiescence, whatever the list holds (10 R240); else an item that no earlier pop will take; else it stalls. -/
def execWlpop (f : LSF) (s : State) : Out :=
  let pd : BitVec 3 := f.vreg.extractLsb' 0 3
  .next <| s.lsRun .l f (addrRegsOf f) [pd] fun s1 =>
    let t := s1.tile
    let d := dieOf s1.cur
    let n := t.listOf .l f
    match s1.workList d t.launch n, s1.launch? t.launch with
    | some w, some l =>
      if l.quiescent then
        .next (s1.upd fun t => (t.setLs .l f.base (BitVec.allOnes 64)).setPred .l pd false) 0xFFFFFFFF
      else if t.faccOpen then .wait
      else if s1.listReqs d t.launch n false < w.items.length then
        let s2 := s1.launchReq s .l f (.wlpop f.base d n pd) [] false true
        .pending (if s.defer then s2 else s2.popArrives s2.cur)
      else .wait
    | _, _ => .fault .accessDenied 0 none

/-- WORK_LIST_APPEND_ARRIVAL (10 R239). -/
def execWorkListAppendArrival (t : TileId) (s : State) : Out := .next (s.appendArrives t)

/-- WORK_LIST_POP_ARRIVAL (10 R239). -/
def execWorkListPopArrival (t : TileId) (s : State) : Out := .next (s.popArrives t)

/-! ### Fetch-and-add (07 R169) -/

/-- FACC: imm20 [16:0] is the offset and [19:17] the status predicate. -/
def execFacc (f : LSF) (s : State) : Out :=
  let d : Reg := f.vreg.extractLsb' 0 5
  let inc : Reg := f.vreg.extractLsb' 5 5
  let wide := bit f.vreg 10
  let pd : BitVec 3 := f.imm.extractLsb' 17 3
  .next <| s.lsRun .l f (d :: inc :: addrRegsOf f) [pd] fun s1 =>
    let t := s1.tile
    let ea := t.areg .l f.base + t.indexOf .l f + (f.imm.extractLsb' 0 17).signExtend 64
    let n := if wide then 8 else 4
    if t.faccOpen then .wait
    else if ea.toNat % n ≠ 0 then .fault .align ea none
    else match (Plan.ok [] s1).add s1.cur .far .rmw ea n 0 0 false with
      | .ok ps s2 => .pending (s2.launchReq s .l f (.facc d wide (t.areg .l inc) pd) ps false false)
      | .fault c a m => .fault c a m
      | .link a => .link a

/-! ### Sett lookups (07 R167, 17 R347) -/

/-- SLOOK and SLOOKI: the line is read at issue; the whole operation waits for what its order puts before it. S stands at the word until the reply has
come: SETT_FULL is precise, so no later word of S may have an effect before (07 R139, R167, log 112). -/
def State.lsLook (s : State) (f : LSF) (interior : Bool) : State :=
  s.sRun f [f.base] [] fun s1 =>
    let t := s1.tile
    if t.releaseWaits .s f || t.acquireBefore .s then .wait
    else if s.defer then .link 0
    else match s.regLost (128 * f.vreg.toNat) 128 with
    | some s' => .stop s' .eccUncorrected 0
    | none =>
      let line := t.vreg f.vreg.toNat
      match s1.lookup t.ctx line interior with
      | .wait => .link 0
      | .fault c m => .fault c 0 (some (.hbm, m))
      | .ok name s2 => .next (s2.upd fun t => (t.setLs .s f.base name).mark .s (t.s.clk.s + 1)) (name.setWidth 32)

/-- SLOOK (07 R167). -/
def execSlook (f : LSF) (s : State) : Out := .next (s.lsLook f false)

/-- SLOOKI (07 R167). -/
def execSlooki (f : LSF) (s : State) : Out := .next (s.lsLook f true)

end Sys2Proof.Machine
end

