-- ==== Sys2Proof/Machine/Place.lean ====
section
/-! DEFINITION. Placing tasks (15 R317 to R319, R321), starting them (10 R226, R235, 12 R291), pre-emption and resume (15 R322, R323,
18 R369 to R376), and sealing (15 R324). -/

namespace Sys2Proof.Machine

/-! ### Placement (15 R318, R319) -/

/-- The streams of a launch's kernel as a task of index i has them. -/
def State.taskOf (s : State) (l : Launch) (i : Nat) : Task :=
  let k := (((s.dev.images[l.image]?).getD default).kernels[l.kern]?).getD default
  { launch := l.id, index := i, image := l.image, ctx := l.tag, kEnt := k.kEnt, kFin := k.kFin, lEnt := k.lEnt, lFin := k.lFin
    cEnt := k.cEnt, cFin := k.cFin, sEnt := k.sEnt, sFin := k.sFin }

/-- Task i of a launch is put on a tile; its start writes are still to be made. -/
def State.placeTask (s : State) (l : Launch) (t : TileId) (i : Nat) : State :=
  let s := s.updAt t fun x => { x with task := some (s.taskOf l i), live := false }
  let f := fun (l : Launch) => { l with
    at_ := (i, TaskAt.running t) :: l.at_.filter (fun a => a.1 != i), reserved := l.reserved.filter fun u => u != t, since := s.dev.now }
  if l.state = .ready then s.moveLaunch l.id .running f else s.updLaunch l.id f

/-- TASK_PLACEMENT (15 R318, R319): a free tile takes a launch's next task, or is reserved for a co-resident launch. -/
def execTaskPlacement (t : TileId) (s : State) : EOut :=
  let x := s.tileAt t
  match s.takerOf t with
  | none => .next s
  | some l =>
    if !x.free || !s.lowestFree l t then .next s
    else if l.cores then .next (s.updLaunch l.id fun l => { l with reserved := t :: l.reserved })
    else match s.nextTask l t with
      | none => .next s
      | some i =>
        let d := dieOf t
        let s := if l.mode = 2 then s else s.updLaunch l.id fun l => { l with next := l.next.set d (l.next[d] + 1) }
        .next (s.placeTask l t i)

/-- A list of tiles in ascending order. -/
def sortTiles (ts : List TileId) : List TileId := (List.range 432).filterMap fun i => (ts.find? fun t => t.val == i)

/-- Where the tasks of a co-resident launch go (15 R319, R321). -/
def State.placements (s : State) (l : Launch) : List (Nat × TileId) :=
  if l.mode = 2 then l.replay.filterMap fun p => (tileOf? p.2).map fun t => (p.1, t)
  else
    let b := s.blocksOf l
    [(0 : DieId), 1, 2].flatMap fun d => (sortTiles (l.reservedOn d)).zipIdx.map fun p => (blockStart b d.val + p.2, p.1)

/-- The task map written (10 R237); false when a write cannot be made. -/
def State.writeMap (s : State) (l : Launch) (ps : List (Nat × TileId)) : State × Bool :=
  ps.foldl (fun (a : State × Bool) p =>
    if !a.2 then a
    else a.1.ctlWrite l.tag l.id .loc (BitVec.ofNat 64 (l.pk 112 8 + 2 * p.1)) 2 p.2.val) (s, true)

/-- The third ready signal: the task map, the flow entries with a task mask, then every task on its tile. -/
def State.mapTasks (s : State) (l : Launch) : State :=
  let ps := s.placements l
  match s.writeMap l ps with
  | (s, false) => s.abort l.id 13
  | (s, true) =>
    let map := (List.range l.tasks).map fun i => match ps.find? fun p => p.1 == i with | some p => p.2.val | none => 432
    let m := { l with taskMap := map }
    let i := (s.dev.images[l.image]?).getD default
    let s := s.updLaunch l.id fun l => { l with taskMap := map, mapped := true, reserved := [] }
    let s := (i.flows.filter fun e => feMask e != 0).foldl (fun s e => s.installFlow m e) s
    ps.foldl (fun s p => match s.launch? l.id with
      | some l => s.placeTask l p.2 p.1
      | none => s) s

/-- READY_SIGNAL (15 R319): a die's reservation is complete; the third signal places the tasks. -/
def execReadySignal (id : Word) (die : DieId) (s : State) : EOut :=
  match s.launch? id with
  | none => .next s
  | some l =>
    if l.transfer || !l.cores || l.state != .ready || l.mapped || l.ready.contains die || 0 < s.lacking l die then .next s
    else
      let s := s.updLaunch id fun l => { l with ready := die :: l.ready }
      if l.ready.length < 2 then .next s else .next (s.mapTasks l)

/-! ### Starting a task (10 R226) -/

/-- The barrier object of group g that a task's start writes (10 R235). -/
def startGroup (i : Nat) (m : Mem) (g : Group) : Mem :=
  if g.members.contains i then
    let c := if g.master = i then g.members.length else 1
    m.setBar (groupObj g.g) ⟨0, c, c, 0⟩
  else m

/-- The channel counters of a task at the launch's first task on its tile (12 R287). -/
def Image.chansOf (i : Image) (t : Nat) : Vector Chan 64 :=
  Vector.ofFn fun c => match i.chans.find? fun x => x.id == c.val with
    | some x => { Chan.unused with
        free := if x.src = t then BitVec.ofNat 32 x.slots else 0, sender := x.src == t, receiver := x.dst == t }
    | none => Chan.unused

/-- A window of an image. -/
def Image.window (i : Image) (n : Nat) : Window := (i.windows[n]?).getD default

/-- A subscription entry of a declaration for the other task's tile (12 R291). -/
def Image.entryFor (i : Image) (d : SubDecl) (peer : Nat) : SubEntry :=
  ⟨true, false, peer, (i.window d.window).size, (i.window d.pubWindow).base, (i.window d.window).base, 0⟩

/-- The tile number of a launch's task. -/
def Launch.tileNo (l : Launch) (i : Nat) : Nat := match l.tileOfTask i with | some t => t.val | none => 432

/-- The subscriber entries that a task opens, in declaration order. -/
def Image.startSubs (i : Image) (l : Launch) (t : Nat) : List SubEntry :=
  (i.subs.filter fun d => (d.tasks l.tasks).contains t).map fun d => i.entryFor d (l.tileNo d.publisher)

/-- The publisher entries that a task opens. -/
def Image.startPubs (i : Image) (l : Launch) (t : Nat) : List SubEntry :=
  (i.subs.filter fun d => d.publisher == t).flatMap fun d => (d.tasks l.tasks).map fun u => i.entryFor d (l.tileNo u)

/-- Entries written from entry 0 upward. -/
def fillEntries (es : List SubEntry) : Vector SubEntry 16 := Vector.ofFn fun i => es.getD i.val SubEntry.closed

/-- Views and formats from an image. -/
def Image.startC (i : Image) (pc : Word) : CState :=
  let c := CState.start pc
  { c with
    tv := i.tv.foldl (fun v p => wr v p.1 p.2) c.tv
    av := i.av.foldl (fun v p => wr v p.1 p.2) c.av
    ft := i.ft.foldl (fun v p => wr v p.1 p.2) c.ft }

/-- State of launch lifetime of the launch that had the tile before, kept while it is not final. -/
def State.keepOld (s : State) (x : Tile) (launch : Word) : List Kept :=
  let others := x.kept.filter fun k => k.launch != launch
  let alive := match s.launch? x.spmLaunch with | some l => !l.state.final | none => false
  if x.spmLaunch != launch && alive then ⟨x.spmLaunch, x.spm, x.loopmode, x.age, x.tvec, x.chans⟩ :: others else others

/-- State of launch lifetime at a task's start: what the launch has on the tile, or its first values (01 R14, 10 R228). -/
def Tile.launchState (x : Tile) (l : Launch) (i : Image) (t : Nat) : Kept :=
  if x.spmLaunch = l.id then ⟨l.id, x.spm, x.loopmode, x.age, x.tvec, x.chans⟩
  else match x.kept.find? fun k => k.launch == l.id with
    | some k => k
    | none => ⟨l.id, [], nbits l.word0 11 1 == 1, BitVec.ofNat 32 (if l.ageOf = 0 then 4096 else l.ageOf), BitVec.ofNat 64 (l.pk 160 8),
        i.chansOf t⟩

/-- Lost units of a tile's own structures that a start or a restore rewrites. -/
def State.freshTile (s : State) (t : TileId) (spm : Bool) : State :=
  s.updDev fun d => { d with lost := d.lost.filter fun u =>
    !(u.place == t.val && (u.code == 2 || u.code == 3 || u.code == 13 || (spm && u.code == 1))) }

/-- The start writes of the task on a tile; its sequencers begin (10 R226). -/
def State.startTile (s : State) (t : TileId) : State :=
  let x := s.tileAt t
  match x.task with
  | none => s
  | some k => match s.launch? k.launch with
    | none => s
    | some l =>
      let i := (s.dev.images[k.image]?).getD default
      let h := x.launchState l i k.index
      let y : Tile :=
        { Tile.reset with
          task := some k, live := true, loopmode := h.loopmode, age := h.age, tvec := h.tvec, chans := h.chans
          spm := (l.groups[dieOf t]).foldl (startGroup k.index) h.spm, spmLaunch := l.id
          k := KState.start k.kEnt, l := LSState.start k.lEnt, s := LSState.start k.sEnt, c := i.startC k.cEnt
          subs := fillEntries (i.startSubs l k.index), pubs := fillEntries (i.startPubs l k.index)
          tlb := x.tlb, pmap := x.pmap, matchT := x.matchT, waves := x.waves, acc := x.acc, carves := x.carves, kept := s.keepOld x l.id }
      let s := (s.freshTile t (x.spmLaunch != l.id)).setTileAt t y
      let n := l.starts[dieOf t]
      let s := s.updLaunch l.id fun l => { l with
        starts := l.starts.set (dieOf t) (n + 1), lastRun := (k.index, s.dev.now) :: l.lastRun.filter fun p => p.1 != k.index }
      match s.traceAdd l.id (dieOf t) (BitVec.ofNat 128 (k.index * 2 ^ 96 + t.val * 2 ^ 80 + 2 ^ 64 + n)) with
      | (s, true) => s
      | (s, false) => s.abort l.id 13

/-- TASK_START (10 R226): the start writes; a co-resident launch's tasks make theirs, in ascending task index, before any of them issues. -/
def execTaskStart (t : TileId) (s : State) : EOut :=
  let x := s.tileAt t
  match x.task with
  | none => .next s
  | some k =>
    if x.live then .next s
    else match s.launch? k.launch with
      | none => .next s
      | some l =>
        let ts := if l.cores then l.at_.reverse.filterMap fun a => (match a.2 with | .running u => some u | _ => none) else [t]
        .next (ts.foldl (fun s u => if (s.tileAt u).live || (s.tileAt u).launch != l.id then s else s.startTile u) s)

/-! ### Pre-emption (15 R322, 18 R369 to R371) -/

/-- Tasks that a launch could put on a die at once: those not started, and, but in replay, saved ones. -/
def State.wanted (s : State) (l : Launch) (d : DieId) : Nat :=
  let b := s.blocksOf l
  (if l.cores then (if l.state = .ready && !l.mapped then s.lacking l d else 0)
   else if l.mode = 2 then (l.replay.filter fun p => p.2 / 144 == d.val && !l.at_.any fun a => a.1 == p.1).length
   else blockStart b d.val + b.getD d.val 0 - l.next[d]) +
  (if l.mode = 2 then 0 else (s.dev.saves.filter fun v => v.launch == l.id && dieOf v.tile == d).length)

/-- Tiles of a die on their way to a launch by pre-emption. -/
def State.coming (s : State) (l : Launch) (d : DieId) : Nat :=
  ((List.range 144).filter fun i => match (s.tileAt (tileOf (144 * d.val + i))).preempt with
    | .stopping _ w => w == l.id
    | .none => false).length + (if l.cores then 0 else (l.reservedOn d).length)

/-- A launch lacks tiles on a die: more tasks wait than tiles are free for it or coming to it. -/
def State.lacksTile (s : State) (l : Launch) (d : DieId) : Bool :=
  decide (s.coming l d < s.wanted l d) &&
  !(s.partTiles l.tag d).any fun u => (s.tileAt u).free && (match s.takerOf u with | some m => m.id == l.id | none => false)

/-- PREEMPTION (15 R322, 18 R370): the first launch in scoreboard order whose victim is the task on tile t stops it. -/
def execPreemption (t : TileId) (s : State) : EOut :=
  match (scoreboard s.dev.launches).find? fun w => s.victim w t && s.lacksTile w (dieOf t) with
  | some w => .next (s.preempt (s.stopSet t) w.id)
  | none => .next s

/-- Every part of a tile has stopped at its boundary (18 R370). A send that the Spoke cannot accept because its record would find no room goes back to
its queue (06 R111). -/
def State.partsStopped (s : State) (t : TileId) : Bool :=
  let x := s.tileAt t
  (match x.k.pend with | none => true | some (.chresync _ _) => true | some _ => false) &&
  x.reqs.isEmpty && x.batch.isNone && x.barDue.isEmpty && x.enginePosts.isEmpty &&
  (!x.recordRoom || !s.dev.net.any fun p => p.orig == t.val && p.own.isSome)

/-- The task as its image holds it. -/
def Tile.asSaved (x : Tile) : Tile :=
  { x with
    preempt := .none, tlb := [], barOpen := none, subs := x.subs.map fun e => { e with parked := e.opened }
    k := { x.k with pend := none, since := none }
    l := { x.l with since := none }
    s := { x.s with since := none }
    c := { x.c with since := none }
    chans := x.chans.map fun h => { h with stallS := none, stallR := none }
    q := x.q.map fun z => z.map fun c => { c with waited := 0, waitFrom := none, promoted := false } }

/-- The tile after its task has been saved. -/
def Tile.emptied (x : Tile) : Tile :=
  { Tile.reset with pmap := x.pmap, matchT := x.matchT, waves := x.waves, acc := x.acc, carves := x.carves, kept := x.kept }

/-- A send of a tile that its Spoke has not accepted goes back to its queue (log 127). -/
def State.takeSend (s : State) (t : TileId) : State :=
  if s.dev.net.any fun p => p.orig == t.val && p.own.isSome then
    (s.updDev fun d => { d with net := d.net.filter fun p => !(p.orig == t.val && p.own.isSome) }).updAt t fun x => match (x.cmds .send).head? with
      | some c => x.setHead .send { c with injected := false }
      | none => x
  else s

/-- The image of the task on tile t written to its slot, and the tile reserved for the launch that takes it (18 R371, 15 R322). -/
def State.saveTask (s : State) (t : TileId) (slot : Nat) (by_ : Word) (k : Task) : State :=
  let s := s.takeSend t
  let img := (s.tileAt t).asSaved
  let s := s.storeImage slot t img
  let s := s.updDev fun d => { d with saves := d.saves ++ [⟨slot, k.launch, k.index, t, img⟩] }
  let s := s.updLaunch k.launch fun l => { l with
    at_ := (k.index, TaskAt.saved t) :: l.at_.filter (fun a => a.1 != k.index), since := s.dev.now }
  let s := s.updAt t Tile.emptied
  match s.launch? by_ with
  | some w => if s.waitsFor w t then s.updLaunch by_ fun w => { w with reserved := t :: w.reserved } else s
  | none => s

/-- The save pool permits tag 0x000 an access to n bytes of a slot (16 R339, 18 R369). -/
def State.poolOk (s : State) (slot n : Nat) (k : Acc) : Bool := s.ownOk (s.slotBase slot) n k

/-- Why the image of a task on tile t cannot be saved: lost data in the tile (23 R410), or a save pool that refuses it (16 R339, log 65). -/
def State.saveBad (s : State) (t : TileId) (slot : Nat) : Option Cause :=
  let x := s.tileAt t
  if s.dev.lost.any fun u => u.place == t.val && (u.code == 1 || u.code == 3 || (u.code == 2 && x.valid u.off)) then some .eccUncorrected
  else if !s.poolOk slot (0x360000 + x.asSaved.spillLen) .write then some .accessDenied
  else none

/-- CONTEXT_IMAGE_SAVED (18 R371, R372): once every part has stopped; an image that cannot be saved is a tile-state error (23 R410). A task to be killed is
killed and not saved (18 R366). -/
def execContextImageSaved (t : TileId) (s : State) : EOut :=
  let x := s.tileAt t
  match x.preempt, x.task with
  | .stopping slot by_, some k =>
    if x.killDue.isSome then .next (s.killNow t)
    else if !s.partsStopped t then .next s
    else match s.saveBad t slot with
      | some c => .next (s.updAt t fun x => { x with preempt := .none, kill := some ⟨false, c, .k, x.k.pc⟩ })
      | none => .next (s.saveTask t slot by_ k)
  | _, _ => .next s

/-! ### Resume (15 R323, 18 R376) -/

/-- A saved task restored on its tile (18 R376): what the image gives, and the tile's own state in place. -/
def State.restore (s : State) (v : Save) : State :=
  let x := s.tileAt v.tile
  let b := s.slotBase v.slot
  let y := v.img.fromImage s.dev.hbm b
  let y : Tile :=
    { y with
      tlb := [], live := true, preempt := .none, subs := y.subs.map fun e => { e with parked := false }, spmLaunch := v.launch
      pmap := x.pmap, matchT := x.matchT, waves := x.waves, acc := x.acc, carves := x.carves, kept := s.keepOld x v.launch }
  let bad : Option Cause :=
    if s.isLost 6 0 b (0x360000 + v.img.spillLen) then some .eccUncorrected
    else if !s.poolOk v.slot (0x360000 + v.img.spillLen) .read then some .accessDenied
    else if imageOk s.dev.hbm b then none else some .illegal
  let s := (s.freshTile v.tile true).updDev fun d => { d with saves := d.saves.filter fun w => w.slot != v.slot }
  let s := (s.setTileAt v.tile y).updLaunch v.launch fun l => { l with
    at_ := (v.index, TaskAt.running v.tile) :: l.at_.filter (fun a => a.1 != v.index), since := s.dev.now
    reserved := l.reserved.filter fun u => u != v.tile
    lastRun := (v.index, s.dev.now) :: l.lastRun.filter fun p => p.1 != v.index }
  match bad with
  | some c => s.killTask v.tile ⟨false, c, .k, y.k.pc⟩
  | none => s

/-- A saved task may resume: its tile is free, in a partition, and held for no other launch. -/
def State.mayResume (s : State) (v : Save) : Bool :=
  (s.tileAt v.tile).free && s.runsOn v.tile v.img.ctx && (match s.holder v.tile with | some l => l.id == v.launch | none => true)

/-- A co-resident launch some of whose tasks are still on their tiles resumes none of them: they resume together (15 R322). -/
def Launch.stillRuns (l : Launch) : Bool := l.cores && l.at_.any fun a => match a.2 with | .running _ => true | _ => false

/-- The saved tasks of a launch that resume together on tile t: all of a co-resident launch's (15 R322). -/
def State.resumesWith (s : State) (l : Launch) (t : TileId) : List Save :=
  if (s.savesAt t).any fun v => v.launch == l.id then s.dev.saves.filter fun v => v.launch == l.id && (l.cores || v.tile == t) else []

/-- RESUME (15 R323, 18 R376): the first launch in scoreboard order, of those with a saved task that waits for tile t, that may resume; a
co-resident launch resumes in all its tasks together. A tile reserved by a pre-emption goes to the launch that made it (15 R322). -/
def execResume (t : TileId) (s : State) : EOut :=
  match (scoreboard s.dev.launches).find? fun l => !(s.resumesWith l t).isEmpty && !l.stillRuns && (s.resumesWith l t).all s.mayResume with
  | none => .next s
  | some l => .next ((s.resumesWith l t).foldl (fun s v => s.restore v) s)

/-! ### Sealing (15 R324) -/

/-- One line folded into a digest. -/
def digestLine (d : Word) (line : Nat) : Word :=
  (rotl (d ^^^ BitVec.ofNat 64 (sHash (BitVec.ofNat 1024 line))) 19) * 0xA3C59E1B7D24F60D#64

/-- The digest of the lines of one output, from d on; the error is the abort reason. -/
def State.digestLines (s : State) (l : Launch) (o : OutEntry) (d : Word) (i : Nat) : Nat → Except (Nat × Met) Word
  | 0 => .ok d
  | n + 1 =>
    let sp : Space := if o.commons then .commons else .loc
    let va : Word := BitVec.ofNat 64 (o.addr + 128 * i)
    match s.ctlWhere l.tag l.id sp .read va 128 0 with
    | .error .eccUncorrected => .error (9, s.ctlMet l.tag sp va)
    | .error _ => .error (12, none)
    | .ok w => match s.ctlReadAt l.tag 0 w.tgt w.addr 128 with
      | .error .eccUncorrected => .error (9, some (w.tgt, w.addr))
      | .error _ => .error (12, none)
      | .ok v => s.digestLines l o (digestLine d v) (i + 1) n

/-- A launch's outputs. -/
def Launch.outs (l : Launch) : List OutEntry :=
  l.outputs.filterMap fun w => outputOf w

/-- The digest of a launch's outputs as they stand. -/
def State.digestOf (s : State) (l : Launch) : Except (Nat × Met) Word :=
  let lines := l.outs.foldl (fun n o => n + o.len / 128) 0
  match l.outs.foldl (fun r o => match r with
      | .error e => .error e
      | .ok d => s.digestLines l o d 0 (o.len / 128)) (Except.ok 0) with
  | .error e => .error e
  | .ok d => .ok (d ^^^ BitVec.ofNat 64 lines)

/-- Waves and holds of a launch that keep it from ending (01 R17). -/
def State.hasWaves (s : State) (id : Word) : Bool :=
  s.dev.tiles.toList.any (fun x => x.waves.any fun w => w.launch == id) || s.dev.portWaves.any fun w => w.2.launch == id

/-- LAUNCH_SEALING (15 R321, R324): after the last retirement the trace headers are written and the launch seals; then, when no wave of it
waits any longer (01 R17), the digest and the final record. -/
def execLaunchSealing (id : Word) (s : State) : EOut :=
  match s.launch? id with
  | none => .next s
  | some l =>
    if l.transfer then .next s
    else if l.state = .running && l.retired == l.tasks then
      (match s.traceHeaders id with
        | (s, true) => .next (s.moveLaunch id .sealing fun l => l)
        | (s, false) => .next (s.abort id 13))
    else if l.state = .sealing && !s.hasWaves id then
      (let s := s.bindTag l.tag
      match s.digestOf l with
        | .ok d => .next (s.endLaunch id .done 0 d)
        | .error (r, m) => .next ((s.logMet 0 l.tag id m).abort id r))
    else .next s

end Sys2Proof.Machine
end

