-- ==== Sys2Proof/Machine/Owl.lean ====
section
/-! DEFINITION. What a sequencer waits for, TOKEN_STALL (10 R232), the Owls (10 R240, R241) and the flow timeout (12 R282). -/

namespace Sys2Proof.Machine

/-- The instruction at a program counter of a sequencer, where it is one. -/
def State.instrAt (s : State) (t : TileId) (q : Sequencer) : Option Instr :=
  let n := match q with | .c => 16 | _ => 8
  match decodeBytes q (leBytes n (s.codeAt t q ((s.tileAt t).pcOf q) n)) with
  | .ok (i, _) => some i
  | .error _ => none

/-- The token queues an instruction pops and pushes, as codes (04 R75). -/
def State.tokensAt (s : State) (t : TileId) (q : Sequencer) : BitVec 3 × BitVec 3 :=
  let x := s.tileAt t
  match q with
  | .k => (match s.instrAt t .k with
    | some (.tkpush _ c) => (0, c)
    | some (.tkpop _ c) => (c, 0)
    | _ => (0, 0))
  | .c => (match x.cBundle (s.seqWord t .c x.c.pc) with
    | some b => (b.k.pop, b.k.push)
    | none => (0, 0))
  | q =>
    let f := LSF.ofWord ((s.seqWord t q (x.pcOf q)).extractLsb' 0 64)
    (match s.instrAt t q with
      | some _ => if x.lsBusy q [] [f.pred] || !x.pred q f.pred then (0, 0) else (f.pop, f.push)
      | none => (0, 0))

/-- Whether the instruction of a sequencer has reserved its pushes. -/
def Tile.resvOf (x : Tile) : Sequencer → Bool
  | .k => false
  | .l => x.l.resv
  | .c => x.c.resv
  | .s => x.s.resv

/-- A sequencer of a tile that executes: its task runs and it is neither ended nor stopped. -/
def State.executes (s : State) (t : TileId) (q : Sequencer) : Bool :=
  let x := s.tileAt t
  s.enginesRun t && !x.endedOf q && (x.stopOf q).isNone && !(q == .c && x.c.held.isSome)

/-- A cause stops a sequencer before its instruction, once it may stop: K takes it as a fault of its own. -/
def State.stopBefore (s : State) (t : TileId) (q : Sequencer) (c : Cause) : State :=
  match q with
  | .k => { (({ s with cur := t }).upd fun x => { x with k := { x.k with pend := none } }).kFault c 0 with cur := s.cur }
  | q => if (s.tileAt t).mayStop q then s.stopSeq t q c 0 false ((s.tileAt t).resvOf q) else s

/-- TOKEN_STALL (10 R232): the token wait of a sequencer can never end. -/
def execTokenStall (t : TileId) (q : Sequencer) (s : State) : EOut :=
  let x := s.tileAt t
  let w := s.tokensAt t q
  if s.executes t q && (q != .k || x.k.pend.isNone) && x.tokenStalled q (peersOf q w.1) (peersOf q w.2) (x.resvOf q) then
    .next (s.stopBefore t q .tokenStall)
  else .next s

/-! ### Waits (10 R241) -/

/-- What a sequencer waits for. -/
inductive Wait where
  | token | semaphore | event | barrier | channel | list | handshake
  deriving DecidableEq, Repr, Inhabited

/-- K's wait, of the kinds of 10 R241. -/
def State.kWaitOf (s : State) (t : TileId) : Option Wait :=
  let x := s.tileAt t
  match x.k.pend with
  | some (.subon _ _ _ _ _ _) => some .handshake
  | some (.suboff _ _ _) => some .handshake
  | some _ => none
  | none => match s.instrAt t .k with
    | some (.smwait a) =>
      let n := (x.kget a).setWidth 8
      if n != 0 && decide ((x.smGet n).toNat ≤ x.engineAhead n (x.k.since.getD s.dev.now)) then some .semaphore else none
    | some (.evpop _) => if x.evq.isEmpty then some .event else none
    | some (.tkpush _ c) => if x.canPush .k (peersOf .k c) then none else some .token
    | some (.tkpop _ c) => if x.canPop .k (peersOf .k c) then none else some .token
    | some (.barw _ a b) =>
      let ea := x.kget a
      if ea.toNat % 16 == 0 && decide (ea.toNat < spmSize) && (x.spm.bar ea.toNat).phase == bits (x.kget b) 11 0 then some .barrier else none
    | _ => none

/-- The wait of L, C or S, of the kinds of 10 R241. -/
def State.qWaitOf (s : State) (t : TileId) (q : Sequencer) : Option Wait :=
  let x := s.tileAt t
  let w := s.tokensAt t q
  let f := LSF.ofWord ((s.seqWord t q (x.pcOf q)).extractLsb' 0 64)
  let d := dieOf t
  if !x.canPop q (peersOf q w.1) || !(x.resvOf q || x.canPush q (peersOf q w.2)) then some .token
  else if q = .c || x.lsBusy q [] [f.pred] || !x.pred q f.pred then none
  else match s.instrAt t q with
    | some (.chrecv f) =>
      let h := rd x.chans (chanOf f)
      if h.receiver && h.received == h.consumed then some .channel else none
    | some (.chsend f) =>
      let h := rd x.chans (chanOf f)
      if h.sender && (h.free == 0 || h.fault) then some .channel else none
    | some (.wlpop f) => (match s.workList d x.launch (x.listOf .l f) with
      | some w =>
        let ends := ((s.launch? x.launch).map fun l => l.quiescent).getD false
        if !x.lsBusy .l (addrRegsOf f) [f.vreg.extractLsb' 0 3] && !ends &&
          decide (w.items.length ≤ s.listReqs d x.launch (x.listOf .l f) false) then some .list else none
      | none => none)
    | some (.wlapp f) => (match s.workList d x.launch (x.listOf .s f) with
      | some w =>
        if !x.lsBusy .s (addrRegsOf f) [] && decide (w.cap ≤ w.items.length + s.listReqs d x.launch (x.listOf .s f) true) then some .list else none
      | none => none)
    | _ => none

/-- The wait of a sequencer that executes. -/
def State.waitOf (s : State) (t : TileId) (q : Sequencer) : Option Wait :=
  if !s.executes t q then none
  else match q with
    | .k => s.kWaitOf t
    | q => s.qWaitOf t q

/-- L of a tile waits in WLPOP. -/
def State.inWlpop (s : State) (t : TileId) : Bool :=
  s.waitOf t .l == some .list && (match s.instrAt t .l with | some (.wlpop _) => true | _ => false)

/-! ### Quiescence (10 R240) -/

/-- A launch's tasks that the Owl watches: all of them, or the members of its group. -/
def Launch.owlSet (l : Launch) : List Nat :=
  if nbits l.word0 13 1 = 1 then List.range l.tasks else (l.group 0 (nbits l.word0 14 8)).members

/-- A WLAPP of a launch is stalled, or on its way to the unit. -/
def State.appending (s : State) (id : Word) : Bool :=
  (List.range 432).any fun i =>
    let t := tileOf i
    let x := s.tileAt t
    x.launch == id && x.task.isSome && (x.reqs.any (fun r => match r.kind with | .wlapp _ _ _ => true | _ => false) ||
      (s.waitOf t .s == some .list))

/-- Every list of a launch is empty. -/
def State.listsEmpty (s : State) (id : Word) : Bool :=
  s.dev.dies.toList.all fun d => d.lists.all fun w => w.launch != id || w.items.isEmpty

/-- The conditions under which the Owls declare a launch quiescent. -/
def State.quiet (s : State) (l : Launch) : Bool :=
  l.state == .running && !l.lists.isEmpty && !l.quiescent && s.listsEmpty l.id && !s.appending l.id &&
  l.owlSet.all fun i => match l.at_.find? fun a => a.1 == i with
    | some (_, .retired) => true
    | some (_, .running t) => (s.tileAt t).live && s.inWlpop t
    | _ => false

/-- After a turn, the launches for which the conditions hold, with the cycle since which they do; one for which they have held for 256 cycles is declared
quiescent (10 R240, log 130). -/
def State.keepQuiet (s : State) : State :=
  let now := (s.dev.launches.filter s.quiet).map fun l =>
    (l.id, ((s.dev.quietAt.find? fun p => p.1 == l.id).map fun p => p.2).getD s.dev.now)
  if now.isEmpty && s.dev.quietAt.isEmpty then s
  else
    let due := fun (p : Word × Nat) => decide (p.2 + 256 ≤ s.dev.now)
    s.updDev fun d => { d with
      quietAt := now.filter fun p => !due p
      launches := d.launches.map fun l => if now.any fun p => p.1 == l.id && due p then { l with quiescent := true } else l }

/-- Cycles that may pass before a launch is declared quiescent. -/
def State.quietRoom (s : State) (n : Nat) : Nat := s.dev.quietAt.foldl (fun n p => min n (p.2 + 256 - s.dev.now)) n

/-- OWL_QUIESCENCE (10 R240). -/
def execOwlQuiescence (id : Word) (s : State) : EOut :=
  match s.launch? id with
  | none => .next s
  | some l => if s.quiet l then .next (s.updLaunch id fun l => { l with quiescent := true }) else .next s

/-! ### The stall rule (10 R241) -/

/-- An entry reaches over the fabric: a forward to a device, a fabric copy, or a combine input elsewhere. -/
def fabricEntry (e : BitVec 512) (dev : BitVec 12) : Bool :=
  (432 ≤ feAt e) || (feOut e == 0 && fe e 4 63 62 != 0) || (feOut e == 1 && fe e 4 36 36 == 1) ||
  (feGate e == 1 && (List.range (feN e)).any fun i => !feStand e i && feInDev e i != dev.toNat)

/-- A context is fabric-reaching on this device. -/
def State.fabricReaching (s : State) (c : BitVec 12) : Bool :=
  (s.dev.launches.any fun l => l.tag == c && !l.transfer && !l.state.final && nbits l.word0 22 1 == 1) ||
  s.dev.dies.toList.any fun d => d.warren.any fun e =>
    fe e.w 0 38 27 == c.toNat && fabricEntry e.w s.devNum

/-- Whether an engine command of a tile is running or able to start. -/
def State.engineBusy (s : State) (t : TileId) : Bool :=
  let x := s.tileAt t
  queues.any fun q => match (x.cmds q).head? with
    | none => false
    | some c =>
      !c.posts.isEmpty || c.going || x.headReady q s.dev.now (s.smwaitOf t) ||
      (c.fault.isNone && (match c.body with
        | .prefetch _ _ => true
        | .join id mask _ => (List.range 7).all fun e => !mask.getLsbD e || joinAt (rd x.q e) id
        | _ => (match c.guard with | some g => !c.decided && rd x.gd g.toNat != .free | none => false)))

/-- The tiles that run tasks of a context. -/
def State.tilesOf (s : State) (c : BitVec 12) : List TileId :=
  ((List.range 432).map tileOf).filter fun t => (s.tileAt t).task.isSome && (s.tileAt t).ctx == c

/-- Nothing of a context can move by itself, and no launch of it is about to be declared quiescent (10 R240). -/
def State.stalled (s : State) (c : BitVec 12) : Bool :=
  let ts := s.tilesOf c
  !ts.isEmpty && !s.fabricReaching c && !(s.dev.launches.any fun l => l.tag == c && s.quiet l) &&
  (ts.all fun t =>
    let x := s.tileAt t
    s.enginesRun t && x.batch.isNone && x.reqs.isEmpty && x.orphans.isEmpty && !s.engineBusy t && x.killDue.isNone && x.c.held.isNone &&
    [Sequencer.k, .l, .c, .s].all fun q => x.endedOf q || (s.waitOf t q).isSome) &&
  !s.dev.net.any fun p => p.ctx == c

/-- A wave or hold cleared with its record (12 R282). -/
def State.waveRecord (s : State) (t : TileId) (w : Wave) (c : Cause) : State :=
  s.postTask t w.launch none (mkRecord
    (BitVec.ofNat 64 (c.code * 2 ^ 56 + w.flow.toNat * 2 ^ 32 + w.seq.toNat * 2 ^ 16 + w.base % 128)) kindFault 8 0 0)

/-- The tile of the Spoke to which a fabric port is attached (19 R379). -/
def portTile (p : Nat) : TileId := if p < 16 then tileOf (3 * p / 4 * 12) else tileOf (288 + 3 * (p - 16) / 4 * 12 + 11)

/-- The waves and holds of a context's launches cleared (12 R282). -/
def State.clearWaves (s : State) (c : BitVec 12) : State :=
  let mine := fun (w : Wave) => match s.launch? w.launch with | some l => l.tag == c | none => false
  let s1 := (List.range 432).foldl (fun s i =>
    let t := tileOf i
    ((s.tileAt t).waves.filter mine).foldl (fun s w => s.waveRecord t w .flowTimeout)
      (s.updAt t fun x => { x with waves := x.waves.filter fun w => !mine w })) s
  (s1.dev.portWaves.filter fun w => mine w.2).foldl (fun s w => s.waveRecord (portTile w.1) w.2 .flowTimeout)
    (s1.updDev fun d => { d with portWaves := d.portWaves.filter fun w => !mine w.2 })

/-- What the Owl does when the rule holds: quiescence, waves cleared, and every other waiting sequencer stopped. -/
def State.stallContext (s : State) (c : BitVec 12) : State :=
  let pops := (s.tilesOf c).filter s.inWlpop
  let waits := (s.tilesOf c).flatMap fun t => ([Sequencer.l, .c, .s, .k].filter fun q =>
    (s.waitOf t q).isSome && !(q == .l && pops.contains t)).map fun q => (t, q)
  let s := s.updDev fun d => { d with launches := d.launches.map fun l =>
    if l.tag == c && l.state == .running && !l.lists.isEmpty then { l with quiescent := true } else l }
  waits.foldl (fun s w => s.stopBefore w.1 w.2 .launchStall) (s.clearWaves c)

/-- OWL_STALL_RULE (10 R241): the rule begins to count, or, having held for 4,096 cycles, fires. -/
def execOwlStallRule (c : BitVec 12) (s : State) : EOut :=
  if !s.stalled c then .next (s.updDev fun d => { d with stall := d.stall.filter fun p => p.1 != c })
  else match s.dev.stall.find? fun p => p.1 == c with
    | none => .next (s.updDev fun d => { d with stall := (c, d.now) :: d.stall })
    | some p =>
      if p.2 + 4096 ≤ s.dev.now then
        .next ((s.updDev fun d => { d with stall := d.stall.filter fun p => p.1 != c }).stallContext c)
      else .next s

/-- After a turn, a context for which the rule no longer holds counts anew: the 4,096 cycles are consecutive. -/
def State.keepStalls (s : State) : State :=
  if s.dev.stall.isEmpty then s
  else s.updDev fun d => { d with stall := d.stall.filter fun p => s.stalled p.1 }

/-! ### The flow timeout (12 R282) -/

/-- The flow timeout of a launch; 2^27 cycles where it is unknown. -/
def State.timeoutOf (s : State) (id : Word) : Nat := match s.launch? id with | some l => l.flowTmo | none => 2 ^ 27

/-- FLOW_TIMEOUT (12 R282): the wave or hold whose first slot is given has waited too long at a Spoke or port. -/
def execFlowTimeout (place : BitVec 9) (slot : BitVec 7) (s : State) : EOut :=
  let due := fun (w : Wave) => w.base == slot.toNat && s.timeoutOf w.launch < s.dev.now - w.since
  match tileOf? place.toNat with
  | some t => (match (s.tileAt t).waves.find? due with
    | some w => .next (((s.updAt t fun x => { x with waves := x.waves.filter fun v => v != w }).forget 8 t.val (256 * w.base) (256 * w.flits)).waveRecord t w .flowTimeout)
    | none => .next s)
  | none =>
    let p := place.toNat - 432
    (match s.dev.portWaves.find? fun w => w.1 == p && due w.2 with
      | some w => .next (((s.updDev fun d => { d with portWaves := d.portWaves.filter fun v => v != w }).forget 8 place.toNat (256 * w.2.base) (256 * w.2.flits)).waveRecord
          (portTile p) w.2 .flowTimeout)
      | none => .next s)

/-- When a sequencer's present wait began. -/
def Tile.sinceOf (x : Tile) : Sequencer → Option Nat
  | .k => x.k.since
  | .l => x.l.since
  | .c => x.c.since
  | .s => x.s.since

/-- SEQUENCER_FLOW_TIMEOUT (12 R282): in a fabric-reaching context a wait of a sequencer, no reply wait of K, has lasted too long. -/
def execSequencerFlowTimeout (t : TileId) (q : Sequencer) (s : State) : EOut :=
  let x := s.tileAt t
  match s.waitOf t q, x.sinceOf q with
  | some w, some n =>
    if s.fabricReaching x.ctx && w != .handshake && decide (s.timeoutOf x.launch < s.dev.now - n) then
      .next (s.stopBefore t q .flowTimeout)
    else .next s
  | _, _ => .next s

end Sys2Proof.Machine
end

