-- ==== Sys2Proof/Machine/FlowNet.lean ====
section
/-! DEFINITION. Flow packets: matching, gates, outputs, delivery and the stray buffer (12 R268 to R281, 19 R379, R380, R384). -/

namespace Sys2Proof.Machine

/-! ### Headers (12 R268) -/

/-- The flow of a header. -/
def hdrFlow (h : Word) : BitVec 16 := h.extractLsb' 48 16
/-- The source tile. -/
def hdrTile (h : Word) : Nat := bits h 47 39
/-- The source device. -/
def hdrDev (h : Word) : BitVec 12 := h.extractLsb' 27 12
/-- The sequence. -/
def hdrSeq (h : Word) : BitVec 16 := h.extractLsb' 11 16
/-- The class. -/
def hdrClass (h : Word) : BitVec 2 := h.extractLsb' 9 2
/-- The length in flits. -/
def hdrFlits (h : Word) : Nat := bits h 8 7 + 1

/-- A packet of a number in the network. -/
def State.packet (s : State) (n : Nat) : Option Pkt := s.dev.net.find? fun p => p.stamp == n

/-- A packet taken from the network. -/
def State.dropPkt (s : State) (n : Nat) : State := s.updDev fun d => { d with net := d.net.filter fun p => p.stamp != n }

/-- The place of flow entries that a packet is matched by: a Spoke, or 432 + a port. -/
def placeNo : Place → Nat
  | .spoke t => t.val
  | .port p _ => 432 + p.val
  | .away _ _ _ => 512

/-- The tile whose Spoke a place belongs to (19 R379). -/
def placeTile (n : Nat) : TileId := if n < 432 then tileOf n else portTile (n - 432)

/-- The position of a tile in the torus. -/
def torusX (t : TileId) : Nat := t.val / 144 * 12 + t.val % 12
/-- Its row. -/
def torusY (t : TileId) : Nat := t.val % 144 / 12
/-- The tile at a position of the torus. -/
def torusTile (x y : Nat) : TileId := tileOf (x % 36 / 12 * 144 + y % 12 * 12 + x % 36 % 12)

/-- The neighbours of a Spoke: 1 N, 2 E, 3 S, 4 W (01 R10). -/
def neighbour (t : TileId) (dir : Nat) : TileId :=
  match dir with
  | 1 => torusTile (torusX t) (torusY t + 11)
  | 2 => torusTile (torusX t + 1) (torusY t)
  | 3 => torusTile (torusX t) (torusY t + 1)
  | _ => torusTile (torusX t + 35) (torusY t)

/-- The egress port of a Spoke (19 R379). -/
def egressPort (t : TileId) : Fin 32 :=
  let p := (4 * torusY t + 2) / 3
  ⟨(if torusX t < 18 then p else p + 16) % 32, Nat.mod_lt _ (by decide)⟩

/-- The input of a Spoke or port at which a packet stands: local for one its own tile injects, else the one its path leads to (12 R270, log 93). -/
def Pkt.input (p : Pkt) : Nat :=
  if p.own.isSome then 4 else (Config.spokeInput (placeNo p.at_) (bits p.hdr 63 27) (bits p.hdr 6 4)).val

/-- A packet waits behind one that has missed at its input; a packet of a higher class is served first (12 R274, R284). -/
def State.inputHeld (s : State) (p : Pkt) : Bool :=
  !p.miss && s.dev.net.any fun x => x.miss && placeNo x.at_ == placeNo p.at_ && x.stamp != p.stamp && x.input == p.input &&
    decide ((hdrClass p.hdr).toNat ≤ (hdrClass x.hdr).toNat)

/-- An earlier packet of the same flow and source stands before a packet at its place, or a miss at its input (12 R270, R274). -/
def State.behind (s : State) (p : Pkt) : Bool :=
  s.inputHeld p || s.dev.net.any fun x => x.stamp < p.stamp && (x.at_ == p.at_ || placeNo p.at_ < 512 && placeNo x.at_ == placeNo p.at_) && x.ctx == p.ctx && bits x.hdr 63 27 == bits p.hdr 63 27 &&
    bits x.hdr 6 4 == bits p.hdr 6 4

/-- A packet replaced where it stands. -/
def State.setPkt (s : State) (p : Pkt) : State := s.updDev fun d => { d with net := d.net.map fun x => if x.stamp == p.stamp then p else x }

/-! ### Matching (12 R271, R274) -/

/-- Whether an entry matches a packet at a place. -/
def FlowEntry.matches (e : FlowEntry) (p : Pkt) (place : Nat) : Bool :=
  feFlow e.w == hdrFlow p.hdr && feAt e.w == place && fe e.w 0 38 27 == p.ctx.toNat

/-- The match table of a place. -/
def State.table' (s : State) (place : Nat) : List FlowEntry :=
  if place < 432 then (s.tileAt (tileOf place)).matchT else s.dev.portT.filter fun e => feAt e.w == place

/-- The Warren's entry for a packet at a place, with its number (12 R274). -/
def State.warrenFind (s : State) (p : Pkt) (place : Nat) : Option (FlowEntry × Nat) :=
  (((s.dev.dies[dieOfPlace place]?.map fun d => d.warren).getD []).zipIdx).find? fun e => e.1.matches p place

/-- The Warren's entry for a packet at a place. -/
def State.warrenHas (s : State) (p : Pkt) (place : Nat) : Option FlowEntry := (s.warrenFind p place).map fun e => e.1

/-- Entry n of a die's Warren has lost data and must be reloaded (23 R412). -/
def State.warrenLost (s : State) (d n : Nat) : Bool := s.isLost 10 d (64 * n) 64

/-- An entry put first in a place's table of 64, least recently used last. -/
def State.touchTable (s : State) (place : Nat) (e : FlowEntry) : State :=
  if place < 432 then s.updAt (tileOf place) fun x => { x with matchT := (e :: x.matchT.filter fun y => y != e).take 64 }
  else s.updDev fun d =>
    let mine := (e :: d.portT.filter fun y => feAt y.w == place && y != e).take 64
    { d with portT := mine ++ d.portT.filter fun y => feAt y.w != place }

/-- WARREN_FETCH (12 R274): the entry that packet n waits for arrives. -/
def execWarrenFetch (n : Nat) (s : State) : EOut :=
  match s.packet n with
  | none => .next s
  | some p =>
    let place := placeNo p.at_
    if (s.table' place).any fun e => e.matches p place then .next s
    else match s.warrenFind p place with
      | none => .next s
      | some (e, i) => if s.warrenLost (dieOfPlace place) i then .next s else .next (s.touchTable place e)

/-! ### Unmatched packets (12 R281) -/

/-- The die of a place. -/
def placeDie (n : Nat) : DieId := ⟨dieOfPlace n % 3, Nat.mod_lt _ (by decide)⟩

/-- The egress port of the Spoke or port where a packet stands (19 R379). -/
def Place.exit : Place → Fin 32
  | .spoke t => egressPort t
  | .port q _ => q
  | .away _ _ (some q) => q
  | .away _ _ none => 0

/-- A record that is at an egress port leaves for a tile of another device once the port is up; a device that cannot be reached gets none (19 R384). -/
def State.recordLeaves (s : State) (p : Pkt) (d : BitVec 12) (t : BitVec 9) (port : Fin 32) : State :=
  if !(s.dev.ports[port]).up then s
  else if (s.remote? d).isSome then
    ((s.dropPkt p.stamp).noteSent (.flow (hdrFlow p.hdr) (hdrDev p.hdr) (p.hdr.extractLsb' 39 9) d)).updDev fun v =>
      { v with toFabric := v.toFabric ++ [{ p with at_ := .away d t none }] }
  else s.dropPkt p.stamp

/-- A record on its way over the fabric to the source of a packet: while its egress port is not up it waits there (23 R416); its flowlet key is the
packet's flow and source with the target (19 R381). -/
def State.recordAway (s : State) (p : Pkt) (r : BitVec 128) : State :=
  let q : Pkt := { p with body := .record r, own := none, miss := false, lcopy := false }
  let port := p.at_.exit
  if (s.dev.ports[port]).up then
    (s.noteSent (.flow (hdrFlow p.hdr) (hdrDev p.hdr) (p.hdr.extractLsb' 39 9) (hdrDev p.hdr))).updDev fun d =>
      { d with toFabric := d.toFabric ++ [{ q with at_ := .away (hdrDev p.hdr) (p.hdr.extractLsb' 39 9) none }] }
  else s.inject { q with at_ := .away (hdrDev p.hdr) (p.hdr.extractLsb' 39 9) (some port) }

/-- A FLOW_UNMATCHED record on its way to the source a header names: posted at a tile of this device, else sent over the fabric. -/
def State.unmatchedRecord (s : State) (p : Pkt) (engine sem : BitVec 8) (tag : BitVec 32) : State :=
  let r := mkRecord p.hdr kindUnmatched engine sem tag
  if hdrDev p.hdr = s.devNum then
    match tileOf? (hdrTile p.hdr) with
    | some t => s.postTask t p.launch p.task r
    | none => s
  else s.recordAway p r

/-- A packet at its first match whose record would find no room in its tile's event queue keeps its place in the send queue (06 R111). -/
def State.recordRoom (s : State) (p : Pkt) : Bool :=
  p.own.isNone || (s.tileAt (tileOf p.orig)).recordRoom

/-- A packet that nothing matches: to the stray buffer of 64, or dropped when it is full; its record is posted. A send unmatched at its
first match leaves its queue (07 R162, 06 R430); while its tile's event queue is full it stays where it is (06 R111). -/
def State.unmatched (s : State) (p : Pkt) (place : Nat) : State :=
  let s' := (s.dropPkt p.stamp).updDie (placeDie place) fun d => if d.stray.length < 64 then { d with stray := d.stray ++ [p] } else d
  match p.own with
  | some (sem, tag) =>
    if s.recordRoom p then (s'.unmatchedRecord p 5 sem tag).updAt (tileOf p.orig) fun x => x.popCmd .send
    else s
  | none => s'.unmatchedRecord p 8 0 0

/-! ### Lost network data (23 R412) -/

/-- A packet that a Spoke buffer has lost: dropped and logged. A unit of a packet is named by the packet's number; offset 0 is its
header. A flow packet whose header can be read posts an ENGINE_FAULT record to its source. -/
def State.losePacket (s : State) (p : Pkt) : Option State :=
  if !s.isLost 7 p.stamp 0 (2 ^ 16) then none
  else
    let header := s.isLost 7 p.stamp 0 8
    let place := match p.at_ with | .away _ _ _ => 432 + p.at_.exit.val | at_ => placeNo at_
    let s1 := (s.dropPkt p.stamp).forget 7 p.stamp 0 (2 ^ 16)
    let s1 := match p.body with
      | .slot ch sent _ => s1.updLaunch p.launch fun l => { l with slotsLost := (ch, sent) :: l.slotsLost }
      | _ => s1
    let s2 := s1.logOn (placeDie place) (mkLog p.hdr p.launch s1.clkrd Cause.eccUncorrected.code p.ctx place 7 2)
    match p.body, header with
    | .flow _, false =>
      let detail : Word := BitVec.ofNat 64 (Cause.eccUncorrected.code * 2 ^ 56 + (hdrFlow p.hdr).toNat * 2 ^ 32 + (hdrSeq p.hdr).toNat * 2 ^ 16 +
        bits p.hdr 10 4 * 2 ^ 4)
      let r := mkRecord detail kindFault 8 0 0
      if hdrDev p.hdr = s.devNum then
        (match tileOf? (hdrTile p.hdr) with
          | some t => some (s2.postTask t p.launch p.task r)
          | none => some s2)
      else some (s2.recordAway p r)
    | _, _ => some s2

/-! ### Combining (03 R48, 12 R275, R276) -/

/-- The lanes of w bytes of a list of bytes. -/
def lanesOf (w : Nat) (bs : List Byte) : List Nat := (List.range (bs.length / w)).map fun i => leNat ((bs.drop (w * i)).take w)

/-- The format of a type code of a flow entry; I32 has none. -/
def flowFmt (c : Nat) : FFmt := match c with | 1 => fBF16 | 2 => fF16 | _ => fF32

/-- The bytes of a lane. -/
def laneBytes (c : Nat) : Nat := if c = 1 ∨ c = 2 then 2 else 4

/-- One lane of I32 combined. -/
def combineInt (op : Nat) (xs : List Nat) : Nat :=
  match xs.map fun x => BitVec.ofNat 32 x with
  | [] => 0
  | a :: r => (r.foldl (fun a b => match op with
    | 0 => a + b
    | 1 => if a.slt b then b else a
    | _ => if b.slt a then b else a) a).toNat

/-- One lane combined in order. A lane with one F32 input that changes no type is that input; a BF16 or F16 lane is widened first (03 R48). -/
def combineLane (op itype otype : Nat) (xs : List Nat) : Nat :=
  if itype = 3 then combineInt op xs
  else match xs with
    | [] => 0
    | [a] => if itype = otype && itype != 1 && itype != 2 then a else (flowFmt otype).enc .rne ((flowFmt itype).val a)
    | a :: r =>
      let v := r.foldl (fun acc x =>
        let b := (flowFmt itype).val x
        match op with
        | 0 => fl (acc.add b)
        | 1 => acc.max b
        | _ => acc.min b) ((flowFmt itype).val a)
      (flowFmt otype).enc .rne v

/-- Lists of equal length turned from inputs by lane to lanes by input. -/
def transpose (n : Nat) (xs : List (List Nat)) : List (List Nat) := (List.range n).map fun i => xs.map fun x => x.getD i 0

/-- Lists cut into pieces of n. -/
def chunksOf {α : Type} (n : Nat) (l : List α) : List (List α) := (List.range (l.length / n)).map fun i => (l.drop (n * i)).take n

/-- The payload of a combined wave (12 R276). -/
def combineBytes (op itype otype : Nat) (ins : List (List Byte)) : List Byte :=
  let w := laneBytes itype
  let n := (ins.headD []).length / w
  let out := (transpose n (ins.map (lanesOf w))).map (combineLane op itype otype)
  let bytes := fun (l : List Nat) => l.flatMap fun x => leBytes (laneBytes otype) x
  if w = 4 ∧ laneBytes otype = 2 then (chunksOf 64 out).flatMap fun c => bytes c ++ List.replicate 128 0 else bytes out

/-- Flits of the output of a wave of L flits. -/
def outFlits (itype otype l : Nat) : Nat := if laneBytes itype = 2 ∧ laneBytes otype = 4 then 2 * l else l

/-- The bytes of n accumulator slots of a launch from a slot on; a slot not written reads zero (12 R276). -/
def Tile.slotBytes (x : Tile) (launch : Word) (a n : Nat) : List Byte :=
  (List.range n).flatMap fun i => match x.acc.find? fun z => z.n == a + i && z.launch == launch with
    | some z => z.data
    | none => List.replicate 256 0

/-- The waves and holds at a place. -/
def State.wavesAt (s : State) (place : Nat) : List Wave :=
  if place < 432 then (s.tileAt (tileOf place)).waves else (s.dev.portWaves.filter fun w => w.1 + 432 == place).map fun w => w.2

/-- The waves and holds at a place replaced. -/
def State.setWaves (s : State) (place : Nat) (ws : List Wave) : State :=
  if place < 432 then s.updAt (tileOf place) fun x => { x with waves := ws }
  else s.updDev fun d => { d with portWaves := (d.portWaves.filter fun w => w.1 + 432 != place) ++ ws.map fun w => (place - 432, w) }

/-! ### Outputs (12 R278 to R280) -/

/-- A packet sent on from a place to another. -/
def State.sendOn (s : State) (p : Pkt) (dst : Place) : State := s.inject { p with at_ := dst, own := none }

/-- Where a forward sends a packet from a place (12 R278, 19 R380). -/
def State.forwardTo (s : State) (e : BitVec 512) (place : Nat) : Place :=
  let dev : BitVec 12 := match fe e 4 63 62 with
    | 0 => s.devNum
    | 1 => BitVec.ofNat 12 (fe e 4 48 37)
    | _ => s.devNum ^^^ (1#12 <<< fe e 4 61 58)
  let tile : BitVec 9 := BitVec.ofNat 9 (fe e 4 57 49)
  if dev = s.devNum then .spoke (tileOf tile.toNat)
  else if place < 432 then .port (egressPort (tileOf place)) (some (dev, tile))
  else .away dev tile (some ⟨(place - 432) % 32, Nat.mod_lt _ (by decide)⟩)

/-- Runs of n bytes from a that cross no 32-byte boundary: offset and length. -/
def sectorRuns : Nat → Nat → Nat → List (Nat × Nat)
  | 0, _, _ => []
  | fuel + 1, a, n =>
    if n = 0 then []
    else
      let k := min n (32 - a % 32)
      (0, k) :: (sectorRuns fuel (a + k) (n - k)).map fun r => (r.1 + k, r.2)

/-- The first address at which a delivery to global memory faults, why, and where lost data is met. -/
def State.globalFault (s : State) (tag : BitVec 12) (va : Nat) : List (Nat × Nat) → Option (Cause × Word × Met)
  | [] => none
  | (o, n) :: r =>
    let a : Word := BitVec.ofNat 64 (va + o)
    match s.resolveCtl tag .loc .write a n tag with
    | .error c => some (c, a, some (.hbm, s.lostPte tag a))
    | .ok w => match s.writeAt 0 w.tgt w.addr n 0 with
      | .error c => some (c, a, some (w.tgt, w.addr))
      | .ok _ => s.globalFault tag va r

/-- A delivery to global memory written. -/
def State.globalWrite (s : State) (tag : BitVec 12) (va : Nat) (data : List Byte) (rs : List (Nat × Nat)) : State :=
  rs.foldl (fun s r => match s.resolveCtl tag .loc .write (BitVec.ofNat 64 (va + r.1)) r.2 tag with
    | .error _ => s
    | .ok w => match s.writeAt 0 w.tgt w.addr r.2 (leNat ((data.drop r.1).take r.2)) with
      | .ok s => s
      | .error _ => s) s

/-- What becomes of a packet at a delivery. -/
inductive Delivery where
  | done (s : State)
  | wait
  | unmatched

/-- After a delivery's payload: the barrier's bytes, then the signal (12 R280). -/
def State.deliverEnd (s : State) (t : TileId) (launch : Word) (h : Home) (e : BitVec 512) (n : Nat) : State :=
  let s := if fe e 5 49 49 = 1 then
      s.barMeet t launch h (fe e 5 48 27) [(.bytes (0 - BitVec.ofNat 64 n), t.val)]
    else s
  let sem : BitVec 8 := BitVec.ofNat 8 (fe e 5 57 50)
  if sem = 0 then s else s.updTask t h fun x => x.smSignal sem

/-- A packet is a send of a tile at its first match: the tile's send engine still has it (07 R162). -/
def Pkt.mine (p : Pkt) (t : TileId) : Bool := p.own.isSome && p.orig == t.val

/-- Deliver at a Spoke's tile (12 R280). mine: the delivery is that of the tile's own send, or of a wave or hold that the send completes; it lands
before the tile's engine stops (18 R370). -/
def State.deliver (s : State) (t : TileId) (launch : Word) (e : BitVec 512) (p : Pkt) (data : List Byte) (mine : Bool) : Delivery :=
  let h : Home := match s.taskHome t launch with
    | .held => if mine && (s.tileAt t).live then .live else .held
    | h => h
  let l := hdrFlits p.hdr
  let n := 256 * l
  let pos := (hdrSeq p.hdr).toNat % 2 ^ fe e 5 61 58
  let a := fe e 6 63 0 + pos * fe e 7 63 32
  match h with
  | .absent => .unmatched
  | .held => .wait
  | _ =>
    match fe e 5 63 62 with
    | 0 => if spmSize < a + n then .unmatched else .done ((s.spmArrive t h a n (leNat data)).deliverEnd t launch h e n)
    | 1 =>
      let va := a % 2 ^ 64
      let rs := sectorRuns 64 va n
      let s := s.bindTag p.ctx
      (match s.globalFault p.ctx va rs with
        | some (c, x, m) => .done ((s.failed t p.ctx launch c m).postTask t launch none (mkRecord (faultDetail c x) kindFault 8 0 0))
        | none => .done ((s.globalWrite p.ctx va data rs).deliverEnd t launch h e n))
    | _ =>
      let b := fe e 6 63 0 + pos * l
      if 128 < b + l then .unmatched
      else
        let slots : List AccSlot := (List.range l).map fun i => ⟨b + i, launch, (data.drop (256 * i)).take 256⟩
        .done (((s.forget 8 t.val (256 * b) (256 * l)).updAt t fun x => { x with
          acc := slots ++ x.acc.filter fun z => !(z.launch == launch && decide (b ≤ z.n) && decide (z.n < b + l)) }).deliverEnd t launch h e n)

/-- The output of an entry applied to a packet that has left the network (12 R278 to R280). A copy for the Spoke's tile that must wait stays at the
Spoke; the other copies proceed. -/
def State.output (s : State) (place : Nat) (e : FlowEntry) (p : Pkt) (data : List Byte) (mine : Bool) : Delivery :=
  let place' := placeTile place
  if p.lcopy then s.deliver place' e.launch e.w p data mine
  else match feOut e.w with
    | 0 => .done (s.sendOn p (s.forwardTo e.w place))
    | 1 =>
      let copies := fe e.w 4 36 31
      let s1 := [1, 2, 3, 4].foldl (fun s d => if nbits copies d 1 = 1 then s.sendOn p (.spoke (neighbour place' d)) else s) s
      let s2 := if nbits copies 5 1 = 1 then s1.sendOn p (.port ⟨fe e.w 4 30 26 % 32, Nat.mod_lt _ (by decide)⟩ none) else s1
      if nbits copies 0 1 = 1 then
        (match s2.deliver place' e.launch e.w p data mine with
          | .unmatched => if s2.recordRoom p then .done (s2.unmatched p place) else .wait
          | .wait => .done (s2.updDev fun d => { d with net := d.net ++ [{ p with body := .flow data, at_ := .spoke place', own := none, lcopy := true }] })
          | d => d)
      else .done s2
    | _ => s.deliver place' e.launch e.w p data mine

/-! ### Gates (12 R275, R277) -/

/-- The payload of a flow packet. -/
def Pkt.data (p : Pkt) : List Byte := match p.body with | .flow d => d | _ => []

/-- A packet's outcome made the state's: unmatched, done, or left where it is. -/
def State.settle (s : State) (p : Pkt) (place : Nat) (d : Delivery) : State :=
  match d with
  | .done s => s
  | .wait => s
  | .unmatched => s.unmatched p place

/-- The input of a combine entry that a packet is. -/
def inputOf (e : BitVec 512) (h : Word) : Option Nat :=
  (List.range (feN e)).find? fun i => !feStand e i && feInDev e i == (hdrDev h).toNat && feInTile e i == hdrTile h

/-- A packet of L flits fits no wave of an entry (12 R275). -/
def noWave (e : BitVec 512) (l : Nat) : Bool :=
  feCount e < l || 4 < outFlits (fe e 1 60 59) (fe e 1 58 57) l ||
  (List.range (feN e)).any fun i => feStand e i && decide (128 < feInTile e i + l)

/-- The packet of a complete wave (12 R276). No barrier packet waits for it: its clock is after every instruction's. -/
def State.combined (s : State) (place : Nat) (e : FlowEntry) (w : Wave) (p : Pkt) : Pkt × List Byte :=
  let x := s.tileAt (placeTile place)
  let ins := (List.range (feN e.w)).map fun i =>
    if feStand e.w i then x.slotBytes e.launch (feInTile e.w i) w.flits
    else match w.arrived.find? fun a => a.input == i with
      | some a => a.data
      | none => []
  let first := ((List.range (feN e.w)).find? fun i => !feStand e.w i).getD 0
  let cls := match w.arrived.find? fun a => a.input == first with | some a => hdrClass a.hdr | none => 0
  let data := combineBytes (fe e.w 1 63 61) (fe e.w 1 60 59) (fe e.w 1 58 57) ins
  let l := outFlits (fe e.w 1 60 59) (fe e.w 1 58 57) w.flits
  ({ p with
     hdr := mkHeader (feFlow e.w) (tileBits (placeTile place)) s.devNum w.seq cls (BitVec.ofNat 2 (l - 1)) 0
     launch := e.launch, body := .flow data, orig := (placeTile place).val, own := none, task := none, lcopy := false
     clk := ⟨0, 0, 0, 2 ^ 64⟩ }, data)

/-- The slots in which a wave's packets wait are lost (23 R412). -/
def State.waveLost (s : State) (place : Nat) (w : Wave) : Bool := s.isLost 8 place (256 * w.base) (256 * w.flits)

/-- The first lost slot of a standing input that a complete wave reads (23 R412). -/
def State.standLost (s : State) (place : Nat) (e : FlowEntry) (w : Wave) : Option Nat :=
  (List.range (feN e.w)).findSome? fun i =>
    if feStand e.w i && s.isLost 8 (placeTile place).val (256 * feInTile e.w i) (256 * w.flits) then some (feInTile e.w i) else none

/-- A wave or hold that has met a lost slot cleared, as the flow timeout clears one but with cause ECC_UNCORRECTED. -/
def State.loseWave (s : State) (place : Nat) (w : Wave) (slot : Nat) : State :=
  let tag := ((s.launch? w.launch).map fun l => l.tag).getD 0
  let s := s.logOn (placeDie place) (mkLog (BitVec.ofNat 64 (256 * slot)) w.launch s.clkrd Cause.eccUncorrected.code tag place 8 2)
  (s.forget 8 place (256 * w.base) (256 * w.flits)).waveRecord (placeTile place) w .eccUncorrected

/-- A packet at a combine gate: unmatched, waiting, held, or completing its wave (12 R275). -/
def State.combineGate (s : State) (place : Nat) (e : FlowEntry) (p : Pkt) : State :=
  let l := hdrFlits p.hdr
  let sq := hdrSeq p.hdr
  match inputOf e.w p.hdr with
  | none => s.unmatched p place
  | some i =>
    if noWave e.w l then s.unmatched p place
    else
      let ws := s.wavesAt place
      let mine := fun (w : Wave) => !w.hold && w.launch == e.launch && w.flow == feFlow e.w && w.seq == sq
      let b := feBase e.w + sq.toNat % (feCount e.w / l) * l
      let old := ws.find? mine
      if (match old with | some w => w.flits != l | none => false) then s.unmatched p place
      else if (match old with | some w => w.arrived.any fun a => a.input == i | none => ws.any fun w => w.meets b l) then s
      else
        let me : Arrived := ⟨i, p.hdr, p.data, p.orig, p.clk, p.task, p.stamp⟩
        let rest := ws.filter fun x => !mine x
        let s1 := s.dropPkt p.stamp
        let lost := match old with | some w => s.waveLost place w | none => false
        let s1 := if old.isNone then s1.forget 8 place (256 * b) (256 * l) else s1
        let w : Wave := match old with
          | some w => { w with arrived := w.arrived ++ [me] }
          | none => ⟨e.launch, feFlow e.w, sq, false, b, l, hdrClass p.hdr, [me], s.dev.now⟩
        if lost then (s1.setWaves place rest).loseWave place w w.base
        else if (List.range (feN e.w)).all fun j => feStand e.w j || w.arrived.any fun a => a.input == j then
          match s.standLost place e w with
          | some slot => (s1.setWaves place rest).loseWave place w slot
          | none =>
            let r := s.combined place e w p
            match (s1.setWaves place rest).output place e r.1 r.2 (p.mine (placeTile place)) with
            | .done s => s
            | .wait => s
            | .unmatched => (s1.setWaves place rest).unmatched r.1 place
        else s1.setWaves place (rest ++ [w])

/-- Whether packet a of a hold is released before packet b: source device, source tile, sequence (12 R277). -/
def heldBefore (a b : Word) : Bool :=
  let k := fun (h : Word) => (hdrDev h).toNat * 2 ^ 25 + hdrTile h * 2 ^ 16 + (hdrSeq h).toNat
  k a ≤ k b

/-- An element put in its place among the packets of a hold. -/
def insertHeld (x : Arrived) : List Arrived → List Arrived
  | [] => [x]
  | y :: r => if heldBefore x.hdr y.hdr then x :: y :: r else y :: insertHeld x r

/-- The packets of a hold released one after another to the entry's output, each as the tile and the task that injected it sent it. -/
def State.release' (s : State) (place : Nat) (e : FlowEntry) (p : Pkt) : List Arrived → Option State
  | [] => some s
  | a :: r =>
    let q : Pkt := { p with hdr := a.hdr, body := .flow a.data, own := none, orig := a.orig, clk := a.clk, task := a.task, stamp := a.stamp }
    match s.output place e q a.data (p.mine (placeTile place)) with
    | .wait => none
    | .done s => s.release' place e p r
    | .unmatched => (s.unmatched q place).release' place e p r

/-- A packet at a hold gate (12 R277). A count field of 0 means 64 (log 51). The hold keeps the sequence of its first packet, which the FLOW_TIMEOUT
record of a hold that is cleared carries (log 119). -/
def State.holdGate (s : State) (place : Nat) (e : FlowEntry) (p : Pkt) : State :=
  let l := hdrFlits p.hdr
  let ws := s.wavesAt place
  let mine := fun (w : Wave) => w.hold && w.launch == e.launch && w.flow == feFlow e.w
  let w0 : Wave := (ws.find? mine).getD ⟨e.launch, feFlow e.w, hdrSeq p.hdr, true, feBase e.w, 0, hdrClass p.hdr, [], s.dev.now⟩
  let rest := ws.filter fun x => !mine x
  let count := if fe e.w 1 53 48 = 0 then 64 else fe e.w 1 53 48
  if feCount e.w < w0.flits + l || rest.any (fun x => x.meets (w0.base + w0.flits) l) then s
  else
    let w : Wave := { w0 with flits := w0.flits + l, arrived := w0.arrived ++ [⟨0, p.hdr, p.data, p.orig, p.clk, p.task, p.stamp⟩] }
    let lost := decide (0 < w0.flits) && s.waveLost place w0
    let s1 := (s.dropPkt p.stamp).forget 8 place (256 * (w0.base + w0.flits)) (256 * l)
    if lost then (s1.setWaves place rest).loseWave place w w.base
    else if w.arrived.length < count then s1.setWaves place (rest ++ [w])
    else ((s1.setWaves place rest).release' place e p (w.arrived.foldr insertHeld [])).getD s

/-! ### Arrival -/

/-- A matched packet at a place. -/
def State.matched (s : State) (place : Nat) (e : FlowEntry) (p : Pkt) : State :=
  let p : Pkt := { p with miss := false }
  let s := (s.setPkt p).touchTable place e
  match (if p.lcopy then 0 else feGate e.w) with
  | 0 => (match (s.dropPkt p.stamp).output place e p p.data (p.mine (placeTile place)) with
    | .done s => s
    | .wait => s
    | .unmatched => s.unmatched p place)
  | 1 => s.combineGate place e p
  | _ => s.holdGate place e p

/-- A device that can be reached: present, with a port of this device up (19 R384). -/
def State.reaches (s : State) (d : BitVec 12) : Bool := (s.remote? d).isSome

/-- A packet that leaves this device: over the fabric, or, with no such device, dropped with its record; while its
egress port is not up it waits (19 R379, 23 R416). -/
def State.leave (s : State) (p : Pkt) (d : BitVec 12) (port : Option (Fin 32)) : State :=
  if !(match port with | some q => (s.dev.ports[q]).up | none => s.dev.ports.toList.any fun l => l.up) then s
  else if s.reaches d then
    ((s.dropPkt p.stamp).noteSent (.flow (hdrFlow p.hdr) (hdrDev p.hdr) (p.hdr.extractLsb' 39 9) d)).updDev fun v =>
      { v with toFabric := v.toFabric ++ [p] }
  else (s.dropPkt p.stamp).unmatchedRecord p 8 0 0

/-- FLOW_PACKET_ARRIVAL (12 R271, R274, 19 R380): packet n, of kind 0, is matched where it is. -/
def execFlowPacketArrival (n : Nat) (s : State) : EOut :=
  match s.packet n with
  | none => .next s
  | some p => match p.body with
    | .flow _ =>
      if s.behind p then .next s
      else match s.losePacket p with
      | some s => .next s
      | none => match p.at_ with
        | .away d _ port => .next (s.leave p d port)
        | at_ =>
          let place := placeNo at_
          (match (s.table' place).find? fun e => e.matches p place with
            | some e => .next (s.matched place e p)
            | none =>
              if (s.warrenHas p place).isSome then .next (s.setPkt { p with miss := true })
              else match at_ with
                | .port q (some (d, t)) =>
                  .next ((s.dropPkt n).sendOn p (if d = s.devNum then .spoke (tileOf t.toNat) else .away d t (some q)))
                | _ => .next (s.unmatched p place))
    | _ => .next s

/-- FLOW_UNMATCHED_RECORD_RETURN (12 R281): a record that came back over the fabric is posted at its source tile. -/
def execFlowUnmatchedRecordReturn (n : Nat) (s : State) : EOut :=
  match s.packet n with
  | none => .next s
  | some p => match p.body, p.at_ with
    | .record r, .spoke t =>
      if s.inputHeld p then .next s
      else (match s.losePacket p with
        | some s => .next s
        | none => .next ((s.dropPkt n).postTask t p.launch p.task r))
    | .record _, .away d t (some q) => .next (s.recordLeaves p d t q)
    | _, _ => .next s

/-! ### Barrier packets (06 R117 to R119) -/

/-- A barrier packet may be applied: nothing its tile sent before it is still on the way (11 R264). -/
def State.barrierClear (s : State) (p : Pkt) : Bool :=
  !(s.dev.net.any fun x => x.orig == p.orig && x.stamp != p.stamp && (match x.body with
    | .flow _ => x.clk.before .s p.clk
    | .update _ _ _ _ => decide (x.stamp < p.stamp)
    | .flagadd _ _ => decide (x.stamp < p.stamp) && x.at_ == p.at_
    | .flagset _ => decide (x.stamp < p.stamp) && x.at_ == p.at_
    | _ => false)) &&
  !((s.dev.tiles.toList.flatMap fun x => x.waves) ++ s.dev.portWaves.map fun w => w.2).any fun w =>
    w.hold && w.arrived.any fun a => a.orig == p.orig && a.clk.before .s p.clk

/-- The barrier object and update of a packet. -/
def Pkt.barUpd (p : Pkt) : Option (Nat × BarUpd) :=
  match p.body with
  | .flagadd a n => some (a, .arrive n)
  | .flagset a => some (a, .flag)
  | _ => none

/-- Packets whose target runs no task of their launch: discarded, each with a record to its sender (06 R118). -/
def State.barAbsent (s : State) (ps : List Pkt) : State :=
  ps.foldl (fun s p => match p.barUpd with
    | some (a, _) => (s.dropPkt p.stamp).postTask (tileOf p.orig) p.launch p.task (mkRecord (overrunDetail p.orig a) kindOverrun 8 0 0)
    | none => s) s

/-- The packets of one launch that reach a tile in one cycle, object by object. -/
def State.barPackets (s : State) (t : TileId) (launch : Word) (ps : List Pkt) : State :=
  match s.taskHome t launch with
  | .held => s
  | .absent => s.barAbsent ps
  | h =>
    let us := ps.filterMap fun p => p.barUpd.map fun u => (u.1, u.2, p.orig)
    let s := ps.foldl (fun s p => s.dropPkt p.stamp) s
    ((us.map fun u => u.1).eraseDups).foldl (fun s a =>
      s.barMeet t launch h a ((us.filter fun u => u.1 == a).map fun u => u.2)) s

/-- BARRIER_UPDATE (06 R117): barrier packets reach tile t in one cycle. With more set the tile's barrier updates of the cycle, of every kind, wait
together until the event without it, or the cycle's end. -/
def execBarrierUpdate (t : TileId) (us : Updates) (s : State) : EOut :=
  let mine := s.dev.net.filter fun p => us.packets.contains p.stamp && p.at_ == .spoke t && p.barUpd.isSome && !s.inputHeld p
  let s := mine.foldl (fun s p => (s.losePacket p).getD s) s
  let ps := mine.filter fun p => s.dev.net.contains p && s.barrierClear p
  let s := if us.more && (s.tileAt t).live then s.updAt t fun x => { x with barOpen := some (x.barOpen.getD false) } else s
  let s := ((ps.map fun p => p.launch).eraseDups).foldl (fun s l => s.barPackets t l (ps.filter fun p => p.launch == l)) s
  .next (if us.more then s else s.barFlush t)

end Sys2Proof.Machine
end

