-- ==== Sys2Proof/Machine/ChanNet.lean ====
section
/-! DEFINITION. Channel packets and audits (12 R287 to R289) and forwarded updates (12 R292 to R294). -/

namespace Sys2Proof.Machine

/-- An earlier packet of the same kind, source, launch and target (12 R270). -/
def State.behindKind (s : State) (p : Pkt) : Bool :=
  s.dev.net.any fun x => x.stamp < p.stamp && x.at_ == p.at_ && x.launch == p.launch && x.orig == p.orig && bits x.hdr 6 4 == bits p.hdr 6 4

/-- The tile a packet is bound for. -/
def Pkt.spoke? (p : Pkt) : Option TileId := match p.at_ with | .spoke t => some t | _ => none

/-- A packet of a channel: its declaration, its tile and where the tile's task of the launch is; none while it must wait. -/
def State.chanAt (s : State) (p : Pkt) (ch : Nat) : Option (Launch × ChanDecl × TileId × Home) :=
  if s.behindKind p || s.inputHeld p then none
  else match s.chanDecl p.launch ch, p.spoke? with
    | some (l, k), some t =>
      let h := s.chanHome t p.launch
      if h = .held then none else some (l, k, t, h)
    | _, _ => none

/-- CHANNEL_SLOT_ARRIVAL (12 R288): the slot is written in the ring, then received counts it. -/
def execChannelSlotArrival (n : Nat) (s : State) : EOut :=
  match s.packet n with
  | none => .next s
  | some p => match s.losePacket p with
    | some s => .next s
    | none => match p.body with
    | .slot ch sent data => (match s.chanAt p ch with
      | none => .next s
      | some (_, k, t, h) =>
        let s := (s.dropPkt n).spmArrive t h (k.ring + k.bytes * (sent.toNat % k.slots)) k.bytes (leNat data)
        .next (s.updTask t h fun x =>
          let c := rd x.chans ch
          let c' : Chan := { c with received := c.received + 1 }
          { x with chans := wr x.chans ch c' }))
    | _ => .next s

/-- The channel's fault condition, with its record to the sender (12 R289, 06 R110). -/
def State.chFault (s : State) (t : TileId) (h : Home) (launch : Word) (ch : Nat) (consumed : BitVec 32) : State :=
  if (rd (s.taskTile t h).chans ch).fault then s
  else
    let s := s.updTask t h fun x => { x with chans := wr x.chans ch { rd x.chans ch with fault := true } }
    s.postTask t launch none (mkRecord (BitVec.ofNat 64 (consumed.toNat * 2 ^ 32 + ch)) kindChFault 8 0 0)

/-- A consumed count applied at the sender if it is newer; a free count above n is a fault (12 R288, R289). -/
def State.applyReturn (s : State) (t : TileId) (h : Home) (launch : Word) (k : ChanDecl) (c : BitVec 32) : State :=
  let x := rd (s.taskTile t h).chans k.id
  let d := (c - x.last).toNat
  if s.isLost 13 t.val (8 * k.id) 8 then ((s.logLost t launch 0 13 (8 * k.id)).forget 13 t.val (8 * k.id) 8).chFault t h launch k.id c
  else if d = 0 ∨ 2 ^ 31 ≤ d then s
  else
    let free := BitVec.ofNat 32 k.slots - (x.sent - c)
    let s := s.updTask t h fun y =>
      let z := rd y.chans k.id
      let z' : Chan := { z with free := free, last := c }
      { y with chans := wr y.chans k.id z' }
    if k.slots < free.toNat then s.chFault t h launch k.id c else s

/-- CHANNEL_RETURN_ARRIVAL (12 R288). -/
def execChannelReturnArrival (n : Nat) (s : State) : EOut :=
  match s.packet n with
  | none => .next s
  | some p => match s.losePacket p with
    | some s => .next s
    | none => match p.body with
    | .ret ch c => (match s.chanAt p ch with
      | none => .next s
      | some (_, k, t, h) => .next ((s.dropPkt n).applyReturn t h p.launch k c))
    | _ => .next s

/-- A task's tile that executes (12 R289). -/
def State.auditDue (s : State) (t : TileId) (since : Option Nat) : Bool :=
  s.enginesRun t && (match since with | some n => decide (n + 4096 ≤ s.dev.now) | none => false)

/-- SENDER_AUDIT (12 R289): a CHSEND stalled for 4,096 cycles asks the receiver; its stall counts anew. -/
def execSenderAudit (t : TileId) (c : BitVec 6) (s : State) : EOut :=
  let x := s.tileAt t
  let h := rd x.chans c.toNat
  match s.chanDecl x.launch c.toNat with
  | none => .next s
  | some (l, k) => match l.tileOfTask k.dst with
    | none => .next s
    | some u =>
      if h.sender && h.free == 0 && s.auditDue t h.stallS then
        let h' : Chan := { h with stallS := some s.dev.now }
        .next ((s.sendTo t u 2 (h.sent.setWidth 16) 2 (.auditSender c.toNat) x.s.clk).updAt t fun x => { x with chans := wr x.chans c.toNat h' })
      else .next s

/-- RECEIVER_AUDIT (12 R289): a CHRECV stalled for 4,096 cycles asks the sender. -/
def execReceiverAudit (t : TileId) (c : BitVec 6) (s : State) : EOut :=
  let x := s.tileAt t
  let h := rd x.chans c.toNat
  match s.chanDecl x.launch c.toNat with
  | none => .next s
  | some (l, k) => match l.tileOfTask k.src with
    | none => .next s
    | some u =>
      if h.receiver && h.received == h.consumed && s.auditDue t h.stallR then
        let h' : Chan := { h with stallR := some s.dev.now }
        .next ((s.sendTo t u 2 (h.consumed.setWidth 16) 2 (.auditReceiver c.toNat) x.l.clk).updAt t fun x =>
          { x with chans := wr x.chans c.toNat h' })
      else .next s

/-- A packet of a channel's audit sent by a tile's hardware. -/
def State.auditSend (s : State) (l : Launch) (src dst : TileId) (seq : BitVec 16) (body : PktBody) : State :=
  s.inject { hdr := mkHeader 0 (tileBits src) s.devNum seq 2 0 2, ctx := l.tag, launch := l.id, body := body, at_ := .spoke dst
             orig := src.val, own := none, task := none, miss := false, lcopy := false, stamp := 0, clk := Clk.zero }

/-- A lost slot found by an audit: received is below sent and no slot is in flight (12 R289). -/
def State.auditLost (s : State) (l : Launch) (k : ChanDecl) : State :=
  match l.tileOfTask k.src, l.tileOfTask k.dst with
  | some t, some u =>
    let hs := s.chanHome t l.id
    let hr := s.chanHome u l.id
    let sent := (rd (s.taskTile t hs).chans k.id).sent
    let y := rd (s.taskTile u hr).chans k.id
    if hs = .absent || hr = .absent || s.slotsInFlight l.id k.id || sent == y.received then s
    else s.chFault t hs l.id k.id y.consumed
  | _, _ => s

/-- The sender's Spoke holds what an audit finds until its image is written (18 R371). -/
def State.senderHeld (s : State) (l : Launch) (k : ChanDecl) : Bool :=
  match l.tileOfTask k.src with | some t => s.chanHome t l.id == .held | none => false

/-- AUDIT_REPLY (12 R289): an audit packet arrives: a request is answered, a reply applied. -/
def execAuditReply (n : Nat) (s : State) : EOut :=
  match s.packet n with
  | none => .next s
  | some p => match s.losePacket p with
    | some s => .next s
    | none => match p.body with
    | .auditSender ch => (match s.chanAt p ch with
      | none => .next s
      | some (l, _, t, h) =>
        let c := rd (s.taskTile t h).chans ch
        .next ((s.dropPkt n).auditSend l t (tileOf p.orig) (c.consumed.setWidth 16) (.auditReplyS ch c.consumed c.received)))
    | .auditReceiver ch => (match s.chanAt p ch with
      | none => .next s
      | some (l, _, t, h) =>
        let c := rd (s.taskTile t h).chans ch
        .next ((s.dropPkt n).auditSend l t (tileOf p.orig) (c.sent.setWidth 16) (.auditReplyR ch c.sent)))
    | .auditReplyS ch c _ => (match s.chanAt p ch with
      | none => .next s
      | some (l, k, t, h) => .next (((s.dropPkt n).applyReturn t h p.launch k c).auditLost l k))
    | .auditReplyR ch _ => (match s.chanAt p ch with
      | none => .next s
      | some (l, k, _, _) => if s.senderHeld l k then .next s else .next ((s.dropPkt n).auditLost l k))
    | _ => .next s

/-! ### Subscriptions (12 R292 to R294) -/

/-- SUBSCRIPTION_BATCH_CLOSE (12 R292): 16 cycles after its first write a batch closes. -/
def execSubscriptionBatchClose (t : TileId) (s : State) : EOut :=
  match (s.tileAt t).batch with
  | some b => if b.since + 16 ≤ s.dev.now then .next (s.closeBatch t) else .next s
  | none => .next s

/-- The written bytes of an update, unit by unit: a write that covers a lost unit only in part leaves it (23 R409). -/
def State.updateBytes (s : State) (t : TileId) (h : Home) (addr : Nat) (mask : BitVec 32) (data : Nat) : State :=
  (List.range 4).foldl (fun s i =>
    let m := nbits mask.toNat (8 * i) 8
    let a := addr + 8 * i
    if m = 255 then s.spmArrive t h a 8 (nbits data (64 * i) 64)
    else if m = 0 || s.spmLost t h a 8 then s
    else s.updTask t h fun x => { x with spm := x.spm.writeMask a m 8 (nbits data (64 * i) 64) }) s

/-- An open subscriber entry of a tile takes updates of a publisher's tile for an address. -/
def Tile.subscribes (x : Tile) (pub addr : Nat) : Bool :=
  x.subs.toList.any fun e => e.opened && e.peer == pub && e.subBase ≤ addr && addr + 32 ≤ e.subBase + e.size

/-- FORWARDED_UPDATE (12 R293): one write of the masked bytes, at the tile or in its saved image; an entry already closed discards it
(01 R17). -/
def execForwardedUpdate (n : Nat) (s : State) : EOut :=
  match s.packet n with
  | none => .next s
  | some p => match s.losePacket p with
    | some s => .next s
    | none => match p.body, p.spoke? with
    | .update _ addr mask data, some t =>
      if s.behindKind p || s.inputHeld p then .next s
      else match s.taskHome t p.launch with
        | .held => .next s
        | .absent => .next (s.dropPkt n)
        | h =>
          if (s.taskTile t h).subscribes p.orig addr then .next ((s.dropPkt n).updateBytes t h addr mask data)
          else .next (s.dropPkt n)
    | _, _ => .next s

end Sys2Proof.Machine
end

