-- ==== Sys2Proof/Machine/MemNet.lean ====
section
/-! DEFINITION. Memory requests in the network (11 R254, 19 R383), their failures (23 R410, R415), eviction (12 R285), combining (12 R295 to
R297, 23 R414) and release walks (17 R349). -/

namespace Sys2Proof.Machine

/-! ### Requests in flight (07 R138, 11 R254) -/

/-- A request of a tile by its number. -/
def Tile.req? (x : Tile) (n : Nat) : Option Req := x.reqs.find? fun r => r.id == n

/-- An accepted posted piece performs at its owner, unless something holds it or the owner refuses it (11 R262, 19 R383). -/
def State.landPosted (s : State) (t : TileId) (r : Req) (i : Nat) : State :=
  match r.pieces[i]? with
  | none => s
  | some p =>
    if p.done || !r.posts p || (s.tileAt t).blocked r [i] i || !s.linkReady p.tgt p.addr || !s.postedOk t p then s
    else match s.writeAt t p.tgt p.addr p.size p.val with
      | .ok s => s.updAt t fun x => (x.mark r.q (r.clk.at r.q)).closePiece r i
      | .error _ => s

/-- MEMORY_REQUEST (11 R254): piece i of request n of tile t; of a send on a channel, the oldest of its channel (07 R163). -/
def execMemoryRequest (t : TileId) (n : Nat) (piece : Nat) (s : State) : EOut :=
  match (s.tileAt t).req? n with
  | some r => match r.kind, r.pieces[piece]? with
    | .chsend c _, _ => .next (s.chanSend t c)
    | _, some p => if r.posts p then .next (s.landPosted t r piece) else .next (s.tryPiece t n piece)
    | _, none => .next (s.tryPiece t n piece)
  | none => .next s

/-! ### Posted writes (11 R262, 19 R383) -/

/-- The posted write of a number that an engine has sent: its queue, where its command still heads one, and the write. -/
def Tile.posterOf (x : Tile) (n : Nat) : Option (Option Queue × Post) :=
  (queues.findSome? fun q => match (x.cmds q).head? with
    | some c => (c.posts.find? fun p => p.id == n).map fun p => (some q, p)
    | none => none).or ((x.orphans.find? fun p => p.id == n).map fun p => (none, p))

/-- An earlier posted write of the tile goes to the same line (11 R262, 19 R382). -/
def Tile.postBehind (x : Tile) (n : Nat) (p : Piece) : Bool :=
  x.engineHolds n p || x.reqs.any fun r => decide (r.id < n) && r.pieces.any fun y => !y.done && r.posts y && y.oneLine p

/-- A tile with one engine's posted write less. -/
def Tile.unpost (x : Tile) (q : Option Queue) (n : Nat) : Tile :=
  match q with
  | none => { x with orphans := x.orphans.filter fun p => p.id != n }
  | some q => match (x.cmds q).head? with
    | some c => x.setHead q { c with posts := c.posts.filter fun p => p.id != n }
    | none => x

/-- An engine's posted write n is refused or lost: an engine fault of its command, where that is not discarded (19 R383, 18 R367). -/
def Tile.postFailed (x : Tile) (q : Option Queue) (n : Nat) (c : Cause) (va : Word) : Tile :=
  match q with
  | none => x.unpost none n
  | some q => (x.unpost (some q) n).engineFault q c va

/-- POSTED_WRITE_ACK (19 R383): what is left of posted write n of tile t performs at its owner, and the acknowledgement arrives. -/
def execPostedWriteAck (t : TileId) (n : Nat) (s : State) : EOut :=
  let x := s.tileAt t
  match x.req? n with
  | some r => .next ((List.range r.pieces.length).foldl (fun s i => match (s.tileAt t).req? n with
    | some r => s.landPosted t r i
    | none => s) s)
  | none => match x.posterOf n with
    | some (q, p) =>
      if s.postedOk t p.piece && s.linkReady p.piece.tgt p.piece.addr && !x.postBehind n p.piece then
        (match s.writeAt t p.piece.tgt p.piece.addr p.piece.size p.piece.val with
          | .ok s => .next (s.updAt t fun x => x.unpost q n)
          | .error _ => .next s)
      else .next s
    | none => .next s

/-- Why its owner refuses a posted piece: its access tables, or lost data that the piece would cover in part (19 R383, 23 R409). -/
def State.postedBad (s : State) (t : TileId) (p : Piece) : Option Cause :=
  if !s.linkReady p.tgt p.addr then none
  else if !s.postedOk t p then some .accessDenied
  else match s.writeAt t p.tgt p.addr p.size p.val with
    | .error c => some c
    | .ok _ => none

/-- POSTED_WRITE_REFUSAL (19 R383): the owner refuses posted write n of tile t. -/
def execPostedWriteRefusal (t : TileId) (n : Nat) (s : State) : EOut :=
  let x := s.tileAt t
  match x.req? n with
  | some r => (match r.pieces.zipIdx.findSome? fun p =>
        if !p.1.done && r.posts p.1 && !x.blocked r [p.2] p.2 then (s.postedBad t p.1).map fun c => (c, p.1.va, p.2) else none with
    | some (c, va, i) => .next (s.updAt t fun x => ({ x with refused := x.refused ++ [(c, va)] }).closePiece r i)
    | none => .next s)
  | none => match x.posterOf n with
    | some (q, p) => (match s.postedBad t p.piece with
      | some c => if x.postBehind n p.piece then .next s else .next (s.updAt t fun x => x.postFailed q n c p.piece.va)
      | none => .next s)
    | none => .next s

/-! ### Timeouts (23 R415) -/

/-- What a request that has timed out leaves where the outcome is that it performed: its open pieces performed, but those that something still holds
back (19 R382, R383). -/
def State.timedOut (s : State) (t : TileId) (r : Req) : State :=
  let load := match r.kind with | .load _ => true | _ => false
  if load || !Config.timedOutPerformed r.id then s
  else ((List.range r.pieces.length).foldl (fun (a : Req × State) i => match a.1.pieces[i]? with
    | some p =>
      if p.done || (a.2.tileAt t).blocked a.1 [] i || !a.2.linkReady p.tgt p.addr || !a.2.postedOk t p then a
      else (match a.2.perform t a.1 i with | .ok b => b | .error _ => a)
    | none => a) (r, s)).2

/-- What K's instruction does to memory where it can complete now; K's own state is left out. -/
def State.kEffect (s : State) (t : TileId) : State :=
  let x := s.tileAt t
  let s' : State := { s with cur := t, defer := false }
  let r : Out := match s.instrAt t .k with
    | some (.kstm a b imm) => execKstm a b imm s'
    | some (.kstl a b imm) => execKstl a b imm s'
    | some (.kstf a b imm) => execKstf a b imm s'
    | some (.ksth a b imm) => execKsth a b imm s'
    | some (.katm d a b op) => execKatm d a b op s'
    | some (.katl d a b op) => execKatl d a b op s'
    | some (.katf d a b op) => execKatf d a b op s'
    | some (.sinc d a) => execSinc d a s'
    | some (.srel d a) => execSrel d a s'
    | some (.sroot d a b) => execSroot d a b s'
    | _ => .next s'
  match r with
  | .next y =>
    if (y.tileAt t).k.clk = x.k.clk then s
    else { (y.updAt t fun z => { z with k := x.k, kill := x.kill, lstall := x.lstall, tvec := x.tvec }) with cur := s.cur, defer := s.defer }
  | _ => s

/-- What K's request that has timed out leaves: a store, atomic or Sett operation performs where the outcome is that it did (23 R415). -/
def State.kTimedOut (s : State) (t : TileId) : State := if Config.timedOutPerformed s.dev.nextId then s.kEffect t else s

/-- A request that has timed out is logged before its error reaches the consumer (23 R421, log 102). -/
def State.logTimeout (s : State) (t : TileId) (va : Word) : State :=
  let x := s.tileAt t
  s.logOn (dieOf t) (mkLog va x.launch s.clkrd Cause.eccUncorrected.code x.ctx t.val 15 2)

/-- K's reply wait has timed out and ends with the cause (06 R98), whether or not its tile is being stopped. -/
def State.kTimeout (s : State) (t : TileId) : State :=
  let x := s.tileAt t
  match x.k.pend, x.k.since with
  | some (.chresync _ _), _ => s
  | some p, some w =>
    if decide (w + 2 ^ 25 ≤ s.dev.now) && x.kill.isNone then
      let a : Word := match p with | .access ea => ea | _ => 0
      { (({ (s.kTimedOut t).logTimeout t a with cur := t }).kFault .eccUncorrected a) with cur := s.cur }
    else s
  | _, _ => s

/-- An access of sequencer q's word that waits at a link has timed out. -/
def State.seqTimeout (s : State) (t : TileId) (q : Sequencer) : State :=
  let x := s.tileAt t
  match (x.ls q).sent with
  | some (w, a) => if decide (w + 2 ^ 25 ≤ s.dev.now) && x.mayStop q then (s.logTimeout t a).stopSeq t q .eccUncorrected a false (x.ls q).resv else s
  | none => s

/-- An access of the head of an engine queue has timed out. -/
def State.engineTimeout (s : State) (t : TileId) (q : Queue) : State :=
  match ((s.tileAt t).cmds q).head? with
  | some c => (match c.net with
    | some (w, a) =>
      if decide (w + 2 ^ 25 ≤ s.dev.now) then
        (s.logTimeout t a).updAt t fun x => (x.setHead q { c with net := none, evicted := none }).engineFault q .eccUncorrected a
      else s
    | none => s)
  | none => s

/-- A request of L or S has timed out: of a posted write the next SYS-scope release says it (19 R383); one that can no longer fail performs, its response
having come before (log 28). -/
def State.reqTimeout (s : State) (t : TileId) (r : Req) : State :=
  match r.pieces.find? fun p => !p.done with
  | none => s
  | some p =>
    if s.dev.now < r.since + 2 ^ 25 then s
    else if r.finished then
      (if r.posted then ((s.timedOut t r).logTimeout t p.va).updAt t fun x => { x with
          reqs := x.reqs.filter fun y => y.id != r.id
          refused := x.refused ++ [(.eccUncorrected, p.va)] }
       else s)
    else if (s.tileAt t).sure r then s.tryAll t r.id r.pieces.length
    else if (s.tileAt t).mayFail r then ((s.timedOut t r).logTimeout t p.va).rewind t r .eccUncorrected p.va
    else s

/-- REQUEST_TIMEOUT (23 R415): a request of tile t has had no response for 2^25 cycles. -/
def execRequestTimeout (t : TileId) (src : Source) (s : State) : EOut :=
  let x := s.tileAt t
  match src with
  | .request n => (match x.req? n with
    | some r => .next (s.reqTimeout t r)
    | none => match x.posterOf n with
      | some (q, p) =>
        if s.dev.now < p.since + 2 ^ 25 then .next s
        else
          let s := if Config.timedOutPerformed n && s.postedOk t p.piece && s.linkReady p.piece.tgt p.piece.addr && !x.postBehind n p.piece then
            (match s.writeAt t p.piece.tgt p.piece.addr p.piece.size p.piece.val with | .ok s => s | .error _ => s) else s
          .next ((s.logTimeout t p.piece.va).updAt t fun x => x.postFailed q n .eccUncorrected p.piece.va)
      | none => .next s)
  | .sequencer .k => .next (s.kTimeout t)
  | .sequencer .c => .next s
  | .sequencer q => .next (s.seqTimeout t q)
  | .engine q => .next (s.engineTimeout t q)

/-! ### Eviction (12 R285) -/

/-- A request of class 0 that can be dropped from a buffer: one of the gather unit with an element in the network (12 R284, R285). -/
def Req.evictable (r : Req) : Bool :=
  r.evicted.isNone && (r.kind == .store || (match r.kind with | .load _ => true | _ => false)) &&
  r.pieces.any fun p => !p.done && decide (p.size < 32) && p.tgt != .spm

/-- The head of an engine queue has a request of class 0 that can be dropped: the copy engine, MDLD and SCOUT (12 R284). -/
def Cmd.evictable (c : Cmd) : Bool :=
  c.evicted.isNone && c.started && c.fault.isNone && (match c.body with
    | .copy d => !c.copied d
    | .copy2 d => !c.copied d
    | .mdld d => !c.copied d
    | .scout _ _ len depth _ => decide (c.unit < scoutLeaves len depth)
    | _ => false)

/-- CLASS3_EVICTION (12 R285): a class-0 request is dropped from a full buffer. -/
def execClass3Eviction (x : SourceAt) (s : State) : EOut :=
  let t := x.tile
  let now := s.dev.now
  match x.src with
  | .request n => .next (s.updAt t fun x => { x with reqs := x.reqs.map fun r =>
      if r.id = n && r.evictable then { r with evicted := some now } else r })
  | .sequencer _ => .next s
  | .engine q => match ((s.tileAt t).cmds q).head? with
    | some c =>
      if c.evictable then .next (s.updAt t fun x => x.setHead q { c with evicted := some now, net := some (c.net.getD (now, 0)) }) else .next s
    | none => .next s

/-- REQUEST_RESEND (12 R285): 64 cycles later the source sends it again. -/
def execRequestResend (x : SourceAt) (s : State) : EOut :=
  let t := x.tile
  let due := fun (e : Option Nat) => match e with | some c => decide (c + 64 ≤ s.dev.now) | none => false
  match x.src with
  | .request n => match (s.tileAt t).req? n with
    | none => .next s
    | some r =>
      if due r.evicted then
        .next ((r.pieces.filter fun p => !p.done).foldl (fun s p => s.noteRequest t p.tgt)
          (s.updAt t fun x => { x with reqs := putReq x.reqs { r with evicted := none, resent := true } }))
      else .next s
  | .sequencer _ => .next s
  | .engine q => match ((s.tileAt t).cmds q).head? with
    | some c => if due c.evicted then .next (s.updAt t fun x => x.setHead q { c with evicted := none }) else .next s
    | none => .next s

/-! ### Combining (12 R295, R296) -/

/-- A combining point's number: a tile, or 432 and more for a panel port. -/
def combPlace : CombAt → Nat
  | .spoke t _ => t.val
  | .panel p _ _ => 432 + p

/-- The rank of a request among those of one cycle (12 R296, 19 R387). -/
def combRank : CombAt → Nat
  | .spoke _ p => p.val
  | .panel _ d f => d.toNat * 32 + f.val

/-- A request that may combine: a FACC of a tile to a far-atomic page, or a sent record. -/
structure FaccAt where
  src : FaccSrc
  tgt : Target
  addr : Nat
  wide : Bool
  inc : Word
  deriving DecidableEq, Repr, Inhabited

/-- The FACC request of a number in the network: of a tile, with nothing that holds it, or of a record that has been sent. -/
def State.faccOf (s : State) (n : Nat) : Option FaccAt :=
  match s.dev.combs.find? fun c => c.id == n && c.sent && !c.joined with
  | some c => some ⟨.rec_ n, c.tgt, c.addr, c.wide, c.sum⟩
  | none => ((List.range 432).findSome? fun i =>
      let x := s.tileAt (tileOf i)
      match x.req? n with
      | some r => (match r.kind, r.pieces with
        | .facc _ wide inc _, [p] => if p.fa && !p.done && !r.joined && r.failed.isNone && !x.blocked r [0] 0 then some ⟨.req (tileOf i) n, p.tgt, p.addr, wide, inc⟩ else none
        | _, _ => none)
      | none => none)

/-- A sum of increments in a width. -/
def addInc (wide : Bool) (a b : Word) : Word := if wide then a + b else ((a + b).setWidth 32).zeroExtend 64

/-- A member put in its serial place: by cycle of arrival, then rank. -/
def insertMember (m : FaccSrc × Word × Nat × Nat) : List (FaccSrc × Word × Nat × Nat) → List (FaccSrc × Word × Nat × Nat)
  | [] => [m]
  | y :: r => if m.2.2.1 < y.2.2.1 || (m.2.2.1 == y.2.2.1 && m.2.2.2 < y.2.2.2) then m :: y :: r else y :: insertMember m r

/-- A request marked as a member of a record. -/
def State.markJoined (s : State) (x : FaccSrc) : State :=
  match x with
  | .req t id => s.updAt t fun y => match y.req? id with
    | some r => { y.mark r.q (r.clk.at r.q) with reqs := putReq y.reqs { r with joined := true } }
    | none => y
  | .far _ _ => s
  | .rec_ id => s.updDev fun d => { d with combs := d.combs.map fun c => if c.id = id then { c with joined := true } else c }

/-- A request at a combining point: it joins an open record of its word, or opens one where a record is free (12 R295). -/
def State.combine (s : State) (f : FaccAt) (at_ : CombAt) : State :=
  let place := combPlace at_
  let m := (f.src, f.inc, s.dev.now, combRank at_)
  let here := s.dev.combs.filter fun c => c.place == place
  match here.find? fun c => !c.sent && c.tgt == f.tgt && c.addr == f.addr && c.wide == f.wide && decide (c.members.length < 16) &&
      decide (s.dev.now < c.opened + 64) with
  | some c =>
    (s.updDev fun d => { d with combs := d.combs.map fun x =>
      if x.id = c.id then { x with sum := addInc x.wide x.sum f.inc, members := insertMember m x.members } else x }).markJoined f.src
  | none =>
    if 32 ≤ here.length then s
    else
      let (id, s) := s.fresh
      let c : CombRec := ⟨id, place, f.tgt, f.addr, f.wide, addInc f.wide 0 f.inc, [m], s.dev.now, false, false, false⟩
      (s.updDev fun d => { d with combs := d.combs ++ [c] }).markJoined f.src

/-- A request of this device can be at a combining point: at a panel port, which it reaches from one of this device's fabric ports, of which one is up,
only when it goes to another device (19 R384, R387). -/
def State.combHere (s : State) (at_ : CombAt) (tgt : Target) : Bool :=
  match at_, tgt with
  | .panel _ d _, .remote _ => d == s.devNum && s.dev.ports.toList.any fun l => l.up
  | .panel _ _ _, _ => false
  | _, _ => true

/-- FACC_REQUEST_ARRIVAL (12 R295): request n at a combining point joins an open record of its word, opens one, or passes. -/
def execFaccRequestArrival (n : Nat) (at_ : CombAt) (s : State) : EOut :=
  match s.faccOf n with
  | none => .next s
  | some f => if s.combHere at_ f.tgt then .next (s.combine f at_) else .next s

/-- COMBINING_WINDOW_END (12 R295): 64 cycles after its opening, or with 16 members, a record sends one request with the sum; over the fabric that
takes the path of the key of its Spoke's tile (19 R381, log 25). -/
def execCombiningWindowEnd (n : Nat) (s : State) : EOut :=
  match s.dev.combs.find? fun c => c.id == n && !c.sent && (decide (c.opened + 64 ≤ s.dev.now) || decide (16 ≤ c.members.length)) with
  | none => .next s
  | some c =>
    let s := if c.place < 432 then s.noteRequest (tileOf c.place) c.tgt else s
    .next (s.updDev fun d => { d with combs := d.combs.map fun x => if x.id = n then { x with sent := true } else x })

/-- The old value a requester receives; lost: it is the base value of a record whose requesters are lost (07 R169). A requester that names
no status predicate then stops its sequencer, in its turn. -/
def State.answerReq (s : State) (t : TileId) (id : Nat) (v : Word) (lost : Bool) : State :=
  match (s.tileAt t).req? id with
  | none => s
  | some r => match r.kind, r.pieces with
    | .facc d wide _ pd, [p] =>
      let n := if wide then 8 else 4
      if !lost then
        let p' : Piece := { p with done := true, val := v.toNat % 2 ^ (8 * n) }
        let r' : Req := { r with pieces := [p'], joined := false }
        s.updAt t fun x => ({ x with reqs := putReq x.reqs r' }).finishAll
      else if pd ≠ 0 then
        s.updAt t fun x =>
          ({ (x.setResult r d (signExt n v.toNat) pd false) with reqs := x.reqs.filter fun y => y.id != id }).pushReserved r.q
            (peersOf r.q r.push) (v.setWidth 32) r.clk
      else s.failNow t r .faddIndeterminate (signExt n v.toNat)
    | _, _ => s

/-- An answer to another device's tile on the response plane (19 R381); it waits while every port of this device is down (19 R384, log 129). -/
def State.answerFar (s : State) (dev : BitVec 12) (tile : BitVec 9) (r : FarReply) : State :=
  if s.dev.ports.toList.any fun l => l.up then
    (s.noteSent (.response s.devNum tile dev)).updDev fun d => { d with farReplies := d.farReplies ++ [r] }
  else s.updDev fun d => { d with farWait := d.farWait ++ [r] }

/-- The device and tile that an answer goes to. -/
def FarReply.to : FarReply → BitVec 12 × BitVec 9
  | .data d t _ => (d, t)
  | .refused d t _ => (d, t)
  | .indeterminate d t _ => (d, t)

/-- The answers that wait at the egress ports leave. -/
def State.answerAll (s : State) : State :=
  s.dev.farWait.foldl (fun s r => s.answerFar r.to.1 r.to.2 r) (s.updDev fun d => { d with farWait := [] })

/-- A reply split among a record's requesters in serial order; nested records split their share in turn (12 R296, R297). -/
def State.splitReply (s : State) (c : CombRec) (v : Word) (lost : Bool) : Nat → State
  | 0 => s
  | fuel + 1 =>
    let lost := lost || c.lost
    (c.members.foldl (fun (a : State × Word) m =>
      let base := if lost then v else a.2
      let s := match m.1 with
        | .req t id => a.1.answerReq t id base lost
        | .far dev tile => a.1.answerFar dev tile
            (if lost then .indeterminate dev tile base else .data dev tile (leBytes (if c.wide then 8 else 4) base.toNat))
        | .rec_ id => (match a.1.dev.combs.find? fun x => x.id == id with
          | some x => (a.1.splitReply x base lost fuel).updDev fun d => { d with combs := d.combs.filter fun y => y.id != id }
          | none => a.1)
      (s, addInc c.wide a.2 m.2.1)) (s, v)).1

/-- The tiles and requests of a record, nested records' included. -/
def State.leavesOf (s : State) (c : CombRec) : Nat → List (TileId × Nat)
  | 0 => []
  | fuel + 1 => c.members.flatMap fun m => match m.1 with
    | .req t id => [(t, id)]
    | .far _ _ => []
    | .rec_ id => (match s.dev.combs.find? fun x => x.id == id with
      | some x => s.leavesOf x fuel
      | none => [])

/-- A record and the records in it freed; members at other devices get the error. -/
def State.freeRecords (s : State) (c : CombRec) : Nat → State
  | 0 => s
  | fuel + 1 =>
    let s := s.updDev fun d => { d with combs := d.combs.filter fun y => y.id != c.id }
    c.members.foldl (fun s m => match m.1 with
      | .req _ _ => s
      | .far dev tile => s.answerFar dev tile (.refused dev tile .eccUncorrected)
      | .rec_ id => (match s.dev.combs.find? fun x => x.id == id with
        | some x => s.freeRecords x fuel
        | none => s)) s

/-- Every requester of a record fails with ECC_UNCORRECTED, precise at L (23 R410, R414). -/
def State.failMembers (s : State) (c : CombRec) : State :=
  let n := s.dev.combs.length + 1
  ((s.leavesOf c n).foldl (fun s m => match (s.tileAt m.1).req? m.2 with
    | some r => (match r.pieces.head? with
      | some p => s.failNow m.1 { r with joined := false } .eccUncorrected p.va
      | none => s)
    | none => s) s).freeRecords c n

/-- The first tile of a record's requesters. -/
def State.combTile (s : State) (c : CombRec) : TileId := (((s.leavesOf c (s.dev.combs.length + 1)).head?).map fun p => p.1).getD 0

/-- COMBINING_REPLY (12 R296): a sent record's one addition performs, and its reply is split. -/
def execCombiningReply (n : Nat) (s : State) : EOut :=
  match s.dev.combs.find? fun c => c.id == n && c.sent && !c.joined with
  | none => .next s
  | some c =>
    let t := s.combTile c
    let w := if c.wide then 8 else 4
    let depth := s.dev.combs.length + 1
    if !s.linkReady c.tgt c.addr then .next s
    else match s.readAt t Clk.zero c.tgt c.addr w with
      | .error e => .next ((s.consumed t e (some (c.tgt, c.addr))).failMembers c)
      | .ok old => match s.writeAt t c.tgt c.addr w (atomNew (if c.wide then 8 else 0) old c.sum.toNat 0) with
        | .error _ => .next s
        | .ok s1 =>
          .next ((s1.splitReply c (BitVec.ofNat 64 old) false depth).updDev fun d => { d with combs := d.combs.filter fun y => y.id != n })

/-- COMBINING_RECORD_LOST (23 R414): the requester list is lost, or both copies of the sum before the request leaves. -/
def execCombiningRecordLost (n : Nat) (what : RecordLoss) (s : State) : EOut :=
  match s.dev.combs.find? fun c => c.id == n with
  | none => .next s
  | some c =>
    let s1 := s.logOn (placeDie c.place) (mkLog (BitVec.ofNat 64 c.addr) 0 s.clkrd Cause.eccUncorrected.code 0 c.place 9 2)
    match what with
    | .list => .next (s1.updDev fun d => { d with combs := d.combs.map fun x => if x.id = n then { x with lost := true, sent := true } else x })
    | .sum => if !c.sent then .next (s1.failMembers c) else .next s

/-! ### Release walks (17 R349) -/

/-- RELEASE_WALK (17 R349): one step of walk n. -/
def execReleaseWalk (n : Nat) (s : State) : EOut :=
  match s.dev.walks[n]? with
  | none => .next s
  | some (tag, st) =>
    let r := s.walkStep tag st
    if r.2.isEmpty then .next (r.1.updDev fun d => { d with walks := d.walks.eraseIdx n })
    else .next (r.1.updDev fun d => { d with walks := d.walks.set n (tag, r.2) })

end Sys2Proof.Machine
end

