-- ==== Sys2Proof/Machine/Protect.lean ====
section
/-! DEFINITION. The control window (15 R307, 16 R330 to R341, 17 R344, 18 R369, 19 R378): writes of its registers. -/

namespace Sys2Proof.Machine

/-- The device answers at its control window: it is in state READY (24 R423). -/
def State.isReady (s : State) : Bool := s.dev.mgmt.state == 6

/-! ### Queue registers (15 R307) -/

/-- A queue after a write of v to a register with so many bits in use: a write of one to a reserved bit sets ERR and has no other effect
(15 R307, 00 R6). Bits that a register's table neither names nor calls reserved are the model's choice: reserved in TSLICE [63:32] (log 113). -/
def CmdQueue.written (z : CmdQueue) (v : Word) (used : Nat) (z' : CmdQueue) : CmdQueue :=
  if v.toNat / 2 ^ used = 0 then z' else { z with err := true }

/-- QCTL written with a one in a reserved bit. -/
def State.badQctl (s : State) (q : Nat) : State := s.updQueue q fun z => { z with err := true }

/-- The priority of a queue and of its commands in the scoreboard (15 R318). -/
def State.setPrio (s : State) (q : Nat) (p : BitVec 2) : State :=
  (s.updQueue q fun z => { z with prio := p }).updDev fun d => { d with launches := d.launches.map fun l =>
    if l.queue = q then { l with prio := p.toNat } else l }

/-- n bytes at a physical address of local or host memory zeroed under tag 0x000; units wholly covered are lost no longer. -/
def State.physClear (s : State) (p : Word) (n : Nat) : State :=
  if !s.physOk p n .write then s
  else if bit p 63 then s.updDev fun d => { d with host := d.host.clear (bits p 47 0) n, hostLost := outRanges d.hostLost (bits p 47 0) n }
  else
    let a := bits p 39 0
    (((s.updDev fun d => { d with hbm := d.hbm.clear a n }).heal 6 0 a n).heal 14 0 a n).recall a n

/-- The record ring of a queue zeroed when the queue is first enabled in a session (01 R14, log 98). -/
def State.openRing (s : State) (q : Nat) : State :=
  let z := rd s.dev.queues q
  if z.ringUsed then s else (s.physClear z.recBase (256 * 128)).updQueue q fun z => { z with ringUsed := true }

/-- QCTL written with EN = 1: a queue whose EN was 0 clears ERR and loads QHEAD from word 1 of the tail line, where the
command cores may read it (log 64); a tail that does not fit it sets ERR (15 R307, R308). -/
def State.enableQueue (s : State) (q : Nat) (v : Word) : State :=
  if v.toNat / 16 ≠ 0 then s.badQctl q
  else
    let s := s.setPrio q (v.extractLsb' 2 2)
    if (rd s.dev.queues q).en then s
    else
      let s := s.openRing q
      let z := rd s.dev.queues q
      let z' := { z with en := true, head := if s.physOk (z.tailA + 8) 8 .read then BitVec.ofNat 64 (s.physRead (z.tailA + 8) 8) else z.head }
      s.updQueue q fun _ => { z' with err := tailBad z' (s.tailOf z) }

/-- QCTL written with EN = 0: acceptance stops. -/
def State.disableQueue (s : State) (q : Nat) (v : Word) : State :=
  if v.toNat / 16 ≠ 0 then s.badQctl q
  else (s.setPrio q (v.extractLsb' 2 2)).updQueue q fun z => { z with en := false }

/-- QCTL written. -/
def State.writeQctl (s : State) (q : Nat) (v : Word) : State := if bit v 0 then s.enableQueue q v else s.disableQueue q v

/-- QUEUE_ENABLE (15 R307). -/
def execQueueEnable (q : QueueId) (v : Word) (s : State) : EOut :=
  .next (if s.isReady && bit v 0 then s.enableQueue q.val v else s)

/-- QUEUE_DISABLE (15 R307). -/
def execQueueDisable (q : QueueId) (v : Word) (s : State) : EOut :=
  .next (if s.isReady && !bit v 0 then s.disableQueue q.val v else s)

/-- SEED written: it affects launches accepted afterwards, but none of the same cycle (15 R315). -/
def State.writeSeed (s : State) (q : Nat) (v : Word) : State :=
  s.updQueue q fun z => { z with seed := v, seedWas := some (s.dev.now, asRead s.dev.now z.seedWas z.seed) }

/-- SEED_WRITE (15 R315). -/
def execSeedWrite (q : QueueId) (v : Word) (s : State) : EOut := .next (if s.isReady then s.writeSeed q.val v else s)

/-- CTRBASE written, after every acceptance of the cycle (15 R315). -/
def State.writeCtrbase (s : State) (q : Nat) (v : Word) : State :=
  s.updQueue q fun z => { z with ctrBase := v, baseWas := some (s.dev.now, asRead s.dev.now z.baseWas z.ctrBase) }

/-- CTRBASE_WRITE (15 R315): a write in an acceptance's cycle is applied after it. -/
def execCtrbaseWrite (q : QueueId) (v : Word) (s : State) : EOut := .next (if s.isReady then s.writeCtrbase q.val v else s)

/-- A queue register at an offset written. Those of EN = 0 ignore a write while EN is 1; a one in a reserved bit of QCTX sets ERR then too (log 114).
QBASE, QCAP, QTAILA and RECBASE keep a value outside their limits as it is written (log 115). -/
def State.writeQueueReg (s : State) (q off : Nat) (v : Word) : State :=
  let free := fun (f : CmdQueue → CmdQueue) => s.updQueue q fun z => if z.en then z else f z
  match off with
  | 0x00 => s.writeQctl q v
  | 0x08 => s.updQueue q fun z => z.written v 12 (if z.en then z else { z with ctx := v.setWidth 12 })
  | 0x10 => free fun z => { z with base := v }
  | 0x18 => free fun z => { z with cap := v }
  | 0x20 => free fun z => { z with tailA := v }
  | 0x28 => free fun z => { z with recBase := v }
  | 0x30 => s.updQueue q fun z => z.written v 32 { z with tslice := v.setWidth 32 }
  | 0x38 => s.writeSeed q v
  | 0x40 => s.writeCtrbase q v
  | _ => s

/-! ### Shoot-down (16 R337) -/

/-- SDCTL written: tag and ALL; GO starts a shoot-down while none is in progress. A one in a reserved bit: the write has no effect (00 R6, log 70). -/
def State.writeSdctl (s : State) (v : Word) : State :=
  if v.toNat / 2 ^ 15 ≠ 0 then s
  else s.updDev fun d =>
    let d' : Device := { d with sdctl := v.setWidth 13 }
    if bit v 13 && d.shoot.isNone then { d' with shoot := some ⟨v.setWidth 12, bit v 12, d.sdva.toNat, d.sdlen.toNat⟩ } else d'

/-- SHOOT_DOWN (16 R337): SDCTL written with GO. -/
def execShootDown (v : Word) (s : State) : EOut := .next (if s.isReady then s.writeSdctl v else s)

/-- A shoot-down covers an address range of a tag. -/
def ShootDown.covers (w : ShootDown) (tag : BitVec 12) (lo n : Nat) : Bool :=
  w.tag == tag && (w.all || (decide (lo < w.lo + w.len) && decide (w.lo < lo + n)))

/-- A shoot-down covers a cached page. -/
def ShootDown.drops (w : ShootDown) (e : TlbEntry) : Bool :=
  let n := if e.large then 2 ^ 25 else 2 ^ 16
  w.covers e.tag (e.page * n) n

/-- A translated piece still has to perform under a page of a shoot-down: its base page, or any large page that overlaps. -/
def ShootDown.holds (w : ShootDown) (tag : BitVec 12) (p : Piece) : Bool :=
  !p.done && (match p.tgt with | .spm => false | .commons _ _ => false | _ => true) &&
  w.covers tag (p.va.toNat / 2 ^ 25 * 2 ^ 25) (2 ^ 25)

/-- An access translated before the shoot-down has not performed. -/
def State.shootBusy (s : State) (w : ShootDown) : Bool :=
  s.dev.tiles.toList.any fun x =>
    x.reqs.any (fun r => r.pieces.any (w.holds x.ctx)) || x.enginePosts.any fun p => w.holds x.ctx p.piece

/-- The descriptor of a tag after a shoot-down of all its addresses: unbound, or as now written (16 R331). -/
def State.rebind (s : State) (tag : BitVec 12) : State :=
  if s.dev.bound.any fun b => b.tag == tag then
    (s.updDev fun d => { d with bound := d.bound.filter fun b => b.tag != tag }).bindTag tag
  else s

/-- SHOOT_DOWN_COMPLETE (16 R337): the caches drop what the shoot-down covers; once every access translated through it has performed, BUSY
clears. -/
def execShootDownComplete (s : State) : EOut :=
  match s.dev.shoot with
  | none => .next s
  | some w =>
    let s := s.updDev fun d => { d with tiles := d.tiles.map fun x => { x with tlb := x.tlb.filter fun e => !w.drops e } }
    if s.shootBusy w then .next s
    else
      let s := s.updDev fun d => { d with shoot := none }
      .next (if w.all then s.rebind w.tag else s)

/-! ### Access tables (16 R338, R340) -/

/-- An entry without its reserved bits. -/
def acctMask (v : BitVec 128) : BitVec 128 := v &&& ~~~(((1 : BitVec 128) <<< 60) - ((1 : BitVec 128) <<< 24))

/-- The entry of a target in effect; an entry never written is empty. -/
def State.acctEntry (s : State) (g e : Nat) : BitVec 128 :=
  match s.dev.acct.find? fun x => x.g == g && x.e == e with
  | some x => x.w
  | none => 0

/-- An entry applied at one instant. -/
def State.setAcct (s : State) (g e : Nat) (v : BitVec 128) : State :=
  s.updDev fun d =>
    let rest := d.acct.filter fun x => !(x.g == g && x.e == e)
    { d with acct := if acctMask v = 0 then rest else ⟨g, e, acctMask v⟩ :: rest }

/-- Bytes [7:0] of an entry held in their target's staging register. -/
def State.holdAcct (s : State) (g : Nat) (v : Word) : State :=
  s.updDev fun d => { d with acctHeld := (g, v) :: d.acctHeld.filter fun h => h.1 != g }

/-- Bytes [15:8] of an entry written: with the held bytes, or the entry's own, they make the whole entry. -/
def State.applyAcct (s : State) (g e : Nat) (v : Word) : State :=
  let low : Word := match s.dev.acctHeld.find? fun h => h.1 == g with
    | some h => h.2
    | none => (s.acctEntry g e).setWidth 64
  (s.updDev fun d => { d with acctHeld := d.acctHeld.filter fun h => h.1 != g }).setAcct g e (v ++ low)

/-- A write of part of an entry of an access table; there are 478 targets. One with a one in a reserved bit has no effect (00 R6, log 70). -/
def State.writeAcct (s : State) (g e : Nat) (part : EntryPart) (v : BitVec 128) : State :=
  let low := acctMask (v.setWidth 64 |>.setWidth 128) == (v.setWidth 64 |>.setWidth 128)
  if 478 ≤ g then s
  else match part with
    | .full => if low then s.setAcct g e v else s
    | .low => if low then s.holdAcct g (v.setWidth 64) else s
    | .high => s.applyAcct g e (v.setWidth 64)

/-- ACCESS_TABLE_WRITE (16 R340). In an 8-byte write v's low half is what is written. -/
def execAccessTableWrite (g : BitVec 9) (e : BitVec 10) (part : EntryPart) (v : BitVec 128) (s : State) : EOut :=
  .next (if s.isReady then s.writeAcct g.toNat e.toNat part v else s)

/-- The accesses that have passed their checks and not yet performed: of this device's tiles, and other devices' FACC requests that wait in a combining
record, which its number names. -/
def State.checkedOpen (s : State) : List (TileId × Nat) :=
  (((List.range 432).map tileOf).flatMap fun t =>
    (s.tileAt t).reqs.map (fun r => (t, r.id)) ++ (s.tileAt t).enginePosts.map fun p => (t, p.id)) ++
  ((s.dev.combs.filter fun c => c.tgt == .hbm && c.members.any fun m => match m.1 with | .far _ _ => true | _ => false).map fun c => ((0 : TileId), c.id))

/-- ATSYNC written: the sync waits for every access that has passed a check (16 R340). Bits [63:1], which its table does not name, are dropped
(log 113). -/
def State.writeAtsync (s : State) (v : Word) : State :=
  if bit v 0 then s.updDev fun d => { d with syncIds := s.checkedOpen } else s

/-- What ATSYNC reads: 1 until every such access has performed. -/
def State.atsync (s : State) : Bool := s.dev.syncIds.any fun x => s.checkedOpen.contains x

/-- ATSYNC (16 R340). -/
def execAtsync (v : Word) (s : State) : EOut := .next (if s.isReady then s.writeAtsync v else s)

/-! ### Partition maps and far-atomic ranges (16 R329, R341) -/

/-- A bound context names the partition that a tile is in. -/
def State.partitionHeld (s : State) (t : TileId) : Bool :=
  let m := (s.tileAt t).pmap
  bit m 4 && s.dev.bound.any fun b => b.partition_ == m.setWidth 4

/-- PMAP written: ignored while a bound context names the tile's partition. Bits [63:5], which its table does not name, are dropped (log 113). -/
def State.writePmap (s : State) (t : TileId) (v : Word) : State :=
  if s.partitionHeld t then s else s.updAt t fun x => { x with pmap := v.setWidth 5 }

/-- PARTITION_MAP_WRITE (16 R329). -/
def execPartitionMapWrite (t : TileId) (v : Word) (s : State) : EOut := .next (if s.isReady then s.writePmap t v else s)

/-- A range without its reserved bits (16 R330). -/
def farangeMask (v : BitVec 128) : BitVec 128 := v &&& 0x80000000FFFFFFFF00000000FFFFFFFF

/-- FARANGE i written: every hub slice has written back and dropped its lines in the blocks of the old range and the new, and the host holds none
of them (16 R341, 19 R389). A write of a one to a reserved bit has no effect (00 R6, log 70). -/
def State.writeFarange (s : State) (i : Nat) (v : BitVec 128) : State :=
  if farangeMask v ≠ v then s
  else
    let touched := [rd s.dev.farange i, v]
    s.updDev fun d => { d with
      farange := wr d.farange i v
      hub := d.hub.filter fun l => !inFarange touched (l / 512)
      hostCopies := d.hostCopies.filter fun c => !inFarange touched (c.1 / 512) }

/-- FARANGE_WRITE (16 R341). -/
def execFarangeWrite (i : BitVec 6) (v : BitVec 128) (s : State) : EOut := .next (if s.isReady then s.writeFarange i.toNat v else s)

/-! ### The Sett index (17 R344) -/

/-- Every slot of the index free: its metadata reads zero, and the host holds none of its lines (19 R389). -/
def State.clearIndex (s : State) : State :=
  let a := s.dev.sxbase.toNat
  let n := 4096 * s.buckets
  (s.recall a n).updDev fun d => { d with
    hbm := d.hbm.clear a n, sxlive := 0, walks := []
    lost := d.lost.filter fun u => !((u.code == 6 || u.code == 14) && decide (a ≤ u.off) && decide (u.off + 8 ≤ a + n)) }

/-- SXCFG written: k only while EN = 0; EN from 0 to 1 marks every slot free. A write of a one to a reserved bit has no effect (00 R6, log 70);
bits [7:5], which its table does not name, are dropped (log 113). -/
def State.writeSxcfg (s : State) (v : Word) : State :=
  if v.toNat / 2 ^ 9 ≠ 0 then s
  else if s.dev.sxen then s.updDev fun d => { d with sxen := bit v 8 }
  else
    let s := s.updDev fun d => { d with sxk := if bits v 4 0 ≤ 20 then v.setWidth 5 else d.sxk, sxen := bit v 8 }
    if bit v 8 then s.clearIndex else s

/-- SETT_INDEX_ENABLE (17 R344). -/
def execSettIndexEnable (v : Word) (s : State) : EOut := .next (if s.isReady then s.writeSxcfg v else s)

/-! ### Other registers -/

/-- FLGAP written: below 320 ns it is taken as 320. A write of a one to a reserved bit has no effect (00 R6, log 70). -/
def State.writeFlgap (s : State) (v : Word) : State :=
  if v.toNat / 2 ^ 16 ≠ 0 then s
  else s.updDev fun d => { d with flgap := if bits v 15 0 < 320 then 320 else v.setWidth 16 }

/-- HTAG i written. A write of a one to a reserved bit has no effect (00 R6, log 70). -/
def State.writeHtag (s : State) (i : Nat) (v : Word) : State :=
  if v.toNat / 2 ^ 12 ≠ 0 then s else s.updDev fun d => { d with htag := wr d.htag i (v.setWidth 12) }

/-- FLGAP_WRITE (19 R378). -/
def execFlgapWrite (v : Word) (s : State) : EOut := .next (if s.isReady then s.writeFlgap v else s)

/-- An 8-byte half of a 16-byte register replaced. -/
def halfWrite (old : BitVec 128) (off : Nat) (v : Word) : BitVec 128 :=
  if off % 16 = 0 then old.extractLsb' 64 64 ++ v else v ++ old.setWidth 64

/-- A control-window register of the translation, Sett, save-pool, fabric and Hentia groups written. -/
def State.writeDeviceReg (s : State) (off : Nat) (v : Word) : State :=
  match off with
  | 0x20000 => s.updDev fun d => { d with ctxbase := v }
  | 0x20008 => s.updDev fun d => { d with sdva := v }
  | 0x20010 => s.updDev fun d => { d with sdlen := v }
  | 0x20018 => s.writeSdctl v
  | 0x20020 => s.writeAtsync v
  | 0x23000 => s.updDev fun d => if d.sxen then d else { d with sxbase := v }
  | 0x23008 => s.writeSxcfg v
  | 0x24000 => s.updDev fun d => { d with savebase := v }
  | 0x24008 => if v.toNat ≤ 4096 then s.updDev fun d => { d with saveslots := v } else s
  | 0x25000 => s.writeFlgap v
  | 0x25200 => s.writeHtag 0 v
  | 0x25208 => s.writeHtag 1 v
  | _ => s

/-- An 8-byte register of the control window written; an offset without one, or a read-only register, is unchanged. -/
def State.writeReg (s : State) (off : Nat) (v : Word) : State :=
  if off % 8 ≠ 0 then s
  else if 0x10000 ≤ off ∧ off < 0x14000 then s.writeQueueReg ((off - 0x10000) / 256) (off % 256) v
  else if 0x21000 ≤ off ∧ off < 0x21000 + 8 * 432 then s.writePmap (tileOf ((off - 0x21000) / 8)) v
  else if 0x22000 ≤ off ∧ off < 0x22400 then
    let i := (off - 0x22000) / 16
    s.writeFarange i (halfWrite (rd s.dev.farange i) off v)
  else if 0x100000 ≤ off then
    s.writeAcct ((off - 0x100000) / 0x4000) ((off - 0x100000) % 0x4000 / 16) (if off % 16 = 0 then .low else .high) (v.setWidth 128)
  else s.writeDeviceReg off v

/-- REGISTER_WRITE (16 R330): a register of the control window written. A register with a step of its own behaves as that step. -/
def execRegisterWrite (off : BitVec 32) (v : Word) (s : State) : EOut := .next (if s.isReady then s.writeReg off.toNat v else s)

/-! ### Reading the control window -/

/-- FPSTAT of a link (19 R378). -/
def Link.stat (l : Link) : Word := (if l.up then 1 else 0) + (if l.training.isSome then 2 else 0)

/-- DEVSTAT (24 R423). -/
def State.devstat (s : State) : Word :=
  BitVec.ofNat 64 (s.dev.mgmt.state % 16 + s.dev.mgmt.reason % 256 * 2 ^ 8 + min s.dev.mgmt.resets 0xFFFF * 2 ^ 16)

/-- A queue register as it reads (15 R307). -/
def CmdQueue.readReg (z : CmdQueue) (off : Nat) : Word :=
  match off with
  | 0x00 => (if z.en then 1 else 0) + (if z.err then 2 else 0) + BitVec.ofNat 64 (4 * z.prio.toNat)
  | 0x08 => z.ctx.zeroExtend 64
  | 0x10 => z.base
  | 0x18 => z.cap
  | 0x20 => z.tailA
  | 0x28 => z.recBase
  | 0x30 => z.tslice.zeroExtend 64
  | 0x38 => z.seed
  | 0x40 => z.ctrBase
  | 0x48 => z.head
  | _ => 0

/-- An 8-byte half of a 16-byte register. -/
def halfRead (v : BitVec 128) (off : Nat) : Word := if off % 16 = 0 then v.setWidth 64 else v.extractLsb' 64 64

/-- What a register of the control window reads (16 R330, 17 R344, 18 R369, 19 R378, 24 R423). -/
def State.readReg (s : State) (off : Nat) : Word :=
  if 0x10000 ≤ off ∧ off < 0x14000 then (rd s.dev.queues ((off - 0x10000) / 256)).readReg (off % 256)
  else if 0x21000 ≤ off ∧ off < 0x21000 + 8 * 432 then (s.tileAt (tileOf ((off - 0x21000) / 8))).pmap.zeroExtend 64
  else if 0x22000 ≤ off ∧ off < 0x22400 then halfRead (rd s.dev.farange ((off - 0x22000) / 16)) off
  else if 0x25100 ≤ off ∧ off < 0x25200 then (rd s.dev.ports ((off - 0x25100) / 8)).stat
  else if 0x100000 ≤ off then halfRead (s.acctEntry ((off - 0x100000) / 0x4000) ((off - 0x100000) % 0x4000 / 16)) off
  else match off with
  | 0x20000 => s.dev.ctxbase
  | 0x20008 => s.dev.sdva
  | 0x20010 => s.dev.sdlen
  | 0x20018 => s.dev.sdctl.zeroExtend 64 + (if s.dev.shoot.isSome then 0x4000 else 0)
  | 0x20020 => if s.atsync then 1 else 0
  | 0x23000 => s.dev.sxbase
  | 0x23008 => s.dev.sxk.zeroExtend 64 + (if s.dev.sxen then 0x100 else 0)
  | 0x23010 => BitVec.ofNat 64 s.dev.sxlive
  | 0x24000 => s.dev.savebase
  | 0x24008 => s.dev.saveslots
  | 0x25000 => s.dev.flgap.zeroExtend 64
  | 0x25008 => s.dev.devid.zeroExtend 64
  | 0x25200 => (rd s.dev.htag 0).zeroExtend 64
  | 0x25208 => (rd s.dev.htag 1).zeroExtend 64
  | 0x26000 => s.devstat
  | _ => 0

end Sys2Proof.Machine
end

