-- ==== Sys2Proof/Machine/Fabric.lean ====
section
/-! DEFINITION. Flowlet paths, links and host accesses (19 R381, R382, R389, R391, 23 R416 to R418). -/

namespace Sys2Proof.Machine

/-! ### Paths (19 R382, 23 R417) -/

/-- FLGAP in 100 MHz periods, rounded up. -/
def State.gapPeriods (s : State) : Nat := (s.dev.flgap.toNat + 9) / 10

/-- FLOWLET_PATH_CHANGE (19 R382): a key idle for longer than FLGAP moves to a path; a key on a failed path waits for the drain. -/
def execFlowletPathChange (key : FlowletKey) (path : Nat) (s : State) : EOut :=
  .next (s.updDev fun d => { d with paths := d.paths.map fun f =>
    if f.key == key && !d.failed.contains f.path && !d.failed.contains path && decide (f.last + s.gapPeriods < d.clk) then
      { f with path := path }
    else f })

/-- A class-4 entry, for a link or a path (23 R420). -/
def State.logLink (s : State) (t : TileId) (place : Nat) : State := s.logOn (dieOf t) (mkLog 0 0 s.clkrd 0 0 place 15 4)

/-- PATH_FAILURE (23 R417): a path of the panel has failed; its keys wait for the drain. -/
def execPathFailure (path : Nat) (s : State) : EOut :=
  if s.dev.failed.contains path then .next s
  else .next ((s.updDev fun d => { d with failed := path :: d.failed }).logLink 0 432)

/-- PATH_DRAINED (23 R417): the panel has reported the drain, and the keys move. -/
def execPathDrained (path : Nat) (s : State) : EOut :=
  if s.dev.failed.contains path then
    .next (s.updDev fun d => { d with paths := d.paths.map fun f => if f.path = path then { f with path := s.newPath } else f })
  else .next s

/-! ### Links (23 R416, R418) -/

/-- The state of a link. -/
def State.link (s : State) : LinkId → Link
  | .fabric p => s.dev.ports[p]
  | .hentia i => s.dev.hentia[i]

/-- The state of a link replaced. -/
def State.setLink (s : State) (p : LinkId) (l : Link) : State :=
  match p with
  | .fabric p => s.updDev fun d => { d with ports := d.ports.set p l }
  | .hentia i => s.updDev fun d => { d with hentia := d.hentia.set i l }

/-- The number of a link in a log entry: 432 + port (23 R420), the Hentia ports following the fabric ports. -/
def linkPlace : LinkId → Nat
  | .fabric p => 432 + p.val
  | .hentia i => 464 + i.val

/-- The tile on whose die a link is logged. -/
def linkTile : LinkId → TileId
  | .fabric p => portTile p.val
  | .hentia _ => 144

/-- LINK_REPLAY (23 R416): a flit fails its CRC and is replayed in order; 16 failures within 2^20 cycles make the port retrain. -/
def execLinkReplay (p : LinkId) (s : State) : EOut :=
  let l := s.link p
  if !l.up then .next s
  else
    let crc := s.dev.now :: l.crc.filter fun c => s.dev.now < c + 2 ^ 20
    let s := s.logOn (dieOf (linkTile p)) (mkLog 0 0 s.clkrd 0 0 (linkPlace p) 15 1)
    if crc.length < 16 then .next (s.setLink p { l with crc := crc })
    else .next ((s.setLink p ⟨false, some s.dev.clk, []⟩).logLink (linkTile p) (linkPlace p))

/-- 1 ms of the 100 MHz reference. -/
def onems : Nat := 100000

/-- A link that has trained for 1 ms without success is marked down. -/
def State.linkDown (s : State) (p : LinkId) : State :=
  match (s.link p).training with
  | some c => if c + onems ≤ s.dev.clk then (s.setLink p ⟨false, none, []⟩).logLink (linkTile p) (linkPlace p) else s
  | none => s

/-- PORT_DOWN (23 R416). -/
def execPortDown (p : LinkId) (s : State) : EOut := .next (s.linkDown p)

/-- HENTIA_LINK_DOWN (23 R418): from now on accesses to the port fail with ACCESS_DENIED. -/
def execHentiaLinkDown (i : Fin 2) (s : State) : EOut := .next (s.linkDown (.hentia i))

/-- Another device present has this device's number, at the lower of the two sites (19 R377). -/
def State.higherSite (s : State) : Bool := s.dev.remote.any (fun r => r.present && r.num == s.devNum) && !Config.lowerSite

/-- A link that stays down: a fabric port of the higher of two sites with one number (19 R377). -/
def State.keptDown (s : State) (p : LinkId) : Bool :=
  match p with
  | .fabric _ => s.higherSite
  | .hentia _ => false

/-- LINK_TRAINED (23 R416, R418): the port is up, and what waits for it proceeds. -/
def execLinkTrained (p : LinkId) (s : State) : EOut :=
  if (s.link p).up || !s.isReady || s.keptDown p then .next s else .next (s.setLink p Link.trained).answerAll

/-! ### Host accesses (19 R389) -/

/-- A host access to n bytes inside one line is permitted: checked at the line's home slice with this device's number and the port's tag.
Tag 0xFFF is carried by no access, so a port whose HTAG holds it is refused (16 R328, log 124). -/
def State.hostOk (s : State) (port : Fin 2) (a n : Nat) (k : Acc) : Bool :=
  s.dev.htag[port] != 0xFFF && decide (a + n ≤ hbmSize) && acctOk s.dev.acct (homeOf a) s.devNum (s.dev.htag[port]) a n k

/-- Lost data that the host consumes is logged (23 R420). -/
def State.hostUnit (s : State) (port : Fin 2) (a : Nat) : State :=
  s.logOn (dieOf (tileOf (homeOf a))) (mkLog (BitVec.ofNat 64 a) 0 s.clkrd Cause.eccUncorrected.code (s.dev.htag[port]) (homeOf a) 6 2)

/-- Runs of n bytes from a that cross no line: offset and length. -/
def lineRuns : Nat → Nat → Nat → List (Nat × Nat)
  | 0, _, _ => []
  | fuel + 1, a, n =>
    if n = 0 then []
    else
      let k := min n (128 - a % 128)
      (0, k) :: (lineRuns fuel (a + k) (n - k)).map fun r => (r.1 + k, r.2)

/-- The host reads: its answer is the bytes, or none where an access is refused or meets lost data. -/
def State.hostRead (s : State) (port : Fin 2) (a n : Nat) : State :=
  let rs := lineRuns (n + 1) a n
  if rs.all fun r => s.hostOk port (a + r.1) r.2 .read then
    match rs.find? fun r => s.isLost 6 0 (a + r.1) r.2 with
    | some r => (s.hostUnit port (a + r.1)).updDev fun d => { d with hostReads := d.hostReads ++ [[]] }
    | none => s.updDev fun d => { d with hostReads := d.hostReads ++ [d.hbm.bytes a n] }
  else s.updDev fun d => { d with hostReads := d.hostReads ++ [[]] }

/-- The host writes, line by line; a line whose access is refused, or that covers a lost unit in part, is unchanged. -/
def State.hostWrite (s : State) (port : Fin 2) (a : Nat) (bytes : List Byte) : State :=
  (lineRuns (bytes.length + 1) a bytes.length).foldl (fun s r =>
    if !s.hostOk port (a + r.1) r.2 .write then s
    else if s.partLost 6 0 (a + r.1) r.2 then s.hostUnit port (a + r.1)
    else s.writeHbm (a + r.1) r.2 (leNat ((bytes.drop r.1).take r.2))) s

/-- A line in a far-atomic block, which no host cache holds (19 R389, 16 R341). -/
def State.farLine (s : State) (line : Nat) : Bool := inFarange s.dev.farange.toList (line / 512)

/-- A copy of a line granted to the host with its bytes; refused, with no bytes, for a line of a far-atomic block, one that an access table denies, or
one with lost data. -/
def State.hostFetch (s : State) (port : Fin 2) (line : Nat) (excl : Bool) : State :=
  let a := 128 * line
  let refuse := fun (s : State) => s.updDev fun d => { d with hostReads := d.hostReads ++ [[]] }
  if s.farLine line || !s.hostOk port a 128 .read || (excl && !s.hostOk port a 128 .write) then refuse s
  else if s.isLost 6 0 a 128 then refuse (s.hostUnit port a)
  else s.updDev fun d => { d with
    hostReads := d.hostReads ++ [d.hbm.bytes a 128], hostCopies := (line, excl) :: d.hostCopies.filter fun c => c.1 != line }

/-- A store of the host into a copy that it holds alone. Its bytes stand in HBM at once: the copy is written back before any device read of the line
performs, and is gone before any device write does (log 97). -/
def State.hostCopyStore (s : State) (a : Nat) (bytes : List Byte) : State :=
  if bytes.isEmpty || 128 < a % 128 + bytes.length || !s.dev.hostCopies.contains (a / 128, true) then s
  else ((s.updDev fun d => { d with hbm := d.hbm.writeN a bytes.length (leNat bytes) }).heal 6 0 a bytes.length).markDirty a

/-- HOST_ACCESS (19 R389): it waits while its link is not up. -/
def execHostAccess (port : Fin 2) (r : HostReq) (s : State) : EOut :=
  if !s.isReady || !(s.dev.hentia[port]).up then .next s
  else match r with
    | .read a n => .next (s.hostRead port a n)
    | .write a bytes => .next (s.hostWrite port a bytes)
    | .fetch line excl => .next (s.hostFetch port line excl)
    | .store a bytes => .next (s.hostCopyStore a bytes)
    | .evict line => .next (s.updDev fun d => { d with hostCopies := d.hostCopies.filter fun c => c.1 != line })

end Sys2Proof.Machine
end

