-- ==== Sys2Proof/Machine/Errors.lean ====
section
/-! DEFINITION. Patrol scrubbing, Warren reloads and the repair map (23 R408, R409, R412, R419). -/

namespace Sys2Proof.Machine

/-- The tile whose number a unit's log entry carries, and on whose die it is logged: the home slice of an address of HBM or of a hub line, the first
tile of the die that a Warren or a fuse map belongs to, the Spoke where a packet stands or a slot lies, else the tile of its place. -/
def State.unitTile (s : State) (u : StoredUnit) : TileId :=
  match u.code.toNat with
  | 4 => if 2 ^ 40 ≤ u.off then tileOf u.place else tileOf (homeOf u.off)
  | 5 => tileOf (homeOf u.off)
  | 6 => tileOf (homeOf u.off)
  | 7 => match s.packet u.place with
    | some p => placeTile (placeNo p.at_)
    | none => tileOf u.place
  | 8 => placeTile u.place
  | 10 => tileOf (144 * u.place)
  | 14 => tileOf (homeOf u.off)
  | 16 => tileOf (144 * u.place)
  | _ => tileOf u.place

/-- The 8-byte unit that holds an offset; a line's tag stands for the line. -/
def unitAligned (u : StoredUnit) : StoredUnit := { u with off := if u.code = 5 then u.off / 128 * 128 else u.off / 8 * 8 }

/-- Units made lost. -/
def State.loseUnits (s : State) (us : List StoredUnit) : State :=
  s.updDev fun d => { d with lost := us.filter (fun u => !d.lost.contains u) ++ d.lost }

/-- What a double error makes lost (23 R409): a unit of HBM or of a carve-out; the sector of a dirty hub line, which is written back with its
side-band lost bit set; every sector of a line whose tag is lost, if dirty. A clean line is dropped and fetched again. -/
def State.lostBy (s : State) (u : StoredUnit) : List StoredUnit :=
  if u.code = 6 then [⟨6, 0, u.off / 8 * 8⟩]
  else if u.code = 4 then
    (if 2 ^ 40 ≤ u.off then [⟨4, u.place, u.off / 8 * 8⟩]
     else if s.dev.hub.contains (u.off / 128) then [⟨6, 1, u.off / 32 * 32⟩] else [])
  else if s.dev.hub.contains (u.off / 128) then (List.range 4).map fun i => ⟨6, 1, u.off / 128 * 128 + 32 * i⟩
  else []

/-- The line of a lost tag leaves its hub slice. -/
def State.dropLine (s : State) (u : StoredUnit) : State :=
  if u.code = 5 then s.updDev fun d => { d with hub := d.hub.filter fun l => l != u.off / 128 } else s

/-- The structures a scrubber reads: hub cache data and tags, and HBM (23 R408). -/
def scrubbed (u : StoredUnit) : Bool := u.code == 4 || u.code == 5 || u.code == 6

/-- PATROL_SCRUB (23 R408): a single error is corrected in place, a double error makes the unit lost; no access is told. -/
def execPatrolScrub (u : StoredUnit) (err : BitErrors) (s : State) : EOut :=
  let entry := fun (cls : Nat) => mkLog (BitVec.ofNat 64 (unitAligned u).off) 0 s.clkrd 0 0 (s.unitTile u).val u.code.toNat cls
  if !scrubbed u then .next s
  else match err with
    | .none => .next s
    | .single => .next (s.logOn (dieOf (s.unitTile u)) (entry 1))
    | .double => .next (((s.loseUnits (s.lostBy u)).dropLine u).logOn (dieOf (s.unitTile u)) (entry 3))

/-- WARREN_RELOAD (23 R412): entry n of a die's Warren, found uncorrectable, is loaded again from its launch's image; an image that cannot be
read aborts the launch. -/
def execWarrenReload (die : DieId) (n : Nat) (s : State) : EOut :=
  match (s.dev.dies[die]).warren[n]? with
  | none => .next s
  | some e =>
    if !s.warrenLost die.val n then .next s
    else
      let s := s.forget 10 die.val (64 * n) 64
      match (s.launch? e.launch).bind fun l => s.dev.images[l.image]? with
      | some i => .next (if i.readable then s else s.abort e.launch 9)
      | none => .next (s.abort e.launch 9)

/-- A repair map: twelve physical rows of sixteen in strictly ascending order (23 R419). -/
def rowsOk (rows : List Nat) : Bool := rows.length == 12 && rows.all (fun r => decide (r < 16)) && rows.Pairwise (fun a b => a < b)

/-- FUSE_UPDATE (23 R419): the repair map of a die, in effect from the next cold reset. -/
def execFuseUpdate (die : DieId) (rows : List Nat) (s : State) : EOut := .next (s.updDie die fun d => { d with nextRows := rows })

end Sys2Proof.Machine
end

