-- ==== Sys2Proof/Machine/LSMem.lean ====
section
/-! DEFINITION. Loads, stores, gathers, scatters and atomics of L and S (07 R142 to R149, R168). -/

namespace Sys2Proof.Machine

/-! ### Sett-mapped pages (17 R355) -/

/-- A store of S refused with SETT_WRITE first takes the fault path on the state before its word; it answers nothing to wait. -/
def State.lsSettWrite (s : State) (va : Word) (n v : Nat) (plain : Bool) : Issue :=
  match s.leafAt s.cur s.tile.ctx va with
  | .error c => .fault c va none
  | .ok (l, s1) => match s1.settStore s.cur .s l va n v plain with
    | .wait => .wait
    | .lost a => .fault .eccUncorrected va (some (.hbm, a))
    | .done s2 => .stop s2 .settWrite va

/-- A plan's faults as an issue; a plain store of the bytes v at va that meets a Sett-mapped page, or another write that does, takes
the fault path. -/
def Plan.refuse (p : Plan) (s : State) (q : Sequencer) (va : Word) (n v : Nat) (plain : Bool) : Issue :=
  match p with
  | .fault .settWrite a m => if q = .s then s.lsSettWrite (if plain then va else a) n v plain else .fault .settWrite a m
  | .fault c a m => .fault c a m
  | .link a => .link a
  | .ok _ _ => .wait

/-! ### Loads (07 R142 to R144) -/

/-- Loads and gathers of L whose data has not arrived, or stores and scatters of S not yet performed (07 R137). -/
def Tile.outstanding (t : Tile) (q : Sequencer) : Nat :=
  (t.reqs.filter fun r => r.q == q && (match r.kind with | .load _ => true | .store => true | _ => false)).length

/-- A load of w bytes in a space. -/
def State.lsLoad (s : State) (sp : Space) (m : AMode) (wd : Width) (f : LSF) : State :=
  let w := widthBytes wd
  s.lsRun .l f (addrRegsOf f) [] fun s1 =>
    let ea := s1.tile.lsEa .l m f
    if 64 ≤ s1.tile.outstanding .l then .wait
    else if ea.toNat % 32 ≠ 0 then .fault .align ea none
    else if !sp.checkSpm ea w then .fault .accessDenied ea none
    else match s1.planSectors s1.cur sp .read ea w 0 false with
      | .ok ps s2 => .pending ((s2.upd fun t => t.postInc .l m f).launchReq s .l f (.load f.vreg) ps false false)
      | p => p.refuse s .l ea w 0 false

/-- LDN: w bytes of the line that the base register names (07 R144). The faulting address is the offset in the line for ALIGN, the name
otherwise (log 31). -/
def State.lsLoadName (s : State) (m : AMode) (wd : Width) (f : LSF) : State :=
  let w := widthBytes wd
  s.lsRun .l f (addrRegsOf f) [] fun s1 =>
    let t := s1.tile
    let name := t.areg .l f.base
    let off := t.indexOf .l f + (match m with | .offset => dispOf f | .postInc => 0)
    if 64 ≤ t.outstanding .l then .wait
    else if off.toNat % w ≠ 0 ∨ 128 < off.toNat + w then .fault .align off none
    else match s1.readLine t.ctx name off.toNat w with
      | .error c => .fault c name (some (.line name, off.toNat))
      | .ok _ =>
        let ps := (List.range (w / 32)).map fun i =>
          (⟨.line name, off.toNat + 32 * i, 32, 32 * i, name, .rc, false, false, 0⟩ : Piece)
        .pending ((s1.upd fun t => t.postInc .l m f).launchReq s .l f (.load f.vreg) ps false false)

/-! ### Stores (07 R142, R143) -/

/-- An accepted store of S: a scratchpad store enters the forwarding table and finishes; one wholly at another device is posted and finishes;
another finishes when its pieces here have performed (07 R138). s is the state before the word. -/
def State.lsAccept (s1 s : State) (f : LSF) (sp : Space) (ps : List Piece) : Issue :=
  match s.sysRelease f (anyOrdered ps) with
  | some i => i
  | none =>
    if sp = .spm || ps.all Piece.far then .next (s1.launchReq s .s f .store ps true false) 0
    else .pending (s1.launchReq s .s f .store ps false false)

/-- The gather unit's queue has room: it holds 16 commands, joins among them (07 R137, R149). -/
def Tile.gatherRoom (t : Tile) : Bool :=
  (t.reqs.filter fun r => !r.finished && r.pieces.any fun p => decide (p.size < 32) && (match r.kind with | .load _ => true | .store => true | _ => false)).length +
    (rd t.q 3).length < 16

/-- S may accept another store (07 R137, R141). -/
def Tile.storeRoom (t : Tile) (sp : Space) : Bool := t.outstanding .s < 64 && (sp != .spm || t.forwarding < 16)

/-- A store of w bytes in a space. -/
def State.lsStore (s : State) (sp : Space) (m : AMode) (wd : Width) (f : LSF) : State :=
  let w := widthBytes wd
  s.lsRun .s f (addrRegsOf f) [] fun s1 =>
    let ea := s1.tile.lsEa .s m f
    let v := s1.tile.rread (128 * f.vreg.toNat) w
    if !s1.tile.storeRoom sp then .wait
    else match s.regLost (128 * f.vreg.toNat) w with
    | some s' => .stop s' .eccUncorrected 0
    | none =>
      if ea.toNat % 32 ≠ 0 then .fault .align ea none
      else if !sp.checkSpm ea w then .fault .accessDenied ea none
      else match s1.planSectors s1.cur sp .write ea w v (sp == .far) with
        | .ok ps s2 => (s2.upd fun t => t.postInc .s m f).lsAccept s f sp ps
        | p => p.refuse s .s ea w v true

/-! ### Gathers and scatters (07 R148, R149) -/

/-- The offset of element e. -/
def Tile.elemOff (t : Tile) (f : LSF) (e : Nat) : Nat := t.rread (128 * bits f.imm 10 0 + 4 * e) 4

/-- The plan of a gather or scatter: the elements present, in ascending order, each aligned and checked; the first fault is the lowest
element's. -/
def State.planElems (s : State) (q : Sequencer) (sp : Space) (k : Acc) (f : LSF) (v : Nat) : Plan :=
  let t := s.tile
  let z := gatherSize f
  let base := t.areg q f.base + t.indexOf q f
  (List.range (128 / z)).foldl (fun p e =>
    let off := t.elemOff f e
    let ea := base + BitVec.ofNat 64 off
    if off = 0xFFFFFFFF then p
    else match p with
      | .ok _ s => if ea.toNat % z ≠ 0 then .fault .align ea none else p.add s.cur sp k ea z (z * e) (nbits v (8 * z * e) (8 * z)) (sp == .far)
      | p => p) (.ok [] s)

/-- A gather. With every element absent it finishes at once. -/
def State.lsGather (s : State) (sp : Space) (f : LSF) : State :=
  s.lsRun .l f (addrRegsOf f) [] fun s1 =>
    if 64 ≤ s1.tile.outstanding .l || !s1.tile.gatherRoom || s1.tile.loadOver (128 * bits f.imm 10 0) (4 * (128 / gatherSize f)) then .wait
    else match s.regLost (128 * bits f.imm 10 0) (4 * (128 / gatherSize f)) with
    | some s' => .stop s' .eccUncorrected 0
    | none => match s1.planElems .l sp .read f 0 with
      | .ok [] s2 => .next s2 0
      | .ok ps s2 => match s.regPart (landsAt f.vreg.toNat ps) with
        | some s' => .stop s' .eccUncorrected 0
        | none => .pending (s2.launchReq s .l f (.load f.vreg) ps false false)
      | p => p.refuse s .l 0 0 0 false

/-- A scatter. Elements of equal offset are written in ascending order. -/
def State.lsScatter (s : State) (sp : Space) (f : LSF) : State :=
  s.lsRun .s f (addrRegsOf f) [] fun s1 =>
    let v := s1.tile.rread (128 * f.vreg.toNat) 128
    if !s1.tile.storeRoom sp || !s1.tile.gatherRoom then .wait
    else match (s.regLost (128 * bits f.imm 10 0) (4 * (128 / gatherSize f))).or (s.regLost (128 * f.vreg.toNat) 128) with
    | some s' => .stop s' .eccUncorrected 0
    | none => match s1.planElems .s sp .write f v with
      | .ok [] s2 => (match s.sysRelease f true with | some i => i | none => .next s2 0)
      | .ok ps s2 => s2.lsAccept s f sp ps
      | p => p.refuse s .s 0 (gatherSize f) 0 false

/-! ### Atomics (07 R168) -/

/-- An atomic of S in a space: bd in bits [4:0] of the vector field, bs in [9:5]. -/
def State.lsAtomic (s : State) (sp : Space) (op : BitVec 4) (f : LSF) : State :=
  let bd : Reg := f.vreg.extractLsb' 0 5
  let bs : Reg := f.vreg.extractLsb' 5 5
  s.lsRun .s f (bd :: bs :: addrRegsOf f) [] fun s1 =>
    let t := s1.tile
    let ea := t.lsEa .s .offset f
    let n := atomWidth op
    if ea.toNat % n ≠ 0 then .fault .align ea none
    else match (Plan.ok [] s1).add s1.cur sp .rmw ea n 0 0 false with
      | .ok ps s2 => (match s.sysRelease f (anyOrdered ps) with
        | some i => i
        | none => .pending (s2.launchReq s .s f (.atomic bd op (t.areg .s bs)) ps false false))
      | p => p.refuse s .s ea n 0 false

/-- LDS (07 R142, R143): a load from the scratchpad. -/
def execLds (m : AMode) (w : Width) (f : LSF) (s : State) : Out := .next (s.lsLoad .spm m w f)

/-- LDM (07 R142, R143): a load from commons. -/
def execLdm (m : AMode) (w : Width) (f : LSF) (s : State) : Out := .next (s.lsLoad .commons m w f)

/-- LDL (07 R142, R143): a load from local global memory. -/
def execLdl (m : AMode) (w : Width) (f : LSF) (s : State) : Out := .next (s.lsLoad .loc m w f)

/-- LDF (07 R142, R143): a load from far global memory. -/
def execLdf (m : AMode) (w : Width) (f : LSF) (s : State) : Out := .next (s.lsLoad .far m w f)

/-- LDH (07 R142, R143): a load from host memory. -/
def execLdh (m : AMode) (w : Width) (f : LSF) (s : State) : Out := .next (s.lsLoad .host m w f)

/-- LDN (07 R144): a load from a Sett line by name. -/
def execLdn (m : AMode) (w : Width) (f : LSF) (s : State) : Out := .next (s.lsLoadName m w f)

/-- STS (07 R142, R143): a store to the scratchpad. -/
def execSts (m : AMode) (w : Width) (f : LSF) (s : State) : Out := .next (s.lsStore .spm m w f)

/-- STM (07 R142, R143): a store to commons. -/
def execStm (m : AMode) (w : Width) (f : LSF) (s : State) : Out := .next (s.lsStore .commons m w f)

/-- STL (07 R142, R143): a store to local global memory. -/
def execStl (m : AMode) (w : Width) (f : LSF) (s : State) : Out := .next (s.lsStore .loc m w f)

/-- STF (07 R142, R143): a store to far global memory. -/
def execStf (m : AMode) (w : Width) (f : LSF) (s : State) : Out := .next (s.lsStore .far m w f)

/-- STH (07 R142, R143): a store to host memory. -/
def execSth (m : AMode) (w : Width) (f : LSF) (s : State) : Out := .next (s.lsStore .host m w f)

/-- GTHS (07 R148): a gather from the scratchpad. -/
def execGths (f : LSF) (s : State) : Out := .next (s.lsGather .spm f)

/-- GTHL (07 R148): a gather from local global memory. -/
def execGthl (f : LSF) (s : State) : Out := .next (s.lsGather .loc f)

/-- SCTS (07 R148): a scatter to the scratchpad. -/
def execScts (f : LSF) (s : State) : Out := .next (s.lsScatter .spm f)

/-- SCTL (07 R148): a scatter to local global memory. -/
def execSctl (f : LSF) (s : State) : Out := .next (s.lsScatter .loc f)

/-- ATM (07 R168): an atomic on commons. -/
def execAtm (op : BitVec 4) (f : LSF) (s : State) : Out := .next (s.lsAtomic .commons op f)

/-- ATL (07 R168): an atomic on local global memory. -/
def execAtl (op : BitVec 4) (f : LSF) (s : State) : Out := .next (s.lsAtomic .loc op f)

/-- ATF (07 R168): an atomic on far global memory. -/
def execAtf (op : BitVec 4) (f : LSF) (s : State) : Out := .next (s.lsAtomic .far op f)

end Sys2Proof.Machine
end

