-- ==== Sys2Proof/Machine/LSScalar.lean ====
section
/-! DEFINITION. Address arithmetic, compares, branches and loops of L and S (07 R150 to R153, 09 R203). -/

namespace Sys2Proof.Machine

/-- The second register of an address-arithmetic word (07 R150). -/
def abOf (f : LSF) : Reg := f.imm.extractLsb' 0 5

/-- The predicate that a compare writes, or that a branch tests (07 R151, R152). -/
def predOf (f : LSF) : BitVec 3 := f.vreg.extractLsb' 0 3

/-- ad := v, computed when the word issues (07 R150). -/
def State.lsSet (s : State) (q : Sequencer) (f : LSF) (srcs : List Reg) (v : Tile → Word) : State :=
  s.lsRun q f (f.base :: srcs) [] fun s => .next (s.upd fun t => t.setLs q f.base (v t)) 0

/-- A predicate := v; the pushes carry it (07 R151, R170). -/
def State.lsCmp (s : State) (q : Sequencer) (f : LSF) (v : Word → Word → Bool) : State :=
  s.lsRun q f [f.index, abOf f] [predOf f] fun s =>
    let b := v (s.tile.areg q f.index) (s.tile.areg q (abOf f))
    .next (s.upd fun t => t.setPred q (predOf f) b) (if b then 1 else 0)

/-- The branch target (07 R152). -/
def Tile.lsTarget (t : Tile) (q : Sequencer) (f : LSF) : Word := (t.ls q).pc + 8 * dispOf f

/-- The condition of LBR and SBR: the named predicate, negated by bit 3 of the vector field. -/
def Tile.lsCond (t : Tile) (q : Sequencer) (f : LSF) : Bool := predOf f == 0 || (t.pred q (predOf f) != bit f.vreg 3)

/-- LBR and SBR: pushes 1 if taken, 0 if not (07 R152, R170). -/
def State.lsBranch (s : State) (q : Sequencer) (f : LSF) : State :=
  s.lsRun q f [] [predOf f] fun s =>
    if s.tile.lsCond q f then .jump s 1 (s.tile.lsTarget q f) else .next s 0

/-- LJ and SJ. -/
def State.lsJump (s : State) (q : Sequencer) (f : LSF) : State :=
  s.lsRun q f [] [] fun s => .jump s 0 (s.tile.lsTarget q f)

/-- LOOP of L and S: the trip word's reserved bits must be zero (07 R153, 09 R203, R205). -/
def State.lsLoop (s : State) (q : Sequencer) (f : LSF) : State :=
  s.lsRun q f [f.base] [] fun s =>
    let t := s.tile
    let w := t.areg q f.base
    if bits w 63 48 != 0 || bits w 31 24 != 0 then .fault .illegal 0 none
    else
      let off := f.imm.toNat
      let x := t.ls q
      match startLoop x.lc x.pc (bits f.vreg 1 0) (bits w 23 0) (w.extractLsb' 32 16).toInt 8 off none with
      | none => .fault .illegal 0 none
      | some (lc, pc, _) => .loop s lc pc

/-- AADD (07 R150). -/
def execAadd (f : LSF) (s : State) : Out := .next (s.lsSet .l f [f.index, abOf f] fun t => t.areg .l f.index + t.areg .l (abOf f))

/-- AADDI (07 R150). -/
def execAaddi (f : LSF) (s : State) : Out := .next (s.lsSet .l f [f.index] fun t => t.areg .l f.index + dispOf f)

/-- ASUB (07 R150). -/
def execAsub (f : LSF) (s : State) : Out := .next (s.lsSet .l f [f.index, abOf f] fun t => t.areg .l f.index - t.areg .l (abOf f))

/-- AMUL (07 R150). -/
def execAmul (f : LSF) (s : State) : Out := .next (s.lsSet .l f [f.index, abOf f] fun t => t.areg .l f.index * t.areg .l (abOf f))

/-- ASHL (07 R150). -/
def execAshl (f : LSF) (s : State) : Out := .next (s.lsSet .l f [f.index] fun t => (t.areg .l f.index) <<< bits f.imm 5 0)

/-- AMOV (07 R150). -/
def execAmov (f : LSF) (s : State) : Out := .next (s.lsSet .l f [f.index] fun t => t.areg .l f.index)

/-- ALIT (07 R150): the 31-bit value of the vector field and imm20. -/
def execAlit (f : LSF) (s : State) : Out := .next (s.lsSet .l f [] fun _ => (f.vreg ++ f.imm).signExtend 64)

/-- ASLT (07 R151). -/
def execAslt (f : LSF) (s : State) : Out := .next (s.lsCmp .l f fun x y => x.slt y)

/-- AEQ (07 R151). -/
def execAeq (f : LSF) (s : State) : Out := .next (s.lsCmp .l f fun x y => x == y)

/-- LBR (07 R152). -/
def execLbr (f : LSF) (s : State) : Out := .next (s.lsBranch .l f)

/-- LJ (07 R152). -/
def execLj (f : LSF) (s : State) : Out := .next (s.lsJump .l f)

/-- LOOP of L (07 R153, 09 R203). -/
def execLoopL (f : LSF) (s : State) : Out := .next (s.lsLoop .l f)

/-- BADD (07 R150). -/
def execBadd (f : LSF) (s : State) : Out := .next (s.lsSet .s f [f.index, abOf f] fun t => t.areg .s f.index + t.areg .s (abOf f))

/-- BADDI (07 R150). -/
def execBaddi (f : LSF) (s : State) : Out := .next (s.lsSet .s f [f.index] fun t => t.areg .s f.index + dispOf f)

/-- BSUB (07 R150). -/
def execBsub (f : LSF) (s : State) : Out := .next (s.lsSet .s f [f.index, abOf f] fun t => t.areg .s f.index - t.areg .s (abOf f))

/-- BMUL (07 R150). -/
def execBmul (f : LSF) (s : State) : Out := .next (s.lsSet .s f [f.index, abOf f] fun t => t.areg .s f.index * t.areg .s (abOf f))

/-- BSHL (07 R150). -/
def execBshl (f : LSF) (s : State) : Out := .next (s.lsSet .s f [f.index] fun t => (t.areg .s f.index) <<< bits f.imm 5 0)

/-- BMOV (07 R150). -/
def execBmov (f : LSF) (s : State) : Out := .next (s.lsSet .s f [f.index] fun t => t.areg .s f.index)

/-- BLIT (07 R150): the 31-bit value of the vector field and imm20. -/
def execBlit (f : LSF) (s : State) : Out := .next (s.lsSet .s f [] fun _ => (f.vreg ++ f.imm).signExtend 64)

/-- BSLT (07 R151). -/
def execBslt (f : LSF) (s : State) : Out := .next (s.lsCmp .s f fun x y => x.slt y)

/-- BEQ of S (07 R151). -/
def execBeqS (f : LSF) (s : State) : Out := .next (s.lsCmp .s f fun x y => x == y)

/-- SBR (07 R152). -/
def execSbr (f : LSF) (s : State) : Out := .next (s.lsBranch .s f)

/-- SJ (07 R152). -/
def execSj (f : LSF) (s : State) : Out := .next (s.lsJump .s f)

/-- LOOP of S (07 R153, 09 R203). -/
def execLoopS (f : LSF) (s : State) : Out := .next (s.lsLoop .s f)

end Sys2Proof.Machine
end

