-- ==== Sys2Proof/Machine/Mgmt.lean ====
section
/-! DEFINITION. Reset and bring-up, clocks and temperature, and Badger's answers (01 R18, 19 R377, 24 R422 to R428). -/

namespace Sys2Proof.Machine

/-- The management plane changed. -/
def State.updMgmt (s : State) (f : Mgmt → Mgmt) : State := s.updDev fun d => { d with mgmt := f d.mgmt }

/-! ### Reset (01 R18, 24 R423, R424) -/

/-- Every state of task, launch, context and session lifetime at its reset value. HBM with its lost units, the images it holds, the error event
logs and the fuses stay; so does what lies outside the device. A dirty hub line's bytes stand in HBM (log 96); the launch-record rings are zeroed when
their queues are first enabled (log 98). -/
def State.endSession (s : State) : State :=
  s.updDev fun d => { Device.reset with
    hbm := d.hbm, images := d.images, host := d.host, remote := d.remote, toFabric := d.toFabric, hostReads := d.hostReads
    farReplies := d.farReplies, failed := d.failed, nextId := d.nextId, ports := d.ports, hentia := d.hentia, devid := d.devid, hostDeny := d.hostDeny, hostLost := d.hostLost
    lost := d.lost.filter fun u => u.code == 6 || u.code == 16
    dies := d.dies.map fun x => { Die.reset with log := x.log, rows := x.rows, nextRows := x.nextRows }
    mgmt := { d.mgmt with chains := Vector.replicate 64 (0, 0), folds := [], logAt := 0, logNow := [], heard := d.mgmt.events.length } }

/-- Bring-up fails with a reason: only the management plane answers. -/
def State.failUp (s : State) (reason : Nat) : State := s.updMgmt fun m => { m with state := 15, reason := reason, ready := false }

/-- Bring-up goes on to its next state. -/
def State.upTo (s : State) (st : Nat) : State := s.updMgmt fun m => { m with state := st }

/-- A repair that takes effect is logged with class 6 (23 R419, R420). -/
def State.applyRepair (s : State) (d : DieId) : State :=
  if (s.dev.dies[d]).rows = (s.dev.dies[d]).nextRows then s
  else (s.updDie d fun x => { x with rows := x.nextRows }).logOn d (mkLog 0 0 s.clkrd 0 0 (144 * d.val) 16 6)

/-- FUSES: the fuses are read, their code checked and the repair maps applied. -/
def State.upFuses (s : State) : State :=
  if s.dev.lost.any fun u => u.code == 16 then s.failUp 1
  else if !s.dev.dies.toList.all fun x => rowsOk x.nextRows then s.failUp 3
  else (((s.applyRepair 0).applyRepair 1).applyRepair 2).upTo 2

/-- FIRMWARE: the active image, which an update may have replaced, is verified, measured and loaded. -/
def State.upFirmware (s : State) : State :=
  let s := s.updMgmt fun m => { m with flashActive := m.flashNext.getD m.flashActive, flashNext := none }
  if Config.verifies s.dev.mgmt.flashActive then (s.updMgmt fun m => { m with measured := sha384 m.flashActive }).upTo 3
  else s.failUp 2

/-- The greatest step of 100 MHz, from 600 MHz up, that the three limits of 24 R425 allow at a 100 MHz period. -/
def Mgmt.maxMhz (m : Mgmt) (clk : Nat) : Nat :=
  if m.throttled then 600 else max 600 (min (min 1800 (m.fusedMax / 100 * 100)) (Config.capMhz m.cap clk / 100 * 100))

/-- CLOCKS: the arithmetic clock starts; a warm reset keeps it. -/
def State.upClocks (s : State) : State :=
  (if s.dev.mgmt.cold then s.updMgmt fun m => { m with mhz := ({ m with cap := 2800 } : Mgmt).maxMhz s.dev.clk, cap := 2800 } else s).upTo 4

/-- MEMORY: the stacks train; a cold reset writes every byte of HBM zero and resets every lost bit. -/
def State.upMemory (s : State) : State :=
  if !Config.hbmTrains s.dev.mgmt.resets then s.failUp 4
  else (if s.dev.mgmt.cold then s.updDev fun d => { d with hbm := [], images := [], lost := [] } else s).upTo 5

/-- The device number is read: from the panel site, else from the strap (19 R377). -/
def State.readNumber (s : State) : State :=
  let m := s.dev.mgmt
  let n := if m.siteAnswers then m.site else m.strap
  s.updDev fun d => { d with devid := (if m.siteAnswers then (1 : BitVec 1) else 0) ++ n }

/-- A link after training in this bring-up. -/
def State.trains (s : State) (p : LinkId) : Link := ⟨Config.linkTrains p s.dev.mgmt.resets, none, []⟩

/-- The fabric ports after training; those of the higher of two sites with one number stay down (19 R377). -/
def State.trainPorts (s : State) : State :=
  if s.higherSite then (s.updDev fun d => { d with ports := Vector.replicate 32 ⟨false, none, []⟩ }).logLink 0 432
  else s.updDev fun d => { d with ports := Vector.ofFn fun p => s.trains (.fabric p) }

/-- READY. -/
def State.upReady (s : State) : State := s.updMgmt fun m => { m with state := 6, reason := 0, ready := true }

/-- LINKS: the device number is read, and the Hentia links and fabric ports train. -/
def State.upLinks (s : State) : State :=
  let s := s.readNumber
  let s := s.updDev fun d => { d with hentia := Vector.ofFn fun i => s.trains (.hentia i) }
  if s.dev.hentia.toList.all fun l => l.up then s.trainPorts.upReady else s.failUp 5

/-- The present state of bring-up ends (24 R423). -/
def State.bringUp (s : State) : State :=
  match s.dev.mgmt.state with
  | 1 => s.upFuses
  | 2 => s.upFirmware
  | 3 => s.upClocks
  | 4 => s.upMemory
  | 5 => s.upLinks
  | _ => s

/-- One more reset since power-on; the first bring-up after power is none. -/
def State.countReset (s : State) : State :=
  s.updMgmt fun m => { m with powered := true, resets := if m.powered then m.resets + 1 else 0 }

/-- The error event logs cleared. -/
def State.clearLogs (s : State) : State := s.updDev fun d => { d with dies := d.dies.map fun x => { x with log := [] } }

/-- Bring-up begins at the first state of its kind (24 R423, R424). -/
def State.beginUp (s : State) (cold : Bool) : State :=
  s.updMgmt fun m => { m with state := if cold then 1 else 2, reason := 0, ready := false, cold := cold, coldLow := false }

/-- COLD_RESET (01 R18, 24 R423): COLD_RST_N rises and bring-up runs from FUSES. -/
def execColdReset (s : State) : EOut := .next (s.endSession.countReset.clearLogs.beginUp true)

/-- A cold bring-up is in progress, or was when WARM_RST_N went low, which a warm reset starts again from FUSES: a cold reset overrides a warm one (24 R424, log 80). -/
def Mgmt.coldRunning (m : Mgmt) : Bool := m.cold && decide (m.state ≤ 5)

/-- WARM_RESET (01 R18, 24 R423): WARM_RST_N has been low for at least 1 µs; FUSES is skipped. While COLD_RST_N is low nothing happens. -/
def execWarmReset (s : State) : EOut :=
  if !s.dev.mgmt.powered || s.dev.mgmt.coldLow then .next s
  else .next (s.endSession.countReset.beginUp s.dev.mgmt.coldRunning)

/-- The device held in reset: DEVSTAT reads state 0. -/
def State.holdReset (s : State) (cold : Bool) : State :=
  s.endSession.updMgmt fun m => { m with state := 0, reason := 0, ready := false, coldLow := cold, cold := cold || m.coldRunning }

/-- RESET_ASSERTED (24 R423): COLD_RST_N is low; DEVSTAT reads state 0 and the device holds in reset. -/
def execResetAsserted (s : State) : EOut := .next (s.holdReset true)

/-- WARM_RST_N is held low (24 R422, R423): state 0, unless COLD_RST_N is low already. -/
def State.warmLow (s : State) : State := if !s.dev.mgmt.powered || s.dev.mgmt.coldLow then s else s.holdReset false

/-- POWER_REMOVAL (24 R425): every state but the fuses is lost. The board's flash, the host, the other devices and the sensors' surroundings are
outside the device. -/
def execPowerRemoval (s : State) : EOut :=
  .next (s.updDev fun d => { Device.reset with
    host := d.host, remote := d.remote, toFabric := d.toFabric, hostReads := d.hostReads, farReplies := d.farReplies, failed := d.failed, nextId := d.nextId
    hostDeny := d.hostDeny, hostLost := d.hostLost, ports := Vector.replicate 32 ⟨false, none, []⟩, hentia := Vector.replicate 2 ⟨false, none, []⟩
    lost := d.lost.filter fun u => u.code == 16
    dies := d.dies.map fun x => { Die.reset with rows := x.rows, nextRows := x.nextRows }
    mgmt := { Mgmt.reset with
      powered := false, state := 0, ready := false, fusedMax := d.mgmt.fusedMax, temps := d.mgmt.temps
      flashActive := d.mgmt.flashActive, flashNext := d.mgmt.flashNext, measured := 0, answers := d.mgmt.answers, events := d.mgmt.events, heard := d.mgmt.events.length
      siteAnswers := d.mgmt.siteAnswers, site := d.mgmt.site, strap := d.mgmt.strap } })

/-! ### Clock and temperature (24 R425) -/

/-- f changed at a cycle boundary: the part of a 100 MHz period that has passed keeps its length. -/
def State.setMhz (s : State) (mhz : Nat) : State :=
  s.updDev fun d => { d with clkRem := d.clkRem * mhz / max 1 d.mgmt.mhz, mgmt := { d.mgmt with mhz := mhz } }

/-- A frequency Badger may choose: a step of 100 MHz from 0.6 GHz to the lowest limit. -/
def Mgmt.mhzOk (m : Mgmt) (clk mhz : Nat) : Bool := decide (600 ≤ mhz) && mhz % 100 == 0 && decide (mhz ≤ m.maxMhz clk)

/-- CLOCK_CHANGE (24 R425). -/
def execClockChange (mhz : Nat) (s : State) : EOut := .next (if s.isReady && s.dev.mgmt.mhzOk s.dev.clk mhz then s.setMhz mhz else s)

/-- A sensor's reading: at 105 °C f falls to 0.6 GHz until every sensor reads below 100 °C; at 115 °C THERMTRIP_N goes low. -/
def State.readTemp (s : State) (sensor deg : Nat) : State :=
  let temps := wr s.dev.mgmt.temps sensor deg
  let hot := temps.toList.any fun t => decide (105 ≤ t)
  let cool := temps.toList.all fun t => decide (t < 100)
  let trip := temps.toList.any fun t => decide (115 ≤ t)
  let s := s.updMgmt fun m => { m with
    temps := temps, throttled := hot || (m.throttled && !cool), thermtrip := m.thermtrip || trip }
  if hot then s.setMhz 600 else s

/-- THERMAL_THROTTLE (24 R425): sensors 0 to 2 are the dies', 3 to 14 the stacks'. -/
def execThermalThrottle (sensor deg : Nat) (s : State) : EOut := .next (if s.dev.mgmt.powered then s.readTemp sensor deg else s)

/-- THERMTRIP (24 R425). -/
def execThermtrip (sensor deg : Nat) (s : State) : EOut :=
  .next (if s.dev.mgmt.powered && decide (115 ≤ deg) then s.readTemp sensor deg else s)

/-! ### Badger's answers (24 R426, R427) -/

/-- Badger answers, in every state of the device but reset and power off. -/
def State.answer (s : State) (a : Answer) : State :=
  if s.dev.mgmt.state = 0 then s else s.updMgmt fun m => { m with answers := m.answers ++ [a] }

/-- An answer whose contents the spec leaves to its standard (log 15). -/
def State.answerOpen (s : State) (r : MgmtReq) : EOut := .next (s.answer (.ok (Config.mgmtPayload r)))

/-- MCTP control messages. -/
def execMctpControl (r : MgmtReq) (s : State) : EOut := s.answerOpen r

/-- Any other type or command. -/
def execUnsupportedRequest (_ : MgmtReq) (s : State) : EOut := .next (s.answer .unsupported)

/-- PLDM GetTID. -/
def execGettid (r : MgmtReq) (s : State) : EOut := s.answerOpen r

/-- PLDM GetPLDMVersion. -/
def execGetpldmversion (r : MgmtReq) (s : State) : EOut := s.answerOpen r

/-- PLDM GetPLDMTypes: types 0, 2 and 5, as a bit map of 64 types (log 89). -/
def execGetpldmtypes (_ : MgmtReq) (s : State) : EOut := .next (s.answer (.ok ([0x25] ++ List.replicate 7 0)))

/-- A bit map of the 256 commands of a type, as 32 bytes. -/
def commandMap (cs : List Nat) : List Byte := leBytes 32 ((cs.map fun c => 2 ^ c).sum)

/-- PLDM GetPLDMCommands: the commands of types 0 and 2 that Badger supports, as a bit map (log 89); those of type 5 are not listed. -/
def execGetpldmcommands (r : MgmtReq) (s : State) : EOut :=
  match (r.data.headD 0).toNat with
  | 0 => .next (s.answer (.ok (commandMap [2, 3, 4, 5])))
  | 2 => .next (s.answer (.ok (commandMap [0x0A, 0x11, 0x31, 0x32, 0x51])))
  | _ => s.answerOpen r

/-- PLDM GetPDR. -/
def execGetpdr (r : MgmtReq) (s : State) : EOut := s.answerOpen r

/-- The first two bytes of a request: the ID of a sensor or effecter. -/
def reqPoint (r : MgmtReq) : Nat := leNat (r.data.take 2)

/-- The value a SetNumericEffecterValue carries, after the ID and the size. -/
def reqValue (r : MgmtReq) : Nat := leNat ((r.data.drop 3).take 4)

/-- The telemetry points; module power is open (log 15), and Badger holds it at or below the cap (24 R425). -/
def State.sensor (s : State) (id : Nat) : Option Nat :=
  if id = 1 then some (min (Config.powerReading s.dev.clk) s.dev.mgmt.cap)
  else if 2 ≤ id ∧ id ≤ 16 then some (rd s.dev.mgmt.temps (id - 2))
  else if id = 17 then some s.dev.mgmt.mhz
  else if id = 18 then some (s.devstat.toNat % 2 ^ 16)
  else none

/-- PLDM GetSensorReading: four bytes. -/
def execGetsensorreading (r : MgmtReq) (s : State) : EOut :=
  match s.sensor (reqPoint r) with
  | some v => .next (s.answer (.ok (leBytes 4 v)))
  | none => s.answerOpen r

/-- The power cap set: f falls at once where the cap allows less (24 R425). -/
def State.setCap (s : State) (w : Nat) : State :=
  let s := s.updMgmt fun m => { m with cap := w }
  if s.isReady && decide (s.dev.mgmt.maxMhz s.dev.clk < s.dev.mgmt.mhz) then s.setMhz (s.dev.mgmt.maxMhz s.dev.clk) else s

/-- SetNumericEffecterValue on effecter 1: the power cap, from 1,200 W to 2,800 W. -/
def execPowerCapSet (r : MgmtReq) (s : State) : EOut :=
  if s.dev.mgmt.state = 0 then .next s
  else if 1200 ≤ reqValue r ∧ reqValue r ≤ 2800 then .next ((s.setCap (reqValue r)).answer (.ok []))
  else .next (s.answer .outOfRange)

/-- The logs of all dies cleared. The entries of the present cycle come after the clear, and make their events as entries of the cleared logs (24
R426, log 131). -/
def State.clearAllLogs (s : State) : State :=
  let m := s.dev.mgmt
  let now := if m.logAt = s.dev.now then m.logNow else []
  let kept := if m.logAt = s.dev.now then m.heard else m.events.length
  now.foldl (fun s x => s.logOn x.1 x.2) (s.updDev fun d => { d with
    dies := d.dies.map fun x => { x with log := [] }
    mgmt := { m with logAt := d.now, logNow := [], events := m.events.take kept, heard := kept } })

/-- SetNumericEffecterValue on effecter 2: 1 clears the logs of all dies. -/
def execEventLogClear (r : MgmtReq) (s : State) : EOut :=
  if s.dev.mgmt.state = 0 then .next s
  else if reqValue r = 1 then .next (s.clearAllLogs.answer (.ok []))
  else s.answerOpen r

/-- PLDM GetNumericEffecterValue: the power cap, four bytes. -/
def execGetnumericeffectervalue (r : MgmtReq) (s : State) : EOut :=
  if (reqPoint r) = 1 then .next (s.answer (.ok (leBytes 4 s.dev.mgmt.cap))) else s.answerOpen r

/-- PLDM Type 5: the inactive flash image is written; the next reset makes it active. -/
def execFirmwareUpdate (r : MgmtReq) (s : State) : EOut :=
  if s.dev.mgmt.state = 0 then .next s
  else .next ((s.updMgmt fun m => { m with flashNext := some r.data }).answer (.ok []))

/-- SPDM GET_VERSION: one entry, version 1.2 (log 89). -/
def execGetVersion (_ : MgmtReq) (s : State) : EOut := .next (s.answer (.ok [0, 1, 0x00, 0x12]))

/-- SPDM GET_CAPABILITIES. -/
def execGetCapabilities (r : MgmtReq) (s : State) : EOut := s.answerOpen r

/-- SPDM NEGOTIATE_ALGORITHMS: length 36, raw measurements, ECDSA P-384 and SHA-384 alone (log 89). -/
def execNegotiateAlgorithms (_ : MgmtReq) (s : State) : EOut :=
  .next (s.answer (.ok (leBytes 2 36 ++ [1, 0] ++ leBytes 4 1 ++ leBytes 4 0x80 ++ leBytes 4 2 ++ List.replicate 16 0)))

/-- The 48 bytes of a digest. -/
def digestBytes (h : BitVec 384) : List Byte := leBytes 48 h.toNat

/-- SPDM GET_DIGESTS: the digest of slot 0's chain. -/
def execGetDigests (_ : MgmtReq) (s : State) : EOut := .next (s.answer (.ok (digestBytes (sha384 Config.certChain))))

/-- SPDM GET_CERTIFICATE: slot 0 holds the chain, the other slots are empty. -/
def execGetCertificate (r : MgmtReq) (s : State) : EOut := .next (s.answer (.ok (if r.data.headD 0 = 0 then Config.certChain else [])))

/-- SPDM CHALLENGE: Badger's signature. -/
def execChallenge (r : MgmtReq) (s : State) : EOut := .next (s.answer (.ok (Config.sign r.data)))

/-- The bytes of the fuse map that block 3 measures. -/
def State.fuseMap (s : State) : List Byte := Config.fuseMap (s.dev.dies.toList.map fun x => x.nextRows) s.dev.mgmt.fusedMax

/-- A measurement block (24 R427). -/
def State.block (s : State) (i : Nat) : List Byte :=
  if i = 1 then digestBytes (sha384 Config.badgerFirmware)
  else if i = 2 then digestBytes s.dev.mgmt.measured
  else if i = 3 then digestBytes (sha384 s.fuseMap)
  else if i = 4 then leBytes 8 s.dev.devid.toNat
  else if 16 ≤ i ∧ i < 80 then
    let c := rd s.dev.mgmt.chains (i - 16)
    digestBytes c.1 ++ leBytes 8 c.2
  else []

/-- The blocks a request names by its second byte: all of them for 0xFF. -/
def State.blocks (s : State) (i : Nat) : List Byte :=
  if i = 0xFF then ([1, 2, 3, 4] ++ (List.range 64).map fun q => 16 + q).flatMap s.block else s.block i

/-- SPDM GET_MEASUREMENTS: the blocks named, signed when bit 0 of the first byte asks for it. -/
def execGetMeasurements (r : MgmtReq) (s : State) : EOut :=
  let b := s.blocks ((r.data.getD 1 0).toNat)
  .next (s.answer (.ok (if bit (r.data.headD 0) 0 then b ++ Config.sign (r.data ++ b) else b)))

end Sys2Proof.Machine
end

