-- ==== Sys2Proof/Machine/Dispatch.lean ====
section
/-! DEFINITION. One arm for each constructor of Instr: a direct call of its meaning. -/

namespace Sys2Proof.Machine

def exec (i : Instr) (s : State) : Host.Outcome State Fault Refusal :=
  match i with
  | .add d a b => Sys2Proof.Machine.execAdd d a b s
  | .sub d a b => Sys2Proof.Machine.execSub d a b s
  | .and d a b => Sys2Proof.Machine.execAnd d a b s
  | .or d a b => Sys2Proof.Machine.execOr d a b s
  | .xor d a b => Sys2Proof.Machine.execXor d a b s
  | .shl d a b => Sys2Proof.Machine.execShl d a b s
  | .shr d a b => Sys2Proof.Machine.execShr d a b s
  | .sar d a b => Sys2Proof.Machine.execSar d a b s
  | .mul d a b => Sys2Proof.Machine.execMul d a b s
  | .mulh d a b => Sys2Proof.Machine.execMulh d a b s
  | .mulhn d a b => Sys2Proof.Machine.execMulhn d a b s
  | .div d a b => Sys2Proof.Machine.execDiv d a b s
  | .divn d a b => Sys2Proof.Machine.execDivn d a b s
  | .rem d a b => Sys2Proof.Machine.execRem d a b s
  | .remn d a b => Sys2Proof.Machine.execRemn d a b s
  | .min d a b => Sys2Proof.Machine.execMin d a b s
  | .max d a b => Sys2Proof.Machine.execMax d a b s
  | .minn d a b => Sys2Proof.Machine.execMinn d a b s
  | .maxn d a b => Sys2Proof.Machine.execMaxn d a b s
  | .slt d a b => Sys2Proof.Machine.execSlt d a b s
  | .sltn d a b => Sys2Proof.Machine.execSltn d a b s
  | .addi d a imm => Sys2Proof.Machine.execAddi d a imm s
  | .andi d a imm => Sys2Proof.Machine.execAndi d a imm s
  | .ori d a imm => Sys2Proof.Machine.execOri d a imm s
  | .xori d a imm => Sys2Proof.Machine.execXori d a imm s
  | .shli d a sh => Sys2Proof.Machine.execShli d a sh s
  | .shri d a sh => Sys2Proof.Machine.execShri d a sh s
  | .sari d a sh => Sys2Proof.Machine.execSari d a sh s
  | .slti d a imm => Sys2Proof.Machine.execSlti d a imm s
  | .lit d w => Sys2Proof.Machine.execLit d w s
  | .litZx d w => Sys2Proof.Machine.execLitZx d w s
  | .litHi d w => Sys2Proof.Machine.execLitHi d w s
  | .beq a b off => Sys2Proof.Machine.execBeq a b off s
  | .bne a b off => Sys2Proof.Machine.execBne a b off s
  | .blt a b off => Sys2Proof.Machine.execBlt a b off s
  | .bge a b off => Sys2Proof.Machine.execBge a b off s
  | .bltn a b off => Sys2Proof.Machine.execBltn a b off s
  | .bgen a b off => Sys2Proof.Machine.execBgen a b off s
  | .jal off => Sys2Proof.Machine.execJal off s
  | .jalr d a imm => Sys2Proof.Machine.execJalr d a imm s
  | .klds d a imm => Sys2Proof.Machine.execKlds d a imm s
  | .kldm d a imm => Sys2Proof.Machine.execKldm d a imm s
  | .kldl d a imm => Sys2Proof.Machine.execKldl d a imm s
  | .kldf d a imm => Sys2Proof.Machine.execKldf d a imm s
  | .kldh d a imm => Sys2Proof.Machine.execKldh d a imm s
  | .ksts a b imm => Sys2Proof.Machine.execKsts a b imm s
  | .kstm a b imm => Sys2Proof.Machine.execKstm a b imm s
  | .kstl a b imm => Sys2Proof.Machine.execKstl a b imm s
  | .kstf a b imm => Sys2Proof.Machine.execKstf a b imm s
  | .ksth a b imm => Sys2Proof.Machine.execKsth a b imm s
  | .katm d a b op => Sys2Proof.Machine.execKatm d a b op s
  | .katl d a b op => Sys2Proof.Machine.execKatl d a b op s
  | .katf d a b op => Sys2Proof.Machine.execKatf d a b op s
  | .smwait a => Sys2Proof.Machine.execSmwait a s
  | .smsig a => Sys2Proof.Machine.execSmsig a s
  | .smset a b => Sys2Proof.Machine.execSmset a b s
  | .smrd d a => Sys2Proof.Machine.execSmrd d a s
  | .evpop d => Sys2Proof.Machine.execEvpop d s
  | .evpeek d => Sys2Proof.Machine.execEvpeek d s
  | .gres a b => Sys2Proof.Machine.execGres a b s
  | .tkpush a c => Sys2Proof.Machine.execTkpush a c s
  | .tkpop d c => Sys2Proof.Machine.execTkpop d c s
  | .barr d a b => Sys2Proof.Machine.execBarr d a b s
  | .bard d a => Sys2Proof.Machine.execBard d a s
  | .barx a b => Sys2Proof.Machine.execBarx a b s
  | .barw d a b => Sys2Proof.Machine.execBarw d a b s
  | .flagadd a b => Sys2Proof.Machine.execFlagadd a b s
  | .flagset a b => Sys2Proof.Machine.execFlagset a b s
  | .grpset a b => Sys2Proof.Machine.execGrpset a b s
  | .grpq d a b => Sys2Proof.Machine.execGrpq d a b s
  | .fence kind scope => Sys2Proof.Machine.execFence kind scope s
  | .qfence a b => Sys2Proof.Machine.execQfence a b s
  | .subon d a b => Sys2Proof.Machine.execSubon d a b s
  | .suboff d a => Sys2Proof.Machine.execSuboff d a s
  | .chresync d a => Sys2Proof.Machine.execChresync d a s
  | .sinc d a => Sys2Proof.Machine.execSinc d a s
  | .srel d a => Sys2Proof.Machine.execSrel d a s
  | .sroot d a b => Sys2Proof.Machine.execSroot d a b s
  | .nop => Sys2Proof.Machine.execNop s
  | .sqrd d a b => Sys2Proof.Machine.execSqrd d a b s
  | .sqres a => Sys2Proof.Machine.execSqres a s
  | .sqskip a => Sys2Proof.Machine.execSqskip a s
  | .srrd d a => Sys2Proof.Machine.execSrrd d a s
  | .srwr a b => Sys2Proof.Machine.execSrwr a b s
  | .rng d a => Sys2Proof.Machine.execRng d a s
  | .clkrd d => Sys2Proof.Machine.execClkrd d s
  | .trap a => Sys2Proof.Machine.execTrap a s
  | .eret => Sys2Proof.Machine.execEret s
  | .yield => Sys2Proof.Machine.execYield s
  | .exit => Sys2Proof.Machine.execExit s
  | .lds m w f => Sys2Proof.Machine.execLds m w f s
  | .ldm m w f => Sys2Proof.Machine.execLdm m w f s
  | .ldl m w f => Sys2Proof.Machine.execLdl m w f s
  | .ldf m w f => Sys2Proof.Machine.execLdf m w f s
  | .ldn m w f => Sys2Proof.Machine.execLdn m w f s
  | .ldh m w f => Sys2Proof.Machine.execLdh m w f s
  | .sts m w f => Sys2Proof.Machine.execSts m w f s
  | .stm m w f => Sys2Proof.Machine.execStm m w f s
  | .stl m w f => Sys2Proof.Machine.execStl m w f s
  | .stf m w f => Sys2Proof.Machine.execStf m w f s
  | .sth m w f => Sys2Proof.Machine.execSth m w f s
  | .gths f => Sys2Proof.Machine.execGths f s
  | .gthl f => Sys2Proof.Machine.execGthl f s
  | .scts f => Sys2Proof.Machine.execScts f s
  | .sctl f => Sys2Proof.Machine.execSctl f s
  | .aadd f => Sys2Proof.Machine.execAadd f s
  | .aaddi f => Sys2Proof.Machine.execAaddi f s
  | .asub f => Sys2Proof.Machine.execAsub f s
  | .amul f => Sys2Proof.Machine.execAmul f s
  | .ashl f => Sys2Proof.Machine.execAshl f s
  | .amov f => Sys2Proof.Machine.execAmov f s
  | .alit f => Sys2Proof.Machine.execAlit f s
  | .aslt f => Sys2Proof.Machine.execAslt f s
  | .aeq f => Sys2Proof.Machine.execAeq f s
  | .badd f => Sys2Proof.Machine.execBadd f s
  | .baddi f => Sys2Proof.Machine.execBaddi f s
  | .bsub f => Sys2Proof.Machine.execBsub f s
  | .bmul f => Sys2Proof.Machine.execBmul f s
  | .bshl f => Sys2Proof.Machine.execBshl f s
  | .bmov f => Sys2Proof.Machine.execBmov f s
  | .blit f => Sys2Proof.Machine.execBlit f s
  | .bslt f => Sys2Proof.Machine.execBslt f s
  | .beqS f => Sys2Proof.Machine.execBeqS f s
  | .lbr f => Sys2Proof.Machine.execLbr f s
  | .lj f => Sys2Proof.Machine.execLj f s
  | .sbr f => Sys2Proof.Machine.execSbr f s
  | .sj f => Sys2Proof.Machine.execSj f s
  | .loopL f => Sys2Proof.Machine.execLoopL f s
  | .loopS f => Sys2Proof.Machine.execLoopS f s
  | .cpy f => Sys2Proof.Machine.execCpy f s
  | .cpy2 f => Sys2Proof.Machine.execCpy2 f s
  | .pfh f => Sys2Proof.Machine.execPfh f s
  | .mdld f => Sys2Proof.Machine.execMdld f s
  | .scout f => Sys2Proof.Machine.execScout f s
  | .chrecv f => Sys2Proof.Machine.execChrecv f s
  | .wlpop f => Sys2Proof.Machine.execWlpop f s
  | .facc f => Sys2Proof.Machine.execFacc f s
  | .fsend f => Sys2Proof.Machine.execFsend f s
  | .fsend2 f => Sys2Proof.Machine.execFsend2 f s
  | .chsend f => Sys2Proof.Machine.execChsend f s
  | .wlapp f => Sys2Proof.Machine.execWlapp f s
  | .slook f => Sys2Proof.Machine.execSlook f s
  | .slooki f => Sys2Proof.Machine.execSlooki f s
  | .atm op f => Sys2Proof.Machine.execAtm op f s
  | .atl op f => Sys2Proof.Machine.execAtl op f s
  | .atf op f => Sys2Proof.Machine.execAtf op f s
  | .vadd ty f x => Sys2Proof.Machine.execVadd ty f x s
  | .vsub ty f x => Sys2Proof.Machine.execVsub ty f x s
  | .vmul ty f x => Sys2Proof.Machine.execVmul ty f x s
  | .vfma ty f x => Sys2Proof.Machine.execVfma ty f x s
  | .vfms ty f x => Sys2Proof.Machine.execVfms ty f x s
  | .vmin ty f x => Sys2Proof.Machine.execVmin ty f x s
  | .vmax ty f x => Sys2Proof.Machine.execVmax ty f x s
  | .vabs ty f x => Sys2Proof.Machine.execVabs ty f x s
  | .vneg ty f x => Sys2Proof.Machine.execVneg ty f x s
  | .vcpys ty f x => Sys2Proof.Machine.execVcpys ty f x s
  | .viadd ty f x => Sys2Proof.Machine.execViadd ty f x s
  | .visub ty f x => Sys2Proof.Machine.execVisub ty f x s
  | .vimul ty f x => Sys2Proof.Machine.execVimul ty f x s
  | .vimulh ty f x => Sys2Proof.Machine.execVimulh ty f x s
  | .vand ty f x => Sys2Proof.Machine.execVand ty f x s
  | .vor ty f x => Sys2Proof.Machine.execVor ty f x s
  | .vxor ty f x => Sys2Proof.Machine.execVxor ty f x s
  | .vnot ty f x => Sys2Proof.Machine.execVnot ty f x s
  | .vshl ty f x => Sys2Proof.Machine.execVshl ty f x s
  | .vshr ty f x => Sys2Proof.Machine.execVshr ty f x s
  | .vsar ty f x => Sys2Proof.Machine.execVsar ty f x s
  | .vimin ty f x => Sys2Proof.Machine.execVimin ty f x s
  | .vimax ty f x => Sys2Proof.Machine.execVimax ty f x s
  | .vicmpeq ty f x => Sys2Proof.Machine.execVicmpeq ty f x s
  | .vicmplt ty f x => Sys2Proof.Machine.execVicmplt ty f x s
  | .vcmpeq ty f x => Sys2Proof.Machine.execVcmpeq ty f x s
  | .vcmplt ty f x => Sys2Proof.Machine.execVcmplt ty f x s
  | .vcmple ty f x => Sys2Proof.Machine.execVcmple ty f x s
  | .vcmpun ty f x => Sys2Proof.Machine.execVcmpun ty f x s
  | .vsel ty f x => Sys2Proof.Machine.execVsel ty f x s
  | .vmov ty f x => Sys2Proof.Machine.execVmov ty f x s
  | .vpart ty f x => Sys2Proof.Machine.execVpart ty f x s
  | .vbcast ty f x => Sys2Proof.Machine.execVbcast ty f x s
  | .vshuf ty f x => Sys2Proof.Machine.execVshuf ty f x s
  | .vrot ty f x => Sys2Proof.Machine.execVrot ty f x s
  | .viota ty f x => Sys2Proof.Machine.execViota ty f x s
  | .vcompr ty f x => Sys2Proof.Machine.execVcompr ty f x s
  | .vcvt ty f x => Sys2Proof.Machine.execVcvt ty f x s
  | .vcvto ty f x => Sys2Proof.Machine.execVcvto ty f x s
  | .vcvts ty f x => Sys2Proof.Machine.execVcvts ty f x s
  | .vcbdec ty f x => Sys2Proof.Machine.execVcbdec ty f x s
  | .vexp2 ty f x => Sys2Proof.Machine.execVexp2 ty f x s
  | .vlog2 ty f x => Sys2Proof.Machine.execVlog2 ty f x s
  | .vsin ty f x => Sys2Proof.Machine.execVsin ty f x s
  | .vcos ty f x => Sys2Proof.Machine.execVcos ty f x s
  | .vtanh ty f x => Sys2Proof.Machine.execVtanh ty f x s
  | .vrcp ty f x => Sys2Proof.Machine.execVrcp ty f x s
  | .vrsqrt ty f x => Sys2Proof.Machine.execVrsqrt ty f x s
  | .vsqrt ty f x => Sys2Proof.Machine.execVsqrt ty f x s
  | .vdiv ty f x => Sys2Proof.Machine.execVdiv ty f x s
  | .vrsum ty f x => Sys2Proof.Machine.execVrsum ty f x s
  | .vrmax ty f x => Sys2Proof.Machine.execVrmax ty f x s
  | .vrmin ty f x => Sys2Proof.Machine.execVrmin ty f x s
  | .vrstat ty f x => Sys2Proof.Machine.execVrstat ty f x s
  | .vrsoft ty f x => Sys2Proof.Machine.execVrsoft ty f x s
  | .vcmul ty f x => Sys2Proof.Machine.execVcmul ty f x s
  | .vcfma ty f x => Sys2Proof.Machine.execVcfma ty f x s
  | .vconj ty f x => Sys2Proof.Machine.execVconj ty f x s
  | .vrand ty f x => Sys2Proof.Machine.execVrand ty f x s
  | .pand ty f x => Sys2Proof.Machine.execPand ty f x s
  | .por ty f x => Sys2Proof.Machine.execPor ty f x s
  | .pxor ty f x => Sys2Proof.Machine.execPxor ty f x s
  | .pnot ty f x => Sys2Proof.Machine.execPnot ty f x s
  | .cbr ty f x => Sys2Proof.Machine.execCbr ty f x s
  | .cbrt ty f x => Sys2Proof.Machine.execCbrt ty f x s
  | .cj ty f x => Sys2Proof.Machine.execCj ty f x s
  | .loopC ty f x => Sys2Proof.Machine.execLoopC ty f x s
  | .loopSet ty f x => Sys2Proof.Machine.execLoopSet ty f x s
  | .rotb ty f x => Sys2Proof.Machine.execRotb ty f x s
  | .lbhdr ty f x => Sys2Proof.Machine.execLbhdr ty f x s
  | .viewt ty f x => Sys2Proof.Machine.execViewt ty f x s
  | .viewa ty f x => Sys2Proof.Machine.execViewa ty f x s
  | .fmtset ty f x => Sys2Proof.Machine.execFmtset ty f x s
  | .mdset ty f x => Sys2Proof.Machine.execMdset ty f x s
  | .mdsetf ty f x => Sys2Proof.Machine.execMdsetf ty f x s
  | .cbload ty f x => Sys2Proof.Machine.execCbload ty f x s
  | .mxgo m k => Sys2Proof.Machine.execMxgo m k s
  | .mxgou m k => Sys2Proof.Machine.execMxgou m k s
  | .mxloop m k => Sys2Proof.Machine.execMxloop m k s
  | .tokenBundle k => Sys2Proof.Machine.execTokenBundle k s
  | .heldCodebookWrite t => Sys2Proof.Machine.execHeldCodebookWrite t s
  | .heldViewWrite t => Sys2Proof.Machine.execHeldViewWrite t s
  | .commandDecided t q => Sys2Proof.Machine.execCommandDecided t q s
  | .engineCommandStart t q => Sys2Proof.Machine.execEngineCommandStart t q s
  | .copySector t q => Sys2Proof.Machine.execCopySector t q s
  | .copyComplete t q => Sys2Proof.Machine.execCopyComplete t q s
  | .scoutLeaf t => Sys2Proof.Machine.execScoutLeaf t s
  | .scoutComplete t => Sys2Proof.Machine.execScoutComplete t s
  | .flowSendStart t => Sys2Proof.Machine.execFlowSendStart t s
  | .flowSendComplete t => Sys2Proof.Machine.execFlowSendComplete t s
  | .qfenceJoinComplete t q => Sys2Proof.Machine.execQfenceJoinComplete t q s
  | .matrixCommandStart t q => Sys2Proof.Machine.execMatrixCommandStart t q s
  | .matrixKStep t => Sys2Proof.Machine.execMatrixKStep t s
  | .matrixPromotion t => Sys2Proof.Machine.execMatrixPromotion t s
  | .matrixCommandComplete t => Sys2Proof.Machine.execMatrixCommandComplete t s
  | .taskStart t => Sys2Proof.Machine.execTaskStart t s
  | .taskRetire t => Sys2Proof.Machine.execTaskRetire t s
  | .tokenStall t q => Sys2Proof.Machine.execTokenStall t q s
  | .owlQuiescence id => Sys2Proof.Machine.execOwlQuiescence id s
  | .owlStallRule ctx => Sys2Proof.Machine.execOwlStallRule ctx s
  | .workListAppendArrival t => Sys2Proof.Machine.execWorkListAppendArrival t s
  | .workListPopArrival t => Sys2Proof.Machine.execWorkListPopArrival t s
  | .barrierUpdate t us => Sys2Proof.Machine.execBarrierUpdate t us s
  | .flowPacketArrival n => Sys2Proof.Machine.execFlowPacketArrival n s
  | .warrenFetch n => Sys2Proof.Machine.execWarrenFetch n s
  | .flowTimeout place slot => Sys2Proof.Machine.execFlowTimeout place slot s
  | .sequencerFlowTimeout t q => Sys2Proof.Machine.execSequencerFlowTimeout t q s
  | .class3Eviction x => Sys2Proof.Machine.execClass3Eviction x s
  | .requestResend x => Sys2Proof.Machine.execRequestResend x s
  | .channelSlotArrival n => Sys2Proof.Machine.execChannelSlotArrival n s
  | .channelReturnArrival n => Sys2Proof.Machine.execChannelReturnArrival n s
  | .senderAudit t c => Sys2Proof.Machine.execSenderAudit t c s
  | .receiverAudit t c => Sys2Proof.Machine.execReceiverAudit t c s
  | .auditReply n => Sys2Proof.Machine.execAuditReply n s
  | .subscriptionBatchClose t => Sys2Proof.Machine.execSubscriptionBatchClose t s
  | .forwardedUpdate n => Sys2Proof.Machine.execForwardedUpdate n s
  | .subscriptionHandshake t => Sys2Proof.Machine.execSubscriptionHandshake t s
  | .faccRequestArrival n at_ => Sys2Proof.Machine.execFaccRequestArrival n at_ s
  | .combiningWindowEnd n => Sys2Proof.Machine.execCombiningWindowEnd n s
  | .combiningReply n => Sys2Proof.Machine.execCombiningReply n s
  | .combiningRecordLost n what => Sys2Proof.Machine.execCombiningRecordLost n what s
  | .memoryRequest t n piece => Sys2Proof.Machine.execMemoryRequest t n piece s
  | .postedWriteAck t n => Sys2Proof.Machine.execPostedWriteAck t n s
  | .postedWriteRefusal t n => Sys2Proof.Machine.execPostedWriteRefusal t n s
  | .requestTimeout t src => Sys2Proof.Machine.execRequestTimeout t src s
  | .releaseWalk n => Sys2Proof.Machine.execReleaseWalk n s
  | .trapEntry t => Sys2Proof.Machine.execTrapEntry t s
  | .taskKill t => Sys2Proof.Machine.execTaskKill t s
  | .preemption t => Sys2Proof.Machine.execPreemption t s
  | .contextImageSaved t => Sys2Proof.Machine.execContextImageSaved t s
  | .resume t => Sys2Proof.Machine.execResume t s
  | .tailWrite q => Sys2Proof.Machine.execTailWrite q s
  | .commandAccept q => Sys2Proof.Machine.execCommandAccept q s
  | .transferCommand id => Sys2Proof.Machine.execTransferCommand id s
  | .launchStaging id => Sys2Proof.Machine.execLaunchStaging id s
  | .launchReady id => Sys2Proof.Machine.execLaunchReady id s
  | .taskPlacement t => Sys2Proof.Machine.execTaskPlacement t s
  | .readySignal id die => Sys2Proof.Machine.execReadySignal id die s
  | .launchSealing id => Sys2Proof.Machine.execLaunchSealing id s
  | .queueEnable q v => Sys2Proof.Machine.execQueueEnable q v s
  | .queueDisable q v => Sys2Proof.Machine.execQueueDisable q v s
  | .seedWrite q v => Sys2Proof.Machine.execSeedWrite q v s
  | .ctrbaseWrite q v => Sys2Proof.Machine.execCtrbaseWrite q v s
  | .registerWrite off v => Sys2Proof.Machine.execRegisterWrite off v s
  | .shootDown v => Sys2Proof.Machine.execShootDown v s
  | .shootDownComplete => Sys2Proof.Machine.execShootDownComplete s
  | .accessTableWrite g e part v => Sys2Proof.Machine.execAccessTableWrite g e part v s
  | .atsync v => Sys2Proof.Machine.execAtsync v s
  | .partitionMapWrite t v => Sys2Proof.Machine.execPartitionMapWrite t v s
  | .farangeWrite n v => Sys2Proof.Machine.execFarangeWrite n v s
  | .settIndexEnable v => Sys2Proof.Machine.execSettIndexEnable v s
  | .flgapWrite v => Sys2Proof.Machine.execFlgapWrite v s
  | .flowletPathChange key path => Sys2Proof.Machine.execFlowletPathChange key path s
  | .hostAccess port r => Sys2Proof.Machine.execHostAccess port r s
  | .linkReplay p => Sys2Proof.Machine.execLinkReplay p s
  | .portDown p => Sys2Proof.Machine.execPortDown p s
  | .pathFailure path => Sys2Proof.Machine.execPathFailure path s
  | .hentiaLinkDown n => Sys2Proof.Machine.execHentiaLinkDown n s
  | .patrolScrub u err => Sys2Proof.Machine.execPatrolScrub u err s
  | .warrenReload die n => Sys2Proof.Machine.execWarrenReload die n s
  | .coldReset => Sys2Proof.Machine.execColdReset s
  | .warmReset => Sys2Proof.Machine.execWarmReset s
  | .clockChange mhz => Sys2Proof.Machine.execClockChange mhz s
  | .thermalThrottle sensor deg => Sys2Proof.Machine.execThermalThrottle sensor deg s
  | .thermtrip sensor deg => Sys2Proof.Machine.execThermtrip sensor deg s
  | .mctpControl r => Sys2Proof.Machine.execMctpControl r s
  | .unsupportedRequest r => Sys2Proof.Machine.execUnsupportedRequest r s
  | .gettid r => Sys2Proof.Machine.execGettid r s
  | .getpldmversion r => Sys2Proof.Machine.execGetpldmversion r s
  | .getpldmtypes r => Sys2Proof.Machine.execGetpldmtypes r s
  | .getpldmcommands r => Sys2Proof.Machine.execGetpldmcommands r s
  | .getpdr r => Sys2Proof.Machine.execGetpdr r s
  | .getsensorreading r => Sys2Proof.Machine.execGetsensorreading r s
  | .powerCapSet r => Sys2Proof.Machine.execPowerCapSet r s
  | .eventLogClear r => Sys2Proof.Machine.execEventLogClear r s
  | .getnumericeffectervalue r => Sys2Proof.Machine.execGetnumericeffectervalue r s
  | .firmwareUpdate r => Sys2Proof.Machine.execFirmwareUpdate r s
  | .getVersion r => Sys2Proof.Machine.execGetVersion r s
  | .getCapabilities r => Sys2Proof.Machine.execGetCapabilities r s
  | .negotiateAlgorithms r => Sys2Proof.Machine.execNegotiateAlgorithms r s
  | .getDigests r => Sys2Proof.Machine.execGetDigests r s
  | .getCertificate r => Sys2Proof.Machine.execGetCertificate r s
  | .challenge r => Sys2Proof.Machine.execChallenge r s
  | .getMeasurements r => Sys2Proof.Machine.execGetMeasurements r s
  | .chresyncHandshake t => Sys2Proof.Machine.execChresyncHandshake t s
  | .grpsetHandshake t => Sys2Proof.Machine.execGrpsetHandshake t s
  | .flowUnmatchedRecordReturn n => Sys2Proof.Machine.execFlowUnmatchedRecordReturn n s
  | .linkTrained p => Sys2Proof.Machine.execLinkTrained p s
  | .pathDrained path => Sys2Proof.Machine.execPathDrained path s
  | .fuseUpdate die rows => Sys2Proof.Machine.execFuseUpdate die rows s
  | .powerRemoval => Sys2Proof.Machine.execPowerRemoval s
  | .resetAsserted => Sys2Proof.Machine.execResetAsserted s

end Sys2Proof.Machine
end

