-- ==== Sys2Proof/Machine/Loader.lean ====
section
/-! DEFINITION. Relocation and loading of a linked object (04 R84 to R86). -/

namespace Sys2Proof.Machine

/-- The type of a relocation code; 14 to 255 are reserved (04 R85). -/
def relocType : Nat → Option RelocType
  | 0 => some .none
  | 1 => some .ki15
  | 2 => some .kb15
  | 3 => some .kj25
  | 4 => some .lit32s
  | 5 => some .lit32u
  | 6 => some .hi32
  | 7 => some .lo32
  | 8 => some .ls20
  | 9 => some .lspc20
  | 10 => some .clit32
  | 11 => some .cpc32
  | 12 => some .abs32
  | 13 => some .abs64
  | _ => none

/-- The word size by which a PC-relative type counts; 0 for the other types. -/
def relocWord : RelocType → Nat
  | .kb15 => 4
  | .kj25 => 4
  | .lspc20 => 8
  | .cpc32 => 16
  | _ => 0

/-- The field of a type: bytes of the word that holds it, lowest bit, and width. -/
def relocField : RelocType → Nat × Nat × Nat
  | .none => (0, 0, 0)
  | .ki15 => (4, 0, 15)
  | .kb15 => (4, 0, 15)
  | .kj25 => (4, 0, 25)
  | .lit32s => (4, 0, 32)
  | .lit32u => (4, 0, 32)
  | .hi32 => (4, 0, 32)
  | .lo32 => (4, 0, 32)
  | .ls20 => (8, 6, 20)
  | .lspc20 => (8, 6, 20)
  | .clit32 => (16, 40, 32)
  | .cpc32 => (16, 40, 32)
  | .abs32 => (4, 0, 32)
  | .abs64 => (8, 0, 64)

/-- v fits n bits as a signed number. -/
def fitsSigned (n : Nat) (v : Int) : Bool := decide (-(2 ^ (n - 1) : Int) ≤ v) && decide (v < 2 ^ (n - 1))

/-- v fits n bits as an unsigned number. -/
def fitsUnsigned (n : Nat) (v : Int) : Bool := decide (0 ≤ v) && decide (v < 2 ^ n)

/-- Whether a value fits its field (04 R85). HI32, LO32 and ABS64 always do. -/
def relocFits (t : RelocType) (v : Int) : Bool :=
  match t with
  | .none => true
  | .ki15 => fitsSigned 15 v
  | .kb15 => fitsSigned 15 v
  | .kj25 => fitsSigned 25 v
  | .lit32s => fitsSigned 32 v
  | .lit32u => fitsUnsigned 32 v
  | .hi32 => true
  | .lo32 => true
  | .ls20 => fitsSigned 20 v
  | .lspc20 => fitsSigned 20 v
  | .clit32 => fitsSigned 32 v || fitsUnsigned 32 v
  | .cpc32 => fitsSigned 32 v
  | .abs32 => fitsUnsigned 32 v
  | .abs64 => true

/-- The exact value of a relocation at address p of a symbol's value plus addend (04 R85); none where a PC-relative one is not a whole number
of words. -/
def relocValue (t : RelocType) (sv p : Int) : Option Int :=
  if relocWord t ≠ 0 then
    (if (sv - p) % (relocWord t : Int) = 0 then some ((sv - p) / (relocWord t : Int)) else none)
  else match t with
    | .hi32 => some (sv / 2 ^ 32)
    | .lo32 => some (sv % 2 ^ 32)
    | _ => some sv

/-- Whether a field of a type lies in a section of that kind (04 R85). -/
def relocIn (t : RelocType) (x : Section) : Bool :=
  match t with
  | .none => true
  | .ki15 => x == .k
  | .kb15 => x == .k
  | .kj25 => x == .k
  | .lit32s => x == .k
  | .lit32u => x == .k
  | .hi32 => x == .k
  | .lo32 => x == .k
  | .ls20 => x == .l || x == .s
  | .lspc20 => x == .l || x == .s
  | .clit32 => x == .c
  | .cpc32 => x == .c
  | .abs32 => x == .data
  | .abs64 => x == .data

/-- The value a relocation stores, or none where the image is refused with RELOC_RANGE (04 R85, R86). One of type NONE stores nothing and asks for
no symbol, so that an unresolved one does not refuse the image (log 105). -/
def relocStore (r : Reloc) : Option (RelocType × Int) :=
  match relocType r.code, r.sym with
  | some .none, _ => some (.none, 0)
  | some t, some y =>
    if !relocIn t r.sec || (relocWord t != 0 && y.sec != some r.sec) then none
    else match relocValue t (y.value + r.addend) (r.off : Int) with
      | some v => if relocFits t v then some (t, v) else none
      | none => none
  | _, _ => none

/-- A field of n bits at bit lo of a little-endian word of w bytes at an offset of some bytes, set to v. -/
def patchBytes (bs : List Byte) (off w lo n : Nat) (v : Int) : List Byte :=
  let old := leNat ((bs.drop off).take w)
  let new := old - nbits old lo n * 2 ^ lo + (v % 2 ^ n).toNat * 2 ^ lo
  bs.take off ++ leBytes w new ++ bs.drop (off + w)

/-- The bytes of a section of an object. -/
def sectionOf (o : Object) : Section → List Byte
  | .k => o.kcode
  | .l => o.lcode
  | .c => o.ccode
  | .s => o.scode
  | .data => o.data

/-- A section of an object replaced. -/
def setSection (o : Object) (x : Section) (bs : List Byte) : Object :=
  match x with
  | .k => { o with kcode := bs }
  | .l => { o with lcode := bs }
  | .c => { o with ccode := bs }
  | .s => { o with scode := bs }
  | .data => { o with data := bs }

/-- One relocation applied; none refuses the image. A field outside its section has no word to hold it. -/
def applyReloc (o : Object) (r : Reloc) : Option Object :=
  match relocStore r with
  | none => none
  | some (.none, _) => some o
  | some (t, v) =>
    let (w, lo, n) := relocField t
    let bs := sectionOf o r.sec
    if r.off + w ≤ bs.length then some (setSection o r.sec (patchBytes bs r.off w lo n v)) else none

/-- Every relocation of an object applied, or the first that refuses the image (04 R85: the refusal names it). -/
def relocateAll (o : Object) : List Reloc → Except Reloc Object
  | [] => .ok o
  | r :: rs => match applyReloc o r with
    | some o => relocateAll o rs
    | none => .error r

/-- Bytes as a memory from address 0. -/
def codeMem (bs : List Byte) : Mem := Mem.writeN [] 0 bs.length (leNat bs)

/-- The image of a relocated object. -/
def imageOfObject (o : Object) : Image :=
  { tag := o.tag, va := o.va, kcode := codeMem o.kcode, lcode := codeMem o.lcode, ccode := codeMem o.ccode, scode := codeMem o.scode
    kernels := o.kernels, flows := o.flows, groups := o.groups, chans := o.chans, subs := o.subs, windows := o.windows
    tv := o.tv, av := o.av, ft := o.ft, readable := true }

/-- An image put in the place of the one loaded at the same context and address, or beside the others. -/
def putImage (is : List Image) (i : Image) : List Image :=
  if is.any fun x => x.tag == i.tag && x.va == i.va then is.map fun x => if x.tag == i.tag && x.va == i.va then i else x
  else is ++ [i]

/-- The loader loads an object whole, its data written to memory; a refused image is never partly loaded (04 R85, R86). One whose data
would lie beyond local HBM is refused (log 105). -/
def State.load (s : State) (o : Object) : State :=
  match relocateAll o o.relocs with
  | .error _ => s
  | .ok x =>
    if !x.data.isEmpty && decide (hbmSize < x.dataAt + x.data.length) then s
    else
    let s := s.updDev fun d => { d with images := putImage d.images (imageOfObject x) }
    if x.data.isEmpty then s else s.writeHbm x.dataAt x.data.length (leNat x.data)

end Sys2Proof.Machine
end

