-- ==== Sys2Proof/Machine/Outside.lean ====
section
/-! DEFINITION. What comes to the device from outside (log 87): soft errors (23 R407 to R412), packets, records and requests of other devices
(19 R380, R383, R385, 16 R339, R341), and what the host and other devices do to their own memories. -/

namespace Sys2Proof.Machine

/-! ### Soft errors (23 R407) -/

/-- The tile of a unit's place. -/
def unitHolder (u : StoredUnit) : TileId := tileOf u.place

/-- The packet that a unit of a Spoke buffer or of the stray buffer belongs to. -/
def State.unitPacket (s : State) (u : StoredUnit) : Option Pkt :=
  match u.code.toNat with
  | 7 => s.packet u.place
  | 12 => (s.dev.dies[dieOf (unitHolder u)]).stray[u.off]?
  | _ => none

/-- The entry that logs a unit with a class; a packet's is named by its header (23 R420). -/
def State.unitEntry (s : State) (u : StoredUnit) (cause : Nat) (cls : Nat) : LogEntry :=
  match s.unitPacket u with
  | some p => mkLog p.hdr p.launch s.clkrd cause p.ctx (s.unitTile u).val u.code.toNat cls
  | none => mkLog (BitVec.ofNat 64 (unitAligned u).off) 0 s.clkrd cause 0 (s.unitTile u).val u.code.toNat cls

/-- A counter of channel ch of the task at tile t fails its parity check: it is logged, and the channel has its fault condition, at its sender, where
the counter is, running, being saved, or saved (12 R289, 23 R421; log 132). -/
def State.channelParity (s : State) (t : TileId) (ch : Nat) (e : LogEntry) : State :=
  match s.chanDecl (s.tileAt t).launch ch with
  | none => s
  | some (l, k) => match l.tileOfTask k.src, l.tileOfTask k.dst with
    | some a, some b =>
      let home := fun (u : TileId) => match s.chanHome u l.id with | .held => Home.live | h => h
      (s.logOn (dieOf t) e).chFault a (home a) l.id k.id (rd (s.taskTile b (home b)).chans k.id).consumed
    | _, _ => s

/-- A cached entry of a tile that fails its parity check is dropped (23 R407): the first 256 are its translation cache, then its match table. -/
def Tile.dropCached (t : Tile) (n : Nat) : Tile :=
  if n < 256 then { t with tlb := t.tlb.eraseIdx n } else { t with matchT := t.matchT.eraseIdx (n - 256) }

/-- Uncorrectable data in a unit, by structure code (23 R407). Scratchpad, register space, HBM, Spoke buffers, accumulator slots, the Warren,
the Sett index and the fuses hold a lost unit until it is read or written; other tile state is a tile-state error at its next read (R411);
a combining record is COMBINING_RECORD_LOST and a link's flit LINK_REPLAY. A clear sector of the register space holds nothing that is read (23 R409). -/
def State.unitLost (s : State) (u : StoredUnit) : State :=
  match u.code.toNat with
  | 2 => if (s.tileAt (unitHolder u)).valid u.off then s.loseUnits [unitAligned u] else s
  | 3 =>
    if (s.tileAt (unitHolder u)).task.isSome && (s.tileAt (unitHolder u)).live then
      (s.logOn (dieOf (unitHolder u)) (s.unitEntry u Cause.eccUncorrected.code 2)).tileError (unitHolder u) .k
    else s
  | 4 => s.loseUnits (s.lostBy u)
  | 5 => (s.loseUnits (s.lostBy u)).dropLine u
  | 6 => s.loseUnits (s.lostBy u)
  | 9 => s
  | 11 => s.updAt (unitHolder u) fun x => x.dropCached u.off
  | 12 =>
    if u.off < (s.dev.dies[dieOf (unitHolder u)]).stray.length then
      (s.updDie (dieOf (unitHolder u)) fun d => { d with stray := d.stray.eraseIdx u.off }).logOn (dieOf (unitHolder u)) (s.unitEntry u 0 2)
    else s
  | 13 => s.channelParity (unitHolder u) (u.off / 8) (s.unitEntry u 0 2)
  | 15 => s
  | c => if 1 ≤ c ∧ c ≤ 16 then s.loseUnits [unitAligned u] else s

/-- Structures protected by parity alone, or by a check code, correct nothing. -/
def detectsOnly (code : BitVec 8) : Bool := [11, 12, 13, 15, 16].contains code.toNat

/-- A soft error met in a unit: a single error is corrected and logged with class 1 where the structure corrects (23 R408, R421). -/
def State.softError (s : State) (u : StoredUnit) (err : BitErrors) : State :=
  match err with
  | .none => s
  | .single =>
    if detectsOnly u.code then s.unitLost u
    else if 1 ≤ u.code.toNat ∧ u.code.toNat ≤ 14 then s.logOn (dieOf (s.unitTile u)) (s.unitEntry u 0 1)
    else s
  | .double => s.unitLost u

/-! ### Packets and records of other devices (19 R380) -/

/-- The tile number that stands for an injector on another device. -/
def awayTile : Nat := 512

/-- A packet that the fabric brings to a Spoke of this device, or to a fabric port of it that may hold an entry for it (19 R386, log 94). -/
def State.bring (s : State) (at_ : Place) (hdr : Word) (ctx : BitVec 12) (launch : Word) (task : Option Nat) (body : PktBody) : State :=
  s.inject { hdr := hdr, ctx := ctx, launch := launch, body := body, at_ := at_, orig := awayTile, own := none, task := task, miss := false
             lcopy := false, stamp := 0, clk := Clk.zero }

/-- A flow packet of another device: kind 0, with as many bytes as its header says. Fabric ingress checks nothing of it. -/
def State.flowIn (s : State) (t : TileId) (port : Option (Fin 32)) (hdr : Word) (ctx : BitVec 12) (launch : Word) (data : List Byte) : State :=
  if bits hdr 6 0 = 0 ∧ data.length = 256 * hdrFlits hdr then
    s.bring (match port with | some q => .port q (some (s.devNum, tileBits t)) | none => .spoke t) hdr ctx launch none (.flow data)
  else s

/-! ### Requests of other devices (16 R339, R341, 19 R383) -/

/-- The place of a request in this device's memory: address and bytes. -/
def farSpan : FarReq → Nat × Nat
  | .read a n => (a, n)
  | .write a bytes => (a, bytes.length)
  | .atomic a op _ _ => (a, atomWidth op)

/-- The kind of a request. -/
def farKind : FarReq → Acc
  | .read _ _ => .read
  | .write _ _ => .write
  | .atomic _ _ _ _ => .rmw

/-- A request that can be made: some bytes of one line, an atomic aligned. -/
def farReqOk (r : FarReq) : Bool :=
  let (a, n) := farSpan r
  decide (1 ≤ n) && decide (a % 128 + n ≤ 128) && decide (a + n ≤ hbmSize) &&
  (match r with | .atomic _ _ _ _ => a % n == 0 | _ => true)

/-- The check at the fabric ingress port, then that at the hub slice or base die. -/
def State.farOk (s : State) (x : FarAccess) : Bool :=
  let (a, n) := farSpan x.req
  acctOk s.dev.acct (444 + x.port.val) x.dev x.tag a n (farKind x.req) && ownerOk s.dev.acct s.dev.farange.toList x.dev x.tag a n (farKind x.req) x.fa

/-- An answer sent on the response plane. -/
def State.reply (s : State) (x : FarAccess) (r : FarReply) : State :=
  (s.noteSent (.response s.devNum x.tile x.dev)).updDev fun d => { d with farReplies := d.farReplies ++ [r] }

/-- Lost data that another device's request consumes is logged before its response leaves (23 R420, R421). -/
def State.farLost (s : State) (x : FarAccess) : State :=
  let a := (farSpan x.req).1
  (s.logOn (dieOf (tileOf (homeOf a))) (mkLog (BitVec.ofNat 64 a) 0 s.clkrd Cause.eccUncorrected.code x.tag (homeOf a) 6 2)).reply x
    (.refused x.dev x.tile .eccUncorrected)

/-- A permitted request performs at this device's serialisation point. -/
def State.farPerform (s : State) (x : FarAccess) : State :=
  match x.req with
  | .read a n => if s.isLost 6 0 a n then s.farLost x else s.reply x (.data x.dev x.tile (s.dev.hbm.bytes a n))
  | .write a bytes =>
    if s.partLost 6 0 a bytes.length then s.farLost x
    else (s.writeHbm a bytes.length (leNat bytes)).reply x (.data x.dev x.tile [])
  | .atomic a op b expect =>
    if s.isLost 6 0 a (atomWidth op) then s.farLost x
    else (s.writeHbm a (atomWidth op) (atomNew op (s.dev.hbm.readN a (atomWidth op)) b.toNat expect.toNat)).reply x
      (.data x.dev x.tile (s.dev.hbm.bytes a (atomWidth op)))

/-- A request of another device: it waits while its port is not up; refused at the ingress or at the owner it has no effect. -/
def State.farRequest (s : State) (x : FarAccess) : State :=
  if !s.isReady || x.dev == s.devNum || !(s.dev.ports[x.port]).up || !farReqOk x.req then s
  else if s.farOk x then s.farPerform x
  else s.reply x (.refused x.dev x.tile .accessDenied)

/-- A FACC request of another device at a combining point (12 R295, 19 R387): at a panel port with its device's number; one for this device passes its
ports and checks first, one for a third device meets this device only at the panel. -/
def State.faccIn (s : State) (x : FarFacc) : State :=
  let n := if x.wide then 8 else 4
  let a : FarAccess := ⟨x.port, x.dev, x.tile, x.tag, true, .atomic x.a (if x.wide then 8 else 0) x.inc 0⟩
  let f : FaccAt := ⟨.far x.dev x.tile, if x.owner = s.devNum then .hbm else .remote x.owner, x.a, x.wide, x.inc⟩
  let from_ := match x.at_ with | .spoke _ _ => x.owner == s.devNum | .panel _ d _ => d == x.dev
  if !s.isReady || x.dev == s.devNum || !from_ || x.a % n != 0 then s
  else if x.owner = s.devNum then
    (if !(s.dev.ports[x.port]).up || !farReqOk a.req then s
     else if s.farOk a then s.combine f x.at_
     else s.reply a (.refused x.dev x.tile .accessDenied))
  else if (s.remote? x.owner).isSome then s.combine f x.at_ else s

/-! ### Other devices -/

/-- Another device changed; a number met for the first time is a device with empty memory and tables. -/
def State.updRemote (s : State) (d : BitVec 12) (f : Remote → Remote) : State :=
  s.updDev fun v =>
    if v.remote.any fun r => r.num == d then { v with remote := v.remote.map fun r => if r.num == d then f r else r }
    else { v with remote := v.remote ++ [f ⟨d, false, [], [], [], []⟩] }

/-- An entry of another device's access table. -/
def Remote.setEntry (r : Remote) (g e : Nat) (w : BitVec 128) : Remote :=
  { r with acct := ⟨g, e, w⟩ :: r.acct.filter fun x => !(x.g == g && x.e == e) }

/-- What the outside does in a turn of its own. -/
def State.outside (s : State) : Outside → State
  | .softError u err => if s.isReady then s.softError u err else s
  | .flowPacket t port hdr ctx launch data => if s.isReady then s.flowIn t port hdr ctx launch data else s
  | .record t launch task r => if s.isReady then s.bring (.spoke t) 0 0 launch (some task) (.record r) else s
  | .request x => s.farRequest x
  | .hostStore a bytes => s.updDev fun d => { d with
      host := d.host.writeN a bytes.length (leNat bytes), hostLost := outRanges d.hostLost a bytes.length }
  | .farStore dev a bytes => s.updRemote dev fun r => { r with
      hbm := r.hbm.writeN a bytes.length (leNat bytes), lost := outRanges r.lost a bytes.length }
  | .farPresent dev present => s.updRemote dev fun r => { r with present := present }
  | .farEntry dev g e w => s.updRemote dev fun r => r.setEntry g e w
  | .farRanges dev rs => s.updRemote dev fun r => { r with farange := rs }
  | .farLost dev rs => s.updRemote dev fun r => { r with lost := rs }
  | .load o => if s.isReady then s.load o else s
  | .facc x => s.faccIn x
  | .hubWriteBack line => s.updDev fun d => { d with hub := d.hub.filter fun l => l != line }
  | .hostDeny rs => s.updDev fun d => { d with hostDeny := rs }
  | .hostLost rs => s.updDev fun d => { d with hostLost := rs }
  | .bringUp => s.bringUp
  | .warmLow => s.warmLow

end Sys2Proof.Machine
end

