-- ==== Sys2Proof/Machine/Fetch.lean ====
section
/-! DEFINITION. A turn of the machine: fetching a sequencer's instruction (04 R64, R65), what its turn does when it cannot fetch, and
the passing of time. -/

namespace Sys2Proof.Machine

/-- The most bytes an instruction of a sequencer takes. -/
def fetchLen : Sequencer → Nat
  | .k => 8
  | .l => 8
  | .c => 16
  | .s => 8

/-- The bytes at a sequencer's program counter. -/
def State.fetchBytes (s : State) (t : TileId) (q : Sequencer) : List Byte :=
  leBytes (fetchLen q) (s.codeAt t q ((s.tileAt t).pcOf q) (fetchLen q))

/-- Whether some of L, C and S is stopped. -/
def Tile.stopped (t : Tile) : Bool := t.l.stop.isSome || t.c.stop.isSome || t.s.stop.isSome

/-- K's access waits at its link: its turns try it again, while its tile is being stopped too (06 R98, 18 R370). -/
def KState.linkWait (k : KState) : Bool := match k.pend with | some (.access _) => true | _ => false

/-- K waits for the reply of a request that has left it; CHRESYNC is a pure wait (06 R98). -/
def KState.replyWait (k : KState) : Bool :=
  match k.pend with
  | none => false
  | some (.chresync _ _) => false
  | some _ => true

/-- ILLEGAL at a sequencer of the stepping tile, once it may stop: nothing of the word is done (04 R78). -/
def State.illegalAt (s : State) (q : Sequencer) : State :=
  match q with
  | .k => s.kFault .illegal 0
  | q => if s.tile.mayStop q then s.stopSeq s.cur q .illegal 0 false false else s

/-- The instruction at the program counter of the stepping tile's sequencer, or none when the word is none (04 R78) or would fall through
past the end of the stream (04 R65). -/
def State.fetched (s : State) (q : Sequencer) : Option Instr :=
  let t := s.tile
  let bs := s.fetchBytes s.cur q
  match decodeBytes q bs, t.task with
  | .ok (i, _), some k =>
    if (t.pcOf q).toNat + instrLen q bs ≤ (k.fin q).toNat && k.entry q ≤ t.pcOf q then some i else none
  | _, _ => none

/-- BARR, BARD and BARX (06 R116). -/
def updatesBar : Instr → Bool
  | .barr _ _ _ => true
  | .bard _ _ => true
  | .barx _ _ => true
  | _ => false

/-- Before K's next instruction the barrier updates of the cycle are made, but for a first one of K that is to join them (06 R117). -/
def State.barSettle (s : State) (q : Sequencer) (i : Instr) : State :=
  if q == .k && s.tile.barOpen.isSome && !(s.tile.barOpen == some false && updatesBar i) then s.barFlush s.cur else s

/-- A turn of sequencer q of tile t. A tile whose task must be killed makes the kill; K takes a trap at its instruction boundary;
an ended, stopped or waiting sequencer does nothing (18 R361, R366). -/
def State.seqTurn (s : State) (t : TileId) (q : Sequencer) (defer : Bool) : Host.Outcome State Fault Refusal :=
  let s := { s with cur := t, defer := defer }
  let x := s.tile
  if x.task.isNone || !x.live || !s.runsOn t x.ctx then .next s
  else if x.killDue.isSome then .next (s.killNow t)
  else if x.preempt != .none && !(q == .k && x.k.linkWait) then .next s
  else if q == .k && x.stopped && !x.k.trap && !x.k.replyWait then .next (s.trapNow t)
  else if q == .k && x.k.pend.isSome && !x.k.linkWait then .next s
  else if x.endedOf q || (x.stopOf q).isSome then .next s
  else match s.fetched q with
    | none => .next (s.illegalAt q)
    | some i => exec i (s.barSettle q i)

/-- The ageing of a tile's normal matrix commands over n cycles (09 R220). -/
def State.aged (s : State) (n : Nat) (t : TileId) : Tile :=
  let x := s.tileAt t
  if (x.cmds .normal).isEmpty then x else x.ageBy n s.dev.now (s.smwaitOf t)

/-- n cycles of the arithmetic clock pass: the present cycle's barrier updates are applied and its final records folded (24 R428); the 100 MHz reference
runs with them (06 R131, 24 R425). -/
def State.pass (s : State) (n : Nat) : State :=
  if n = 0 then s
  else
  let s := (((List.range 432).map tileOf).filter fun t => (s.tileAt t).barOpen.isSome || !(s.tileAt t).barDue.isEmpty).foldl
    (fun s t => s.barFlush t) s
  s.updDev fun d =>
    let r := d.clkRem + 100 * n
    { d with
      now := d.now + n, clk := d.clk + r / max 1 d.mgmt.mhz, clkRem := r % max 1 d.mgmt.mhz, mgmt := d.mgmt.foldAll
      tiles := Vector.ofFn fun t => s.aged n t }

/-- n cycles pass, or as many as pass before a launch is declared quiescent (10 R240). -/
def State.elapse (s : State) (n : Nat) : State := s.pass (s.quietRoom n)

/-- One turn. An event that names an instruction of a sequencer is none: such an instruction is only fetched. -/
def State.takeTurn (s : State) : Turn → Host.Outcome State Fault Refusal
  | .seq t q defer => s.seqTurn t q defer
  | .event i => if (encode i).isNone then exec i s else .next s
  | .elapse n => .next (s.elapse n)
  | .outside x => .next (s.outside x)

/-- What follows a turn: the Owls look at the launches and contexts they count for (10 R240, R241). -/
def afterTurn (r : Host.Outcome State Fault Refusal) : Host.Outcome State Fault Refusal :=
  match r with
  | .next s => .next s.keepQuiet.keepStalls
  | .fault f => .fault f
  | .refused f => .refused f

/-- The next turn: the agenda's first, else the open schedule's (log 2). -/
def State.nextTurn (s : State) : Turn × State :=
  match s.agenda with
  | [] => (Config.turnAt s.tick, { s with tick := s.tick + 1 })
  | t :: r => (t, { s with agenda := r, tick := s.tick + 1 })

/-- The image that holds one instruction at address 0 of its section (log 6). -/
def wordImage (q : Sequencer) (n w : Nat) : Image :=
  let code := fun (x : Sequencer) => if x = q then Mem.writeN [] 0 n w else []
  { (default : Image) with va := 0, kcode := code .k, lcode := code .l, ccode := code .c, scode := code .s, readable := true }

/-- The task that runs it: the stream of q from 0 to 2^20, the other streams empty. -/
def wordTask (q : Sequencer) : Task :=
  let fin := fun (x : Sequencer) => if x = q then (0x100000 : Word) else 0
  { launch := 1, index := 0, image := 0, ctx := 0, kEnt := 0, kFin := fin .k, lEnt := 0, lFin := fin .l, cEnt := 0, cFin := fin .c
    sEnt := 0, sFin := fin .s }

/-- Tile 0, in partition 0, runs a word at address 0 of sequencer q's section, and its turn is next. -/
def State.placeWord (s : State) (q : Sequencer) (w : Nat) : State :=
  let s := { s with agenda := [.seq 0 q false], cur := 0, defer := false }
  let s := s.updDev fun d => { d with images := [wordImage q 16 w]
                                      launches := [{ (default : Launch) with id := 1, state := .running, tasks := 1 }] }
  s.updAt 0 fun t => { t with
    task := some (wordTask q), live := true, pmap := 0x10, preempt := .none, kill := none
    k := { t.k with pc := 0, ended := false, pend := none }
    l := { t.l with pc := 0, stop := none }
    c := { t.c with pc := 0, stop := none }
    s := { t.s with pc := 0, stop := none } }

end Sys2Proof.Machine
end

