-- ==== Sys2Proof/Machine/Step.lean ====
section
/-! DEFINITION. One step of the machine. -/

namespace Sys2Proof.Machine

/-- One step: the next turn is taken. -/
def step (s : State) : Host.Outcome State Fault Refusal := afterTurn (s.nextTurn.2.takeTurn s.nextTurn.1)

/-- s with an instruction whose bits are w placed where the next step fetches (log 6). -/
def State.withFetchWord (s : State) (nbits w : Nat) : State := s.placeWord (tableSequencer nbits w) w

end Sys2Proof.Machine
end

