-- ==== Sys2Proof/Safety.lean ====
section
/-! DEFINITION. The terms in which statements speak of a step: what stays as it was, what an instruction wrote, that K entered its handler,
and the conditions under which a word issues. A run is safe when every step keeps what it must keep; the model stops in no state. -/

namespace Sys2Proof.Machine

/-! ### What stays as it was -/

/-- Every byte of every memory reads in t as in s: HBM, host memory, the other devices' HBM, and of every tile the scratchpad, the register
space, the matrix side memory and the carve-outs. -/
def SameMemory (s t : State) : Prop :=
  (∀ a, t.dev.hbm.get a = s.dev.hbm.get a) ∧ (∀ a, t.dev.host.get a = s.dev.host.get a) ∧
  (∀ d a, (t.remote? d).map (fun r => r.hbm.get a) = (s.remote? d).map fun r => r.hbm.get a) ∧
  ∀ u, (∀ a, (t.tileAt u).spm.get a = (s.tileAt u).spm.get a) ∧ (∀ a, (t.tileAt u).rbyte a = (s.tileAt u).rbyte a) ∧
    (∀ a, (t.tileAt u).side.get a = (s.tileAt u).side.get a) ∧
    ∀ l a, ((t.tileAt u).carveMem l).get a = ((s.tileAt u).carveMem l).get a

/-- t is s but for the K sequencer of the stepping tile. -/
def OnlyK (s t : State) : Prop := t = s.upd fun x => { x with k := t.tile.k }

/-- t is s but for the stepping tile. -/
def OnlyTile (s t : State) : Prop := t = s.setTileAt s.cur t.tile

/-! ### What every step keeps -/

/-- The memories of a tile are in canonical form. -/
def Tile.memOk (t : Tile) : Prop :=
  t.spm.wf = true ∧ t.regspace.wf = true ∧ t.side.wf = true ∧ (∀ c ∈ t.carves, c.mem.wf = true) ∧ ∀ k ∈ t.kept, k.spm.wf = true

/-- Every memory of the machine is in canonical form: strictly rising addresses and no byte that an unlisted address reads as. -/
def State.memOk (s : State) : Prop :=
  s.dev.hbm.wf = true ∧ s.dev.host.wf = true ∧ (∀ r ∈ s.dev.remote, r.hbm.wf = true) ∧ (∀ t, (s.tileAt t).memOk) ∧
  ∀ v ∈ s.dev.saves, v.img.memOk

/-! ### What a K instruction did -/

/-- K wrote v into register d (nothing into k0) and continues at pc. Every other register that K can name keeps its value, the registers that
the mode hides keep theirs (06 R99), and nothing but K's own state changes. -/
def KWrote (s t : State) (d : Reg) (v pc : Word) : Prop :=
  (∀ r, t.tile.kget r = if r = d ∧ r ≠ 0 then v else s.tile.kget r) ∧
  (s.tile.k.trap = true → ∀ i, 24 ≤ i → rd t.tile.k.regs i = rd s.tile.k.regs i) ∧
  (s.tile.k.trap = false → t.tile.k.kt = s.tile.k.kt) ∧
  t.tile.k.pc = pc ∧ t.tile.k.trap = s.tile.k.trap ∧ t.tile.k.ended = s.tile.k.ended ∧ t.tile.k.pend = none ∧
  OnlyK s t ∧ SameMemory s t

/-- K continues at pc and nothing else changes. -/
def KWent (s t : State) (pc : Word) : Prop := KWrote s t 0 0 pc

/-- K entered its handler with a cause of its own (18 R361, R362): kt0 to kt4 hold the resume address, the cause, the value, the address
and the word of the instruction; kt5 to kt7 and the other registers keep their values. -/
def KTrapped (s t : State) (c : Cause) (ret value : Word) : Prop :=
  t.tile.k.trap = true ∧ t.tile.k.pc = s.tile.tvec ∧
  rd t.tile.k.kt 0 = ret ∧ bits (rd t.tile.k.kt 1) 7 0 = c.code ∧ bits (rd t.tile.k.kt 1) 9 8 = 0 ∧
  bit (rd t.tile.k.kt 1) 10 = s.tile.l.stop.isSome ∧ bit (rd t.tile.k.kt 1) 11 = s.tile.c.stop.isSome ∧
  bit (rd t.tile.k.kt 1) 12 = s.tile.s.stop.isSome ∧ bits (rd t.tile.k.kt 1) 63 13 = 0 ∧
  rd t.tile.k.kt 2 = value ∧ rd t.tile.k.kt 3 = s.tile.k.pc ∧ rd t.tile.k.kt 4 = s.kWord ∧
  (∀ i, 5 ≤ i → rd t.tile.k.kt i = rd s.tile.k.kt i) ∧ t.tile.k.regs = s.tile.k.regs ∧ t.tile.k.ended = s.tile.k.ended ∧
  OnlyK s t ∧ SameMemory s t

/-- 18 R361 to R363: trap entry for a stopped sequencer q with record r: kt0 takes the resume address, kt1 the cause, the sequencer and which others are
stopped, kt2 the value, kt3 the address of the stopped instruction, kt4 zero; K continues at TVEC in trap mode. -/
def EnteredFor (s t : State) (ret : Word) (q : Sequencer) (r : StopRec) : Prop :=
  t.tile.k.trap = true ∧ t.tile.k.pc = s.tile.tvec ∧ rd t.tile.k.kt 0 = ret ∧ bits (rd t.tile.k.kt 1) 7 0 = r.cause.code ∧
  bits (rd t.tile.k.kt 1) 9 8 = seqCode q ∧ bit (rd t.tile.k.kt 1) 13 = r.imprecise ∧
  bit (rd t.tile.k.kt 1) 10 = (s.tile.l.stop.isSome && q != .l) ∧ bit (rd t.tile.k.kt 1) 11 = (s.tile.c.stop.isSome && q != .c) ∧
  bit (rd t.tile.k.kt 1) 12 = (s.tile.s.stop.isSome && q != .s) ∧ rd t.tile.k.kt 2 = r.addr ∧ rd t.tile.k.kt 3 = r.pc ∧
  rd t.tile.k.kt 4 = 0 ∧ (∀ i, 5 ≤ i → rd t.tile.k.kt i = rd s.tile.k.kt i) ∧ t.tile.k.regs = s.tile.k.regs ∧ OnlyK s t ∧ SameMemory s t

/-- K has a handler to take a trap: it is not in trap mode and TVEC is set (18 R361). -/
def KHandles (s : State) : Prop := s.tile.k.trap = false ∧ s.tile.tvec ≠ 0

/-! ### Words of L and S -/

/-- A word of L or S finds nothing to wait for and its predicate true (07 R137, 04 R76, R77): the requests in flight write none of the
registers and predicates it uses, no FACC in flight stands before its tokens (log 28), its token waits can end, the entries it pops are there and the queues it pushes to have space. -/
def LsReady (s : State) (q : Sequencer) (f : LSF) (regs : List Reg) (preds : List (BitVec 3)) : Prop :=
  s.tile.lsBusy q [] [f.pred] = false ∧ s.tile.lsBusy q regs preds = false ∧ s.tile.faccHolds q f = false ∧ s.tile.pred q f.pred = true ∧
  s.tile.tokenStalled q (peersOf q f.pop) (peersOf q f.push) (s.tile.ls q).resv = false ∧
  s.tile.canPop q (peersOf q f.pop) = true ∧ ((s.tile.ls q).resv = true ∨ s.tile.canPush q (peersOf q f.push) = true)

/-- The state in which the word acts: its entries popped and its pushes reserved. -/
def State.lsIssue (s : State) (q : Sequencer) (f : LSF) : State :=
  s.upd fun t => if (s.tile.ls q).resv then t.popFor q (peersOf q f.pop)
    else (t.popFor q (peersOf q f.pop)).reserve q (peersOf q f.push)

/-- The clock that the entries of a word carry. -/
def State.lsClk (s : State) (q : Sequencer) (f : LSF) : Clk := ((s.lsIssue q f).tile.clkOf q).tick q

/-- What the word left in state x, its pushes made with pay, and its sequencer behind it, past the loops that end there. -/
def State.lsEnd (x s : State) (q : Sequencer) (f : LSF) (pay : BitVec 32) : State :=
  x.upd fun t => (t.pushReserved q (peersOf q f.push) pay (s.lsClk q f)).lsNext q

/-- The word acted on the stepping tile by g, pushed pay, and its sequencer goes on behind it. -/
def State.lsDone (s : State) (q : Sequencer) (f : LSF) (pay : BitVec 32) (g : Tile → Tile) : State :=
  ((s.lsIssue q f).upd g).lsEnd s q f pay

/-- The word branched to target, having pushed pay; running loops that do not hold the target have stopped (09 R205). -/
def State.lsBranched (s : State) (q : Sequencer) (f : LSF) (pay : BitVec 32) (target : Word) : State :=
  (s.lsIssue q f).upd fun t => (t.pushReserved q (peersOf q f.push) pay (s.lsClk q f)).lsGo q (leaveLoops (t.ls q).lc target) target

/-- The word has put a request in flight in state x and its sequencer goes on: the request makes the pushes when it finishes (07 R138). -/
def State.lsGoOn (x : State) (q : Sequencer) : State := x.upd fun t => t.lsNext q

/-! ### Bundles of C -/

/-- A bundle with the register fields of its slots renamed (09 R207 to R209). -/
def State.renamedBundle (s : State) (b : Bundle) : Bundle := s.tile.renamedBundle b

/-- A bundle, renamed, is no reserved encoding (04 R78) and finds nothing to wait for: C holds no write, its token waits can end, entries and space are there, no earlier command keeps
back a write of slot A, slot M's queue has a free entry, and no register that it reads is lost. -/
def CReady (s : State) (b : Bundle) : Prop :=
  s.tile.c.held = none ∧ s.tile.bundleReserved b = false ∧ s.tile.tokenStalled .c (peersOf .c b.k.pop) (peersOf .c b.k.push) s.tile.c.resv = false ∧
  s.tile.canPop .c (peersOf .c b.k.pop) = true ∧ (s.tile.c.resv = true ∨ s.tile.canPush .c (peersOf .c b.k.push) = true) ∧
  (∀ x, b.a = some x → s.tile.controlWaits x = false) ∧ (∀ m, b.m = some m → s.tile.queueSpace (mxQueue m.op) = true) ∧
  ∀ r ∈ s.tile.bundleReads b, s.regLost (128 * r) 128 = none

/-- The payload that a bundle's control instruction reads: that of the first entry it pops. -/
def State.cPay (s : State) (b : Bundle) : BitVec 32 := match s.tile.heads .c (peersOf .c b.k.pop) with | h :: _ => h.pay | [] => 0

/-- The state that a bundle leaves when it issues with outcome o. -/
def State.cDone (s : State) (b : Bundle) (o : BundleOut) : State :=
  let s1 := s.upd fun t => (if t.c.resv then t.popToks .c (peersOf .c b.k.pop)
    else (t.popToks .c (peersOf .c b.k.pop)).reserve .c (peersOf .c b.k.push)).cIssue b.k.push o
  let s2 := match o.a with | some r => s1.healSlot r.1 r.2 | none => s1
  match o.b with | some r => s2.healSlot r.1 r.2 | none => s2

/-- Element e of a register, w bytes wide (02 R19). -/
def elemAt (w : Nat) (v : Vec) (e : Nat) : Nat := v.toNat / 2 ^ (8 * w * e) % 2 ^ (8 * w)

/-- A slot writes one register: element e is new e where it is active, else zero with the zero bit, else the old element (04 R74). -/
def SlotIn.writes (x : SlotIn) (w : Nat) (new : Nat → Nat) : Prop :=
  ∃ v, x.eval = .ok (.one x.s.f.vd.toNat v) ∧ ∀ e, e < 128 / w →
    elemAt w v e = if active x.m w e then new e else if x.zero then 0 else elemAt w x.old e

/-- A slot writes one predicate: byte i takes the outcome of its element where that is active, else zero with the zero bit, else its old value
(08 R173). -/
def SlotIn.decides (x : SlotIn) (w : Nat) (out : Nat → Bool) : Prop :=
  ∃ m : Mask, x.eval = .ok (.prd (BitVec.ofNat 3 x.s.f.vd.toNat) m) ∧ ∀ i, i < 128 →
    m.getLsbD i = if active x.m w (i / w) then out (i / w) else if x.zero then false
      else (x.t.c.pget (x.s.f.vd.toNat % 8)).getLsbD i

end Sys2Proof.Machine
end

