-- ==== Sys2Proof/Certificates/Slice0/Obligations.lean ====
section
/-! DEFINITION. The statements for the provers, read from the numbered rules of spec/. -/

open Sys2Proof Sys2Proof.Machine

/-! ### K: arithmetic, branches, memory -/

/-- 06 R100, R101: every register operation writes the value of its row into kd, computed from the exact integers and wrapped to 64 bits;
k0 takes nothing; K goes on at the next word; nothing else changes.
06 R102, 04 R68, 06 R136: the immediate forms act as the register forms on the sign-extended immediate; the shifts shift by their six bits; a
KX pair writes its literal and goes on behind both words; NOP only goes on. -/
def Obligations.KArithmetic : Prop :=
  (∀ (s : State) (d a b : Reg),
    let x := s.tile.kget a
    let y := s.tile.kget b
    let sh := y.toNat % 64
    let gives := fun (i : Instr) (v : Word) => ∃ t, exec i s = .next t ∧ KWrote s t d v (s.tile.k.pc + 4)
    gives (.add d a b) (BitVec.ofNat 64 (x.toNat + y.toNat)) ∧
    gives (.sub d a b) (BitVec.ofInt 64 ((x.toNat : Int) - y.toNat)) ∧
    gives (.and d a b) (x &&& y) ∧ gives (.or d a b) (x ||| y) ∧ gives (.xor d a b) (x ^^^ y) ∧
    gives (.shl d a b) (BitVec.ofNat 64 (x.toNat * 2 ^ sh)) ∧
    gives (.shr d a b) (BitVec.ofNat 64 (x.toNat / 2 ^ sh)) ∧
    gives (.sar d a b) (BitVec.ofInt 64 (x.toInt / 2 ^ sh)) ∧
    gives (.mul d a b) (BitVec.ofNat 64 (x.toNat * y.toNat)) ∧
    gives (.mulh d a b) (BitVec.ofInt 64 (x.toInt * y.toInt / 2 ^ 64)) ∧
    gives (.mulhn d a b) (BitVec.ofNat 64 (x.toNat * y.toNat / 2 ^ 64)) ∧
    gives (.div d a b) (if y = 0 then BitVec.ofNat 64 0xFFFFFFFFFFFFFFFF else BitVec.ofInt 64 (x.toInt.tdiv y.toInt)) ∧
    gives (.divn d a b) (if y = 0 then BitVec.ofNat 64 0xFFFFFFFFFFFFFFFF else BitVec.ofNat 64 (x.toNat / y.toNat)) ∧
    gives (.rem d a b) (if y = 0 then x else BitVec.ofInt 64 (x.toInt.tmod y.toInt)) ∧
    gives (.remn d a b) (if y = 0 then x else BitVec.ofNat 64 (x.toNat % y.toNat)) ∧
    gives (.min d a b) (if x.toInt ≤ y.toInt then x else y) ∧
    gives (.max d a b) (if x.toInt ≤ y.toInt then y else x) ∧
    gives (.minn d a b) (if x.toNat ≤ y.toNat then x else y) ∧
    gives (.maxn d a b) (if x.toNat ≤ y.toNat then y else x) ∧
    gives (.slt d a b) (if x.toInt < y.toInt then 1 else 0) ∧
    gives (.sltn d a b) (if x.toNat < y.toNat then 1 else 0)) ∧
  (∀ (s : State) (d a : Reg) (imm : BitVec 15) (sh : BitVec 6) (w : BitVec 32),
    let x := s.tile.kget a
    let y : Word := BitVec.ofInt 64 imm.toInt
    let gives := fun (i : Instr) (v : Word) (n : Word) => ∃ t, exec i s = .next t ∧ KWrote s t d v (s.tile.k.pc + n)
    gives (.addi d a imm) (x + y) 4 ∧ gives (.andi d a imm) (x &&& y) 4 ∧ gives (.ori d a imm) (x ||| y) 4 ∧
    gives (.xori d a imm) (x ^^^ y) 4 ∧ gives (.slti d a imm) (if x.toInt < y.toInt then 1 else 0) 4 ∧
    gives (.shli d a sh) (BitVec.ofNat 64 (x.toNat * 2 ^ sh.toNat)) 4 ∧
    gives (.shri d a sh) (BitVec.ofNat 64 (x.toNat / 2 ^ sh.toNat)) 4 ∧
    gives (.sari d a sh) (BitVec.ofInt 64 (x.toInt / 2 ^ sh.toNat)) 4 ∧
    gives (.lit d w) (BitVec.ofInt 64 w.toInt) 8 ∧ gives (.litZx d w) (BitVec.ofNat 64 w.toNat) 8 ∧
    gives (.litHi d w) (BitVec.ofNat 64 (w.toNat * 2 ^ 32 + (s.tile.kget d).toNat % 2 ^ 32)) 8 ∧
    ∃ t, exec .nop s = .next t ∧ KWent s t (s.tile.k.pc + 4))

/-- 06 R103, 04 R65: a branch goes to pc + 4 × its offset where its condition holds and to the next word where it does not, JAL and JALR link and
jump; a target outside K's stream raises ILLEGAL and a target of JALR that is no multiple of 4 ALIGN, with nothing else written. -/
def Obligations.KBranchesAndJumps : Prop :=
  ∀ (s : State) (d a b : Reg) (off imm : BitVec 15) (far : BitVec 25),
    let x := s.tile.kget a
    let y := s.tile.kget b
    let pc := s.tile.k.pc
    let t0 : Word := pc + 4 * BitVec.ofInt 64 off.toInt
    let branch := fun (i : Instr) (c : Prop) =>
      (¬ c → ∃ t, exec i s = .next t ∧ KWent s t (pc + 4)) ∧
      (c → s.tile.kIn t0 = true → ∃ t, exec i s = .next t ∧ KWent s t t0) ∧
      (c → s.tile.kIn t0 = false → exec i s = .next (s.kFault .illegal 0) ∧
        (KHandles s → ∃ t, exec i s = .next t ∧ KTrapped s t .illegal pc 0))
    branch (.beq a b off) (x = y) ∧ branch (.bne a b off) (x ≠ y) ∧ branch (.blt a b off) (x.toInt < y.toInt) ∧
    branch (.bge a b off) (y.toInt ≤ x.toInt) ∧ branch (.bltn a b off) (x.toNat < y.toNat) ∧
    branch (.bgen a b off) (y.toNat ≤ x.toNat) ∧
    (let t1 : Word := pc + 4 * BitVec.ofInt 64 far.toInt
     (s.tile.kIn t1 = true → ∃ t, exec (.jal far) s = .next t ∧ KWrote s t 31 (pc + 4) t1) ∧
     (s.tile.kIn t1 = false → exec (.jal far) s = .next (s.kFault .illegal 0) ∧
       (KHandles s → ∃ t, exec (.jal far) s = .next t ∧ KTrapped s t .illegal pc 0))) ∧
    (let t2 : Word := x + BitVec.ofInt 64 imm.toInt
     (t2.toNat % 4 = 0 → s.tile.kIn t2 = true → ∃ t, exec (.jalr d a imm) s = .next t ∧ KWrote s t d (pc + 4) t2) ∧
     (t2.toNat % 4 = 0 → s.tile.kIn t2 = false → exec (.jalr d a imm) s = .next (s.kFault .illegal 0) ∧
       (KHandles s → ∃ t, exec (.jalr d a imm) s = .next t ∧ KTrapped s t .illegal pc 0)) ∧
     (t2.toNat % 4 ≠ 0 → ∃ v, exec (.jalr d a imm) s = .next (s.kFault .align v) ∧
       (KHandles s → ∃ t, exec (.jalr d a imm) s = .next t ∧ KTrapped s t .align pc v)))

/-- 06 R104 to R106, 07 R141: a K load from the scratchpad writes the eight little-endian bytes at ea, S stores before it in token order seen; a K
store writes the eight bytes of kb there and no other byte of any memory, and K goes on. A misaligned address raises ALIGN, one that reaches
0x300000 ACCESS_DENIED, with nothing written. -/
def Obligations.KScratchpadAccess : Prop :=
  ∀ (s : State) (d a b : Reg) (imm : BitVec 15),
    let ea : Word := s.tile.kget a + BitVec.ofInt 64 imm.toInt
    let free := ea.toNat % 8 = 0 ∧ ea.toNat + 8 ≤ 0x300000 ∧ s.isLost 1 s.cur.val ea.toNat 8 = false ∧ s.tile.kOrdered = false
    (free → ∃ t, exec (.klds d a imm) s = .next t ∧
      KWrote s t d (BitVec.ofNat 64 ((s.tile.spmView s.tile.k.clk).readN ea.toNat 8)) (s.tile.k.pc + 4)) ∧
    (free → ∃ t, exec (.ksts a b imm) s = .next t ∧ t.tile.k = s.tile.kNext.k ∧ t.cur = s.cur ∧
      (∀ c, t.tile.spm.get c = if ea.toNat ≤ c ∧ c < ea.toNat + 8 then BitVec.ofNat 8 ((s.tile.kget b).toNat / 256 ^ (c - ea.toNat))
        else s.tile.spm.get c) ∧
      (∀ u, u ≠ s.cur → t.tileAt u = s.tileAt u) ∧ (∀ l c, (t.tile.carveMem l).get c = (s.tile.carveMem l).get c) ∧
      (∀ c, t.tile.rbyte c = s.tile.rbyte c) ∧ t.dev.hbm = s.dev.hbm ∧ t.dev.host = s.dev.host ∧ t.dev.remote = s.dev.remote) ∧
    (ea.toNat % 8 ≠ 0 → KHandles s →
      (∃ t, exec (.klds d a imm) s = .next t ∧ KTrapped s t .align s.tile.k.pc ea) ∧
      ∃ t, exec (.ksts a b imm) s = .next t ∧ KTrapped s t .align s.tile.k.pc ea) ∧
    (ea.toNat % 8 = 0 → 0x300000 < ea.toNat + 8 → KHandles s →
      (∃ t, exec (.klds d a imm) s = .next t ∧ KTrapped s t .accessDenied s.tile.k.pc ea) ∧
      ∃ t, exec (.ksts a b imm) s = .next t ∧ KTrapped s t .accessDenied s.tile.k.pc ea)

/-- 06 R104 to R107: a K load, store or atomic of commons, local, far or host memory whose address translates, whose checks pass and whose data
can be had performs at its place in the state s1 that translation leaves. The load writes the eight bytes, the store writes the bytes of kb,
the atomic writes atomNew of the old value, kb and kd and gives the old value sign-extended; K goes on. Where its turn leaves the request in the network,
or its link is down, K waits for the reply, with the task's tag bound where a walk was made.
06 R107, 05 R89: what an atomic leaves in memory, for each operation code, 4 bytes wide for codes 0 to 7 and 8 bytes wide for 8 to 15. -/
def Obligations.KMemoryAndAtomics : Prop :=
  (∀ (s s1 s2 : State) (sp : Space) (ld st at_ : Instr) (d a b : Reg) (imm : BitVec 15) (op : BitVec 4) (w : Where) (v : Nat),
    s.tile.kOrdered = false →
    let goes := s.defer = false ∧ s1.linkReady w.tgt w.addr = true
    let waits := fun (ea : Word) => (s.bindFor s.cur sp).kLink ea
    ((sp, ld, st) ∈ [(Space.commons, Instr.kldm d a imm, Instr.kstm a b imm), (.loc, .kldl d a imm, .kstl a b imm),
        (.far, .kldf d a imm, .kstf a b imm), (.host, .kldh d a imm, .ksth a b imm)] →
      let ea : Word := s.tile.kget a + BitVec.ofInt 64 imm.toInt
      ea.toNat % 8 = 0 →
      (s.resolve s.cur sp .read ea 8 false = .ok (w, s1) → ¬ goes → exec ld s = .next (waits ea)) ∧
      (s.resolve s.cur sp .write ea 8 false = .ok (w, s1) → ¬ goes → exec st s = .next (waits ea)) ∧
      (s.resolve s.cur sp .read ea 8 false = .ok (w, s1) → goes → s1.readAt s.cur s.tile.k.clk w.tgt w.addr 8 = .ok v →
        ∃ t, exec ld s = .next t ∧ KWrote s1 t d (BitVec.ofNat 64 v) (s1.tile.k.pc + 4)) ∧
      (s.resolve s.cur sp .write ea 8 false = .ok (w, s1) → goes → s1.writeAt s.cur w.tgt w.addr 8 (s.tile.kget b).toNat = .ok s2 →
        ∃ t, exec st s = .next t ∧ KWent s2 t (s2.tile.k.pc + 4))) ∧
    ((sp, at_) ∈ [(Space.commons, Instr.katm d a b op), (.loc, .katl d a b op), (.far, .katf d a b op)] →
      let ea := s.tile.kget a
      let n := if bit op 3 then 8 else 4
      ea.toNat % n = 0 → s.resolve s.cur sp .rmw ea n false = .ok (w, s1) →
      (¬ goes → exec at_ s = .next (waits ea)) ∧
      (goes → s1.readAt s.cur s.tile.k.clk w.tgt w.addr n = .ok v →
        s1.writeAt s.cur w.tgt w.addr n (atomNew op v (s.tile.kget b).toNat (s.tile.kget d).toNat) = .ok s2 →
        ∃ t, exec at_ s = .next t ∧
          KWrote s2 t d (if n = 4 then (BitVec.ofNat 32 v).signExtend 64 else BitVec.ofNat 64 v) (s2.tile.k.pc + 4)))) ∧
  (∀ (old b e : Nat),
    (∀ (op : BitVec 4) (n : Nat), (op.toNat < 8 ∧ n = 32 ∨ 8 ≤ op.toNat ∧ n = 64) →
      let x : BitVec n := BitVec.ofNat n old
      let y : BitVec n := BitVec.ofNat n b
      (op.toNat % 8 = 0 → atomNew op old b e = (old + b) % 2 ^ n) ∧
      (op.toNat % 8 = 1 → atomNew op old b e = if x.toInt ≤ y.toInt then x.toNat else y.toNat) ∧
      (op.toNat % 8 = 2 → atomNew op old b e = if x.toInt ≤ y.toInt then y.toNat else x.toNat) ∧
      (op.toNat % 8 = 3 → atomNew op old b e = (x &&& y).toNat) ∧
      (op.toNat % 8 = 4 → atomNew op old b e = (x ||| y).toNat) ∧
      (op.toNat % 8 = 5 → atomNew op old b e = (x ^^^ y).toNat) ∧
      (op.toNat % 8 = 6 → atomNew op old b e = y.toNat) ∧
      (op.toNat % 8 = 7 → atomNew op old b e = if old % 2 ^ n = e % 2 ^ n then y.toNat else x.toNat)))

/-- 11 R254, 02 R19: a write of n bytes at a target changes exactly the n bytes at its address, little-endian: every other byte of that memory, and
every byte of the other memories, reads as before, and no register of K changes. -/
def Obligations.WriteChangesItsBytesOnly : Prop :=
  ∀ (s t : State) (u : TileId) (tgt : Target) (a n v : Nat), s.writeAt u tgt a n v = .ok t →
    let new := fun (old : Byte) (c : Nat) => if a ≤ c ∧ c < a + n then BitVec.ofNat 8 (v / 256 ^ (c - a)) else old
    (∀ x, (t.tileAt x).k = (s.tileAt x).k ∧ ∀ c, (t.tileAt x).rbyte c = (s.tileAt x).rbyte c) ∧
    (∀ c, t.dev.hbm.get c = if tgt = .hbm then new (s.dev.hbm.get c) c else s.dev.hbm.get c) ∧
    (∀ c, t.dev.host.get c = if tgt = .host then new (s.dev.host.get c) c else s.dev.host.get c) ∧
    (∀ x c, (t.tileAt x).spm.get c = if tgt = .spm ∧ x = u then new ((s.tileAt x).spm.get c) c else (s.tileAt x).spm.get c) ∧
    (∀ x l c, (∃ y ∈ (s.tileAt x).carves, y.launch = l) → ((t.tileAt x).carveMem l).get c =
      if tgt = .commons x l then new (((s.tileAt x).carveMem l).get c) c else ((s.tileAt x).carveMem l).get c) ∧
    (∀ d r r', s.remote? d = some r → t.remote? d = some r' → ∀ c, r'.hbm.get c =
      if tgt = .remote d then new (r.hbm.get c) c else r.hbm.get c)

/-- 06 R108: SMWAIT takes a unit where one is free for it (no engine that waited longer takes it first, R109) and waits where the count is 0; SMSIG adds
one and saturates; SMSET and SMRD set and read; with number 0 the first three do nothing and SMRD gives 0.
06 R111, R113, R114: EVPOP removes the oldest record and writes its words into kd and kd + 1, and waits where there is none; EVPEEK writes them
without removing it, zeros where there is none; GRES sets a guard slot free, true or false; TKPUSH enters ka's low half in every queue it
names, and TKPOP takes an entry from every queue it names and writes the first one's payload, where space and entries are there; where a
wait can never end they raise TOKEN_STALL. -/
def Obligations.KSemaphoresEventsTokens : Prop :=
  (∀ (s : State) (d a b : Reg),
    let n : BitVec 8 := (s.tile.kget a).setWidth 8
    (n ≠ 0 → s.tile.engineAhead n (s.tile.k.since.getD s.dev.now) < (rd s.tile.sm n.toNat).toNat →
      exec (.smwait a) s = .next (s.upd fun x => ({ x with sm := wr x.sm n.toNat (rd x.sm n.toNat - 1) }).kNext)) ∧
    (n ≠ 0 → rd s.tile.sm n.toNat = 0 → exec (.smwait a) s = .next s.kWait) ∧
    (n ≠ 0 → exec (.smsig a) s = .next (s.upd fun x =>
      ({ x with sm := wr x.sm n.toNat (BitVec.ofNat 32 (min ((rd x.sm n.toNat).toNat + 1) 0xFFFFFFFF)) }).kNext)) ∧
    (n ≠ 0 → exec (.smset a b) s = .next (s.upd fun x => ({ x with sm := wr x.sm n.toNat (BitVec.ofNat 32 (s.tile.kget b).toNat) }).kNext)) ∧
    (n = 0 → ∀ i ∈ [Instr.smwait a, .smsig a, .smset a b], ∃ t, exec i s = .next t ∧ KWent s t (s.tile.k.pc + 4)) ∧
    ∃ t, exec (.smrd d a) s = .next t ∧
      KWrote s t d (BitVec.ofNat 64 (if n = 0 then 0 else (rd s.tile.sm n.toNat).toNat)) (s.tile.k.pc + 4)) ∧
  (∀ (s : State) (d a b : Reg) (c : BitVec 3),
    let put := fun (r : BitVec 128) (x : Tile) => ((x.kset d (r.extractLsb' 0 64)).kset (d + 1) (r.extractLsb' 64 64)).kNext
    let ps := peersOf .k c
    let gv : Guard := if bit (s.tile.kget a) 4 then .free else if s.tile.kget b = 0 then .no else .yes
    (∀ r rest, s.tile.evq = r :: rest → s.tile.evWait = [] → exec (.evpop d) s = .next (s.upd fun x =>
      put r { x with evq := rest, evHead := (x.evHead + 1) % 64 })) ∧
    (∀ r rest y ys, s.tile.evq = r :: rest → s.tile.evWait = y :: ys → exec (.evpop d) s = .next (s.upd fun x =>
      put r { x with evq := rest ++ [y], evHead := (x.evHead + 1) % 64, evWait := ys })) ∧
    (s.tile.evq = [] → exec (.evpop d) s = .next s.kWait) ∧
    exec (.evpeek d) s = .next (s.upd (put (s.tile.evq.headD 0))) ∧
    exec (.gres a b) s = .next (s.upd fun x => ({ x with gd := wr x.gd (bits (s.tile.kget a) 3 0) gv }).kNext) ∧
    (s.tile.tokenStalled .k [] ps false = false → s.tile.canPush .k ps = true → exec (.tkpush a c) s = .next (s.upd fun x =>
      ((x.reserve .k ps).pushReserved .k ps (BitVec.ofNat 32 (s.tile.kget a).toNat) (x.k.clk.tick .k)).kNext)) ∧
    (s.tile.tokenStalled .k ps [] false = false → s.tile.canPop .k ps = true → ∀ h r, s.tile.heads .k ps = h :: r →
      exec (.tkpop d c) s = .next (s.upd fun x => ((x.popToks .k ps).kset d (BitVec.ofNat 64 h.pay.toNat)).kNext)) ∧
    (s.tile.tokenStalled .k [] ps false = true → exec (.tkpush a c) s = .next (s.kFault .tokenStall 0)) ∧
    (s.tile.tokenStalled .k ps [] false = true → exec (.tkpop d c) s = .next (s.kFault .tokenStall 0)))

/-- 04 R75, R76, 10 R231: a word's push enters the entry at the tail of every queue its code names, and of no other, behind the pushes of the words
before it: at once where none of them is still to come, and else its entry keeps its place and waits there (that it waits is the model's reading, log 84: DEDUCED); a pop takes the head of every named queue that
has one, and leaves reservations as they are.
10 R231, R232, 07 R139: a sequencer stands in a token wait that cannot end when a queue it pops is empty and its pusher has ended with nothing reserved, or one it pushes
to is full and its popper has ended: L, C and S then stop with TOKEN_STALL, once no memory instruction of theirs is unfinished, and K raises it; in
every other case the step changes nothing. -/
def Obligations.TokenQueuesAndStalls : Prop :=
  (∀ (t : Tile) (q : Sequencer) (code : BitVec 3) (pay : BitVec 32) (clk : Clk) (x y : Sequencer), x ≠ y →
    clk.at q = (t.clkOf q).at q + 1 →
    let ps := peersOf q code
    let z := t.tokQ x y
    let u := ((t.reserve q ps).pushReserved q ps pay clk).tokQ x y
    u.head = z.head ∧
    (z.wait = [] → u.wait = [] ∧ u.items = z.items ++ (if x = q ∧ y ∈ ps then [⟨pay, clk⟩] else [])) ∧
    (∀ w r, z.wait = (w, none) :: r → (∀ e ∈ z.wait, e.1 < clk.at q) →
      u.items = z.items ∧ u.wait = z.wait ++ (if x = q ∧ y ∈ ps then [(clk.at q, some ⟨pay, clk⟩)] else [])) ∧
    ((t.popToks q ps).tokQ x y).items = (if y = q ∧ x ∈ ps then z.items.drop 1 else z.items) ∧
    ((t.popToks q ps).tokQ x y).wait = z.wait) ∧
  (∀ (s : State) (t : TileId) (q : Sequencer),
    let x := s.tileAt t
    let pops := peersOf q (s.tokensAt t q).1
    let pushes := peersOf q (s.tokensAt t q).2
    let stuck := (∃ p ∈ pops, (x.tokQ p q).items = [] ∧ x.endedOf p = true ∧ (x.tokQ p q).resv = 0) ∨
      (x.resvOf q = false ∧ ∃ p ∈ pushes, 16 ≤ (x.tokQ q p).items.length + (x.tokQ q p).resv ∧ x.endedOf p = true)
    (¬ (s.executes t q = true ∧ (q = .k → x.k.pend = none) ∧ (q ≠ .k → x.mayStop q = true) ∧ stuck) → exec (.tokenStall t q) s = .next s) ∧
    (s.executes t q = true → stuck → q ≠ .k → x.mayStop q = true → ∃ z r, exec (.tokenStall t q) s = .next z ∧ (z.tileAt t).stopOf q = some r ∧ r.cause = .tokenStall ∧
      r.pc = x.pcOf q ∧ r.addr = 0 ∧ r.imprecise = false ∧ (z.tileAt t).k = x.k ∧ (z.tileAt t).tok = x.tok ∧ (z.tileAt t).resvOf q = x.resvOf q ∧
      ∀ u, u ≠ t → z.tileAt u = s.tileAt u) ∧
    (s.executes t .k = true → q = .k → stuck → x.k.pend = none → t = s.cur → KHandles s →
      ∃ z, exec (.tokenStall t .k) s = .next z ∧ KTrapped s z .tokenStall x.k.pc 0))

/-- 06 R115 to R117: a local barrier instruction that finds its object aligned, inside the scratchpad, intact, no update of the same cycle waiting for
it and, for BARR and BARD, K's earlier accesses performed, applies its update and the completion test to the object and writes the phase
before it into kd (BARX writes none); an arrival that finds pending 0, and a drop that finds pending or reload 0, raises BAR_OVERRUN, whose value
here is the object's address (log 31). BARW answers a phase that differs from kb's and waits while it is the same. An acquire before K in token order
that has not performed keeps them waiting (11 R266).
06 R123, R124: FENCE goes on where no access before it that its kind covers is still to perform, and waits otherwise; QFENCE of no queue signals its
semaphore at once, and else, with a free entry in every named queue, queues one join in each of them and K goes on; while a named queue is full it
waits (log 22). -/
def Obligations.KBarriersAndFences : Prop :=
  (∀ (s : State) (d a b : Reg),
    let ea := s.tile.kget a
    let o := s.tile.spm.bar ea.toNat
    let test := fun (o : Bar) => if o.pending = 0 ∧ o.bytes = 0 then { o with phase := (o.phase + 1) % 4096, pending := o.reload } else o
    ea.toNat % 16 = 0 → ea.toNat < 0x300000 → s.isLost 1 s.cur.val ea.toNat 16 = false →
    (s.tile.kOrdered = true → ∀ i ∈ [Instr.bard d a, .barx a b, .barw d a b], exec i s = .next s.kWait) ∧
    (s.tile.kOrdered = false → s.tile.barDue = [] → s.tile.barOpen = none →
    let after := fun (s1 : State) (o' : Bar) (d : Reg) =>
      (s1.upd fun x => { x with spm := x.spm.setBar ea.toNat (test o') }).kDone d (BitVec.ofNat 64 o.phase)
    (s.tile.kOpen false false = false → 0 < o.pending → exec (.barr d a b) s =
      .next (after (s.closeBatch s.cur) { o with pending := o.pending - 1, bytes := o.bytes + s.tile.kget b } d)) ∧
    (s.tile.kOpen false false = false → 0 < o.pending → 0 < o.reload → exec (.bard d a) s =
      .next (after s { o with pending := o.pending - 1, reload := o.reload - 1 } d)) ∧
    exec (.barx a b) s = .next (after s { o with bytes := o.bytes + s.tile.kget b } 0) ∧
    (s.tile.kOpen false false = false → o.pending = 0 → exec (.barr d a b) s = .next ((s.closeBatch s.cur).kFault .barOverrun ea)) ∧
    (s.tile.kOpen false false = false → o.pending = 0 ∨ o.reload = 0 → exec (.bard d a) s = .next (s.kFault .barOverrun ea)) ∧
    (o.phase ≠ (s.tile.kget b).toNat % 4096 → ∃ t, exec (.barw d a b) s = .next t ∧
      KWrote s t d (BitVec.ofNat 64 o.phase) (s.tile.k.pc + 4)) ∧
    (o.phase = (s.tile.kget b).toNat % 4096 → exec (.barw d a b) s = .next s.kWait))) ∧
  (∀ (s : State) (a b : Reg) (kind scope : BitVec 2),
    let acq := kind = 1 ∨ kind = 3
    let rel := kind = 2 ∨ kind = 3
    let mask := s.tile.kget a
    let sem : BitVec 8 := BitVec.ofNat 8 (s.tile.kget b).toNat
    let waits := (acq ∧ s.tile.kOpen true false = true) ∨ (rel ∧ s.tile.kOpen false (decide (scope = 3)) = true)
    (¬ waits → ∃ t, exec (.fence kind scope) s = .next t ∧ KWent s t (s.tile.k.pc + 4)) ∧
    (waits → exec (.fence kind scope) s = .next s.kWait) ∧
    (mask.toNat % 128 = 0 → exec (.qfence a b) s = .next (s.upd fun x => (x.smSignal sem).kNext)) ∧
    ((∃ e, e < 7 ∧ mask.getLsbD e = true ∧ 16 ≤ (rd s.tile.q e).length) → exec (.qfence a b) s = .next s.kWait) ∧
    (mask.toNat % 128 ≠ 0 → (∀ e, e < 7 → mask.getLsbD e = true → (rd s.tile.q e).length < 16) → ∃ t, exec (.qfence a b) s = .next t ∧
      t.tile.k = s.tile.kNext.k ∧ t.tile.sm = s.tile.sm ∧ SameMemory s t ∧ (∀ u, u ≠ s.cur → t.tileAt u = s.tileAt u) ∧
      ∀ e, e < 7 → ∃ c : Cmd, c.body = .join s.dev.nextId (BitVec.ofNat 7 mask.toNat) sem ∧ c.started = false ∧
        rd t.tile.q e = if mask.getLsbD e = true then rd s.tile.q e ++ [c] else rd s.tile.q e))

/-- 06 R118 to R120: FLAGADD sends one update to its tile and FLAGSET one to each tile of its mask, once K's earlier accesses have performed and the
open batch has left; a count or mask of zero does nothing; an address that is no multiple of 16 raises ALIGN. GRPQ answers the size, the
master, the rank or a member of the group, all ones where there is none.
06 R121, 10 R236: GRPSET whose list and object pass the checks of R121 makes its writes in order, the three dies' copies and then the object on every
member's tile, and K goes on; deferred, or with a member's tile being stopped or restored, K waits with the writes still to make, each GRPSET_HANDSHAKE makes the next one, and after the
last K goes on. A misaligned list raises ALIGN. -/
def Obligations.KFlagsAndGroups : Prop :=
  (∀ (s : State) (d a b : Reg),
    let addr := (s.tile.kget a).toNat % 2 ^ 22
    let t0 := bits (s.tile.kget a) 40 32
    let n := (s.tile.kget b).toNat % 2 ^ 20
    let m := (List.range 64).filter fun i => (s.tile.kget b).getLsbD i
    let ok := addr % 16 = 0 ∧ addr < 0x300000 ∧ s.tile.kOpen false false = false
    let here := fun (u : TileId) => s.inPartition s.tile.ctx u = true
    (n = 0 → ∃ t, exec (.flagadd a b) s = .next t ∧ KWent s t (s.tile.k.pc + 4)) ∧
    (s.tile.kget b = 0 → ∃ t, exec (.flagset a b) s = .next t ∧ KWent s t (s.tile.k.pc + 4)) ∧
    (∀ h : t0 < 432, ok → n ≠ 0 → here ⟨t0, h⟩ → exec (.flagadd a b) s =
      .next ((s.closeBatch s.cur).sendTo s.cur ⟨t0, h⟩ 4 0 2 (.flagadd addr n) s.tile.k.clk).kSkip) ∧
    (ok → m ≠ [] → (∀ i ∈ m, ∃ h : t0 + i < 432, here ⟨t0 + i, h⟩) → exec (.flagset a b) s =
      .next (m.foldl (fun x i => x.sendTo s.cur (tileOf (t0 + i)) 4 0 2 (.flagset addr) s.tile.k.clk) (s.closeBatch s.cur)).kSkip) ∧
    (addr % 16 ≠ 0 → n ≠ 0 → exec (.flagadd a b) s = .next (s.kFault .align (BitVec.ofNat 64 addr))) ∧
    (addr % 16 ≠ 0 → m ≠ [] → exec (.flagset a b) s = .next (s.kFault .align (BitVec.ofNat 64 addr))) ∧
    (∀ l k, s.launch? s.tile.launch = some l → s.tile.task = some k →
      let g := l.group (dieOf s.cur) (bits (s.tile.kget a) 7 0)
      let ones : Word := BitVec.allOnes 64
      ∃ t, exec (.grpq d a b) s = .next t ∧ KWrote s t d (match bits (s.tile.kget b) 1 0 with
        | 0 => BitVec.ofNat 64 g.members.length
        | 1 => if g.members = [] then ones else BitVec.ofNat 64 g.master
        | 2 => (match g.members.findIdx? (· == k.index) with | some r => BitVec.ofNat 64 r | none => ones)
        | _ => (match g.members[bits (s.tile.kget a) 39 16]? with | some x => BitVec.ofNat 64 x | none => ones)) (s.tile.k.pc + 4))) ∧
  (∀ (s : State) (a b : Reg) (l : Launch) (k : Task),
    let x := s.tile
    let g := (x.kget a).toNat % 256
    let p := (x.kget b).toNat
    let v := x.spmView x.k.clk
    let n := v.readN p 3
    let master := v.readN (p + 4) 3
    let ms := v.taskList (p + 8) n
    let e := l.group (dieOf s.cur) g
    let o := x.spm.bar (0x2FF000 + 16 * g)
    let left := [GrpTarget.die 0, .die 1, .die 2] ++ (ms.filterMap fun i => l.tileOfTask i).map GrpTarget.tile
    (p % 8 ≠ 0 → exec (.grpset a b) s = .next (s.kFault .align (x.kget b))) ∧
    (p % 8 = 0 → p + 8 + 4 * n ≤ 0x300000 → s.isLost 1 s.cur.val p 8 = false → s.isLost 1 s.cur.val (p + 8) (4 * n) = false →
      s.isLost 1 s.cur.val (0x2FF000 + 16 * g) 16 = false → s.launch? x.launch = some l → x.task = some k → v.readN (p + 3) 1 = 0 → v.readN (p + 7) 1 = 0 →
      e.members ≠ [] → e.master = k.index → o.pending = o.reload → o.bytes = 0 → 0 < n → n < 2 ^ 20 →
      grpListOk l (dieOf s.cur) g n master ms = true →
      let held := ∃ u, GrpTarget.tile u ∈ left ∧ u ≠ s.cur ∧ s.taskHome u x.launch = .held
      (s.defer = false → ¬ held → exec (.grpset a b) s =
        .next (left.foldl (fun z y => z.grpWrite s.cur x.launch g n master ms y) s).kSkip) ∧
      (s.defer = true ∨ held → exec (.grpset a b) s = .next (s.upd fun z =>
        { z with k := { z.k with pend := some (.grpset g n master ms left), since := some s.dev.now } }))) ∧
    (∀ (t : TileId) (g n master : Nat) (ms : List Nat) (y : GrpTarget) (r : List GrpTarget),
      (s.tileAt t).k.pend = some (.grpset g n master ms (y :: r)) →
      (∀ u, y = .tile u → u ≠ t → s.taskHome u (s.tileAt t).launch ≠ .held) →
      exec (.grpsetHandshake t) s = .next ((s.grpWrite t (s.tileAt t).launch g n master ms y).updAt t fun z =>
        if r = [] then ({ z with k := { z.k with pend := none } }).kNext
        else { z with k := { z.k with pend := some (.grpset g n master ms r) } })))

/-- 06 R125: SUBON on an entry that is open answers 1, one whose descriptor is invalid 3; else, not deferred, the publisher's answer: 4 where its tile
is none of the launch's, 2 where it has no free entry, 0 with both entries open, the publisher's lowest free one (log 125), a batch open there left out of it.
SUBOFF of a closed entry answers 1; of an open one whose publisher has no batch open and no update under way it closes both entries and answers 0. While K waits, the
handshake brings the same answers; the end of a SUBOFF closes the entry and answers 0.
06 R126, 12 R290: CHRESYNC at a task that is not the channel's sender raises ACCESS_DENIED. At the sender, with no slot in flight and the receiver's
counters at hand, the receiver's received becomes the sender's sent, the sender's free becomes slots - (sent - consumed), its fault bit
clears, and kd takes consumed; deferred, the handshake does the same later. -/
def Obligations.KSubscriptionsAndResync : Prop :=
  (∀ (s : State) (d a b : Reg),
    let e := (s.tile.kget a).toNat % 16
    let p := (s.tile.kget b).toNat
    let w := (s.tile.spmView s.tile.k.clk).readN p 16
    let pub := nbits w 96 16
    let ask := s.subOpen s.cur e pub (nbits w 64 32) (nbits w 32 32) (nbits w 0 32)
    let ok := p % 16 = 0 ∧ p + 16 ≤ 0x300000 ∧ s.isLost 1 s.cur.val p 16 = false
    (p % 16 ≠ 0 → exec (.subon d a b) s = .next (s.kFault .align (s.tile.kget b))) ∧
    (ok → (rd s.tile.subs e).opened = true → ∃ t, exec (.subon d a b) s = .next t ∧ KWrote s t d 1 (s.tile.k.pc + 4)) ∧
    (ok → (rd s.tile.subs e).opened = false → subDescOk w = false →
      ∃ t, exec (.subon d a b) s = .next t ∧ KWrote s t d 3 (s.tile.k.pc + 4)) ∧
    (ok → (rd s.tile.subs e).opened = false → subDescOk w = true → s.defer = false → ∀ r s1, ask = some (r, s1) →
      ∃ t, exec (.subon d a b) s = .next t ∧ KWrote s1 t d (BitVec.ofNat 64 r) (s1.tile.k.pc + 4)) ∧
    ((rd s.tile.subs e).opened = false → ∃ t, exec (.suboff d a) s = .next t ∧ KWrote s t d 1 (s.tile.k.pc + 4)) ∧
    ((rd s.tile.subs e).opened = true → s.defer = true → exec (.suboff d a) s = .next (s.upd fun x =>
      { x with k := { x.k with pend := some (.suboff d e none), since := some s.dev.now } })) ∧
    (∀ (t : TileId) size pb sb r s1, (s.tileAt t).k.pend = some (.subon d e pub size pb sb) → s.subOpen t e pub size pb sb = some (r, s1) →
      exec (.subscriptionHandshake t) s = .next (s1.updAt t fun x =>
        (({ x with k := { x.k with pend := none } }).kset d (BitVec.ofNat 64 r)).kNext)) ∧
    (∀ (t : TileId) n, (s.tileAt t).k.pend = some (.suboff d e (some n)) →
      s.updatesInFlight (tileOf (rd (s.tileAt t).subs e).peer) t n = false →
      exec (.subscriptionHandshake t) s = .next (s.updAt t fun x =>
        (({ x with subs := wr x.subs e SubEntry.closed, k := { x.k with pend := none } }).kset d 0).kNext)) ∧
    (∀ size pb sb, (∀ h : pub < 432, s.inPartition s.tile.ctx ⟨pub, h⟩ = false) →
      s.subOpen s.cur e pub size pb sb = some (4, s)) ∧
    (∀ (size pb sb : Nat) (h : pub < 432), s.inPartition s.tile.ctx ⟨pub, h⟩ = true →
      let y := s.tileAt ⟨pub, h⟩
      (s.taskHome ⟨pub, h⟩ s.tile.launch = .absent → s.subOpen s.cur e pub size pb sb = some (4, s)) ∧
      (s.taskHome ⟨pub, h⟩ s.tile.launch = .held → s.subOpen s.cur e pub size pb sb = none) ∧
      (s.taskHome ⟨pub, h⟩ s.tile.launch = .live → (∀ i, i < 16 → (rd y.pubs i).opened = true) →
        s.subOpen s.cur e pub size pb sb = some (2, s)) ∧
      (∀ i, s.taskHome ⟨pub, h⟩ s.tile.launch = .live → i < 16 → (rd y.pubs i).opened = false → (∀ j, j < i → (rd y.pubs j).opened = true) →
        ∃ s1, s.subOpen s.cur e pub size pb sb = some (0, s1) ∧
          rd (s1.tileAt ⟨pub, h⟩).pubs i = ⟨true, false, s.cur.val, size, pb, sb, 0⟩ ∧
          rd s1.tile.subs e = ⟨true, false, pub, size, pb, sb, 0⟩ ∧
          (∀ b, y.batch = some b → ∃ b', (s1.tileAt ⟨pub, h⟩).batch = some b' ∧ (i, 0) ∈ b'.fresh ∧ b'.mask = b.mask ∧ b'.data = b.data) ∧
          (ok → (rd s.tile.subs e).opened = false → subDescOk w = true → size = nbits w 64 32 → pb = nbits w 32 32 → sb = nbits w 0 32 →
            s.defer = false → ∃ t, exec (.subon d a b) s = .next t ∧ KWrote s1 t d 0 (s1.tile.k.pc + 4)))) ∧
    (let p := tileOf (rd s.tile.subs e).peer
     let mine := rd s.tile.subs e
     mine.opened = true → s.defer = false → s.taskHome p s.tile.launch = .live → (s.tileAt p).batch = none →
     s.updatesInFlight p s.cur s.dev.nextId = false →
       ∃ t, exec (.suboff d a) s = .next t ∧ t.tile.kget d = 0 ∧ t.tile.k.pc = s.tile.k.pc + 4 ∧ rd t.tile.subs e = SubEntry.closed ∧
         SameMemory s t ∧ ∀ i, (s.tileAt p).pubFor s.cur mine = some i → rd (t.tileAt p).pubs i = SubEntry.closed)) ∧
  (∀ (s : State) (d a : Reg),
    let c := (s.tile.kget a).toNat % 64
    ((rd s.tile.chans c).sender = false → exec (.chresync d a) s = .next (s.kFault .accessDenied 0)) ∧
    ((rd s.tile.chans c).sender = true → s.defer = true → exec (.chresync d a) s = .next (s.upd fun x =>
      { x with k := { x.k with pend := some (.chresync d c), since := some (x.k.since.getD s.dev.now) } })) ∧
    (∀ v s1, (rd s.tile.chans c).sender = true → s.defer = false → s.resync s.cur c = some (v, s1) →
      ∃ t, exec (.chresync d a) s = .next t ∧ KWrote s1 t d v (s1.tile.k.pc + 4)) ∧
    (∀ (t : TileId) v s1, (s.tileAt t).k.pend = some (.chresync d c) → s.resync t c = some (v, s1) →
      exec (.chresyncHandshake t) s = .next (s1.updAt t fun x => (({ x with k := { x.k with pend := none } }).kset d v).kNext)) ∧
    (∀ (t u : TileId) l k, s.chanDecl (s.tileAt t).launch c = some (l, k) → l.tileOfTask k.dst = some u →
      s.chanHome u (s.tileAt t).launch = .live → s.slotsInFlight (s.tileAt t).launch c = false →
      ∃ s1, s.resync t c = some ((rd (s.tileAt u).chans c).consumed.zeroExtend 64, s1) ∧
        (rd (s1.tileAt u).chans c).received = (rd (s.tileAt t).chans c).sent ∧
        (rd (s1.tileAt t).chans c).free = BitVec.ofNat 32 k.slots - ((rd (s.tileAt t).chans c).sent - (rd (s.tileAt u).chans c).consumed) ∧
        (rd (s1.tileAt t).chans c).fault = false ∧ (rd (s1.tileAt t).chans c).sent = (rd (s.tileAt t).chans c).sent ∧
        (t = s.cur → (rd s.tile.chans c).sender = true → s.defer = false → ∃ t', exec (.chresync d a) s = .next t' ∧
          KWrote s1 t' d ((rd (s.tileAt u).chans c).consumed.zeroExtend 64) (s1.tile.k.pc + 4))))

/-- 06 R127, R128: SINC of a live name adds one to its count, saturating, and answers the new count; SREL releases it and answers the count after, a
pinned count staying; name 0 answers 0; a name that is not live raises the cause of its lookup, with the name as its value (log 31); an acquire before K
in token order that has not performed keeps both waiting (11 R266). SROOT, once no earlier access stands before its release half, which has no effect on
an unordered page, answers the old word of the slot and, where that is kd, puts kb there: the new name gains a reference before and the old one loses one
after; where it is not, nothing changes. Where a turn leaves the request in the network, K waits for its reply. -/
def Obligations.KSettReferences : Prop :=
  ∀ (s : State) (d a b : Reg),
    let n := s.tile.kget a
    let new := s.tile.kget b
    let ctx := s.tile.ctx
    (n = 0 → ∀ i ∈ [Instr.sinc d a, .srel d a], ∃ t, exec i s = .next t ∧ KWrote s t d 0 (s.tile.k.pc + 4)) ∧
    (n ≠ 0 → s.tile.kOrdered = true → ∀ i ∈ [Instr.sinc d a, .srel d a], exec i s = .next s.kWait) ∧
    (n ≠ 0 → s.tile.kOrdered = false → s.defer = true → ∀ i ∈ [Instr.sinc d a, .srel d a], exec i s = .next (s.kLink n)) ∧
    (n ≠ 0 → s.tile.kOrdered = false → s.defer = false → ∀ c, s.needName ctx n = .error c → ∀ i ∈ [Instr.sinc d a, .srel d a],
      exec i s = .next ((s.consumed s.cur c (s.nameMet n)).kFault c n)) ∧
    (n ≠ 0 → s.tile.kOrdered = false → s.defer = false → ∀ g, s.needName ctx n = .ok g →
      (∃ t, exec (.sinc d a) s = .next t ∧
        KWrote (s.incSlot g) t d (BitVec.ofNat 64 (min ((s.slot g).count + 1) 0xFFFFFFFF)) (s.tile.k.pc + 4)) ∧
      exec (.srel d a) s = .next ((s.release ctx n).kDone d
        (BitVec.ofNat 64 (if (s.slot g).count = 0xFFFFFFFF then (s.slot g).count else (s.slot g).count - 1)))) ∧
    (∀ w s1, n.toNat % 8 = 0 → s.resolve s.cur .loc .rmw n 8 false = .ok (w, s1) → s.tile.kOrdered = false →
      (s.defer = true ∨ s1.linkReady w.tgt w.addr = false → exec (.sroot d a b) s = .next ((s.bindFor s.cur .loc).kLink n)) ∧
      (s.defer = false → s1.linkReady w.tgt w.addr = true → w.ord ≠ .unordered → s.tile.kOpen false false = true →
        exec (.sroot d a b) s = .next s.kWait)) ∧
    (∀ w s1 old, (w.ord = .unordered ∨ s.tile.kOpen false false = false) → n.toNat % 8 = 0 → s.resolve s.cur .loc .rmw n 8 false = .ok (w, s1) →
      s.tile.kOrdered = false → s.defer = false → s1.linkReady w.tgt w.addr = true → s1.readAt s.cur s.tile.k.clk w.tgt w.addr 8 = .ok old →
      (BitVec.ofNat 64 old ≠ s.tile.kget d → (new = 0 ∨ ∃ g, s1.needName ctx new = .ok g) →
        ∃ t, exec (.sroot d a b) s = .next t ∧ KWrote s1 t d (BitVec.ofNat 64 old) (s1.tile.k.pc + 4)) ∧
      let sound := old = 0 ∨ s1.bucketLost (s1.bucketOf (old / 256)) = false
      (BitVec.ofNat 64 old = s.tile.kget d → sound → ∀ g s3, s1.needName ctx new = .ok g → new ≠ 0 →
        (s1.incSlot g).writeAt s.cur w.tgt w.addr 8 new.toNat = .ok s3 →
        exec (.sroot d a b) s = .next ((if old = 0 then s3 else s3.release ctx (BitVec.ofNat 64 old)).kDone d (BitVec.ofNat 64 old))) ∧
      (BitVec.ofNat 64 old = s.tile.kget d → sound → ∀ s3, new = 0 → s1.writeAt s.cur w.tgt w.addr 8 0 = .ok s3 →
        exec (.sroot d a b) s = .next ((if old = 0 then s3 else s3.release ctx (BitVec.ofNat 64 old)).kDone d (BitVec.ofNat 64 old))))

/-- 06 R129 to R131: SRRD gives the system register of the number in ka, zero for a number not listed; SRWR writes AGE, and in trap mode TVEC with zero or
an instruction address of K's stream, ALIGN for another value and PRIV for every other register or mode; RNG gives the generator word of
lane 0, CLKRD the 100 MHz periods since session start. -/
def Obligations.KSystemRegisters : Prop :=
  ∀ (s : State) (d a b : Reg) (k : Task) (l : Launch), s.tile.task = some k → s.launch? k.launch = some l →
    let n := (s.tile.kget a).toNat % 4096
    let v := s.tile.kget b
    (∃ t, exec (.srrd d a) s = .next t ∧ KWrote s t d (match n with
      | 0 => BitVec.ofNat 64 k.index
      | 1 => BitVec.ofNat 64 s.cur.val
      | 2 => BitVec.ofNat 64 l.tasks
      | 3 => k.launch
      | 4 => l.seed
      | 5 => l.cbase
      | 6 => if s.tile.loopmode then 1 else 0
      | 7 => BitVec.ofNat 64 k.ctx.toNat
      | 8 => BitVec.ofNat 64 (s.dev.devid.toNat % 4096)
      | 9 => BitVec.ofNat 64 s.tile.evq.length
      | 16 => BitVec.ofNat 64 s.tile.age.toNat
      | 17 => s.tile.tvec
      | _ => 0) (s.tile.k.pc + 4)) ∧
    (n = 16 → exec (.srwr a b) s = .next (s.upd fun x => ({ x with age := BitVec.ofNat 32 v.toNat }).kNext)) ∧
    (n = 17 → s.tile.k.trap = true → (v = 0 ∨ (v.toNat % 4 = 0 ∧ k.kEnt ≤ v ∧ v < k.kFin)) →
      exec (.srwr a b) s = .next (s.upd fun x => ({ x with tvec := v }).kNext)) ∧
    (n = 17 → s.tile.k.trap = true → v ≠ 0 → ¬ (v.toNat % 4 = 0 ∧ k.kEnt ≤ v ∧ v < k.kFin) →
      ∃ y, exec (.srwr a b) s = .next (s.kFault .align y)) ∧
    (n ≠ 16 → (n = 17 → s.tile.k.trap = false) → exec (.srwr a b) s = .next (s.kFault .priv 0)) ∧
    (∃ t, exec (.rng d a) s = .next t ∧
      KWrote s t d (rngWord l.seed (l.cbase + BitVec.ofNat 64 (k.index * 2 ^ 32 + (s.tile.kget a).toNat % 2 ^ 27 * 32))) (s.tile.k.pc + 4)) ∧
    ∃ t, exec (.clkrd d) s = .next t ∧ KWrote s t d (BitVec.ofNat 64 s.dev.clk) (s.tile.k.pc + 4)

/-- 06 R134, R136, 18 R361 to R364: TRAP enters the handler with SWTRAP, kt0 behind the instruction and kt2 = ka; without a handler, or inside one, the
task is to be killed. ERET outside trap mode raises PRIV; in trap mode it resumes at kt0 where nothing is stopped, and delivers the first stop in
order L, C, S where something is. EXIT ends K; in trap mode the task is to be killed. YIELD does nothing where no launch waits for the tile, and
else asks the tasks of its stop set to stop.
18 R361 to R363: where a sequencer of a live task has stopped and K has a handler, is outside it, has not ended and waits for no reply, TRAP_ENTRY
takes K into the handler for the first stop in order L, C, S, with the resume address at K's instruction. -/
def Obligations.KTrapsAndReturns : Prop :=
  (∀ (s : State) (a : Reg),
    let kt0 := rd s.tile.k.kt 0
    (KHandles s → ∃ t, exec (.trap a) s = .next t ∧ KTrapped s t .swtrap (s.tile.k.pc + 4) (s.tile.kget a)) ∧
    (¬ KHandles s → exec (.trap a) s = .next (s.upd fun x => { x with kill := some ⟨false, .swtrap, .k, x.k.pc⟩ })) ∧
    (s.tile.k.trap = false → s.tile.tvec ≠ 0 → ∃ t, exec .eret s = .next t ∧ KTrapped s t .priv s.tile.k.pc 0) ∧
    (s.tile.k.trap = true → s.tile.kAddrOk kt0 = false → exec .eret s = .next (s.kFault .illegal 0)) ∧
    (s.tile.k.trap = true → s.tile.kAddrOk kt0 = true → s.tile.l.stop = none → s.tile.c.stop = none → s.tile.s.stop = none →
      ∃ t, exec .eret s = .next t ∧ t.tile.k.trap = false ∧ t.tile.k.pc = kt0 ∧ t.tile.k.regs = s.tile.k.regs ∧
        t.tile.k.kt = s.tile.k.kt ∧ OnlyK s t ∧ SameMemory s t) ∧
    (∀ q r, s.tile.k.trap = true → s.tile.kAddrOk kt0 = true → s.tile.tvec ≠ 0 → s.tile.firstStop = some (q, r) →
      ∃ t, exec .eret s = .next t ∧ EnteredFor s t kt0 q r) ∧
    (s.tile.k.trap = false → ∃ t, exec .exit s = .next t ∧ t.tile.k.ended = true ∧ t.tile.k.pc = s.tile.k.pc ∧ t.tile.k.regs = s.tile.k.regs ∧
      OnlyK s t ∧ SameMemory s t) ∧
    (s.tile.k.trap = true → exec .exit s = .next (s.upd fun x => { x with kill := some ⟨true, .swtrap, .k, x.k.pc⟩ })) ∧
    (∀ v i, s.runs s.cur = some (v, i) → (∀ w ∈ s.dev.launches, s.waitsFor w s.cur = true → w.prio < v.prio ∨ w.id = v.id) →
      ∃ t, exec .yield s = .next t ∧ KWent s t (s.tile.k.pc + 4)) ∧
    (∀ v i w, s.runs s.cur = some (v, i) →
      (scoreboard s.dev.launches).find? (fun w => w.id != v.id && v.prio ≤ w.prio && s.waitsFor w s.cur) = some w →
      exec .yield s = .next (s.kSkip.preempt (s.stopSet s.cur) w.id))) ∧
  (∀ (s : State) (q : Sequencer) (r : StopRec),
    s.tile.task.isSome = true → s.tile.live = true → s.tile.preempt = .none → s.tile.kill = none → s.tile.k.trap = false →
    s.tile.endedOf .k = false → s.tile.tvec ≠ 0 → s.tile.k.pend = none → s.tile.firstStop = some (q, r) →
    ∃ t, exec (.trapEntry s.cur) s = .next t ∧ EnteredFor s t s.tile.k.pc q r)

/-- 06 R132, R133, 18 R365, R367: outside trap mode SQRD, SQRES and SQSKIP raise PRIV. In trap mode SQRD gives the item of the named sequencer's stop, and
zero for sequencer 0, for an item above 7 and for items 1 to 7 of a sequencer that is not stopped; SQRES lets the stopped sequencer, or the halted queue's head, run again; SQSKIP does the stopped word's bookkeeping and lets the sequencer go
on behind it, or discards the halted queue's head, whose posted writes still perform. -/
def Obligations.KHandlerInstructions : Prop :=
  ∀ (s : State) (d a b : Reg),
    let v := s.tile.kget a
    let item := bits v 15 8
    (s.tile.k.trap = false → s.tile.tvec ≠ 0 → ∀ i ∈ [Instr.sqrd d a b, .sqres a, .sqskip a],
      ∃ t, exec i s = .next t ∧ KTrapped s t .priv s.tile.k.pc 0) ∧
    (s.tile.k.trap = true →
      (∀ q, seqOf (v.toNat % 4) = some q →
        (∀ r, s.tile.stopOf q = some r → item < 5 → ∃ t, exec (.sqrd d a b) s = .next t ∧ KWrote s t d (match item with
          | 0 => 1
          | 1 => r.pc
          | 2 => BitVec.ofNat 64 r.cause.code
          | 3 => r.addr
          | _ => if q = .c ∧ s.tile.kget b = 1 then r.word.extractLsb' 64 64 else r.word.extractLsb' 0 64) (s.tile.k.pc + 4)) ∧
        (∀ r, s.tile.stopOf q = some r → 5 ≤ item → item < 8 →
          let kb := (s.tile.kget b).toNat
          let ls := s.tile.ls q
          let lc := rd (match q with | .l => s.tile.l.lc | .s => s.tile.s.lc | _ => s.tile.c.lc) (kb % 4)
          ∃ t, exec (.sqrd d a b) s = .next t ∧ KWrote s t d (match item with
            | 5 => if q = .c then 0 else rd ls.regs (kb % 32)
            | 6 => if q = .c then (rd s.tile.c.p (kb % 8)).extractLsb' (if kb / 8 % 2 = 1 then 64 else 0) 64 else ls.preds.zeroExtend 64
            | _ => BitVec.ofNat 64 (lc.count.toNat + lc.index.toNat * 2 ^ 32)) (s.tile.k.pc + 4)) ∧
        (8 ≤ item ∨ (s.tile.stopOf q = none ∧ item ≠ 0) → ∃ t, exec (.sqrd d a b) s = .next t ∧ KWrote s t d 0 (s.tile.k.pc + 4)) ∧
        (s.tile.stopOf q = none → item = 0 → ∃ t, exec (.sqrd d a b) s = .next t ∧
          KWrote s t d (if s.tile.endedOf q then 2 else 0) (s.tile.k.pc + 4)) ∧
        (s.tile.stopOf q = none → ∀ i ∈ [Instr.sqres a, .sqskip a], ∃ t, exec i s = .next t ∧ KWent s t (s.tile.k.pc + 4))) ∧
      (v.toNat % 4 = 0 → ∃ t, exec (.sqrd d a b) s = .next t ∧ KWrote s t d 0 (s.tile.k.pc + 4)) ∧
      (v.toNat % 4 = 1 → exec (.sqres a) s = .next (s.upd fun x => ({ x with l := { x.l with stop := none } }).kNext)) ∧
      (v.toNat % 4 = 2 → exec (.sqres a) s = .next (s.upd fun x => ({ x with c := { x.c with stop := none } }).kNext)) ∧
      (v.toNat % 4 = 3 → exec (.sqres a) s = .next (s.upd fun x => ({ x with s := { x.s with stop := none } }).kNext)) ∧
      (∀ q r, (v.toNat % 4 = 1 ∧ q = Sequencer.l ∨ v.toNat % 4 = 3 ∧ q = Sequencer.s) → s.tile.stopOf q = some r →
        exec (.sqskip a) s = .next (s.upd fun x => (x.skipLs q r).kNext) ∧ (s.tile.skipLs q r).stopOf q = none) ∧
      (∀ r, v.toNat % 4 = 2 → s.tile.c.stop = some r →
        exec (.sqskip a) s = .next (s.upd fun x => (x.skipC r).kNext) ∧ (s.tile.skipC r).c.stop = none) ∧
      (∀ e q h rest, v.toNat % 4 = 0 → e = bits v 10 8 → queueOf e = some q → s.tile.cmds q = h :: rest → h.fault ≠ none →
        exec (.sqres a) s = .next (s.upd fun x => ({ x with q := wr x.q (e - 1) ({ h with fault := none } :: rest) }).kNext) ∧
        exec (.sqskip a) s = .next (s.upd fun x => ({ x with q := wr x.q (e - 1) rest, qhead := wr x.qhead (e - 1) ((rd x.qhead (e - 1) + 1) % 16), orphans := x.orphans ++ h.posts }).kNext)))

/-! ### L and S -/

/-- 07 R150, R151: an arithmetic word of L or S that finds nothing to wait for writes its result into its destination register, and a compare writes its
predicate and pushes it as payload; the pops, pushes and the pc are those of every word. -/
def Obligations.LsArithmetic : Prop :=
  ∀ (s : State) (f : LSF),
    let ab : Reg := BitVec.ofNat 5 f.imm.toNat
    let pn : BitVec 3 := BitVec.ofNat 3 f.vreg.toNat
    let disp : Word := BitVec.ofInt 64 f.imm.toInt
    let lit : Word := (f.vreg ++ f.imm).signExtend 64
    let writes := fun (i : Instr) (q : Sequencer) (srcs : List Reg) (v : Word) =>
      LsReady s q f (f.base :: srcs) [] → exec i s = .next (s.lsDone q f 0 fun t => t.setLs q f.base v)
    let tests := fun (i : Instr) (q : Sequencer) (c : Bool) =>
      LsReady s q f [f.index, ab] [pn] → exec i s = .next (s.lsDone q f (if c then 1 else 0) fun t => t.setPred q pn c)
    let x := s.tile.areg .l f.index
    let y := s.tile.areg .l ab
    let u := s.tile.areg .s f.index
    let v := s.tile.areg .s ab
    writes (.aadd f) .l [f.index, ab] (x + y) ∧ writes (.badd f) .s [f.index, ab] (u + v) ∧
    writes (.aaddi f) .l [f.index] (x + disp) ∧ writes (.baddi f) .s [f.index] (u + disp) ∧
    writes (.asub f) .l [f.index, ab] (x - y) ∧ writes (.bsub f) .s [f.index, ab] (u - v) ∧
    writes (.amul f) .l [f.index, ab] (BitVec.ofNat 64 (x.toNat * y.toNat)) ∧
    writes (.bmul f) .s [f.index, ab] (BitVec.ofNat 64 (u.toNat * v.toNat)) ∧
    writes (.ashl f) .l [f.index] (BitVec.ofNat 64 (x.toNat * 2 ^ (f.imm.toNat % 64))) ∧
    writes (.bshl f) .s [f.index] (BitVec.ofNat 64 (u.toNat * 2 ^ (f.imm.toNat % 64))) ∧
    writes (.amov f) .l [f.index] x ∧ writes (.bmov f) .s [f.index] u ∧ writes (.alit f) .l [] lit ∧ writes (.blit f) .s [] lit ∧
    tests (.aslt f) .l (decide (x.toInt < y.toInt)) ∧ tests (.bslt f) .s (decide (u.toInt < v.toInt)) ∧
    tests (.aeq f) .l (decide (x = y)) ∧ tests (.beqS f) .s (decide (u = v))

/-- 07 R152, R153, 09 R203, R205: LBR and SBR go to pc + 8 × imm20 where their predicate, negated by bit 3, holds, pushing 1, and on to the next word
pushing 0 where it does not; LJ and SJ go there always; LOOP starts the counter that startLoop gives and goes where it says. A taken branch or a jump to a
target outside the stream, and a LOOP whose trip word has a bit of [63:48] or [31:24] set, stop the sequencer with ILLEGAL. -/
def Obligations.LsBranchesAndLoops : Prop :=
  ∀ (s : State) (f : LSF) (q : Sequencer) (br jp lp : Instr),
    (q = .l ∧ br = .lbr f ∧ jp = .lj f ∧ lp = .loopL f ∨ q = .s ∧ br = .sbr f ∧ jp = .sj f ∧ lp = .loopS f) →
    let pn : BitVec 3 := BitVec.ofNat 3 f.vreg.toNat
    let target : Word := (s.tile.ls q).pc + 8 * BitVec.ofInt 64 f.imm.toInt
    let taken := pn = 0 ∨ s.tile.pred q pn ≠ f.vreg.getLsbD 3
    let w := s.tile.areg q f.base
    (LsReady s q f [] [pn] → taken → s.tile.inStream q target = true → exec br s = .next (s.lsBranched q f 1 target)) ∧
    (LsReady s q f [] [pn] → taken → s.tile.inStream q target = false → s.tile.mayStop q = true →
      exec br s = .next (s.lsStop q (peersOf q f.push) .illegal 0)) ∧
    (LsReady s q f [] [pn] → ¬ taken → exec br s = .next (s.lsDone q f 0 id)) ∧
    (LsReady s q f [] [] → s.tile.inStream q target = true → exec jp s = .next (s.lsBranched q f 0 target)) ∧
    (LsReady s q f [] [] → s.tile.inStream q target = false → s.tile.mayStop q = true →
      exec jp s = .next (s.lsStop q (peersOf q f.push) .illegal 0)) ∧
    (∀ lc pc n, LsReady s q f [f.base] [] → w.toNat / 2 ^ 48 = 0 → w.toNat / 2 ^ 24 % 256 = 0 →
      startLoop (s.tile.ls q).lc (s.tile.ls q).pc (f.vreg.toNat % 4) (w.toNat % 2 ^ 24) (w.extractLsb' 32 16).toInt 8 f.imm.toNat none =
        some (lc, pc, n) → s.tile.inStream q pc = true →
      exec lp s = .next ((s.lsIssue q f).upd fun t => (t.pushReserved q (peersOf q f.push) 0 (s.lsClk q f)).lsGo q lc pc)) ∧
    (LsReady s q f [f.base] [] → w.toNat / 2 ^ 48 ≠ 0 ∨ w.toNat / 2 ^ 24 % 256 ≠ 0 → s.tile.mayStop q = true → exec lp s = .next (s.lsStop q (peersOf q f.push) .illegal 0))

/-- 04 R76, 07 R137: what a word that writes one register leaves alone. The other registers of its sequencer, its predicates, the other three sequencers, every
byte of memory, the other tiles and the device stay (outL and outS are the model's own marks, log 28); with no loop ending at the word the loop counters stay and the pc moves on by 8.
04 R76, R77, 10 R232: a word whose predicate is false does nothing but go on; one whose pops are not there or whose pushes have no space waits with
nothing taken, and a word of L that moves tokens waits behind a FACC in flight (log 28); one whose token wait can never end stops with TOKEN_STALL, once its sequencer may stop (07 R139, 01 R16). -/
def Obligations.LsWaitsAndFrame : Prop :=
  (∀ (s : State) (f : LSF) (q o : Sequencer) (d : Reg) (v : Word) (pay : BitVec 32), (q = .l ∧ o = .s ∨ q = .s ∧ o = .l) →
    let t := s.lsDone q f pay fun t => t.setLs q d v
    (∀ r, t.tile.areg q r = if r = d then v else s.tile.areg q r) ∧ (t.tile.ls q).preds = (s.tile.ls q).preds ∧
    (t.tile.ls q).stop = (s.tile.ls q).stop ∧
    (loopsAt (s.tile.ls q).lc (s.tile.ls q).pc = [] →
      (t.tile.ls q).pc = (s.tile.ls q).pc + 8 ∧ (t.tile.ls q).lc = (s.tile.ls q).lc) ∧
    t.tile.ls o = s.tile.ls o ∧ t = s.upd (fun x => { x with l := t.tile.l, s := t.tile.s, tok := t.tile.tok, outL := t.tile.outL, outS := t.tile.outS }) ∧
    SameMemory s t) ∧
  (∀ (s : State) (f : LSF) (i : Instr) (q : Sequencer) (regs : List Reg) (preds : List (BitVec 3)),
    (i, q, regs, preds) ∈ [(Instr.aadd f, Sequencer.l, [f.base, f.index, BitVec.ofNat 5 f.imm.toNat], []),
      (.badd f, .s, [f.base, f.index, BitVec.ofNat 5 f.imm.toNat], []), (.lj f, .l, [], []), (.sj f, .s, [], [])] →
    s.tile.lsBusy q [] [f.pred] = false →
    (s.tile.pred q f.pred = false → exec i s = .next (s.upd fun t => t.lsNext q)) ∧
    (s.tile.pred q f.pred = true → s.tile.faccHolds q f = true → exec i s = .next (s.upd fun t => t.lsHold q s.dev.now)) ∧
    (s.tile.pred q f.pred = true → s.tile.lsBusy q regs preds = false → s.tile.faccHolds q f = false →
      (s.tile.tokenStalled q (peersOf q f.pop) (peersOf q f.push) (s.tile.ls q).resv = true →
        exec i s = .next (if s.tile.mayStop q = true then s.stopSeq s.cur q .tokenStall 0 false (s.tile.ls q).resv
          else s.upd fun t => t.lsHold q s.dev.now)) ∧
      (s.tile.tokenStalled q (peersOf q f.pop) (peersOf q f.push) (s.tile.ls q).resv = false →
        (s.tile.canPop q (peersOf q f.pop) = false ∨ ((s.tile.ls q).resv = false ∧ s.tile.canPush q (peersOf q f.push) = false)) →
        exec i s = .next (s.upd fun t => t.lsHold q s.dev.now))))

/-- 07 R142 to R145, R148, R168: a load, gather or atomic whose checks pass puts one request in flight, its pieces those of the plan, and its sequencer goes
on; post-increment raises the base; a gather covers no lost register unit in part (log 110). A misaligned address stops the sequencer with ALIGN. -/
def Obligations.LsLoadsGathersAtomics : Prop :=
  ∀ (s s2 : State) (f : LSF) (m : AMode) (wd : Width) (op : BitVec 4) (ps : List Piece),
    let x := s.lsIssue .l f
    let y := s.lsIssue .s f
    let w := widthBytes wd
    let ea := s.tile.lsEa .l m f
    let off := s.tile.indexOf .l f + (match m with | .offset => dispOf f | .postInc => 0)
    let bd : Reg := BitVec.ofNat 5 f.vreg.toNat
    let bs : Reg := BitVec.ofNat 5 (f.vreg.toNat / 32)
    let n := if bit op 3 then 8 else 4
    let ea2 := s.tile.lsEa .s .offset f
    (∀ p ∈ [(Space.spm, Instr.lds m wd f), (.commons, .ldm m wd f), (.loc, .ldl m wd f), (.far, .ldf m wd f), (.host, .ldh m wd f)],
      LsReady s .l f (addrRegsOf f) [] → s.tile.outstanding .l < 64 →
      (ea.toNat % 32 = 0 → p.1.checkSpm ea w = true → x.planSectors s.cur p.1 .read ea w 0 false = .ok ps s2 →
        exec p.2 s = .next (((s2.upd fun t => t.postInc .l m f).launchReq s .l f (.load f.vreg) ps false false).lsGoOn .l)) ∧
      (ea.toNat % 32 ≠ 0 → s.tile.mayStop .l = true → exec p.2 s = .next (s.lsStop .l (peersOf .l f.push) .align ea))) ∧
    (LsReady s .l f (addrRegsOf f) [] → s.tile.outstanding .l < 64 → off.toNat % w = 0 → off.toNat + w ≤ 128 →
      ∀ v, x.readLine s.tile.ctx (s.tile.areg .l f.base) off.toNat w = .ok v →
      exec (.ldn m wd f) s = .next (((x.upd fun t => t.postInc .l m f).launchReq s .l f (.load f.vreg)
        ((List.range (w / 32)).map fun i => ⟨.line (s.tile.areg .l f.base), off.toNat + 32 * i, 32, 32 * i, s.tile.areg .l f.base, .rc,
          false, false, 0⟩) false false).lsGoOn .l)) ∧
    (∀ p ∈ [(Space.spm, Instr.gths f), (.loc, .gthl f)],
      LsReady s .l f (addrRegsOf f) [] → s.tile.outstanding .l < 64 → s.tile.gatherRoom = true →
      x.tile.loadOver (128 * bits f.imm 10 0) (4 * (128 / gatherSize f)) = false →
      s.regLost (128 * bits f.imm 10 0) (4 * (128 / gatherSize f)) = none → x.planElems .l p.1 .read f 0 = .ok ps s2 →
      (ps = [] ∨ s2.regPart (landsAt f.vreg.toNat ps) = none) →
      exec p.2 s = .next (if ps = [] then s2.lsEnd s .l f 0 else (s2.launchReq s .l f (.load f.vreg) ps false false).lsGoOn .l)) ∧
    (∀ p ∈ [(Space.commons, Instr.atm op f), (.loc, .atl op f), (.far, .atf op f)],
      LsReady s .s f (bd :: bs :: addrRegsOf f) [] → s.sysRelease f (anyOrdered ps) = none → ea2.toNat % n = 0 →
      (Plan.ok [] y).add s.cur p.1 .rmw ea2 n 0 0 false = .ok ps s2 →
      exec p.2 s = .next ((s2.launchReq s .s f (.atomic bd op (s.tile.areg .s bs)) ps false false).lsGoOn .s))

/-- 07 R138, R141 to R143, R148, 11 R262: a store or scatter whose checks pass is accepted: to the scratchpad its request enters the forwarding table and its
pushes are made at once; one wholly at another device is posted with its pushes made; another goes in flight, its pieces at another device posted.
A misaligned address stops S with ALIGN. -/
def Obligations.LsStoresAndScatters : Prop :=
  ∀ (s s2 : State) (f : LSF) (m : AMode) (wd : Width) (ps : List Piece),
    let y := s.lsIssue .s f
    let w := widthBytes wd
    let ea := s.tile.lsEa .s m f
    let after := fun (x : State) (sp : Space) =>
      if sp = .spm ∨ (∀ p ∈ ps, ∃ d, p.tgt = .remote d) then (x.launchReq s .s f .store ps true false).lsEnd s .s f 0
      else (x.launchReq s .s f .store ps false false).lsGoOn .s
    (∀ p ∈ [(Space.spm, Instr.sts m wd f), (.commons, .stm m wd f), (.loc, .stl m wd f), (.far, .stf m wd f), (.host, .sth m wd f)],
      LsReady s .s f (addrRegsOf f) [] → s.sysRelease f (anyOrdered ps) = none → s.tile.storeRoom p.1 = true →
      s.regLost (128 * f.vreg.toNat) w = none →
      (ea.toNat % 32 = 0 → p.1.checkSpm ea w = true →
        y.planSectors s.cur p.1 .write ea w (s.tile.rread (128 * f.vreg.toNat) w) (decide (p.1 = .far)) = .ok ps s2 →
        exec p.2 s = .next (after (s2.upd fun t => t.postInc .s m f) p.1)) ∧
      (ea.toNat % 32 ≠ 0 → s.tile.mayStop .s = true → exec p.2 s = .next (s.lsStop .s (peersOf .s f.push) .align ea))) ∧
    (∀ p ∈ [(Space.spm, Instr.scts f), (.loc, .sctl f)],
      LsReady s .s f (addrRegsOf f) [] → s.sysRelease f (ps = [] || anyOrdered ps) = none → s.tile.storeRoom p.1 = true → s.tile.gatherRoom = true →
      s.regLost (128 * bits f.imm 10 0) (4 * (128 / gatherSize f)) = none → s.regLost (128 * f.vreg.toNat) 128 = none →
      y.planElems .s p.1 .write f (s.tile.rread (128 * f.vreg.toNat) 128) = .ok ps s2 →
      exec p.2 s = .next (if ps = [] then s2.lsEnd s .s f 0 else after s2 p.1))

/-- 07 R154 to R161: a command word whose queue has a free entry and whose descriptor or send word passes its checks enters one command at its queue's tail,
unstarted, with the guard, wait, signal and record bit that it names, and goes on (a word of L once no FACC is in flight, log 28); a descriptor that fails stops L with the check's cause. -/
def Obligations.LsEngineCommands : Prop :=
  ∀ (s : State) (f : LSF),
    let x := s.lsIssue .l f
    let d := 128 * f.vreg.toNat
    let w := s.tile.areg .s f.base
    let tag := fun (pc : Word) => BitVec.ofNat 32 pc.toNat
    (∀ p ∈ [(Instr.cpy f, Queue.copy, 32, fun w => copyDesc w false), (.cpy2 f, .copy, 64, fun w => copyDesc w true),
        (.mdld f, .metadata, 32, mdldDesc), (.scout f, .copyOut, 32, scoutDesc)],
      LsReady s .l f [] [] → s.tile.queueSpace p.2.1 = true → s.tile.faccOpen = false → x.tile.loadOver d p.2.2.1 = false → s.regLost d p.2.2.1 = none →
      (∀ body fl wait sig, p.2.2.2 (s.tile.rread d p.2.2.1) = .ok (body, fl, wait, sig) →
        exec p.1 s = .next (s.lsDone .l f 0 fun t =>
          t.pushCmd p.2.1 (newCmd body (tag s.tile.l.pc) fl.guard wait sig fl.r (s.lsClk .l f)))) ∧
      (∀ c a, s.tile.mayStop .l = true → p.2.2.2 (s.tile.rread d p.2.2.1) = .error (c, a) → exec p.1 s = .next (s.lsStop .l (peersOf .l f.push) c a))) ∧
    (LsReady s .l f (addrRegsOf f) [] → s.tile.queueSpace .copy = true → s.tile.faccOpen = false → exec (.pfh f) s = .next (s.lsDone .l f 0 fun t =>
      t.pushCmd .copy (newCmd (.prefetch (s.tile.lsEa .l .offset f) (f.vreg.toNat + 1)) (tag s.tile.l.pc) none 0 0 false (s.lsClk .l f)))) ∧
    (∀ p ∈ [(Instr.fsend f, (none : Option Nat), s.tile.indexOf .s f + dispOf f),
        (.fsend2 f, some (f.imm.toNat % 2048), s.tile.indexOf .s f)],
      LsReady s .s f (addrRegsOf f) [] → s.sysRelease f true = none → s.tile.queueSpace .send = true →
      (sendOk w f.vreg.toNat p.2.1 = true → exec p.1 s = .next (s.lsDone .s f 0 fun t =>
        t.pushCmd .send (newCmd (.send w (BitVec.ofNat 16 p.2.2.toNat) f.vreg.toNat p.2.1) (tag s.tile.s.pc)
          (if w.getLsbD 37 then some (w.extractLsb' 38 4) else none) (w.extractLsb' 20 8) (w.extractLsb' 28 8) (w.getLsbD 36)
          (s.lsClk .s f)))) ∧
      (sendOk w f.vreg.toNat p.2.1 = false → s.tile.mayStop .s = true → exec p.1 s = .next (s.lsStop .s (peersOf .s f.push) .illegal 0)))

/-- 07 R138, R163, R164, 12 R287, R288: CHSEND with a free slot that no earlier send will take puts its register's bytes in flight; injected, the oldest of a
channel sends them to the receiver's tile, takes a slot and counts it; with no free slot CHSEND stalls. CHRECV of a slot that has arrived copies it
from the ring into its register, counts it, returns the count to the sender and pushes the old count, once no FACC is in flight (log 28); with none it
stalls. A task that is not the channel's sender or receiver stops with ACCESS_DENIED. -/
def Obligations.ChannelInstructions : Prop :=
  ∀ (s : State) (f : LSF) (l : Launch) (k : ChanDecl) (u : TileId),
    let c := f.imm.toNat % 64
    let h := rd s.tile.chans c
    let vd := 128 * f.vreg.toNat
    let n := h.consumed + 1
    let a := k.ring + k.bytes * (h.consumed.toNat % k.slots)
    (LsReady s .s f [] [] → s.sysRelease f true = none → h.sender = false → s.tile.mayStop .s = true →
      exec (.chsend f) s = .next (s.lsStop .s (peersOf .s f.push) .accessDenied 0)) ∧
    (LsReady s .l f [] [] → h.receiver = false → s.tile.mayStop .l = true → exec (.chrecv f) s = .next (s.lsStop .l (peersOf .l f.push) .accessDenied 0)) ∧
    (s.chanDecl s.tile.launch c = some (l, k) →
      (LsReady s .s f [] [] → s.sysRelease f true = none → h.sender = true → h.free ≠ 0 → h.fault = false →
        ((s.lsIssue .s f).tile.sends c).length < h.free.toNat → s.regLost vd k.bytes = none → l.tileOfTask k.dst = some u →
        let z := ((s.lsIssue .s f).upd fun t => { t with chans := wr t.chans c { h with stallS := none } }).launchReq s .s f
          (.chsend c (leBytes k.bytes (s.tile.rread vd k.bytes))) [] false true
        exec (.chsend f) s = .next ((if s.defer then z else z.chanSend s.cur c).lsGoOn .s)) ∧
      (∀ r more data, s.tile.sends c = r :: more → r.kind = .chsend c data → h.free ≠ 0 → s.tile.listHeld r = false → l.tileOfTask k.dst = some u →
        s.chanSend s.cur c = (s.sendTo s.cur u 1 (BitVec.ofNat 16 h.sent.toNat) 1 (.slot c h.sent data) r.clk).updAt s.cur fun t =>
          { t.endReq r 0 with chans := wr t.chans c { h with free := h.free - 1, sent := h.sent + 1 } }) ∧
      (LsReady s .s f [] [] → s.sysRelease f true = none → h.sender = true → h.free = 0 →
        exec (.chsend f) s = .next (s.upd fun t =>
          ({ t with chans := wr t.chans c { h with stallS := some (h.stallS.getD s.dev.now) } }).lsHold .s s.dev.now)) ∧
      (LsReady s .l f [] [] → h.receiver = true → h.received = h.consumed →
        exec (.chrecv f) s = .next (s.upd fun t =>
          ({ t with chans := wr t.chans c { h with stallR := some (h.stallR.getD s.dev.now) } }).lsHold .l s.dev.now)) ∧
      (LsReady s .l f [] [] → h.receiver = true → h.received ≠ h.consumed → s.tile.faccOpen = false → (s.lsIssue .l f).tile.loadOver vd k.bytes = false →
        s.isLost 1 s.cur.val a k.bytes = false → l.tileOfTask k.src = some u →
        exec (.chrecv f) s = .next (((((s.lsIssue .l f).upd fun t =>
            { (t.rwrite vd k.bytes ((t.spmView t.l.clk).readN a k.bytes)).mark .l (t.l.clk.l + 1) with
              chans := wr t.chans c { h with consumed := n, stallR := none } }).heal 2 s.cur.val vd k.bytes).sendTo s.cur u 2
          (BitVec.ofNat 16 n.toNat) 2 (.ret c n) (s.lsClk .l f)).lsEnd s .l f h.consumed)))

/-- 07 R165 to R167, R169, 10 R239, R240: WLAPP with room in its list, and WLPOP where the list holds an item for it, put a request in flight that the die's
unit serves; after quiescence WLPOP answers all ones with its predicate false and WLAPP stops with LAUNCH_STALL. FACC puts its fetch-and-add
in flight. SLOOK and SLOOKI write the name of their line, S standing at the word while the request is in the network (log 112); WLPOP and FACC wait behind
a FACC in flight (log 28). -/
def Obligations.ListsFaccAndLookups : Prop :=
  ∀ (s s2 : State) (f : LSF) (w : WorkList) (l : Launch) (ps : List Piece) (name : Word),
    let x := s.lsIssue .l f
    let y := s.lsIssue .s f
    let d := dieOf s.cur
    let nl := (s.tile.indexOf .l f + dispOf f).toNat % 256
    let ns := (s.tile.indexOf .s f + dispOf f).toNat % 256
    let pd : BitVec 3 := BitVec.ofNat 3 f.vreg.toNat
    let rd5 : Reg := BitVec.ofNat 5 f.vreg.toNat
    let inc : Reg := BitVec.ofNat 5 (f.vreg.toNat / 32)
    let wide := f.vreg.getLsbD 10
    let n := if wide then 8 else 4
    let fp : BitVec 3 := BitVec.ofNat 3 (f.imm.toNat / 2 ^ 17)
    let ea := s.tile.areg .l f.base + s.tile.indexOf .l f + (f.imm.extractLsb' 0 17).signExtend 64
    (LsReady s .s f (addrRegsOf f) [] → s.sysRelease f true = none → s.workList d s.tile.launch ns = some w →
      s.launch? s.tile.launch = some l →
      (l.quiescent = true → s.tile.mayStop .s = true → exec (.wlapp f) s = .next (s.lsStop .s (peersOf .s f.push) .launchStall 0)) ∧
      (l.quiescent = false → w.items.length + y.listReqs d s.tile.launch ns true < w.cap →
        let z := y.launchReq s .s f (.wlapp d ns (s.tile.areg .s f.base)) [] false true
        exec (.wlapp f) s = .next ((if s.defer then z else z.appendArrives s.cur).lsGoOn .s))) ∧
    (LsReady s .l f (addrRegsOf f) [pd] → s.workList d s.tile.launch nl = some w → s.launch? s.tile.launch = some l →
      (l.quiescent = true → exec (.wlpop f) s = .next (s.lsDone .l f 0xFFFFFFFF fun t =>
        (t.setLs .l f.base (BitVec.allOnes 64)).setPred .l pd false)) ∧
      (l.quiescent = false → s.tile.faccOpen = false → x.listReqs d s.tile.launch nl false < w.items.length →
        let z := x.launchReq s .l f (.wlpop f.base d nl pd) [] false true
        exec (.wlpop f) s = .next ((if s.defer then z else z.popArrives s.cur).lsGoOn .l))) ∧
    (LsReady s .l f (rd5 :: inc :: addrRegsOf f) [fp] → s.tile.faccOpen = false → ea.toNat % n = 0 →
      (Plan.ok [] x).add s.cur .far .rmw ea n 0 0 false = .ok ps s2 →
      exec (.facc f) s = .next ((s2.launchReq s .l f (.facc rd5 wide (s.tile.areg .l inc) fp) ps false false).lsGoOn .l)) ∧
    (∀ p ∈ [(Instr.slook f, false), (.slooki f, true)], LsReady s .s f [f.base] [] → s.sysRelease f true = none →
      (f.order = 0 ∨ y.tile.openBefore .s (decide (f.scope = 3)) = false) → y.tile.acquireBefore .s = false →
      (s.defer = true → exec p.1 s = .next ((s.bindTag s.tile.ctx).upd fun t =>
        let t := t.lsHold .s s.dev.now
        t.setLsState .s { t.ls .s with sent := some ((t.ls .s).sent.getD (s.dev.now, 0)) })) ∧
      (s.defer = false → s.regLost (128 * f.vreg.toNat) 128 = none → y.lookup s.tile.ctx (s.tile.vreg f.vreg.toNat) p.2 = .ok name s2 →
        exec p.1 s = .next ((s2.upd fun t => (t.setLs .s f.base name).mark .s (t.s.clk.s + 1)).lsEnd s .s f (BitVec.ofNat 32 name.toNat))))

/-! ### C -/

/-- 04 R72 to R77, 08 R172, R199, 09 R204, R217: a bundle that finds nothing to wait for and whose every part computes, whichever of the slot instructions VADD to
CBLOAD (Instr.ofSlot), of MXGO, MXGOU and MXLOOP, or the token bundle names it, takes effect whole: entries popped, slot M's command queued, both slots' results and slot A's
control written, pushes made (or held with a held write) and C gone on. A part that fails stops C with its cause and nothing done; a bundle whose renamed slots are a reserved encoding, by themselves, in the loop mode or for the format they name, stops C with ILLEGAL and moves nothing.
04 R74, R76, 09 R204, R211: what the issue of a bundle leaves alone. K, L and S, semaphores, events, guards, the scratchpad and every memory but the
register space stay; a bundle without jump at the end of no loop moves the pc on by 16; a register that no slot writes keeps every byte. -/
def Obligations.CBundlesIssue : Prop :=
  (∀ (s : State) (op : VCode) (ty : BitVec 2) (f : SlotF) (x : Bun) (mop : MOp) (m : MSlot) (k : Toks),
    ∀ p ∈ [(Instr.ofSlot ⟨op, ty, f⟩ x, bundleOf x op ty f), (Instr.ofM (some ⟨mop, m⟩) k, ⟨none, none, none, some ⟨mop, m⟩, k⟩),
        (.tokenBundle k, ⟨none, none, none, none, k⟩)],
      let b := s.renamedBundle p.2
      (CReady s b →
        (∀ o, s.tile.bundleOut (s.rngKey s.cur) b (s.cPay b) = .ok o → exec p.1 s = .next (s.cDone b o)) ∧
        (∀ c a, s.tile.bundleOut (s.rngKey s.cur) b (s.cPay b) = .error (c, a) →
          exec p.1 s = .next (s.cStop (peersOf .c b.k.push) c a))) ∧
      (s.tile.c.held = none → s.tile.bundleReserved b = true → exec p.1 s = .next (s.stopSeq s.cur .c .illegal 0 false s.tile.c.resv))) ∧
  (∀ (s : State) (b : Bundle) (o : BundleOut),
    let t := s.cDone b o
    t.cur = s.cur ∧ (∀ u, u ≠ s.cur → t.tileAt u = s.tileAt u) ∧ t.tile.k = s.tile.k ∧ t.tile.l = s.tile.l ∧ t.tile.s = s.tile.s ∧
    t.tile.sm = s.tile.sm ∧ t.tile.evq = s.tile.evq ∧ t.tile.gd = s.tile.gd ∧ t.tile.spm = s.tile.spm ∧ t.tile.side = s.tile.side ∧
    t.tile.carves = s.tile.carves ∧ t.dev.hbm = s.dev.hbm ∧ t.dev.host = s.dev.host ∧ t.dev.net = s.dev.net ∧
    (o.ctl.jump = none → loopsAt o.ctl.c.lc s.tile.c.pc = [] → t.tile.c.pc = s.tile.c.pc + 16) ∧
    (∀ target br, o.ctl.jump = some (target, br) → t.tile.c.pc = target) ∧
    (∀ r, (∀ z ∈ [o.a, o.b], ∀ q, z = some q → (∀ w ∈ q.1.regs, w.1 ≠ r) ∧ q.1.mem = []) → ∀ i, i < 128 →
      t.tile.rbyte (128 * r + i) = s.tile.rbyte (128 * r + i)))

/-- 08 R178, R181, R194: the integer, logical and bit-pattern instructions of a vector slot, element by element at their width, under the lane mask. -/
def Obligations.VectorIntegerElements : Prop :=
  ∀ (x : SlotIn),
    let w := match x.s.ty.toNat with | 1 => 2 | 2 => 1 | 3 => 8 | _ => 4
    let fw := if x.s.ty = 0 then 4 else 2
    let n := 8 * w
    let a := fun w e => elemAt w x.va e
    let b := fun w e => elemAt w (x.vb w) e
    let sa := fun e => (BitVec.ofNat n (a w e)).toInt
    let sb := fun e => (BitVec.ofNat n (b w e)).toInt
    let int := fun (z : Int) => (z % 2 ^ n).toNat
    let gives := fun (op : VCode) (w : Nat) (new : Nat → Nat) => x.s.op = op → x.writes w new
    gives .viadd w (fun e => (a w e + b w e) % 2 ^ n) ∧ gives .visub w (fun e => int ((a w e : Int) - b w e)) ∧
    gives .vimul w (fun e => a w e * b w e % 2 ^ n) ∧ gives .vimulh w (fun e => int (sa e * sb e / 2 ^ n)) ∧
    gives .vand 4 (fun e => a 4 e &&& b 4 e) ∧ gives .vor 4 (fun e => a 4 e ||| b 4 e) ∧ gives .vxor 4 (fun e => a 4 e ^^^ b 4 e) ∧
    gives .vnot 4 (fun e => 0xFFFFFFFF - a 4 e) ∧
    gives .vshl w (fun e => a w e * 2 ^ (b w e % n) % 2 ^ n) ∧ gives .vshr w (fun e => a w e / 2 ^ (b w e % n)) ∧
    gives .vsar w (fun e => int (sa e / 2 ^ (b w e % n))) ∧
    gives .vimin w (fun e => if sa e ≤ sb e then a w e else b w e) ∧ gives .vimax w (fun e => if sa e ≤ sb e then b w e else a w e) ∧
    gives .vmov 1 (fun e => a 1 e) ∧ gives .vconj 8 (fun e => (a 8 e + 2 ^ 63) % 2 ^ 64) ∧
    gives .vabs fw (fun e => a fw e % 2 ^ (8 * fw - 1)) ∧ gives .vneg fw (fun e => (a fw e + 2 ^ (8 * fw - 1)) % 2 ^ (8 * fw)) ∧
    gives .vcpys fw (fun e => a fw e % 2 ^ (8 * fw - 1) + b fw e / 2 ^ (8 * fw - 1) * 2 ^ (8 * fw - 1))

/-- 08 R176, R190, 03 R49, R56: the floating-point instructions of a vector slot, element by element: operands decoded, the exact operation or the fixed
sequence of the special function, and one rounding to nearest even into the slot's format.
08 R185 to R187, R194, 02 R36, R37, R40: the complex products, and the conversions: element by element from the source format at its position to the
destination's, VCVTO with its list of outliers. A conversion whose selector or format entry is no legal one raises ILLEGAL, a list that is misaligned or too
long ALIGN (the address that ALIGN reports is the model's reading, log 31). -/
def Obligations.VectorFloatElements : Prop :=
  ∀ (x : SlotIn),
    let w := if x.s.ty = 0 then 4 else 2
    let g := match x.s.ty.toNat with | 1 => fBF16 | 2 => fF16 | _ => fF32
    let a := fun e => g.val (elemAt w x.va e)
    let b := fun e => g.val (elemAt w (x.vb w) e)
    let c := fun e => g.val (elemAt w x.old e)
    let gives := fun (op : VCode) (new : Nat → FVal) => x.s.op = op → x.writes w fun e => g.enc .rne (new e) % 2 ^ (8 * w)
    gives .vadd (fun e => (a e).add (b e)) ∧ gives .vsub (fun e => (a e).add (b e).neg) ∧ gives .vmul (fun e => (a e).mul (b e)) ∧
    gives .vfma (fun e => ((a e).mul (b e)).add (c e)) ∧ gives .vfms (fun e => (c e).add ((a e).mul (b e)).neg) ∧
    gives .vmin (fun e => (a e).min (b e)) ∧ gives .vmax (fun e => (a e).max (b e)) ∧ gives .vdiv (fun e => fdiv (a e) (b e)) ∧
    gives .vexp2 (fun e => fexp2 (a e)) ∧ gives .vlog2 (fun e => flog2 (a e)) ∧ gives .vsin (fun e => fsin (a e)) ∧
    gives .vcos (fun e => fcos (a e)) ∧ gives .vtanh (fun e => ftanh (a e)) ∧ gives .vrcp (fun e => frcp (a e)) ∧
    gives .vrsqrt (fun e => frsqrt (a e)) ∧ gives .vsqrt (fun e => fsqrt (a e)) ∧
    (let ar := fun e => f32 (elemAt 4 x.va (2 * e))
     let ai := fun e => f32 (elemAt 4 x.va (2 * e + 1))
     let br := fun e => f32 (match x.lit with | some l => l.toNat | none => elemAt 4 (x.t.cread x.s.f.vb.toNat) (2 * e))
     let bi := fun e => f32 (match x.lit with | some _ => 0 | none => elemAt 4 (x.t.cread x.s.f.vb.toNat) (2 * e + 1))
     let cr := fun e => f32 (elemAt 4 x.old (2 * e))
     let ci := fun e => f32 (elemAt 4 x.old (2 * e + 1))
     (x.s.op = .vcmul → x.writes 8 fun e => cf32enc (fma (ai e).neg (bi e) (fl ((ar e).mul (br e)))) (fma (ai e) (br e) (fl ((ar e).mul (bi e)))) % 2 ^ 64) ∧
     (x.s.op = .vcfma → x.writes 8 fun e => cf32enc (fma (ai e).neg (bi e) (fma (ar e) (br e) (cr e))) (fma (ai e) (br e) (fma (ar e) (bi e) (ci e))) % 2 ^ 64)) ∧
    (x.s.op = .vcvt ∨ x.s.op = .vcvts ∨ x.s.op = .vcvto →
      (x.cvtPlan = none → x.eval = .error (.illegal, 0)) ∧
      ∀ p, x.cvtPlan = some p →
        let d := x.s.f.vd.toNat
        let low := 2 ^ (p.dst.width * p.dof)
        let at_ := fun (v : Vec) e => v.toNat / low / 2 ^ (p.dst.width * e) % 2 ^ p.dst.width
        let enc := fun word e => p.dst.enc (x.rnd p word e) (x.srcVal p e) % 2 ^ p.dst.width
        let kept := fun e => if x.zero then 0 else at_ x.old e
        let l := (x.t.cread (d + 1)).toNat
        let addr := nbits l 0 32
        let limit := nbits l 32 32
        let bad := addr % 8 ≠ 0 ∨ 0x40000 < addr + 8 * limit ∨ 2 ≤ nbits l 128 32
        (x.s.op ≠ .vcvto → ∃ v, x.eval = .ok (.one d v) ∧ (∀ e, e < p.n →
            at_ v e = if p.active x.m e then enc (if x.s.op = .vcvts then nbits l 160 32 else 0) e else kept e) ∧
          v.toNat % low = (if bit x.s.f.vb 10 then x.old.toNat % low else 0) ∧
          v.toNat / low / 2 ^ (p.dst.width * p.n) = (if bit x.s.f.vb 10 then x.old.toNat / low / 2 ^ (p.dst.width * p.n) else 0)) ∧
        (x.s.op = .vcvto → bad → x.eval = .error (.align, BitVec.ofNat 64 addr)) ∧
        (∀ g, x.s.op = .vcvto → ¬ bad → p.dst = .float g →
          let out := fun e => p.active x.m e && (g.overflows (x.rnd p (nbits l 160 32) e) (x.srcVal p e) || (g == fE2M1 && (x.srcVal p e).isNan))
          let all := (List.range p.n).filter out
          let room := limit - nbits l 64 32
          ∃ v, x.eval = .ok { SlotOut.one d v with mem :=
              ((all.take room).zipIdx.map fun y => (addr + 8 * (nbits l 64 32 + y.2), 8, (nbits l 96 32 + y.1) % 2 ^ 32 + f32enc (x.srcVal p y.1) * 2 ^ 32)) ++
              [(128 * (d + 1) + 8, 4, nbits l 64 32 + min all.length room), (128 * (d + 1) + 16, 4, if room < all.length then 1 else nbits l 128 32)] } ∧
            ∀ e, e < p.n → at_ v e = if ¬ p.active x.m e then kept e else if out e = false then enc (nbits l 160 32) e
              else if e ∈ all.take room ∨ (x.srcVal p e).isNan then 0 else (g.signBit (x.srcVal p e).neg? + g.maxEnc) % 2 ^ p.dst.width))

/-- 08 R173, R178 to R180: compares write the predicate bytes of every active element, and predicate logic the bits that its mask names. -/
def Obligations.VectorComparesAndPredicates : Prop :=
  ∀ (x : SlotIn),
    let iw := match x.s.ty.toNat with | 1 => 2 | 2 => 1 | 3 => 8 | _ => 4
    let fw := if x.s.ty = 0 then 4 else 2
    let g := match x.s.ty.toNat with | 1 => fBF16 | 2 => fF16 | _ => fF32
    let ia := fun e => elemAt iw x.va e
    let ib := fun e => elemAt iw (x.vb iw) e
    let fa := fun e => g.val (elemAt fw x.va e)
    let fb := fun e => g.val (elemAt fw (x.vb fw) e)
    let pa := x.t.c.pget x.s.f.va.toNat
    let pb := x.t.c.pget x.s.f.vb.toNat
    let logic := fun (op : VCode) (z : Nat → Bool) => x.s.op = op → x.decides 1 z
    (x.s.op = .vicmpeq → x.decides iw fun e => decide (ia e = ib e)) ∧
    (x.s.op = .vicmplt → x.decides iw fun e => decide ((BitVec.ofNat (8 * iw) (ia e)).toInt < (BitVec.ofNat (8 * iw) (ib e)).toInt)) ∧
    (x.s.op = .vcmpeq → x.decides fw fun e => (fa e).eqv (fb e)) ∧ (x.s.op = .vcmplt → x.decides fw fun e => (fa e).lt (fb e)) ∧
    (x.s.op = .vcmple → x.decides fw fun e => !(fa e).isNan && !(fb e).isNan && !(fb e).lt (fa e)) ∧
    (x.s.op = .vcmpun → x.decides fw fun e => (fa e).isNan || (fb e).isNan) ∧
    logic .pand (fun i => pa.getLsbD i && pb.getLsbD i) ∧ logic .por (fun i => pa.getLsbD i || pb.getLsbD i) ∧
    logic .pxor (fun i => pa.getLsbD i != pb.getLsbD i) ∧ logic .pnot (fun i => !pa.getLsbD i)

/-- 08 R181 to R184, R188, R191 to R193, R195: selection, permutation, packing, reductions, row statistics and softmax rows, codebook decoding and random
words: what each writes. -/
def Obligations.VectorMovesAndReductions : Prop :=
  ∀ (x : SlotIn),
    let w := match x.s.ty.toNat with | 1 => 2 | 2 => 1 | 3 => 8 | _ => 4
    let n := 128 / w
    let d := x.s.f.vd.toNat
    let a := fun e => elemAt w x.va e
    let b := fun e => elemAt w (x.vb w) e
    let word := nbits (x.vb 4).toNat 0 32
    (x.s.op = .vbcast → x.writes w fun _ => b 0) ∧
    (x.s.op = .vshuf → x.writes w fun e => if b e < n then a (b e) else 0) ∧
    (x.s.op = .vrot → x.writes w fun e => a ((e + b 0) % n)) ∧
    (x.s.op = .viota → x.writes w fun e => (b 0 + e) % 2 ^ (8 * w)) ∧
    (x.s.op = .vsel → ∃ v, x.eval = .ok (.one d v) ∧ ∀ i, i < 128 →
      elemAt 1 v i = if x.m.getLsbD i then elemAt 1 x.va i else elemAt 1 (x.vb 4) i) ∧
    (x.s.op = .vcompr → ∃ v, x.eval = .ok (.one d v) ∧ ∀ e, e < n → elemAt w v e =
      (((List.range n).filter fun j => active x.m w j).map a).getD e 0) ∧
    (x.s.op = .vpart → ∃ v0 v1 v2, x.eval = .ok ⟨[(d, v0), (d + 1, v1), (d + 2, v2)], false, none, []⟩ ∧
      let yes := (List.range 32).filter fun j => active x.m 4 j
      let no := (List.range 32).filter fun j => !active x.m 4 j
      (∀ e, e < 32 → elemAt 4 v0 e = (yes.map fun j => elemAt 4 x.va j).getD e 0xFFFFFFFF ∧
        elemAt 4 v1 e = (no.map fun j => elemAt 4 x.va j).getD e 0xFFFFFFFF) ∧
      elemAt 4 v2 0 = yes.length ∧ elemAt 4 v2 1 = no.length ∧ ∀ e, 2 ≤ e → e < 32 → elemAt 4 v2 e = 0) ∧
    (∀ p ∈ [(VCode.vrsum, treeSum x.row), (.vrmax, (tree FVal.max x.row).getD (.inf true)), (.vrmin, (tree FVal.min x.row).getD (.inf false))],
      x.s.op = p.1 → ∃ v, x.eval = .ok (.one d v) ∧ ∀ e, e < 32 → elemAt 4 v e = f32enc p.2 % 2 ^ 32) ∧
    (x.s.op = .vcbdec → 2 ^ 11 ≤ word → x.eval = .error (.illegal, 0)) ∧
    (x.s.op = .vcbdec → word < 2 ^ 11 → x.writes 2 fun e => fBF16.enc .rne (cb2Weight x.t.c.codebook
      (nbits x.va.toNat (8 * (16 * (word / 256) + 2 * (e / 8))) 16) (e % 8) (e8m0 (word % 256))) % 2 ^ 16) ∧
    (x.s.op = .vrand → ∃ v0 v1, x.eval = .ok ⟨[(d, v0), (d + 1, v1)], false, none, []⟩ ∧ ∀ e, e < 16 →
      let lane := fun j => (rngWord x.key.seed (x.key.cbase + BitVec.ofNat 64 (x.key.task * 2 ^ 32 + word % 2 ^ 27 * 32 + j))).toNat
      (active x.m 8 e = true → elemAt 8 v0 e = lane e ∧ elemAt 8 v1 e = lane (16 + e))) ∧
    (x.s.op = .vrstat → ∃ v, x.eval = .ok (.one d v) ∧
      let r := rowStat x.row
      elemAt 4 v 0 = f32enc r.mean % 2 ^ 32 ∧ elemAt 4 v 1 = f32enc r.var % 2 ^ 32 ∧
      elemAt 4 v 2 = (if r.ovf then elemAt 4 x.old 2 ||| 1 else elemAt 4 x.old 2) ∧ elemAt 4 v 3 = r.n ∧ ∀ e, 4 ≤ e → e < 32 → elemAt 4 v e = 0) ∧
    (x.s.op = .vrsoft → ∃ o, x.eval = .ok o ∧ o.regs.map (fun p => p.1) = (List.range x.rows).map (fun i => d + i) ∧ o.mem = [] ∧
      o.pred = (if x.s.f.vb.toNat / 256 = 0 then none else some (x.s.f.vb.extractLsb' 8 3, if (rowSoft x.row).2 then BitVec.allOnes 128 else 0)) ∧
      let fw := if x.s.ty = 0 then 4 else 2
      let g := match x.s.ty.toNat with | 1 => fBF16 | 2 => fF16 | _ => fF32
      ∀ i v, o.regs[i]? = some (d + i, v) → ∀ e, e < 128 / fw → ∀ z, (rowSoft x.row).1[128 / fw * i + e]? = some z →
        elemAt fw v e = g.enc .rne z % 2 ^ (8 * fw))

/-- 08 R189, R196, R197, 09 R200, R203, R206, R208, R209, R211, R215, 02 R28, R40: what the control instructions of slot A do: where C goes, what they push,
and which loops, stage predicates, rotating region, rings, views, formats, descriptors and codebook they set. A bundle of one alone that finds nothing to wait for takes that
effect; a value that fails its check, or a jump out of C's stream, stops C with ILLEGAL. -/
def Obligations.CControlInstructions : Prop :=
  (∀ (t : Tile) (x : Slot) (lit : Option (BitVec 32)) (pay : BitVec 32),
    let target : Word := t.c.pc + 16 * BitVec.ofInt 64 (lit.getD 0).toInt
    let m := t.c.mask x.f
    let j := x.f.vd.toNat % 4
    let l := rd t.c.lc j
    let bound := if x.f.vd.getLsbD 3 then pay.toNat % 2 ^ 24 else x.f.va.toNat
    let goes := fun (c : Bool) (pays : Bool) => t.control x lit pay =
      some ⟨t.c, none, if c then some (target, true) else none, if c && pays then 1 else 0⟩
    (x.op = .cj → goes true false) ∧
    (x.op = .cbr → x.f.vd.toNat % 4 = 0 → goes (m.getLsbD 0) true) ∧
    (x.op = .cbr → x.f.vd.toNat % 4 = 1 → goes (decide (m ≠ 0)) true) ∧
    (x.op = .cbr → x.f.vd.toNat % 4 = 2 → goes (decide (m = BitVec.allOnes 128)) true) ∧
    (x.op = .cbrt → goes (decide (pay ≠ 0) != x.f.vd.getLsbD 0) true) ∧
    (x.op = .loopSet → l.count ≠ 0 → ∃ o, t.control x lit pay = some o ∧
      o.c = { t.c with lc := wr t.c.lc j { l with count := BitVec.ofNat 24 (max bound 1) } } ∧ o.held = none ∧ o.jump = none ∧ o.pay = 0) ∧
    (x.op = .loopSet → l.count = 0 → t.control x lit pay = some ⟨t.c, none, none, 0⟩) ∧
    (x.op = .loopC → (x.f.vd.getLsbD 4 = false ∨ t.loopmode = false ∧ t.c.rot.stages = 0) → ∀ lc pc n,
      startLoop t.c.lc t.c.pc j bound (if x.f.vd.getLsbD 3 then (pay.extractLsb' 24 8 : BitVec 8).toInt else 1) 16 (lit.getD 0).toNat none =
        some (lc, pc, n) →
      t.control x lit pay = some ⟨{ t.c with lc := lc }, none, some (pc, false), 0⟩) ∧
    (x.op = .loopC → x.f.vd.getLsbD 4 = true → t.loopmode = false → 0 < t.c.rot.stages → ∀ lc pc n,
      startLoop t.c.lc t.c.pc j bound (if x.f.vd.getLsbD 3 then (pay.extractLsb' 24 8 : BitVec 8).toInt else 1) 16 (lit.getD 0).toNat
        (some (t.c.rot.stages - 1)) = some (lc, pc, n) →
      ∃ p, t.control x lit pay = some ⟨{ t.c with lc := lc, p := p }, none, some (pc, false), 0⟩ ∧ (n = 0 → p = t.c.p) ∧
        (n ≠ 0 → ∀ i, i < 8 → rd p i = if i = 4 then BitVec.allOnes 128 else if 4 < i ∧ i < 4 + t.c.rot.stages then 0 else rd t.c.p i)) ∧
    (x.op = .loopC → x.f.vd.getLsbD 4 = true → t.loopmode = true → t.control x lit pay = none) ∧
    (x.op = .rotb → t.loopmode = false → t.control x lit pay =
      some ⟨{ t.c with rot := ⟨x.f.vd.toNat, x.f.va.toNat + 1, x.f.vb.toNat % 8, 0⟩ }, none, none, 0⟩) ∧
    (x.op = .rotb → t.loopmode = true → t.control x lit pay = none) ∧
    (x.op = .lbhdr → t.loopmode = false → t.control x lit pay = none) ∧
    (x.op = .lbhdr → t.loopmode = true → x.f.vb.getLsbD 3 = true →
      t.control x lit pay = some ⟨{ t.c with rings := wr t.c.rings (x.f.vb.toNat % 8) { rd t.c.rings (x.f.vb.toNat % 8) with v := false } },
        none, none, 0⟩) ∧
    (∀ i, x.op = .lbhdr → t.loopmode = true → x.f.vb.getLsbD 3 = false → i < 8 → i ≠ x.f.vb.toNat % 8 → (rd t.c.rings i).v = true →
      (rd t.c.rings i).q < x.f.vd.toNat + x.f.va.toNat + 1 → x.f.vd.toNat < (rd t.c.rings i).q + (rd t.c.rings i).len →
      t.control x lit pay = none) ∧
    (x.op = .lbhdr → t.loopmode = true → x.f.vb.getLsbD 3 = false →
      (∀ i, i < 8 → i ≠ x.f.vb.toNat % 8 → (rd t.c.rings i).v = true →
        (rd t.c.rings i).q + (rd t.c.rings i).len ≤ x.f.vd.toNat ∨ x.f.vd.toNat + x.f.va.toNat + 1 ≤ (rd t.c.rings i).q) →
      t.control x lit pay = some ⟨{ t.c with rings := wr t.c.rings (x.f.vb.toNat % 8) ⟨x.f.vd.toNat, x.f.va.toNat + 1, true⟩ }, none, none, 0⟩) ∧
    (let low : Word := (t.cread x.f.va.toNat).extractLsb' 0 64
     let d512 : BitVec 512 := (t.cread x.f.va.toNat).extractLsb' 0 512
     let n := x.f.vd.toNat % 16
     let w : BitVec 32 := match lit with | some l => l | none => (t.cread x.f.vb.toNat).extractLsb' 0 32
     let field : BitVec 512 := BitVec.ofNat 512 ((rd t.c.md n).toNat % 2 ^ (64 * (x.f.vd.toNat / 16 % 8)) + low.toNat * 2 ^ (64 * (x.f.vd.toNat / 16 % 8)) +
       (rd t.c.md n).toNat / 2 ^ (64 * (x.f.vd.toNat / 16 % 8) + 64) * 2 ^ (64 * (x.f.vd.toNat / 16 % 8) + 64))
     (x.op = .viewt → t.control x lit pay = if viewOk low then some ⟨t.c, some (.tile (Fin.ofNat 8 x.f.vd.toNat) low), none, 0⟩ else none) ∧
     (x.op = .viewa → t.control x lit pay = if viewOk low then some ⟨t.c, some (.acc (Fin.ofNat 4 x.f.vd.toNat) low), none, 0⟩ else none) ∧
     (x.op = .fmtset → t.control x lit pay = if fmtEntryOk w then some ⟨{ t.c with ft := wr t.c.ft n w }, none, none, 0⟩ else none) ∧
     (x.op = .mdset → t.control x lit pay = if mdOk d512 then some ⟨{ t.c with md := wr t.c.md n d512 }, none, none, 0⟩ else none) ∧
     (x.op = .mdsetf → t.control x lit pay = if mdOk field then some ⟨{ t.c with md := wr t.c.md n field }, none, none, 0⟩ else none) ∧
     (x.op = .cbload → ∃ b, t.control x lit pay = some ⟨t.c, some (.codebook b), none, 0⟩ ∧ ∀ i, i < 256 →
       rd b i = BitVec.ofNat 32 (elemAt 4 (t.cread (x.f.va.toNat + i / 32)) (i % 32))))) ∧
  (∀ (s : State) (op : VCode) (ty : BitVec 2) (f : SlotF) (x : Bun) (y : Slot),
    op ∈ [VCode.cbr, .cbrt, .cj, .loopC, .loopSet, .rotb, .lbhdr, .viewt, .viewa, .fmtset, .mdset, .mdsetf, .cbload] → x.inB = false → x.m = none →
    (∀ z, x.b ≠ .slot z) →
    let b := s.renamedBundle (bundleOf x op ty f)
    let i := Instr.ofSlot ⟨op, ty, f⟩ x
    b.a = some y → CReady s b →
    (s.tile.control y b.lit (s.cPay b) = none → exec i s = .next (s.cStop (peersOf .c b.k.push) .illegal 0)) ∧
    (∀ o, s.tile.control y b.lit (s.cPay b) = some o →
      ((∀ j, o.jump = some j → s.tile.inStream .c j.1 = true) → exec i s = .next (s.cDone b ⟨some (.nothing, y.f.tr), none, o, none⟩)) ∧
      (∀ j, o.jump = some j → s.tile.inStream .c j.1 = false → exec i s = .next (s.cStop (peersOf .c b.k.push) .illegal 0))))

/-- 09 R203 to R205: what LOOP starts. One that stands at the end of a running loop, or whose end lies beyond that of a running loop on another counter, is
refused. Else a bound of zero goes behind the loop and starts nothing; any other starts its counter, running or not, with the trip count, the first index
(the last multiple below the bound for a negative step), the step and the body's ends, leaves the others alone, and the sequencer goes to the next
word. At the end of the body the test takes the innermost loop's trip and goes back to its start, or, on the last trip of the only loop that ends there,
stops the counter and goes on. A taken branch stops the running loops whose body does not hold its target.
09 R207 to R209: what renaming makes of a register number, in rotating mode by the region and the rotating base and in loop-buffer mode by the
ring and the loop-backs of the innermost running loop, a number outside them staying; and what a loop-back does beside the counter: the rotating
base steps back, and a loop with P = 1 shifts its stage predicates. -/
def Obligations.HardwareLoops : Prop :=
  (∀ (lc : Vector Loop 4) (pc : Word) (j b w off : Nat) (st : Int), j < 4 → b < 2 ^ 24 → w < 2 ^ 5 → 0 < off → off < 2 ^ 19 →
    -2 ^ 15 ≤ st → st < 2 ^ 15 →
    let runs := fun i => i < 4 ∧ (rd lc i).count ≠ 0
    let step : Int := if st = 0 then 1 else st
    let n := (b + step.natAbs - 1) / step.natAbs
    let fin : Word := pc + BitVec.ofNat 64 (w * off)
    let clash := ∃ i, runs i ∧ ((rd lc i).fin = pc ∨ (i ≠ j ∧ (rd lc i).fin < fin))
    (clash → ∀ pipe, startLoop lc pc j b st w off pipe = none) ∧
    (¬ clash → b = 0 → startLoop lc pc j b st w off none = some (lc, fin + BitVec.ofNat 64 w, 0)) ∧
    (¬ clash → 0 < b → ∃ lc', startLoop lc pc j b st w off none = some (lc', pc + BitVec.ofNat 64 w, n) ∧
      (∀ i, i < 4 → i ≠ j → rd lc' i = rd lc i) ∧ (rd lc' j).count.toNat = n ∧
      (rd lc' j).index = BitVec.ofNat 32 (if 0 < step then 0 else (n - 1) * step.natAbs) ∧ (rd lc' j).step.toInt = step ∧
      (rd lc' j).start = pc + BitVec.ofNat 64 w ∧ (rd lc' j).fin = fin ∧
      (1 < n → ∃ l2, testLoops lc' (fin + BitVec.ofNat 64 w) (loopsAt lc' fin) = (l2, pc + BitVec.ofNat 64 w, some j) ∧
        (rd l2 j).count.toNat = n - 1 ∧ (rd l2 j).index = (rd lc' j).index + BitVec.ofInt 32 step ∧ ∀ i, i < 4 → i ≠ j → rd l2 i = rd lc i) ∧
      (n = 1 → (∀ i, runs i → i ≠ j → (rd lc i).fin ≠ fin) →
        ∃ l2, testLoops lc' (fin + BitVec.ofNat 64 w) (loopsAt lc' fin) = (l2, fin + BitVec.ofNat 64 w, none) ∧
        (rd l2 j).count = 0 ∧ ∀ i, i < 4 → i ≠ j → rd l2 i = rd lc i)) ∧
    (∀ k, ¬ clash → 0 < b → n + k < 2 ^ 24 → ∃ lc', startLoop lc pc j b st w off (some k) = some (lc', pc + BitVec.ofNat 64 w, n) ∧
      (rd lc' j).count.toNat = n + k ∧ (rd lc' j).pipe = n ∧ (rd lc' j).backs = 0 ∧ (rd lc' j).start = pc + BitVec.ofNat 64 w ∧ (rd lc' j).fin = fin) ∧
    (∀ target i, i < 4 → rd (leaveLoops lc target) i =
      if (rd lc i).count ≠ 0 ∧ ¬ ((rd lc i).start ≤ target ∧ target ≤ (rd lc i).fin) then { rd lc i with count := 0 } else rd lc i)) ∧
  (∀ (c : CState) (f : BitVec 11),
    let n := f.toNat
    let rot := c.rot
    let outside := fun (i : Nat) => (rd c.rings i).v = true → n < (rd c.rings i).q ∨ (rd c.rings i).q + (rd c.rings i).len ≤ n
    (rot.r ≠ 0 → rot.q ≤ n → n < rot.q + rot.r → c.rename false f = BitVec.ofNat 11 (rot.q + (n - rot.q + rot.rb) % rot.r)) ∧
    (rot.r = 0 ∨ n < rot.q ∨ rot.q + rot.r ≤ n → c.rename false f = f) ∧
    (∀ i, i < 8 → (rd c.rings i).v = true → (rd c.rings i).q ≤ n → n < (rd c.rings i).q + (rd c.rings i).len →
      (∀ k, k < 8 → k ≠ i → outside k) →
      let r := rd c.rings i
      ((∀ k, k < 4 → (rd c.lc k).count = 0) → c.rename true f = BitVec.ofNat 11 (r.q + (n - r.q) % r.len)) ∧
      (∀ k, k < 4 → (rd c.lc k).count ≠ 0 → (∀ m, m < 4 → m ≠ k → (rd c.lc m).count ≠ 0 → (rd c.lc m).born < (rd c.lc k).born) →
        c.rename true f = BitVec.ofNat 11 (r.q + (n - r.q + (rd c.lc k).backs) % r.len))) ∧
    ((∀ k, k < 8 → outside k) → c.rename true f = f) ∧
    (∀ j, j < 4 →
      let l := rd c.lc j
      let d := c.loopedBack true j
      d.lc = c.lc ∧ d.rot.rb = (if rot.r = 0 then rot.rb else (rot.rb + rot.r - 1) % rot.r) ∧
      (l.pipe = 0 ∨ rot.stages = 0 → d.p = c.p) ∧
      (l.pipe ≠ 0 → rot.stages ≠ 0 → rd d.p 4 = (if l.backs < l.pipe then BitVec.allOnes 128 else 0) ∧
        (∀ i, i < 4 → rd d.p i = rd c.p i) ∧ ∀ t, 1 ≤ t → t < rot.stages → t < 4 → rd d.p (4 + t) = rd c.p (3 + t))))

/-! ### Steps of the engines -/

/-- 06 R109, R112, R124, 07 R154, R158, 02 R28, 09 R211: a guarded head goes on when its slot is true and leaves when it is false; an engine takes
a unit of the wait semaphore of its head and starts it, or notes since when it waits (log 49), a prefetch leaves at its start (log 43); a join that heads every queue it names leaves them all and
signals its semaphore (acts sets the model's own mark of a command that has begun, log 28); a write that C holds is made once no command uses what it replaces, with the pushes of its bundle. -/
def Obligations.EngineQueues : Prop :=
  ∀ (s : State) (t : TileId) (q : Queue) (h : Cmd) (rest : List Cmd),
    let x := s.tileAt t
    s.enginesRun t = true →
    (x.cmds q = h :: rest →
      (∀ g, h.guard = some g → h.decided = false → h.started = false → h.fault = none →
        (rd x.gd g.toNat = .yes → exec (.commandDecided t q) s =
          .next (s.updAt t fun x => { x with q := wr x.q (qIdx q) ({ h with decided := true } :: rest) })) ∧
        (rd x.gd g.toNat = .no → exec (.commandDecided t q) s =
          .next (s.updAt t fun x => { x.acts q h with
            q := wr x.q (qIdx q) rest, qhead := wr x.qhead (qIdx q) ((rd x.qhead (qIdx q) + 1) % 16), orphans := x.orphans ++ h.posts })) ∧
        (rd x.gd g.toNat = .free → exec (.commandDecided t q) s = .next s)) ∧
      (h.copy?.isSome = true ∨ (∃ r d l n p, h.body = .scout r d l n p) → h.startable = true →
        (h.wait = 0 → exec (.engineCommandStart t q) s = .next (s.updAt t fun x =>
          { x.acts q h with q := wr x.q (qIdx q) ({ h with started := true, waitFrom := none } :: rest) })) ∧
        (h.wait ≠ 0 → x.waitersAhead (qIdx q) h.wait (h.waitFrom.getD s.dev.now) (x.kWaits h.wait (s.smwaitOf t)) < (rd x.sm h.wait.toNat).toNat →
          exec (.engineCommandStart t q) s = .next (s.updAt t fun x =>
            { x.acts q h with
                     q := wr x.q (qIdx q) ({ h with started := true, waitFrom := none } :: rest)
                     sm := wr x.sm h.wait.toNat (rd x.sm h.wait.toNat - 1) })) ∧
        (h.wait ≠ 0 → rd x.sm h.wait.toNat = 0 → h.waitFrom = none → exec (.engineCommandStart t q) s = .next (s.updAt t fun x =>
          { x with q := wr x.q (qIdx q) ({ h with waitFrom := some s.dev.now } :: rest) }))) ∧
      (∀ ea n, h.body = .prefetch ea n → exec (.engineCommandStart t q) s =
        .next (s.updAt t fun x => { x.acts q h with
          q := wr x.q (qIdx q) rest, qhead := wr x.qhead (qIdx q) ((rd x.qhead (qIdx q) + 1) % 16), orphans := x.orphans ++ h.posts })) ∧
      (∀ id mask sem, h.body = .join id mask sem → (mask.getLsbD 3 = true → x.gathersBefore id = false) →
        (∀ e, e < 7 → mask.getLsbD e = true → joinAt (rd x.q e) id = true) →
        ∃ y, exec (.qfenceJoinComplete t q) s = .next (s.setTileAt t y) ∧
          (∀ e, e < 7 → rd y.q e = if mask.getLsbD e then (rd x.q e).drop 1 else rd x.q e) ∧
          y.sm = (x.smSignal sem).sm ∧ y = { x with q := y.q, qhead := y.qhead, sm := y.sm, orphans := y.orphans })) ∧
    (x.live = true → ∀ w, x.c.held = some w →
      let ev := match w with | .codebook _ => Instr.heldCodebookWrite t | _ => .heldViewWrite t
      (x.heldBack w = true → exec ev s = .next s) ∧
      (x.heldBack w = false → exec ev s = .next (s.updAt t fun x =>
        let c : CState := { x.c with held := none, heldPush := 0 }
        let c : CState := match w with
          | .codebook b => { c with codebook := b }
          | .tile n v => { c with tv := wr c.tv n.val v }
          | .acc n v => { c with av := wr c.av n.val v }
        ({ x with c := c }).pushReserved .c (peersOf .c x.c.heldPush) 0 x.c.clk)))

/-- 07 R156, R157, R159, R160: a started copy moves one sector of 32 bytes: it reads it in its source space and writes it in its destination
space, at the address of its row and sector, or into the matrix side memory for metadata; a fault of either halts its queue. With every sector moved and
acknowledged it takes the bytes from its barrier, posts its record, signals and leaves. A copy-out writes leaf after leaf, then posts 128 × its
leaves.
07 R161, R162: a started send reads its registers and injects one packet with the header of its word; when no packet of it is left at the
first Spoke it posts its header as its record, signals and leaves. -/
def Obligations.CopiesAndSends : Prop :=
  (∀ (s s1 s2 s3 : State) (t : TileId) (q : Queue) (h : Cmd) (rest : List Cmd) (d : CopyDesc) (side : Bool) (w w2 : Where) (v : Nat),
    let x := s.tileAt t
    let src : Word := BitVec.ofInt 64 (d.src + h.row * d.srcStride + 32 * h.unit)
    let dst : Word := BitVec.ofInt 64 (d.dst + h.row * d.dstStride + 32 * h.unit)
    let reads := s.resolve t (spaceOf d.srcSpace) .read src 32 false = .ok (w, s1) ∧ s1.linkReady w.tgt w.addr = true ∧ h.posts = [] ∧
      s1.readAt t h.clk w.tgt w.addr 32 = .ok v
    s.enginesRun t = true → h.started = true → h.fault = none → h.evicted = none → x.barDue = [] → x.barOpen = none → x.cmds q = h :: rest →
    (h.copy? = some (d, side) →
      (d.len ≠ 0 → h.row < d.rows →
        (side = true → reads → ∃ z, exec (.copySector t q) s = .next z ∧ (z.tileAt t).side = (s1.tileAt t).side.writeN dst.toNat 32 v ∧
          (z.tileAt t).cmds q = { h.nextSector d with net := none } :: ((s1.tileAt t).cmds q).drop 1 ∧
          z.dev.tiles = (s1.setTileAt t { s1.tileAt t with side := (z.tileAt t).side, q := (z.tileAt t).q }).dev.tiles) ∧
        (side = false → reads → s1.resolve t (spaceOf d.dstSpace) .write dst 32 true = .ok (w2, s2) → s2.linkReady w2.tgt w2.addr = true →
          (∀ n, w2.tgt ≠ .remote n) → (w2.tgt = .spm → (s1.tileAt t).storePending h.clk w2.addr 32 = false) →
          s2.writeAt t w2.tgt w2.addr 32 v = .ok s3 →
          exec (.copySector t q) s = .next (s3.updAt t fun x => { x with q := wr x.q (qIdx q) ({ h.nextSector d with net := none } :: (rd x.q (qIdx q)).drop 1) })) ∧
        (∀ c, s.resolve t (spaceOf d.srcSpace) .read src 32 false = .error c →
          exec (.copySector t q) s = .next ((s.consumed t c (s.walkMet x.ctx (spaceOf d.srcSpace) src)).updAt t fun x => x.engineFault q c src))) ∧
      ((d.len = 0 ∨ d.rows ≤ h.row) → h.posts = [] → (h.record = true → x.evq.length < 64 ∧ x.evWait = []) →
        let y : Tile := if h.record then { x with evq := x.evq ++ [mkRecord (BitVec.ofNat 64 (d.rows * d.len)) kindDone (qCode q) h.signal h.tag] } else x
        let leave := fun (y : Tile) => ({ y.smSignal h.signal with
          q := wr y.q (qIdx q) rest, qhead := wr y.qhead (qIdx q) ((rd y.qhead (qIdx q) + 1) % 16) } : Tile)
        (d.bar = none → exec (.copyComplete t q) s = .next (s.setTileAt t (leave y))) ∧
        (∀ b, d.bar = some b → s.isLost 1 t.val b 16 = false → x.storePending h.clk b 16 = false →
          exec (.copyComplete t q) s = .next (s.setTileAt t (leave { y with
            spm := x.spm.setBar b ((x.spm.bar b).cycle [.bytes (0 - BitVec.ofNat 64 (d.rows * d.len))]) }))))) ∧
    (∀ root to_ len depth sp, q = .copyOut → h.body = .scout root to_ len depth sp →
      let n := min (len / 128) (16 ^ depth)
      let a : Word := BitVec.ofNat 64 (to_ + 128 * h.unit)
      (h.unit < n → s.leafLine x.ctx root h.unit depth = .ok v → s.resolve t (spaceOf sp) .write a 128 true = .ok (w, s1) →
        s1.linkReady w.tgt w.addr = true → (w.tgt = .spm → x.storePending h.clk w.addr 128 = false) → (∀ m, w.tgt ≠ .remote m) → s1.writeAt t w.tgt w.addr 128 v = .ok s2 →
        exec (.scoutLeaf t) s = .next (s2.updAt t fun x => { x with q := wr x.q (qIdx q) ({ h with unit := h.unit + 1, net := none } :: (rd x.q (qIdx q)).drop 1) })) ∧
      (n ≤ h.unit → h.posts = [] → (h.record = true → x.evq.length < 64 ∧ x.evWait = []) →
        ∃ y, exec (.scoutComplete t) s = .next (s.setTileAt t y) ∧ y.cmds .copyOut = rest ∧ y.sm = (x.smSignal h.signal).sm ∧
          y.evq = (if h.record then x.evq ++ [mkRecord (BitVec.ofNat 64 (128 * n)) kindDone 7 h.signal h.tag] else x.evq) ∧
          y = { x with q := y.q, qhead := y.qhead, sm := y.sm, evq := y.evq }))) ∧
  (∀ (s : State) (t : TileId) (h : Cmd) (rest : List Cmd) (w : Word) (seq : BitVec 16) (r1 : Nat) (r2 : Option Nat),
    let x := s.tileAt t
    let n := bits w 17 16 + 1
    let regs := match r2 with | none => [(128 * r1, 256 * n)] | some r => [(128 * r1, 128 * n), (128 * r, 128 * n)]
    let hdr := mkHeader (w.extractLsb' 0 16) (BitVec.ofNat 9 t.val) s.devNum seq (w.extractLsb' 18 2) (w.extractLsb' 16 2) 0
    s.enginesRun t = true → x.cmds .send = h :: rest → h.body = .send w seq r1 r2 →
    (h.startable = true → h.injected = false → (h.wait = 0 ∨ x.headReady .send s.dev.now (s.smwaitOf t) = true) → s.dev.lost = [] →
      ∃ z, exec (.flowSendStart t) s = .next z ∧ exec (.engineCommandStart t .send) s = .next z ∧
        z.dev.net = s.dev.net ++ [{ hdr := hdr, ctx := x.ctx, launch := x.launch, body := .flow (regs.flatMap fun r => leBytes r.2 (x.rread r.1 r.2))
                                    at_ := .spoke t, orig := t.val, own := some (h.signal, h.tag)
                                    task := x.task.map fun k => k.index, miss := false, lcopy := false, stamp := s.dev.nextId, clk := h.clk }] ∧
        (z.tileAt t).cmds .send = { h with started := true, waitFrom := none, injected := true } :: rest ∧
        (z.tileAt t).sm = (if h.wait = 0 then x.sm else wr x.sm h.wait.toNat (rd x.sm h.wait.toNat - 1)) ∧
        (∀ r, (z.tileAt t).vreg r = x.vreg r) ∧ (∀ u, u ≠ t → z.tileAt u = s.tileAt u) ∧ z.dev.hbm = s.dev.hbm) ∧
    (h.injected = true → (∀ p ∈ s.dev.net, p.orig = t.val → p.own = none) → (h.record = true → x.evq.length < 64 ∧ x.evWait = []) →
      ∃ y, exec (.flowSendComplete t) s = .next (s.setTileAt t y) ∧ y.cmds .send = rest ∧ y.sm = (x.smSignal h.signal).sm ∧
        y.evq = (if h.record then x.evq ++ [mkRecord hdr kindDone 5 h.signal h.tag] else x.evq) ∧
        y = { x with q := y.q, qhead := y.qhead, sm := y.sm, evq := y.evq }))

/-- 09 R212, R217, R220, 03 R46: a matrix command at the head of its queue starts when its unit can be taken and the engine is free for it: a normal one
when nothing runs and no urgent one may run, an urgent one unless another runs or the normal one is promoted. It takes its unit, reads its
accumulator window or starts from +0, and an urgent command suspends the normal one. A normal command whose count has reached AGE is promoted (joins before
it are passed over, log 108).
09 R212, R219, R224: at its end a matrix command writes the rows of C that it computed, element by element, and no other byte of the register
space; then its record with the number of rows, then its signal, and it leaves its queue; where the event queue has no place for its record (06
R111), the window is written all the same, and the command stays without its signal. -/
def Obligations.MatrixStartsAndCompletes : Prop :=
  (∀ (s : State) (t : TileId) (h : Cmd) (rest : List Cmd) (m : Mx),
    let y := s.tileAt t
    let sem := s.smwaitOf t
    let take := fun (n : BitVec 8) => if n = 0 then y.sm else wr y.sm n.toNat (rd y.sm n.toNat - 1)
    let going := { h with started := true, waitFrom := none, part := m.start y }
    s.enginesRun t = true → s.dev.lost = [] → h.mx? = some m →
    (y.cmds .normal = h :: rest → y.mxRunning = none → y.headReady .normal s.dev.now sem = true → y.urgentMay s.dev.now sem = false →
      exec (.matrixCommandStart t .normal) s = .next (s.updAt t fun y => { y with q := wr y.q 0 (going :: rest), sm := take h.wait })) ∧
    (y.cmds .urgent = h :: rest → y.urgentRuns = false → y.headReady .urgent s.dev.now sem = true → y.normalPromoted = false →
      (y.mxRunning = none →
        let z := s.updAt t fun y => { y with q := wr y.q 1 (going :: rest), sm := take h.wait }
        exec (.matrixCommandStart t .urgent) s = .next z ∧ exec (.matrixKStep t) s = .next z) ∧
      (∀ n ns, y.cmds .normal = n :: ns → n.started = true → n.fault = none → n.suspended = false →
        let z := s.updAt t fun y => { y with q := wr (wr y.q 0 ({ n with suspended := true } :: ns)) 1 (going :: rest), sm := take h.wait }
        exec (.matrixCommandStart t .urgent) s = .next z ∧ exec (.matrixKStep t) s = .next z)) ∧
    (y.cmds .normal = h :: rest → y.normalPromoted = true →
      y.urgentMay s.dev.now sem = false ∧
      exec (.matrixPromotion t) s = .next (s.updAt t fun y => { y with q := wr y.q 0 ({ h with promoted := true } :: rest) })) ∧
    ((m.start y).length = m.m * m.n ∧ ∀ r j, r < m.m → j < m.n → (m.start y)[m.n * r + j]? = some (
      let v := y.rread (viewBase (rd y.c.av m.ac) + (m.oc + r * m.pc).toNat + m.cw * j) m.cw
      if m.acc = false then 0
      else if m.op = 8 then BitVec.ofNat 128 (v % 2 ^ 32 + v / 2 ^ 32 * 2 ^ 64) else BitVec.ofNat 128 v))) ∧
  (∀ (s : State) (t : TileId) (q : Queue) (h : Cmd) (rest : List Cmd) (m : Mx),
    let y := s.tileAt t
    let row := fun (r : Nat) => viewBase (rd y.c.av m.ac) + (m.oc + r * m.pc).toNat
    s.enginesRun t = true → y.mxRunning = some q → y.cmds q = h :: rest → h.mx? = some m → h.group = m.groups → 0 < m.n →
    let room := h.record = true → y.evq.length < 64 ∧ y.evWait = []
    0 ≤ m.oc → m.n * m.cw ≤ m.pc → h.part.length = m.m * m.n →
    (∀ r, r < m.m → row r + m.n * m.cw ≤ 0x40000) →
    ∃ z, exec (.matrixCommandComplete t) s = .next z ∧
      (∀ r j w, r < m.m → h.rows.getLsbD r = true → j < m.n → h.part[m.n * r + j]? = some w →
        (z.tileAt t).rread (row r + m.cw * j) m.cw = m.result w) ∧
      (∀ c, (∀ r, r < m.m → h.rows.getLsbD r = true → c < row r ∨ row r + m.n * m.cw ≤ c) → (z.tileAt t).rbyte c = y.rbyte c) ∧
      (room → (z.tileAt t).cmds q = rest ∧ (z.tileAt t).sm = (y.smSignal h.signal).sm ∧
        (z.tileAt t).evq = (if h.record then y.evq ++ [mkRecord (BitVec.ofNat 64 ((List.range 256).filter fun i => h.rows.getLsbD i).length)
          kindDone (qCode q) h.signal h.tag] else y.evq)) ∧
      (¬ room → (z.tileAt t).cmds q = { h with group := m.groups + 1 } :: rest ∧ (z.tileAt t).sm = y.sm ∧ (z.tileAt t).evq = y.evq) ∧
      (z.tileAt t).spm = y.spm ∧ (z.tileAt t).k = y.k ∧ (z.tileAt t).tok = y.tok ∧ (∀ u, u ≠ t → z.tileAt u = s.tileAt u) ∧
      z.dev.hbm = s.dev.hbm)

/-- 09 R219, R220, R223, 03 R44 to R46: a k-step of the running command adds, to the sum of every element of every row it computes, the products of its k
extent: fma by fma for MMA.F32, the exact sum of the group rounded once for the other real kinds, the complex steps for CF32. Rows that it does not
compute keep their sums. A ragged command takes at the start of a group the rows its semaphore allows, and ends where there is none. -/
def Obligations.MatrixSteps : Prop :=
  ∀ (s : State) (t : TileId) (q : Queue) (h : Cmd) (rest : List Cmd) (m : Mx) (rows : BitVec 256),
    let y := s.tileAt t
    let k0 := h.unit * m.kstep
    let n := min m.kstep (m.k - k0)
    let spm := y.spmView h.clk
    let lim := min m.m ((y.smGet m.rsem).toNat * m.gran)
    let computed := fun (r : Nat) => rows.getLsbD r = true ∧ (m.g = true → 16 * h.group ≤ r ∧ r < 16 * h.group + 16)
    let last := (m.k + m.kstep - 1) / m.kstep ≤ h.unit + 1
    s.enginesRun t = true → s.dev.lost = [] → y.mxRunning = some q → (q = .urgent ∨ y.urgentMay s.dev.now (s.smwaitOf t) = false) →
    y.cmds q = h :: rest → h.mx? = some m → 0 < m.m → 0 < m.n → m.m ≤ 256 → m.m % 16 = 0 → h.part.length = m.m * m.n → h.group < m.groups →
    (m.g = true → h.unit = 0 → lim ≤ 16 * h.group → exec (.matrixKStep t) s =
      .next (s.updAt t fun y => { y with q := wr y.q (qIdx q) ({ h with group := m.m / 16 } :: rest) })) ∧
    ((if h.unit ≠ 0 then rows = h.rows
      else if m.g = false then ∀ i, i < 256 → rows.getLsbD i = decide (i < m.m)
      else 16 * h.group < lim ∧ ∀ i, i < 256 → rows.getLsbD i =
        (h.rows.getLsbD i || decide (16 * h.group ≤ i ∧ i < 16 * h.group + 16 ∧ i < lim))) →
      ∃ part, let hd : Cmd := { h with
            rows := rows, part := part, unit := if last then 0 else h.unit + 1, group := if last then h.group + 1 else h.group }
        exec (.matrixKStep t) s = .next (s.updAt t fun y => { y with q := wr y.q (qIdx q) (hd :: rest) }) ∧
        part.length = m.m * m.n ∧
        ∀ r j w, r < m.m → j < m.n → h.part[m.n * r + j]? = some w →
          (¬ computed r → part[m.n * r + j]? = some w) ∧
          (computed r → m.cplx = false →
            let a := m.aRow y spm r k0 n
            let b := m.bRow y j k0 n
            let acc := f32 (bits w 31 0)
            part[m.n * r + j]? = some (BitVec.ofNat 128 (f32enc (
              if m.op = 0 then (a.zip b).foldl (fun c z => fma z.1.2 z.2 c) acc else fl (acc.add (groupSum a b)))))) ∧
          (computed r → m.cplx = true →
            let a := cplxRow y (viewBase (rd y.c.tv m.ta) + (m.oa + r * m.pa).toNat) k0 n
            let b := cplxRow y (viewBase (rd y.c.tv m.tb) + (m.ob + j * m.pb).toNat) k0 n
            part[m.n * r + j]? = some (m.accBits ((a.zip b).foldl (fun c z => m.cplxTerm c z.1 z.2) (m.accOf w)))))

/-! ### Tasks, Owls and work lists -/

/-- 10 R226, R228, R235, 01 R14: a task placed on a tile starts: its four sequencers stand at their entries with registers, queues, semaphores, guards and events cleared
and the register space reading zero; the scratchpad and the rest of launch lifetime are what its launch has on the tile, or new; each
barrier object of a group of the task is set to its member count at the master and to 1 elsewhere. -/
def Obligations.TaskStarts : Prop :=
  ∀ (s : State) (t : TileId) (k : Task) (l : Launch) (i : Image),
    let x := s.tileAt t
    x.task = some k → x.live = false → s.launch? k.launch = some l → l.id = k.launch → l.cores = false → l.mode ≠ 1 → s.dev.images[k.image]? = some i →
    (∀ a b, a ∈ l.groups[dieOf t] → b ∈ l.groups[dieOf t] → a.g = b.g → a = b) →
    ∃ z, exec (.taskStart t) s = .next z ∧ (∀ u, u ≠ t → z.tileAt u = s.tileAt u) ∧ z.dev.hbm = s.dev.hbm ∧
      (let y := z.tileAt t
       y.task = some k ∧ y.live = true ∧ y.k = KState.start k.kEnt ∧ y.l = LSState.start k.lEnt ∧ y.s = LSState.start k.sEnt ∧
       y.c.pc = k.cEnt ∧ y.c.p = (CState.start 0).p ∧ y.c.lc = (CState.start 0).lc ∧ y.c.stop = none ∧ y.c.held = none ∧
       (∀ q, y.cmds q = []) ∧ (∀ a b, a ≠ b → (y.tokQ a b).items = [] ∧ (y.tokQ a b).resv = 0) ∧ (∀ n, y.smGet n = 0) ∧
       (∀ g, g < 16 → rd y.gd g = .free) ∧ y.evq = [] ∧ y.evWait = [] ∧ y.reqs = [] ∧ y.batch = none ∧ y.kill = none ∧
       (∀ c, y.rbyte c = 0) ∧ y.pmap = x.pmap ∧ y.matchT = x.matchT ∧ y.waves = x.waves ∧ y.carves = x.carves ∧
       (x.spmLaunch = l.id → y.tvec = x.tvec ∧ y.loopmode = x.loopmode ∧ y.age = x.age ∧ y.chans = x.chans) ∧
       (x.spmLaunch ≠ l.id → x.kept.all (fun m => m.launch != l.id) = true → y.tvec = BitVec.ofNat 64 (leNat ((l.packet.drop 160).take 8)) ∧
         ∀ c, c < 64 → rd y.chans c = match i.chans.find? fun d => d.id == c with
           | some d => { Chan.unused with
               free := if d.src = k.index then BitVec.ofNat 32 d.slots else 0, sender := d.src == k.index, receiver := d.dst == k.index }
           | none => Chan.unused) ∧
       (∀ g ∈ l.groups[dieOf t], k.index ∈ g.members → g.members.length < 2 ^ 20 →
         let n := if g.master = k.index then g.members.length else 1
         y.spm.bar (groupObj g.g) = ⟨0, n, n, 0⟩) ∧
       (x.spmLaunch = l.id → ∀ c, (∀ g ∈ l.groups[dieOf t], c < groupObj g.g ∨ groupObj g.g + 16 ≤ c) → y.spm.get c = x.spm.get c))

/-- 10 R243 to R245, 04 R65, 18 R361: a task whose sequencers have all ended is killed where a kill is due, K's end in trap mode among them, and else retires in
order: with a halted queue it is killed with ENGINE_FAULT, commands under a free guard slot resolve false, an open batch
closes, barrier updates of the cycle are made, engines and requests end; a posted write that was refused kills it. Open subscriptions close at their far
ends, where no peer is being stopped, and updates on their way here are written. Then the retirement is counted with the commands, tokens
and records left behind, and the tile is free, its scratchpad and channel counters as they stood.
18 R361, R366, 04 R65, 10 R243, 23 R420: a kill is due where one was ordered, where K has ended in its own handler, or where K has ended or has no handler and
a sequencer has stopped. The killed task is
logged with class 5 unless its own handler killed it, is counted in its launch as killed, and leaves its tile free. -/
def Obligations.TasksEnd : Prop :=
  (∀ (s : State) (t : TileId) (k : Task) (l : Launch),
    let x := s.tileAt t
    s.enginesRun t = true → x.task = some k → (∀ q, x.endedOf q = true) → s.launch? k.launch = some l → l.mode ≠ 1 →
    (x.killDue.isSome = true → exec (.taskRetire t) s = .next (s.killNow t)) ∧
    (x.kill = none → x.k.trap = true → x.killDue = some ⟨true, .swtrap, .k, x.k.pc⟩) ∧
    (x.killDue = none → (∃ q ∈ queues, x.halted q = true) → exec (.taskRetire t) s = .next (s.killTask t ⟨false, .engineFault, .k, x.k.pc⟩)) ∧
    (x.killDue = none → (∀ q, x.halted q = false) → x.c.held = none →
      (0 < x.undecided → exec (.taskRetire t) s = .next (s.setTileAt t { x with
        guarded := x.guarded + x.undecided, gd := Vector.ofFn fun g => if rd x.gd g.val == .free &&
          queues.any (fun q => (x.cmds q).any fun c => !c.decided && c.guard == some (BitVec.ofNat 4 g.val)) then .no else rd x.gd g.val })) ∧
      (x.undecided = 0 → x.batch.isSome = true → exec (.taskRetire t) s = .next (s.closeBatch t)) ∧
      (x.undecided = 0 → x.batch = none → x.barOpen ≠ none ∨ x.barDue ≠ [] → exec (.taskRetire t) s = .next (s.barFlush t)) ∧
      (x.undecided = 0 → x.batch = none → x.barOpen = none → x.barDue = [] → (∀ q, x.cmds q = []) → x.refused = [] → x.reqs = [] → x.orphans = [] →
        (∀ p ∈ s.dev.net, p.orig = t.val → ∀ e o m d, p.body ≠ .update e o m d) →
        (s.openPeers t ≠ [] → (∃ u ∈ s.openPeers t, s.taskHome u x.launch = .held) → exec (.taskRetire t) s = .next s) ∧
        (s.openPeers t ≠ [] → (∀ u ∈ s.openPeers t, s.taskHome u x.launch ≠ .held) → exec (.taskRetire t) s = .next (s.closeEntries t)) ∧
        (s.openPeers t = [] → s.updatesComing t = true → exec (.taskRetire t) s = .next s)) ∧
      (x.undecided = 0 → x.batch = none → x.barOpen = none → x.barDue = [] → (∀ q, x.cmds q = []) →
        (∀ c a more, x.refused = (c, a) :: more → exec (.taskRetire t) s = .next (s.killTask t ⟨false, c, .s, x.s.pc⟩)) ∧
        (x.refused = [] → x.reqs = [] → x.orphans = [] → (∀ p ∈ s.dev.net, p.orig = t.val → ∀ e o m d, p.body ≠ .update e o m d) → (∀ i, i < 16 → (rd x.subs i).opened = false ∧ (rd x.pubs i).opened = false) →
          l.byCore ≠ l.tasks →
          ∃ z, exec (.taskRetire t) s = .next z ∧ (∀ u, u ≠ t → z.tileAt u = s.tileAt u) ∧ z.dev.hbm = s.dev.hbm ∧
            z.launch? k.launch = some { l with
              at_ := (k.index, .retired) :: l.at_.filter (fun a => a.1 != k.index), retired := l.retired + 1
              guarded := l.guarded + x.guarded, tokens := l.tokens + (x.tok.toList.map fun q => q.items.length).sum, events := l.events + x.evq.length } ∧
            (let y := z.tileAt t
             y.task = none ∧ y.live = false ∧ y.spm = x.spm ∧ y.chans = x.chans ∧ y.tvec = x.tvec ∧ y.age = x.age ∧ y.loopmode = x.loopmode ∧
             y.carves = x.carves ∧ y.pmap = x.pmap ∧ y.waves = x.waves))))) ∧
  (∀ (s : State) (t : TileId) (k : Task) (l : Launch) (d : Kill),
    let x := s.tileAt t
    let cause := d.cause.code
    x.task = some k → x.live = true → s.launch? k.launch = some l → l.mode ≠ 1 →
    (x.killDue = none → exec (.taskKill t) s = .next s) ∧
    (x.kill = some d → x.killDue = some d) ∧
    (x.kill = none → x.k.trap = true → x.endedOf .k = true → x.killDue = some ⟨true, .swtrap, .k, x.k.pc⟩) ∧
    (x.kill = none → ¬ (x.k.trap = true ∧ x.endedOf .k = true) →
      (x.killDue ≠ none ↔ x.firstStop ≠ none ∧ (x.endedOf .k = true ∨ x.tvec = 0 ∧ x.k.trap = false))) ∧
    (x.killDue = some d → x.reqs = [] → (∀ q, ∀ c ∈ x.cmds q, c.posts = []) → x.orphans = [] → x.batch = none → x.barOpen = none → x.barDue = [] →
      (∀ i, i < 16 → (rd x.subs i).opened = false ∧ (rd x.pubs i).opened = false) → l.byCore + 1 < l.tasks →
      ∃ z, exec (.taskKill t) s = .next z ∧ (∀ u, u ≠ t → z.tileAt u = s.tileAt u) ∧ z.dev.hbm = s.dev.hbm ∧
        (z.tileAt t).task = none ∧ (z.tileAt t).spm = x.spm ∧ (z.tileAt t).chans = x.chans ∧
        (∃ m, z.launch? k.launch = some m ∧ m.retired = l.retired + 1 ∧ m.killed = l.killed + 1 ∧
          m.byCore = (if d.byHandler then l.byCore else l.byCore + 1) ∧ m.state = l.state) ∧
        (d.byHandler = true → z.dev.dies = s.dev.dies) ∧
        (d.byHandler = false → (z.dev.dies[dieOf t]).log = logWrite (s.dev.dies[dieOf t]).log
          (mkLog (BitVec.ofNat 64 (d.pc.toNat % 2 ^ 32 * 2 ^ 32 + seqCode d.seq * 2 ^ 24 + k.index % 2 ^ 24)) k.launch s.clkrd cause k.ctx t.val 0 5))))

/-- 10 R239: an append that reaches its list's unit enters the list at its tail and a pop takes the oldest item into its register with a true predicate, for the instructions of L behind it too; each then
pushes its tokens (mark sets the model's own mark of an effect outside the sequencer, log 28). A full list keeps an append and an empty one a pop.
10 R240, R241: the Owls declare a running launch quiescent when its lists are empty, no append is under way and every task they watch has retired
or waits in a pop, and nothing else changes. A context in which nothing can move begins to be counted; when that has lasted 4,096 cycles, every sequencer
of L, C and S that waits, but for an L in a pop, stops with LAUNCH_STALL, K where it waits traps with it, and the context's launches with lists become quiescent. -/
def Obligations.WorkListsAndOwls : Prop :=
  (∀ (s : State) (t : TileId) (r : Req) (die : DieId) (n : Nat) (w : WorkList),
    let x := s.tileAt t
    let find := fun (f : Req → Bool) => x.reqs.find? f = some r
    let without := x.reqs.filter fun y => y.id != r.id
    s.workList die x.launch n = some w → x.listHeld r = false →
    (∀ item, r.kind = .wlapp die n item → find (fun r => match r.kind with | .wlapp _ _ _ => true | _ => false) →
      (w.cap ≤ w.items.length → exec (.workListAppendArrival t) s = .next s) ∧
      (w.items.length < w.cap → exec (.workListAppendArrival t) s =
        .next ((s.updDie die fun d => { d with lists := d.lists.map fun y => if y.launch = w.launch ∧ y.n = w.n then { w with items := w.items ++ [item] } else y }).updAt t
          fun x => (({ x with reqs := without }).mark r.q (r.clk.at r.q)).pushReserved r.q (peersOf r.q r.push) 0 r.clk))) ∧
    (∀ d pd, r.kind = .wlpop d die n pd → r.q = .l → find (fun r => match r.kind with | .wlpop _ _ _ _ => true | _ => false) →
      (w.items = [] → exec (.workListPopArrival t) s = .next s) ∧
      (∀ v rest, w.items = v :: rest → exec (.workListPopArrival t) s =
        .next ((s.updDie die fun e => { e with lists := e.lists.map fun y => if y.launch = w.launch ∧ y.n = w.n then { w with items := rest } else y }).updAt t fun x =>
          let y : Tile := { x with
            reqs := without.map fun z => if z.q = .l ∧ r.id < z.id then
              { z with before := { z.before with regs := wr z.before.regs d.toNat v, preds := predSet z.before.preds pd true } } else z
            l := { x.l with regs := wr x.l.regs d.toNat v, preds := predSet x.l.preds pd true } }
          (y.mark r.q (r.clk.at r.q)).pushReserved r.q (peersOf r.q r.push) (BitVec.ofNat 32 v.toNat) r.clk)))) ∧
  (∀ (s : State) (id : Word) (l : Launch) (c : BitVec 12),
    (s.launch? id = some l →
      ((l.state = .running ∧ l.lists ≠ [] ∧ l.quiescent = false ∧ s.listsEmpty id = true ∧ s.appending id = false ∧
          ∀ i ∈ l.owlSet, (∃ a ∈ l.at_.find? (fun a => a.1 == i), a.2 = .retired ∨ ∃ t, a.2 = .running t ∧ (s.tileAt t).live = true ∧ s.inWlpop t = true)) →
        exec (.owlQuiescence id) s = .next (s.updDev fun d => { d with launches := d.launches.map fun m => if m.id = id then { m with quiescent := true } else m })) ∧
      (l.state ≠ .running ∨ l.lists = [] ∨ s.listsEmpty id = false ∨ s.appending id = true → exec (.owlQuiescence id) s = .next s)) ∧
    (s.stalled c = false → exec (.owlStallRule c) s = .next (s.updDev fun d => { d with stall := d.stall.filter fun p => p.1 != c })) ∧
    (s.stalled c = true → (∀ p ∈ s.dev.stall, p.1 ≠ c) →
      exec (.owlStallRule c) s = .next (s.updDev fun d => { d with stall := (c, d.now) :: d.stall })) ∧
    (∀ n, s.stalled c = true → s.dev.stall.find? (fun p => p.1 == c) = some (c, n) →
      (s.dev.now < n + 4096 → exec (.owlStallRule c) s = .next s) ∧
      (n + 4096 ≤ s.dev.now → ∃ z, exec (.owlStallRule c) s = .next z ∧ (∀ p ∈ z.dev.stall, p.1 ≠ c) ∧
        (∀ t ∈ s.tilesOf c, ∀ q, q ≠ .k → (s.waitOf t q).isSome = true → (q = .l → s.inWlpop t = false) →
          ∃ r, (z.tileAt t).stopOf q = some r ∧ r.cause = .launchStall ∧ r.pc = (s.tileAt t).pcOf q) ∧
        (∀ t ∈ s.tilesOf c, s.inWlpop t = true → (z.tileAt t).l = (s.tileAt t).l) ∧
        (∀ t ∈ s.tilesOf c, (s.waitOf t .k).isSome = true → (s.tileAt t).k.trap = false → (s.tileAt t).tvec ≠ 0 →
          (z.tileAt t).k.trap = true ∧ (z.tileAt t).k.pc = (s.tileAt t).tvec ∧ bits (rd (z.tileAt t).k.kt 1) 7 0 = 14) ∧
        (∀ m ∈ s.dev.launches, m.tag = c → m.state = .running → m.lists ≠ [] → { m with quiescent := true } ∈ z.dev.launches))))

/-! ### The flow plane -/

/-- 12 R270, R271, R274, R278 to R281, R284, 06 R111, 19 R379 to R381, R384, 23 R416: a flow packet waits for an earlier one of its flow and source, and behind a miss of
its input that is of no lower class; an entry of its place's table sends it on or delivers it, and becomes the most recently used of 64; an entry that
only the Warren holds is fetched first. A copy for the Spoke's tile that had to wait is delivered alone. At a port of a packet that is only passing it leaves for
its device by that port, when the port is up, or is dropped with its record when no device answers; with no entry anywhere it is unmatched: it goes to the
stray buffer, if that has room, and its source gets its record, over the fabric once the Spoke's egress port is up, a send's own at its first match once the event queue has room. Which input a packet
stands at is the model's choice (log 93). -/
def Obligations.FlowPackets : Prop :=
  ∀ (s : State) (n : Nat) (p : Pkt) (data : List Byte) (t : TileId) (e : FlowEntry) (i : Nat),
    let x := s.tileAt t
    let without := s.dev.net.filter fun y => y.stamp != n
    let table := (e :: x.matchT.filter fun y => y != e).take 64
    s.packet n = some p → p.body = .flow data → s.dev.lost = [] →
    (s.behind p = true → exec (.flowPacketArrival n) s = .next s) ∧
    (∀ y ∈ s.dev.net, y.miss = true → p.miss = false → y.at_ = p.at_ → y.stamp ≠ p.stamp → y.input = p.input →
      (hdrClass p.hdr).toNat ≤ (hdrClass y.hdr).toNat → exec (.flowPacketArrival n) s = .next s) ∧
    (p.at_ = .spoke t → (∀ m ∈ x.matchT, m.matches p t.val = false) → s.warrenFind p t.val = some (e, i) →
      (s.behind p = false → exec (.flowPacketArrival n) s = .next (s.updDev fun d => { d with
        net := d.net.map fun y => if y.stamp = n then { p with miss := true } else y })) ∧
      exec (.warrenFetch n) s = .next (s.updAt t fun x => { x with matchT := table })) ∧
    (p.at_ = .spoke t → s.behind p = false → x.matchT.find? (fun m => m.matches p t.val) = some e → p.lcopy = false → feGate e.w = 0 →
      (feOut e.w = 0 → exec (.flowPacketArrival n) s = .next ((s.updAt t fun x => { x with matchT := table }).updDev fun d => { d with
        net := without ++ [{ p with at_ := s.forwardTo e.w t.val, own := none, miss := false, stamp := d.nextId }], nextId := d.nextId + 1 })) ∧
      (fe e.w 4 63 62 = 0 → s.forwardTo e.w t.val = .spoke (tileOf (fe e.w 4 57 49))) ∧
      (feOut e.w = 1 → p.own = none → n < s.dev.nextId → (hdrDev p.hdr = s.devNum ∨ (s.dev.ports[egressPort t]).up = true) → ∃ (z : State) (rest : List Pkt), exec (.flowPacketArrival n) s = .next z ∧
        (nbits (fe e.w 4 36 31) 0 1 = 0 → rest = []) ∧ (∀ y ∈ rest, y.lcopy = true ∧ y.at_ = .spoke t ∧ y.hdr = p.hdr ∧ y.body = .flow data) ∧
        (z.dev.net.map fun y => (y.at_, y.hdr, y.body)) = (without.map fun y => (y.at_, y.hdr, y.body)) ++
          (([1, 2, 3, 4].filter fun d => nbits (fe e.w 4 36 31) d 1 = 1).map fun d => (Place.spoke (neighbour t d), p.hdr, PktBody.flow data)) ++
          (if nbits (fe e.w 4 36 31) 5 1 = 1 then [(Place.port ⟨fe e.w 4 30 26 % 32, Nat.mod_lt _ (by decide)⟩ none, p.hdr, PktBody.flow data)] else []) ++
          rest.map fun y => (y.at_, y.hdr, y.body))) ∧
    (p.at_ = .spoke t → s.behind p = false → x.matchT.find? (fun m => m.matches p t.val) = some e →
      (feGate e.w = 0 ∧ feOut e.w = 2 ∨ p.lcopy = true) → fe e.w 5 63 62 = 0 → s.taskHome t e.launch = .live →
        let l := bits p.hdr 8 7 + 1
        let a := fe e.w 6 63 0 + bits p.hdr 26 11 % 2 ^ fe e.w 5 61 58 * fe e.w 7 63 32
        let m := x.spm.writeN a (256 * l) (leNat data)
        let b := fe e.w 5 48 27
        x.barOpen = none → (∀ u ∈ x.barDue, u.1 ≠ b) → a + 256 * l ≤ 0x300000 → exec (.flowPacketArrival n) s = .next ((s.updAt t fun x => { x with
          matchT := table, spm := if fe e.w 5 49 49 = 1 then m.setBar b ((m.bar b).cycle [.bytes (0 - BitVec.ofNat 64 (256 * l))]) else m
          sm := (x.smSignal (BitVec.ofNat 8 (fe e.w 5 57 50))).sm }).updDev fun d => { d with net := without })) ∧
    (s.behind p = false → p.own = none → p.at_ = .spoke t → (∀ m ∈ x.matchT, m.matches p t.val = false) → s.warrenFind p t.val = none →
      ∃ z, exec (.flowPacketArrival n) s = .next z ∧
        (z.dev.dies[dieOf t]).stray = (if (s.dev.dies[dieOf t]).stray.length < 64 then (s.dev.dies[dieOf t]).stray ++ [p] else (s.dev.dies[dieOf t]).stray) ∧
        (hdrDev p.hdr = s.devNum ∨ (s.dev.ports[egressPort t]).up = true → z.dev.net = without) ∧
        (hdrDev p.hdr ≠ s.devNum → (s.dev.ports[egressPort t]).up = true → ∃ r, z.dev.toFabric = s.dev.toFabric ++ [r] ∧
          r.body = .record (mkRecord p.hdr 3 8 0 0) ∧ r.at_ = .away (hdrDev p.hdr) (p.hdr.extractLsb' 39 9) none) ∧
        (hdrDev p.hdr ≠ s.devNum → (s.dev.ports[egressPort t]).up = false → z.dev.toFabric = s.dev.toFabric ∧ ∃ r, z.dev.net = without ++ [r] ∧
          r.body = .record (mkRecord p.hdr 3 8 0 0) ∧ r.at_ = .away (hdrDev p.hdr) (p.hdr.extractLsb' 39 9) (some (egressPort t))) ∧
        ∀ u, hdrDev p.hdr = s.devNum → u.val = hdrTile p.hdr → s.taskHome u p.launch = .live →
          (∀ i, p.task = some i → ∃ k, (s.tileAt u).task = some k ∧ k.index = i) → z.tileAt u = (s.tileAt u).post (mkRecord p.hdr 3 8 0 0)) ∧
    (∀ sem tag, s.behind p = false → p.own = some (sem, tag) → p.at_ = .spoke t → (∀ m ∈ x.matchT, m.matches p t.val = false) → s.warrenFind p t.val = none →
      p.orig = t.val → hdrDev p.hdr = s.devNum → hdrTile p.hdr = t.val → s.taskHome t p.launch = .live →
      (∀ i, p.task = some i → ∃ k, x.task = some k ∧ k.index = i) →
      (64 ≤ x.evq.length → exec (.flowPacketArrival n) s = .next s) ∧
      (x.evq.length < 64 → x.evWait = [] → ∃ z, exec (.flowPacketArrival n) s = .next z ∧ z.dev.net = without ∧
        z.tileAt t = ({ x with evq := x.evq ++ [mkRecord p.hdr 3 5 sem tag] } : Tile).popCmd .send)) ∧
    (∀ d dt pt, s.behind p = false → p.at_ = .port pt (some (d, dt)) → (∀ m ∈ s.dev.portT, m.matches p (432 + pt.val) = false) → s.warrenFind p (432 + pt.val) = none →
      exec (.flowPacketArrival n) s = .next (s.updDev fun v => { v with
        net := without ++ [{ p with at_ := if d = s.devNum then .spoke (tileOf dt.toNat) else .away d dt (some pt), own := none, stamp := v.nextId }]
        nextId := v.nextId + 1 })) ∧
    (∀ d dt q, s.behind p = false → p.at_ = .away d dt (some q) →
      ((s.dev.ports[q]).up = false → exec (.flowPacketArrival n) s = .next s) ∧
      ((s.dev.ports[q]).up = true → (s.remote? d).isSome = true → ∃ z, exec (.flowPacketArrival n) s = .next z ∧ z.dev.net = without ∧
        z.dev.toFabric = s.dev.toFabric ++ [p] ∧ z.dev.tiles = s.dev.tiles ∧ z.dev.hbm = s.dev.hbm) ∧
      ((s.dev.ports[q]).up = true → s.remote? d = none → ∃ z, exec (.flowPacketArrival n) s = .next z ∧ z.dev.net = without ∧
        ∀ u, hdrDev p.hdr = s.devNum → u.val = hdrTile p.hdr → s.taskHome u p.launch = .live →
          (∀ i, p.task = some i → ∃ k, (s.tileAt u).task = some k ∧ k.index = i) → z.tileAt u = (s.tileAt u).post (mkRecord p.hdr 3 8 0 0)))

/-- 12 R275 to R277, 03 R48: a packet of a combine gate waits in its wave until every input that does not stand has come; the wave then leaves as one packet of the
inputs combined in entry order. A hold keeps packets until its count, a count field of 0 being read as 64 (log 51), and then releases them in order of source device, source tile and sequence. -/
def Obligations.FlowGates : Prop :=
  ∀ (s : State) (n : Nat) (p : Pkt) (data : List Byte) (t : TileId) (e : FlowEntry),
    let x := s.tileAt t
    let without := s.dev.net.filter fun y => y.stamp != n
    let table := (e :: x.matchT.filter fun y => y != e).take 64
    let l := bits p.hdr 8 7 + 1
    let sq := hdrSeq p.hdr
    s.packet n = some p → p.body = .flow data → s.dev.lost = [] → s.behind p = false → p.at_ = .spoke t →
    x.matchT.find? (fun m => m.matches p t.val) = some e → p.lcopy = false →
    (∀ i, feGate e.w = 1 → inputOf e.w p.hdr = some i → noWave e.w l = false →
      let mine := fun (w : Wave) => !w.hold && w.launch == e.launch && w.flow == feFlow e.w && w.seq == sq
      let base := feBase e.w + sq.toNat % (feCount e.w / l) * l
      ((∀ w ∈ x.waves, mine w = false) → (∀ w ∈ x.waves, w.meets base l = false) →
        (∃ j, j < feN e.w ∧ j ≠ i ∧ feStand e.w j = false) →
        exec (.flowPacketArrival n) s = .next ((s.updAt t fun x => { x with
          matchT := table, waves := x.waves ++ [⟨e.launch, feFlow e.w, sq, false, base, l, hdrClass p.hdr, [⟨i, p.hdr, data, p.orig, p.clk, p.task, p.stamp⟩], s.dev.now⟩] }).updDev fun d =>
            { d with net := without })) ∧
      (∀ w, x.waves.find? mine = some w → w.flits = l → (∀ a ∈ w.arrived, a.input ≠ i) → feOut e.w = 0 →
        (∀ j, j < feN e.w → feStand e.w j = true ∨ j = i ∨ ∃ a ∈ w.arrived, a.input = j) →
        let ins := (List.range (feN e.w)).map fun j =>
          if feStand e.w j then x.slotBytes e.launch (feInTile e.w j) l
          else match (w.arrived ++ [(⟨i, p.hdr, data, p.orig, p.clk, p.task, p.stamp⟩ : Arrived)]).find? fun a => a.input == j with | some a => a.data | none => []
        ∃ z q, exec (.flowPacketArrival n) s = .next z ∧ z.dev.net = without ++ [q] ∧ (z.tileAt t).waves = x.waves.filter (fun w => !mine w) ∧
          q.body = .flow (combineBytes (fe e.w 1 63 61) (fe e.w 1 60 59) (fe e.w 1 58 57) ins) ∧ hdrFlow q.hdr = feFlow e.w ∧ hdrSeq q.hdr = sq ∧
          hdrTile q.hdr = t.val ∧ q.at_ = s.forwardTo e.w t.val ∧ q.launch = e.launch ∧ q.ctx = p.ctx)) ∧
    (feGate e.w = 2 →
      let mine := fun (w : Wave) => w.hold && w.launch == e.launch && w.flow == feFlow e.w
      let w : Wave := (x.waves.find? mine).getD ⟨e.launch, feFlow e.w, sq, true, feBase e.w, 0, hdrClass p.hdr, [], s.dev.now⟩
      let count := if fe e.w 1 53 48 = 0 then 64 else fe e.w 1 53 48
      let arrived := w.arrived ++ [⟨0, p.hdr, data, p.orig, p.clk, p.task, p.stamp⟩]
      let rest := x.waves.filter fun w => !mine w
      w.flits + l ≤ feCount e.w → (∀ v ∈ rest, v.meets (w.base + w.flits) l = false) →
      (arrived.length < count → exec (.flowPacketArrival n) s = .next ((s.updAt t fun x => { x with
        matchT := table, waves := rest ++ [{ w with flits := w.flits + l, arrived := arrived }] }).updDev fun d => { d with net := without })) ∧
      (count ≤ arrived.length → feOut e.w = 0 → ∃ (z : State) (out : List Arrived), exec (.flowPacketArrival n) s = .next z ∧ out.Perm arrived ∧
        out.Pairwise (fun a b => heldBefore a.hdr b.hdr = true) ∧ (z.tileAt t).waves = rest ∧
        (z.dev.net.map fun q => (q.hdr, q.body, q.orig, q.clk)) = (without.map fun q => (q.hdr, q.body, q.orig, q.clk)) ++
          out.map fun a => (a.hdr, PktBody.flow a.data, a.orig, a.clk)))

/-- 06 R117 to R119, 11 R264: the barrier packets that reach one object of a live task in one cycle leave the network and act on it together with the updates
of that object that wait for the cycle's end; each that is refused posts a BAR_OVERRUN record, and an object of which all are refused is not written. Where
others of the cycle are still to come they wait for them. Where the target runs no task of the launch, a packet is discarded and its sender gets the
record. Which updates fall into one cycle is the schedule's choice (log 107). -/
def Obligations.BarrierUpdates : Prop :=
  ∀ (s : State) (t : TileId) (ns : List Nat) (a : Nat) (l : Word),
    let x := s.tileAt t
    let ps := s.dev.net.filter fun p => ns.contains p.stamp && p.at_ == .spoke t && p.barUpd.isSome && !s.inputHeld p && s.barrierClear p
    let new := ps.filterMap fun p => p.barUpd.map fun u => (u.2, p.orig)
    let us := ((x.barDue.filter fun u => u.1 == a).map fun u => u.2) ++ new
    let bs := us.map fun u => u.1
    let without := s.dev.net.filter fun p => !(ps.any fun y => y.stamp == p.stamp)
    s.dev.lost = [] → (∀ p ∈ ps, p.launch = l ∧ ∃ u, p.barUpd = some (a, u)) → ps ≠ [] →
    (s.taskHome t l = .live →
      exec (.barrierUpdate t ⟨ns, true⟩) s = .next ((s.updAt t fun x => { x with
        barOpen := some (x.barOpen.getD false), barDue := x.barDue ++ new.map fun u => (a, u) }).updDev fun d => { d with net := without }) ∧
      ((∀ u ∈ x.barDue, u.1 = a) → ∃ z, exec (.barrierUpdate t ⟨ns, false⟩) s = .next z ∧ z.dev.net = without ∧ (∀ u, u ≠ t → z.tileAt u = s.tileAt u) ∧ z.dev.hbm = s.dev.hbm ∧
        (z.tileAt t).spm = (if ((x.spm.bar a).refused bs).length = bs.length then x.spm else x.spm.setBar a ((x.spm.bar a).cycle bs)) ∧
        z.tileAt t = ((x.spm.bar a).refused bs).foldl (fun y i =>
            y.post (mkRecord (BitVec.ofNat 64 (((us[i]?.map fun u => u.2).getD 0) * 2 ^ 32 + a)) 5 8 0 0))
          { x with spm := (z.tileAt t).spm, barDue := [], barOpen := none })) ∧
    (∀ p u, s.taskHome t l = .absent → x.barDue = [] → x.barOpen = none → ps = [p] → u.val = p.orig → s.taskHome u l = .live →
      (∀ i, p.task = some i → ∃ k, (s.tileAt u).task = some k ∧ k.index = i) →
      exec (.barrierUpdate t ⟨ns, false⟩) s = .next ((s.updDev fun d => { d with net := d.net.filter fun y => y.stamp != p.stamp }).updAt u fun y =>
        y.post (mkRecord (BitVec.ofNat 64 (p.orig * 2 ^ 32 + a)) 5 8 0 0)))

/-- 12 R281, R282, R285: a wave or hold older than its launch's flow timeout is cleared with a record of the cause; a wait of L, C or S of a fabric-reaching context that has lasted as
long stops its sequencer with FLOW_TIMEOUT, once no memory instruction of it is unfinished; a class-0 request, of the gather unit or of a copy at the head of a
queue, that a full buffer drops is sent again 64 cycles later; a returned record of an unmatched packet is posted at its source, and one that waits at
an egress port leaves when the port is up, or is dropped where the device cannot be reached. -/
def Obligations.FlowTimeoutsAndEviction : Prop :=
  ∀ (s : State) (t : TileId) (n : Nat),
    let x := s.tileAt t
    (∀ (b : BitVec 7) (w : Wave), x.waves.find? (fun w => w.base == b.toNat && s.timeoutOf w.launch < s.dev.now - w.since) = some w → s.taskHome t w.launch = .live →
      exec (.flowTimeout (BitVec.ofNat 9 t.val) b) s = .next (((s.updAt t fun x => { x with waves := x.waves.filter fun v => v != w }).forget 8 t.val
        (256 * w.base) (256 * w.flits)).updAt t fun x => x.post (mkRecord (BitVec.ofNat 64 (15 * 2 ^ 56 + w.flow.toNat * 2 ^ 32 + w.seq.toNat * 2 ^ 16 + w.base % 128)) 2 8 0 0))) ∧
    (∀ b : BitVec 7, (∀ w ∈ x.waves, w.base ≠ b.toNat ∨ s.dev.now - w.since ≤ s.timeoutOf w.launch) → exec (.flowTimeout (BitVec.ofNat 9 t.val) b) s = .next s) ∧
    (∀ q w c, q ≠ .k → s.waitOf t q = some w → x.sinceOf q = some c →
      (s.fabricReaching x.ctx = true → x.mayStop q = true → s.timeoutOf x.launch < s.dev.now - c → ∃ z r, exec (.sequencerFlowTimeout t q) s = .next z ∧
        (z.tileAt t).stopOf q = some r ∧ r.cause = .flowTimeout ∧ r.pc = x.pcOf q ∧ (z.tileAt t).resvOf q = x.resvOf q ∧ (z.tileAt t).k = x.k) ∧
      (s.fabricReaching x.ctx = false ∨ s.dev.now - c ≤ s.timeoutOf x.launch → exec (.sequencerFlowTimeout t q) s = .next s)) ∧
    (∀ r p, x.req? n = some r → (∀ v ∈ x.reqs, v.id = n → v = r) →
      (r.kind = .store ∨ (∃ vd, r.kind = .load vd) → r.evicted = none → p ∈ r.pieces → p.done = false → p.size < 32 → p.tgt ≠ .spm →
        exec (.class3Eviction ⟨t, .request n⟩) s = .next (s.updAt t fun x => { x with
          reqs := x.reqs.map fun v => if v.id = n then { v with evicted := some s.dev.now } else v })) ∧
      (∀ c, r.evicted = some c → c + 64 ≤ s.dev.now → ∃ z, exec (.requestResend ⟨t, .request n⟩) s = .next z ∧
        z.tileAt t = { x with reqs := x.reqs.map fun v => if v.id = n then { r with evicted := none, resent := true } else v } ∧
        (∀ u, u ≠ t → z.tileAt u = s.tileAt u) ∧ z.dev.hbm = s.dev.hbm ∧ z.dev.net = s.dev.net) ∧
      (∀ c, r.evicted = some c → s.dev.now < c + 64 → exec (.requestResend ⟨t, .request n⟩) s = .next s)) ∧
    (∀ q d h rest, x.cmds q = h :: rest → (h.body = .copy d ∨ h.body = .copy2 d ∨ h.body = .mdld d) → h.started = true → h.fault = none →
      (h.evicted = none → d.len ≠ 0 → h.row < d.rows → exec (.class3Eviction ⟨t, .engine q⟩) s = .next (s.updAt t fun x =>
        { x with q := wr x.q (qIdx q) ({ h with evicted := some s.dev.now, net := some (h.net.getD (s.dev.now, 0)) } :: rest) })) ∧
      (∀ c, h.evicted = some c → c + 64 ≤ s.dev.now → exec (.requestResend ⟨t, .engine q⟩) s = .next (s.updAt t fun x =>
        { x with q := wr x.q (qIdx q) ({ h with evicted := none } :: rest) })) ∧
      (∀ c, h.evicted = some c → s.dev.now < c + 64 → exec (.requestResend ⟨t, .engine q⟩) s = .next s)) ∧
    (∀ p r d dt q, s.packet n = some p → p.body = .record r → p.at_ = .away d dt (some q) →
      ((s.dev.ports[q]).up = false → exec (.flowUnmatchedRecordReturn n) s = .next s) ∧
      ((s.dev.ports[q]).up = true → (s.remote? d).isSome = true → ∃ z, exec (.flowUnmatchedRecordReturn n) s = .next z ∧
        z.dev.net = s.dev.net.filter (fun y => y.stamp != n) ∧ z.dev.toFabric = s.dev.toFabric ++ [{ p with at_ := .away d dt none }]) ∧
      ((s.dev.ports[q]).up = true → s.remote? d = none → exec (.flowUnmatchedRecordReturn n) s = .next (s.updDev fun d =>
        { d with net := d.net.filter fun y => y.stamp != n }))) ∧
    (∀ p r, s.packet n = some p → p.body = .record r → p.at_ = .spoke t → s.inputHeld p = false → s.isLost 7 n 0 (2 ^ 16) = false → s.taskHome t p.launch = .live →
      (∀ i, p.task = some i → ∃ k, x.task = some k ∧ k.index = i) →
      exec (.flowUnmatchedRecordReturn n) s = .next ((s.updDev fun d => { d with net := d.net.filter fun y => y.stamp != n }).updAt t fun x => x.post r))

/-! ### Channels, subscriptions, combining and memory requests in the network -/

/-- 12 R288, R289, 06 R110: a slot that arrives is written in its place of the receiver's ring and counted; a newer consumed count that arrives sets the sender's free count,
with the channel's fault condition and its record where that exceeds the slots, and an older one changes nothing.
12 R289: a sender or receiver that has stalled for 4,096 cycles asks the other end, and counts anew; the other end answers with its counts; a reply
applies the consumed count like a return, and where the counts then differ with no slot in flight the channel is at fault at the sender. -/
def Obligations.ChannelArrivalsAndAudits : Prop :=
  (∀ (s : State) (n : Nat) (p : Pkt) (t : TileId) (l : Launch) (k : ChanDecl),
    let x := s.tileAt t
    let arrived := s.updDev fun d => { d with net := d.net.filter fun y => y.stamp != n }
    s.packet n = some p → s.dev.lost = [] → p.at_ = .spoke t → s.behindKind p = false → s.inputHeld p = false → s.chanDecl p.launch k.id = some (l, k) →
    s.chanHome t p.launch = .live → s.taskHome t p.launch = .live → k.id < 64 →
    let c := rd x.chans k.id
    (∀ sent data, p.body = .slot k.id sent data → exec (.channelSlotArrival n) s = .next (arrived.updAt t fun x => { x with
      spm := x.spm.writeN (k.ring + k.bytes * (sent.toNat % k.slots)) k.bytes (leNat data)
      chans := wr x.chans k.id { c with received := c.received + 1 } })) ∧
    (∀ v, p.body = .ret k.id v →
      let d := (v - c.last).toNat
      let free : BitVec 32 := BitVec.ofNat 32 k.slots - (c.sent - v)
      ((d = 0 ∨ 2 ^ 31 ≤ d) → exec (.channelReturnArrival n) s = .next arrived) ∧
      (0 < d → d < 2 ^ 31 → free.toNat ≤ k.slots → exec (.channelReturnArrival n) s =
        .next (arrived.updAt t fun x => { x with chans := wr x.chans k.id { c with free := free, last := v } })) ∧
      (0 < d → d < 2 ^ 31 → k.slots < free.toNat → c.fault = false → exec (.channelReturnArrival n) s =
        .next (arrived.updAt t fun x => ({ x with chans := wr x.chans k.id { c with free := free, last := v, fault := true } }).post
          (mkRecord (BitVec.ofNat 64 (v.toNat * 2 ^ 32 + k.id)) 4 8 0 0))))) ∧
  (∀ (s : State) (t u : TileId) (c : BitVec 6) (l : Launch) (k : ChanDecl) (since : Nat),
    let x := s.tileAt t
    let h := rd x.chans c.toNat
    (s.chanDecl x.launch c.toNat = some (l, k) → s.enginesRun t = true → since + 4096 ≤ s.dev.now →
      (l.tileOfTask k.dst = some u → h.sender = true → h.free = 0 → h.stallS = some since → ∃ z, exec (.senderAudit t c) s = .next z ∧
        z.dev.net = s.dev.net ++ [{ hdr := mkHeader 0 (BitVec.ofNat 9 t.val) s.devNum (h.sent.setWidth 16) 2 0 2, ctx := x.ctx, launch := x.launch
                                    body := .auditSender c.toNat, at_ := .spoke u, orig := t.val, own := none
                                    task := x.task.map fun y => y.index, miss := false, lcopy := false, stamp := s.dev.nextId, clk := x.s.clk }] ∧
        z.tileAt t = { x with chans := wr x.chans c.toNat { h with stallS := some s.dev.now } } ∧ ∀ v, v ≠ t → z.tileAt v = s.tileAt v) ∧
      (l.tileOfTask k.src = some u → h.receiver = true → h.received = h.consumed → h.stallR = some since → ∃ z, exec (.receiverAudit t c) s = .next z ∧
        z.dev.net = s.dev.net ++ [{ hdr := mkHeader 0 (BitVec.ofNat 9 t.val) s.devNum (h.consumed.setWidth 16) 2 0 2, ctx := x.ctx, launch := x.launch
                                    body := .auditReceiver c.toNat, at_ := .spoke u, orig := t.val, own := none
                                    task := x.task.map fun y => y.index, miss := false, lcopy := false, stamp := s.dev.nextId, clk := x.l.clk }] ∧
        z.tileAt t = { x with chans := wr x.chans c.toNat { h with stallR := some s.dev.now } } ∧ ∀ v, v ≠ t → z.tileAt v = s.tileAt v)) ∧
    (∀ n p, s.packet n = some p → s.dev.lost = [] → p.at_ = .spoke t → s.behindKind p = false → s.inputHeld p = false → s.chanDecl p.launch k.id = some (l, k) → k.id < 64 →
      s.chanHome t p.launch = .live → s.taskHome t p.launch = .live → u.val = p.orig →
      let without := s.dev.net.filter fun y => y.stamp != n
      let e := rd x.chans k.id
      (p.body = .auditSender k.id → ∃ z q, exec (.auditReply n) s = .next z ∧ z.dev.net = without ++ [q] ∧ q.at_ = .spoke u ∧
        q.body = .auditReplyS k.id e.consumed e.received ∧ z.dev.tiles = s.dev.tiles) ∧
      (p.body = .auditReceiver k.id → ∃ z q, exec (.auditReply n) s = .next z ∧ z.dev.net = without ++ [q] ∧ q.at_ = .spoke u ∧
        q.body = .auditReplyR k.id e.sent ∧ z.dev.tiles = s.dev.tiles) ∧
      (∀ v got, p.body = .auditReplyS k.id v got → l.id = p.launch → l.tileOfTask k.src = some t → l.tileOfTask k.dst = some u →
        s.chanHome u p.launch = .live → t ≠ u →
        let d := (v - e.last).toNat
        let free : BitVec 32 := BitVec.ofNat 32 k.slots - (e.sent - v)
        let arrived := s.updDev fun d => { d with net := without }
        let r := (rd (s.tileAt u).chans k.id).received
        (e.sent = r →
          ((d = 0 ∨ 2 ^ 31 ≤ d) → exec (.auditReply n) s = .next arrived) ∧
          (0 < d → d < 2 ^ 31 → free.toNat ≤ k.slots → exec (.auditReply n) s =
            .next (arrived.updAt t fun x => { x with chans := wr x.chans k.id { e with free := free, last := v } })) ∧
          (0 < d → d < 2 ^ 31 → k.slots < free.toNat → e.fault = false → exec (.auditReply n) s =
            .next (arrived.updAt t fun x => ({ x with chans := wr x.chans k.id { e with free := free, last := v, fault := true } }).post
              (mkRecord (BitVec.ofNat 64 (v.toNat * 2 ^ 32 + k.id)) 4 8 0 0)))) ∧
        (e.sent ≠ r → (∀ y ∈ without, y.launch ≠ p.launch) → e.fault = false → 0 < d → d < 2 ^ 31 → free.toNat ≤ k.slots → exec (.auditReply n) s =
          .next (arrived.updAt t fun x => ({ x with chans := wr x.chans k.id { e with free := free, last := v, fault := true } }).post
            (mkRecord (BitVec.ofNat 64 ((rd (s.tileAt u).chans k.id).consumed.toNat * 2 ^ 32 + k.id)) 4 8 0 0)))) ∧
      (∀ sent, p.body = .auditReplyR k.id sent → l.id = p.launch → l.tileOfTask k.src = some u → l.tileOfTask k.dst = some t →
        s.chanHome u p.launch = .live → s.taskHome u p.launch = .live → (∀ y ∈ without, y.launch ≠ p.launch) →
        ((rd (s.tileAt u).chans k.id).sent = e.received → ∃ z, exec (.auditReply n) s = .next z ∧ z.dev.net = without ∧ z.dev.tiles = s.dev.tiles) ∧
        ((rd (s.tileAt u).chans k.id).sent ≠ e.received → (rd (s.tileAt u).chans k.id).fault = false → ∃ z, exec (.auditReply n) s = .next z ∧
          (rd (z.tileAt u).chans k.id).fault = true ∧
          (z.tileAt u).evq = ((s.tileAt u).post (mkRecord (BitVec.ofNat 64 (e.consumed.toNat * 2 ^ 32 + k.id)) 4 8 0 0)).evq))))

/-- 12 R292 to R294, 06 R125: a tile's own writes to one published sector gather in a batch that holds the sector as its last write left it; the batch closes 16 cycles after its
first write, as one update for each publisher entry whose window holds its sector, an entry opened since taking only the later bytes; an
update that arrives at an open entry writes exactly the bytes of its mask in one step. That one whose entry has closed is discarded is the model's reading (log 47: DEDUCED). -/
def Obligations.SubscriptionUpdates : Prop :=
  ∀ (s : State) (t : TileId) (b : Batch),
    let x := s.tileAt t
    (x.batch = some b → s.dev.now < b.since + 16 → exec (.subscriptionBatchClose t) s = .next s) ∧
    (x.batch = some b → b.since + 16 ≤ s.dev.now →
      let mask := fun (i : Nat) => match b.fresh.find? fun f => f.1 == i with | some f => f.2 | none => b.mask
      let serves := fun (i : Nat) => (rd x.pubs i).opened && mask i != 0 && decide ((rd x.pubs i).pubBase ≤ b.sector) &&
        decide (b.sector < (rd x.pubs i).pubBase + (rd x.pubs i).size) && decide ((rd x.pubs i).peer < 432)
      ∃ z, exec (.subscriptionBatchClose t) s = .next z ∧ (z.tileAt t).batch = none ∧ (z.tileAt t).spm = x.spm ∧
        (z.dev.net.map fun p => (p.at_, p.body)) = (s.dev.net.map fun p => (p.at_, p.body)) ++ (((List.range 16).filter serves).map fun i =>
          (Place.spoke (tileOf (rd x.pubs i).peer), PktBody.update i ((rd x.pubs i).subBase + (b.sector - (rd x.pubs i).pubBase)) (mask i) b.data)) ∧
        (∀ i, i < 16 → (rd (z.tileAt t).pubs i).count = if serves i then (rd x.pubs i).count + 1 else (rd x.pubs i).count)) ∧
    (∀ a k v, a % 32 + k ≤ 32 → s.dev.lost = [] → x.published a = true →
      let m := x.spm.writeN a k v
      let bits : BitVec 32 := BitVec.ofNat 32 (2 ^ k - 1) <<< (a % 32)
      (x.batch = none → s.spmStore t a k v = s.updAt t fun x => { x with
        spm := m, batch := some ⟨a / 32 * 32, bits, m.readN (a / 32 * 32) 32, s.dev.now, []⟩ }) ∧
      (x.batch = some b → b.sector = a / 32 * 32 → s.spmStore t a k v = s.updAt t fun x => { x with
        spm := m, batch := some { b with mask := b.mask ||| bits, data := m.readN b.sector 32, fresh := b.fresh.map fun f => (f.1, f.2 ||| bits) } })) ∧
    (∀ n p pub addr mask data, s.packet n = some p → s.dev.lost = [] → p.at_ = .spoke t → s.behindKind p = false → s.inputHeld p = false → p.body = .update pub addr mask data →
      s.taskHome t p.launch = .live →
      let arrived := s.updDev fun d => { d with net := d.net.filter fun y => y.stamp != n }
      (x.subscribes p.orig addr = false → exec (.forwardedUpdate n) s = .next arrived) ∧
      (x.subscribes p.orig addr = true → ∃ m, exec (.forwardedUpdate n) s = .next (arrived.updAt t fun x => { x with spm := m }) ∧
        ∀ c, m.get c = if addr ≤ c ∧ c < addr + 32 ∧ mask.getLsbD (c - addr) = true then BitVec.ofNat 8 (data / 256 ^ (c - addr)) else x.spm.get c))

/-- 12 R295 to R297, 11 R268, 19 R387, 23 R414: a fetch-and-add that arrives at a combining point joins the open record of its word, in serial place by cycle and rank, or opens one where
fewer than 32 stand. A record sends after 64 cycles or with 16 members. Its reply adds the sum once and answers each requester, those of a record that has
joined it among them, with the value that serial order gives it. Where the requester list is lost, memory still takes the sum and every requester gets the
base value, its status predicate false, or stops with FADD_INDETERMINATE; where the sum is lost before the request leaves, every requester stops with
ECC_UNCORRECTED. An answer to another device waits while every fabric port of this one is down. -/
def Obligations.CombiningRecords : Prop :=
  ∀ (s : State) (n : Nat) (at_ : CombAt) (f : FaccAt),
    let place := match at_ with | .spoke t _ => t.val | .panel p _ _ => 432 + p
    let rank := match at_ with | .spoke _ p => p.val | .panel _ d q => d.toNat * 32 + q.val
    let here := s.dev.combs.filter fun c => c.place == place
    let takes := fun (c : CombRec) => !c.sent && c.tgt == f.tgt && c.addr == f.addr && c.wide == f.wide && decide (c.members.length < 16) &&
      decide (s.dev.now < c.opened + 64)
    let m := (f.src, f.inc, s.dev.now, rank)
    let due := fun (c : CombRec) => c.id == n && !c.sent && (decide (c.opened + 64 ≤ s.dev.now) || decide (16 ≤ c.members.length))
    let reaches := (∃ t p, at_ = .spoke t p) ∨ ∃ p q d, at_ = .panel p s.devNum q ∧ f.tgt = .remote d ∧ ∃ l ∈ s.dev.ports.toList, l.up = true
    let value := fun (wide : Bool) (v : Nat) => if wide then BitVec.ofNat 64 v else (BitVec.ofNat 32 v).signExtend 64
    let asks := fun (wide : Bool) (m : FaccSrc × Word × Nat × Nat) (t : TileId) (r : Req) (d : Reg) (pd : BitVec 3) (p : Piece) =>
      m.1 = .req t r.id ∧ (s.tileAt t).reqs = [r] ∧ r.q = .l ∧ r.finished = false ∧ r.kind = .facc d wide m.2.1 pd ∧ r.pieces = [p]
    (s.faccOf n = some f → reaches →
      (∀ c, here.find? takes = some c → exec (.faccRequestArrival n at_) s =
        .next ((s.updDev fun d => { d with combs := d.combs.map fun x =>
          if x.id = c.id then { x with sum := addInc x.wide x.sum f.inc, members := insertMember m x.members } else x }).markJoined f.src)) ∧
      (here.find? takes = none → 32 ≤ here.length → exec (.faccRequestArrival n at_) s = .next s) ∧
      (here.find? takes = none → here.length < 32 → exec (.faccRequestArrival n at_) s =
        .next ((s.updDev fun d => { d with
          nextId := d.nextId + 1
          combs := d.combs ++ [⟨d.nextId, place, f.tgt, f.addr, f.wide, addInc f.wide 0 f.inc, [m], d.now, false, false, false⟩] }).markJoined f.src))) ∧
    (s.faccOf n = some f → ¬ reaches → exec (.faccRequestArrival n at_) s = .next s) ∧
    (∀ ms, insertMember m ms ≠ [] ∧ (insertMember m ms).Perm (m :: ms) ∧
      (ms.Pairwise (fun a b => a.2.2.1 < b.2.2.1 ∨ a.2.2.1 = b.2.2.1 ∧ a.2.2.2 ≤ b.2.2.2) →
        (insertMember m ms).Pairwise fun a b => a.2.2.1 < b.2.2.1 ∨ a.2.2.1 = b.2.2.1 ∧ a.2.2.2 ≤ b.2.2.2)) ∧
    (((∀ c ∈ s.dev.combs, due c = false) → exec (.combiningWindowEnd n) s = .next s) ∧
      ((∃ c ∈ s.dev.combs, due c = true) → ∃ z, exec (.combiningWindowEnd n) s = .next z ∧ z.dev.tiles = s.dev.tiles ∧ z.dev.hbm = s.dev.hbm ∧
        z.dev.combs = s.dev.combs.map fun c => if c.id = n then { c with sent := true } else c)) ∧
    (∀ c, s.dev.combs.find? (fun c => c.id == n) = some c → ∃ z, exec (.combiningRecordLost n .list) s = .next z ∧ z.dev.tiles = s.dev.tiles ∧
      z.dev.hbm = s.dev.hbm ∧ z.dev.combs = s.dev.combs.map fun x => if x.id = n then { x with lost := true, sent := true } else x) ∧
    (∀ c, s.dev.combs.find? (fun c => c.id == n) = some c → c.sent = false →
      (∀ m ∈ c.members, ∃ t r d pd p, asks c.wide m t r d pd p) →
      c.members.Pairwise (fun a b => ∀ t u i j, a.1 = .req t i → b.1 = .req u j → t ≠ u) →
      ∃ z, exec (.combiningRecordLost n .sum) s = .next z ∧ (∀ y ∈ z.dev.combs, y.id ≠ n) ∧ z.dev.hbm = s.dev.hbm ∧
        ∀ m ∈ c.members, ∀ t r d pd p, asks c.wide m t r d pd p →
          ∃ y, (z.tileAt t).stopOf .l = some y ∧ y.cause = .eccUncorrected ∧ y.addr = p.va ∧ y.pc = r.before.pc) ∧
    (∀ (c : CombRec) (inner ms : List (FaccSrc × Word × Nat × Nat)) (s1 : State) (old : Nat),
      let all := ms ++ inner
      let t := s.combTile c
      let w := if c.wide then 8 else 4
      s.dev.combs.find? (fun c => c.id == n && c.sent && !c.joined) = some c →
      (c.members = ms ∧ inner = [] ∨ ∃ x inc o k, c.members = ms ++ [(.rec_ x.id, inc, o, k)] ∧ x.id ≠ n ∧ s.dev.combs.find? (fun y => y.id == x.id) = some x ∧
        x.members = inner ∧ x.wide = c.wide ∧ x.lost = false) →
      (∀ m ∈ all, ∃ t r d pd p, asks c.wide m t r d pd p) → all.Pairwise (fun a b => ∀ t u i j, a.1 = .req t i → b.1 = .req u j → t ≠ u) →
      s.linkReady c.tgt c.addr = true → s.readAt t Clk.zero c.tgt c.addr w = .ok old →
      s.writeAt t c.tgt c.addr w (atomNew (if c.wide then 8 else 0) old c.sum.toNat 0) = .ok s1 →
      ∃ z, exec (.combiningReply n) s = .next z ∧ (∀ y ∈ z.dev.combs, y.id ≠ n) ∧ z.dev.hbm = s1.dev.hbm ∧
        (c.lost = false → ∀ i m t r d pd p, all[i]? = some m → asks c.wide m t r d pd p →
          (z.tileAt t).reqs = [] ∧ rd (z.tileAt t).l.regs d.toNat = value c.wide (old + ((all.take i).map fun m => m.2.1.toNat).sum) ∧
          (pd ≠ 0 → (z.tileAt t).l.preds.getLsbD pd.toNat = true)) ∧
        (c.lost = true → ∀ m ∈ all, ∀ t r d pd p, asks c.wide m t r d pd p →
          (pd ≠ 0 → (z.tileAt t).reqs = [] ∧ rd (z.tileAt t).l.regs d.toNat = value c.wide old ∧ (z.tileAt t).l.preds.getLsbD pd.toNat = false) ∧
          (pd = 0 → ∃ y, (z.tileAt t).stopOf .l = some y ∧ y.cause = .faddIndeterminate ∧ y.addr = value c.wide old ∧ y.pc = r.before.pc))) ∧
    (∀ (c : CombRec) (dev : BitVec 12) (tile : BitVec 9) (inc : Word) (o k : Nat) (s1 : State) (old : Nat),
      let w := if c.wide then 8 else 4
      s.dev.combs.find? (fun c => c.id == n && c.sent && !c.joined) = some c → c.members = [(.far dev tile, inc, o, k)] → s.linkReady c.tgt c.addr = true →
      s.readAt (s.combTile c) Clk.zero c.tgt c.addr w = .ok old →
      s.writeAt (s.combTile c) c.tgt c.addr w (atomNew (if c.wide then 8 else 0) old c.sum.toNat 0) = .ok s1 →
      let answer : FarReply := if c.lost then .indeterminate dev tile (BitVec.ofNat 64 old) else .data dev tile (leBytes w (BitVec.ofNat 64 old).toNat)
      ∃ z, exec (.combiningReply n) s = .next z ∧ z.dev.hbm = s1.dev.hbm ∧
        ((∃ l ∈ s1.dev.ports.toList, l.up = true) → z.dev.farReplies = s1.dev.farReplies ++ [answer] ∧ z.dev.farWait = s1.dev.farWait) ∧
        ((∀ l ∈ s1.dev.ports.toList, l.up = false) → z.dev.farReplies = s1.dev.farReplies ∧ z.dev.farWait = s1.dev.farWait ++ [answer]))

/-- 11 R254, R262, 06 R98, 07 R138, R139, 19 R382, R383, 23 R415, R418, 17 R349: a piece of a request performs when nothing holds it; a request whose pieces are all done finishes. A posted
write performs with its acknowledgement; one that the owner refuses leaves the refusal at the tile. An access that has had no response for 2^25 cycles ends with
ECC_UNCORRECTED, at its instruction once the memory instructions before it have finished, at the tile for a posted write that has finished, as a trap of K or a
fault of an engine; one of a dead host link ends with ACCESS_DENIED. A request behind which a later word of its sequencer has had an effect outside it no longer
fails (log 28: DEDUCED). A release walk goes on by one step. -/
def Obligations.NetworkRequests : Prop :=
  ∀ (s s1 : State) (t : TileId) (n : Nat) (r : Req) (p : Piece),
    let x := s.tileAt t
    let base := if x.sure r then s.unlost else s
    (∀ c v, x.req? n = some r → r.kind = .chsend c v → ∀ i, exec (.memoryRequest t n i) s = .next (s.chanSend t c)) ∧
    (x.req? n = some r → (∀ c v, r.kind ≠ .chsend c v) →
      (∀ i r1, r.pieces[i]? = some p → (∀ root, p.tgt ≠ .window root) → p.done = false → x.blocked r [i] i = false → s.linkReady p.tgt p.addr = true →
        s.hentiaDead p.addr = false → r.posts p = false → r.joined = false → r.evicted = none → r.failed = none → s.dev.lost = [] → base.perform t r i = .ok (r1, s1) →
        let y := if r.changes then (s1.tileAt t).mark r.q (r.clk.at r.q) else s1.tileAt t
        ∃ z, exec (.memoryRequest t n i) s = .next z ∧ z.dev.hbm = s1.dev.hbm ∧ z.dev.host = s1.dev.host ∧
          z.tileAt t = ({ y with reqs := putReq y.reqs { r1 with failed := none } } : Tile).finishAll) ∧
      (∀ i, r.pieces[i]? = some p → r.failed = none → (p.done = true ∨ x.blocked r [i] i = true ∧ (∀ root, p.tgt ≠ .window root) ∧ p.tgt ≠ .host) →
        exec (.memoryRequest t n i) s = .next s) ∧
      (∀ i, r.pieces[i]? = some p → r.failed = none → p.done = false → r.posts p = false → p.tgt = .host → s.hentiaDead p.addr = true → r.finished = false →
        x.sure r = false → (r.q = .l ∨ r.q = .s) → x.mayFail r = true → ∃ z y, exec (.memoryRequest t n i) s = .next z ∧ (z.tileAt t).stopOf r.q = some y ∧ y.cause = .accessDenied ∧
          y.addr = p.va ∧ y.pc = r.before.pc) ∧
      (r.pieces = [p] → p.done = false → r.posts p = true → x.blocked r [0] 0 = false → s.linkReady p.tgt p.addr = true →
        let refuses := fun (c : Cause) => exec (.postedWriteAck t n) s = .next s ∧ exec (.postedWriteRefusal t n) s =
          .next (s.updAt t fun x => ({ x with refused := x.refused ++ [(c, p.va)] }).closePiece r 0)
        (s.postedOk t p = true → s.writeAt t p.tgt p.addr p.size p.val = .ok s1 →
          exec (.postedWriteAck t n) s = .next (s1.updAt t fun x => (x.mark r.q (r.clk.at r.q)).closePiece r 0)) ∧
        (s.postedOk t p = false → refuses .accessDenied) ∧
        (∀ c, s.postedOk t p = true → s.writeAt t p.tgt p.addr p.size p.val = .error c → refuses c)) ∧
      (r.pieces = [p] → p.done = false →
        let s2 := s.timedOut t r
        ((∃ vd, r.kind = .load vd) → s2 = s) ∧
        (s.dev.now < r.since + 2 ^ 25 → exec (.requestTimeout t (.request n)) s = .next s) ∧
        (r.since + 2 ^ 25 ≤ s.dev.now →
          (r.finished = true → r.posts p = true → ∃ z, exec (.requestTimeout t (.request n)) s = .next z ∧ z.dev.hbm = s2.dev.hbm ∧
            z.tileAt t = { s2.tileAt t with reqs := (s2.tileAt t).reqs.filter fun y => y.id != n, refused := (s2.tileAt t).refused ++ [(.eccUncorrected, p.va)] }) ∧
          (r.finished = false → x.sure r = true → exec (.requestTimeout t (.request n)) s = .next (s.tryPiece t n 0)) ∧
          (r.finished = false → x.sure r = false → x.mayFail r = false → exec (.requestTimeout t (.request n)) s = .next s) ∧
          (r.finished = false → x.sure r = false → x.mayFail r = true → (r.q = .l ∨ r.q = .s) → (∀ v ∈ x.reqs, v.id = n → v = r) → ∃ z y, exec (.requestTimeout t (.request n)) s = .next z ∧
            (z.tileAt t).stopOf r.q = some y ∧ y.cause = .eccUncorrected ∧ y.addr = p.va ∧ y.pc = r.before.pc ∧ ∀ v ∈ (z.tileAt t).reqs, v.id ≠ n)))) ∧
    (∀ ea c, x.k.pend = some (.access ea) → x.k.since = some c →
      (s.dev.now < c + 2 ^ 25 → exec (.requestTimeout t (.sequencer .k)) s = .next s) ∧
      (c + 2 ^ 25 ≤ s.dev.now → x.kill = none → x.k.trap = false → x.tvec ≠ 0 → ∃ z, exec (.requestTimeout t (.sequencer .k)) s = .next z ∧
        (z.tileAt t).k.trap = true ∧ (z.tileAt t).k.pc = x.tvec ∧ rd (z.tileAt t).k.kt 0 = x.k.pc ∧ rd (z.tileAt t).k.kt 2 = ea ∧
        bits (rd (z.tileAt t).k.kt 1) 7 0 = Cause.eccUncorrected.code)) ∧
    (∀ q h rest c a, x.cmds q = h :: rest → h.net = some (c, a) →
      (s.dev.now < c + 2 ^ 25 → exec (.requestTimeout t (.engine q)) s = .next s) ∧
      (c + 2 ^ 25 ≤ s.dev.now → ∃ z, exec (.requestTimeout t (.engine q)) s = .next z ∧
        (z.tileAt t).cmds q = { h with net := none, evicted := none, fault := some (.eccUncorrected, a) } :: rest)) ∧
    (∀ q h rest c, x.req? n = none → x.posterOf n = some (some q, ⟨n, c, p⟩) → x.cmds q = h :: rest →
      let posts := h.posts.filter fun y => y.id != n
      (x.postBehind n p = false →
        (s.postedOk t p = true → s.linkReady p.tgt p.addr = true → s.writeAt t p.tgt p.addr p.size p.val = .ok s1 →
          exec (.postedWriteAck t n) s = .next (s1.updAt t fun x => x.unpost (some q) n) ∧ ((x.unpost (some q) n).cmds q) = { h with posts := posts } :: rest) ∧
        (s.postedOk t p = false → s.linkReady p.tgt p.addr = true → ∃ z, exec (.postedWriteRefusal t n) s = .next z ∧
          (z.tileAt t).cmds q = { h with posts := posts, fault := some (.accessDenied, p.va) } :: rest)) ∧
      (c + 2 ^ 25 ≤ s.dev.now → ∃ z, exec (.requestTimeout t (.request n)) s = .next z ∧
        (z.tileAt t).cmds q = { h with posts := posts, fault := some (.eccUncorrected, p.va) } :: rest)) ∧
    (∀ c, x.req? n = none → x.posterOf n = some (none, ⟨n, c, p⟩) → x.postBehind n p = false → s.postedOk t p = true → s.linkReady p.tgt p.addr = true →
      s.writeAt t p.tgt p.addr p.size p.val = .ok s1 →
      exec (.postedWriteAck t n) s = .next (s1.updAt t fun x => { x with orphans := x.orphans.filter fun y => y.id != n })) ∧
    (∀ tag g i st, s.dev.walks[n]? = some (tag, (g, i) :: st) →
      let put := fun (z : State) (w : List (Nat × Nat)) => z.updDev fun d => { d with
        walks := if w = [] then d.walks.eraseIdx n else d.walks.set n (tag, w) }
      let on := (g, i + 1) :: st
      (16 ≤ i → exec (.releaseWalk n) s = .next (put (s.freeSlot g) st)) ∧
      (∀ e, i < 16 → s.lineRead g (8 * i) 8 = .error e → ∃ z, exec (.releaseWalk n) s = .next z ∧ z.dev.walks = s.dev.walks.set n (tag, on) ∧ z.dev.hbm = s.dev.hbm) ∧
      (∀ v, i < 16 → s.lineRead g (8 * i) 8 = .ok v →
        let name : Word := BitVec.ofNat 64 v
        let b := s.bucketOf (name.toNat / 256)
        (name = 0 → exec (.releaseWalk n) s = .next (put s on)) ∧
        (name ≠ 0 → s.bucketLost b = true → ∃ z, exec (.releaseWalk n) s = .next z ∧ z.dev.walks = s.dev.walks.set n (tag, on) ∧ z.dev.hbm = s.dev.hbm) ∧
        (name ≠ 0 → s.bucketLost b = false → s.bucketCheck b ≠ none ∨ s.findName tag name = none → exec (.releaseWalk n) s = .next (put s on)) ∧
        (∀ c, name ≠ 0 → s.bucketLost b = false → s.bucketCheck b = none → s.findName tag name = some c →
          exec (.releaseWalk n) s = .next (put (s.decSlot c).1 ((s.decSlot c).2 ++ on)))))

/-! ### Kills, pre-emption and the context image -/

/-- 15 R322, R323, 16 R339, 18 R369 to R372, R376, 23 R410: the first launch in scoreboard order whose victim runs on a tile stops it for a free slot. Once every part has stopped, the tile's task is written
to its slot and leaves; where lost data or the access table keeps the image from being written the task is killed (log 65); a task that is due to be killed is killed and not saved. It comes back when its launch is the first that may take the tile: its registers, event queue and token queues are what the slot's image in HBM holds. -/
def Obligations.ContextSwitches : Prop :=
  ∀ (s : State) (t : TileId) (w : Launch) (k : Task) (slot : Nat) (v : Save),
    let x := s.tileAt t
    (((scoreboard s.dev.launches).find? fun w => s.victim w t && s.lacksTile w (dieOf t)) = none → exec (.preemption t) s = .next s) ∧
    (((scoreboard s.dev.launches).find? fun w => s.victim w t && s.lacksTile w (dieOf t)) = some w →
      (s.stopSet t = [t] → s.freeSlots.head? = some slot →
        exec (.preemption t) s = .next ((s.closeBatch t).updAt t fun x => { x with preempt := .stopping slot w.id })) ∧
      (s.freeSlots.length < (s.stopSet t).length → exec (.preemption t) s = .next s)) ∧
    (x.preempt = .stopping slot w.id → x.task = some k →
      (∀ d, x.live = true → x.killDue = some d → exec (.contextImageSaved t) s = .next (s.killTask t d)) ∧
      (x.killDue = none → s.partsStopped t = false → exec (.contextImageSaved t) s = .next s) ∧
      (x.killDue = none → s.partsStopped t = true → (∀ u ∈ s.dev.lost, u.place ≠ t.val) → s.poolOk slot (0x360000 + x.asSaved.spillLen) .write = true → ∃ z img, exec (.contextImageSaved t) s = .next z ∧
        img = ((s.takeSend t).tileAt t).asSaved ∧ img.k.regs = x.k.regs ∧ img.k.kt = x.k.kt ∧ img.k.pc = x.k.pc ∧ img.l.regs = x.l.regs ∧ img.s.regs = x.s.regs ∧ img.sm = x.sm ∧
        img.tok = x.tok ∧ img.spm = x.spm ∧ img.regspace = x.regspace ∧ img.evq = x.evq ∧ img.gd = x.gd ∧
        z.dev.saves = s.dev.saves ++ [⟨slot, k.launch, k.index, t, img⟩] ∧ z.dev.hbm = ((s.takeSend t).storeImage slot t img).dev.hbm ∧
        (z.tileAt t).task = none ∧ (z.tileAt t).live = false ∧ (z.tileAt t).carves = x.carves ∧ (z.tileAt t).waves = x.waves ∧ (z.tileAt t).pmap = x.pmap ∧
        (∀ u, u ≠ t → z.tileAt u = s.tileAt u)) ∧
      (x.killDue = none → s.partsStopped t = true → (∃ u ∈ s.dev.lost, u.place = t.val ∧ u.code = 1) → exec (.contextImageSaved t) s = .next (s.updAt t fun x =>
        { x with preempt := .none, kill := some ⟨false, .eccUncorrected, .k, x.k.pc⟩ })) ∧
      (x.killDue = none → s.partsStopped t = true → (∀ u ∈ s.dev.lost, u.place ≠ t.val) → s.poolOk slot (0x360000 + x.asSaved.spillLen) .write = false →
        exec (.contextImageSaved t) s = .next (s.updAt t fun x => { x with preempt := .none, kill := some ⟨false, .accessDenied, .k, x.k.pc⟩ }))) ∧
    (s.savesAt t = [v] → s.launch? v.launch = some w → w.cores = false → s.mayResume v = true →
      (scoreboard s.dev.launches).find? (fun l => !(s.resumesWith l t).isEmpty && !l.stillRuns && (s.resumesWith l t).all s.mayResume) = some w →
      s.dev.saves.filter (fun u => u.launch == w.id && (w.cores || u.tile == t)) = [v] →
      s.dev.lost = [] → s.poolOk v.slot (0x360000 + v.img.spillLen) .read = true → imageOk s.dev.hbm (s.slotBase v.slot) = true → v.tile = t →
      let b := s.slotBase v.slot
      ∃ z, exec (.resume t) s = .next z ∧ z.dev.saves = s.dev.saves.filter (fun u => u.slot != v.slot) ∧ (∀ u, u ≠ t → z.tileAt u = s.tileAt u) ∧
        z.dev.hbm = s.dev.hbm ∧
        (let y := z.tileAt t
         y.task = v.img.task ∧ y.live = true ∧ y.preempt = .none ∧ y.pmap = x.pmap ∧ y.carves = x.carves ∧
         (let w := s.dev.hbm.readN (b + 0x344440) 8
          y.evq = (List.range (min (nbits w 8 7) 64)).map fun i => BitVec.ofNat 128 (s.dev.hbm.readN (b + 0x345500 + 16 * ((nbits w 0 6 + i) % 64)) 16)) ∧
         (∀ q, q < 12 → (let w := s.dev.hbm.readN (b + 0x345C00 + 8 * q) 8
          (rd y.tok q).resv = nbits w 16 5 ∧ (rd y.tok q).items.map (fun k => k.pay) = (List.range (min (nbits w 8 5) 16)).map fun i =>
            BitVec.ofNat 32 (s.dev.hbm.readN (b + 0x345900 + 64 * q + 4 * ((nbits w 0 4 + i) % 16)) 4))) ∧
         (∀ e, e < 7 → (rd y.q e).length = min (nbits (s.dev.hbm.readN (b + 0x346900 + 16 * e) 8) 8 5) 16) ∧
         (∀ i, i < 32 → rd y.k.regs i = BitVec.ofNat 64 (s.dev.hbm.readN (b + 0x344500 + 8 * i) 8) ∧
           rd y.l.regs i = BitVec.ofNat 64 (s.dev.hbm.readN (b + 0x344800 + 8 * i) 8) ∧
           rd y.s.regs i = BitVec.ofNat 64 (s.dev.hbm.readN (b + 0x344900 + 8 * i) 8)) ∧
         (∀ i, i < 8 → rd y.k.kt i = BitVec.ofNat 64 (s.dev.hbm.readN (b + 0x344600 + 8 * i) 8)) ∧
         y.k.pc = BitVec.ofNat 64 (s.dev.hbm.readN (b + 0x344418) 8) ∧ y.l.pc = BitVec.ofNat 64 (s.dev.hbm.readN (b + 0x344420) 8) ∧
         y.c.pc = BitVec.ofNat 64 (s.dev.hbm.readN (b + 0x344428) 8) ∧ y.s.pc = BitVec.ofNat 64 (s.dev.hbm.readN (b + 0x344430) 8) ∧
         (∀ i, i < 256 → rd y.sm i = BitVec.ofNat 32 (s.dev.hbm.readN (b + 0x345100 + 4 * i) 4)) ∧
         y.spm = (s.dev.hbm.filter fun c => b ≤ c.1 && c.1 < b + 0x300000).map fun c => (c.1 - b + 0, c.2)))

/-! ### Launches -/

/-- 15 R308, R309, R314 to R316: a bad tail sets ERR. Of the queues that may accept, the first after the one served last takes the command at its head into the scoreboard under its
number, with the tag and priority of the queue, and advances its head; a command that fails its checks ends REFUSED with its reason; a launch captures the seed
and counter base of its queue as they stood before the writes of its cycle, and the counter base advances by what it asks for unless a write of the cycle replaces it.
That command cores which may not read a tail line or a packet take no command is the model's choice (log 64: DESIGN CHOICE). -/
def Obligations.CommandAcceptance : Prop :=
  ∀ (s : State) (q : QueueId),
    let z := rd s.dev.queues q.val
    let l := s.nextCommand q.val
    let b := s.bindTag l.tag
    let tail := s.tailOf z
    let was := fun (o : Option (Nat × Word)) (v : Word) => match o with | some (c, w) => if c = s.dev.now then w else v | none => v
    ((z.en = true ∧ (tail < z.head.toNat ∨ z.head.toNat + z.cap.toNat < tail)) → ∃ t, exec (.tailWrite q) s = .next t ∧
      (rd t.dev.queues q.val).err = true ∧ (∀ i, i ≠ q.val → rd t.dev.queues i = rd s.dev.queues i) ∧ t.dev.hbm = s.dev.hbm) ∧
    ((z.en = false ∨ (z.head.toNat ≤ tail ∧ tail ≤ z.head.toNat + z.cap.toNat)) → exec (.tailWrite q) s = .next s) ∧
    (s.mayAccept q.val = true ↔ z.en = true ∧ z.err = false ∧ z.head.toNat < tail ∧ tail ≤ z.head.toNat + z.cap.toNat ∧ s.physOk z.headAt 256 .read = true ∧ s.open'.length < 256 ∧
      ∀ m ∈ s.open', m.queue = q.val → m.id.toNat % 256 ≠ (z.accepted + 1) % 256) ∧
    (s.nextQueue = some q.val ↔ s.mayAccept q.val = true ∧ ∃ p, p < 64 ∧ (s.dev.served + 1 + p) % 64 = q.val ∧
      ∀ i, i < p → s.mayAccept ((s.dev.served + 1 + i) % 64) = false) ∧
    (s.nextQueue ≠ some q.val → exec (.commandAccept q) s = .next s) ∧
    (l.id = BitVec.ofNat 64 (q.val * 2 ^ 56 + (z.accepted + 1)) ∧ l.tag = z.ctx ∧ l.prio = z.prio.toNat ∧ l.packet = leBytes 256 (s.physRead
      (z.base + BitVec.ofNat 64 (256 * (z.head.toNat % z.cap.toNat))) 256) ∧
      (s.physOk z.tailA 8 .read = true → tail = s.physRead z.tailA 8) ∧ (s.physOk z.tailA 8 .read = false → tail = z.head.toNat)) ∧
    (s.nextQueue = some q.val → (∀ m ∈ s.dev.launches, m.id ≠ l.id) → ∃ t m, exec (.commandAccept q) s = .next t ∧
      t.launch? l.id = some m ∧ m.packet = l.packet ∧ m.tag = z.ctx ∧ m.prio = z.prio.toNat ∧ m.queue = q.val ∧ t.dev.launches.length = s.dev.launches.length + 1 ∧ t.dev.served = q.val ∧
      (rd t.dev.queues q.val).head = z.head + 1 ∧ (rd t.dev.queues q.val).accepted = z.accepted + 1 ∧ (rd t.dev.queues q.val).base = z.base ∧
      (l.transfer = true → b.checkTransfer l = 0 → m.state = .accepted) ∧
      (l.transfer = true → b.checkTransfer l ≠ 0 → m.state = .refused ∧ m.reason = b.checkTransfer l) ∧
      (l.transfer = false → ∀ c, b.checkLaunch l = (0, some c) → m.state = .accepted ∧
        (l.mode ≠ 2 → m.seed = was z.seedWas z.seed ∧ m.cbase = was z.baseWas z.ctrBase ∧
          ((∀ w, z.baseWas = some w → w.1 ≠ s.dev.now) →
            (rd t.dev.queues q.val).ctrBase = z.ctrBase + BitVec.ofNat 64 (leNat ((l.packet.drop 40).take 8))) ∧
          ((∃ w, z.baseWas = some (s.dev.now, w)) → (rd t.dev.queues q.val).ctrBase = z.ctrBase))) ∧
      (l.transfer = false → ∀ r c, r ≠ 0 → b.checkLaunch l = (r, c) → m.state = .refused ∧ m.reason = r))

/-- 15 R310, R312, R316: a command leaves ACCEPTED when its predecessors are final, a launch also when it is the first of the scoreboard that fits: it then has its
carve-outs, groups, lists and entries without a task mask. In STAGING its inputs move sector by sector; with all of them made a transfer is DONE and a launch READY. -/
def Obligations.StagingAndTransfers : Prop :=
  ∀ (s s1 : State) (l : Launch) (d : CopyDesc) (i : Nat),
    s.launch? l.id = some l →
    (l.transfer = true →
      (l.state = .accepted → s.predsDone l = false → exec (.transferCommand l.id) s = .next s) ∧
      (l.state = .accepted → s.predsDone l = true → ∃ z, exec (.transferCommand l.id) s = .next z ∧ z.launch? l.id = some { l with state := .staging }) ∧
      (l.state = .staging → nextInput l.copies l.copied = some (d, i) → (s.bindTag l.tag).inputSector l d i = some (s1, true) → s1.dev.launches = s.dev.launches →
        ∃ z, exec (.transferCommand l.id) s = .next z ∧ z.launch? l.id = some { l with copied := l.copied + 1 } ∧ z.dev.hbm = s1.dev.hbm ∧
          z.dev.host = s1.dev.host) ∧
      (l.state = .staging → nextInput l.copies l.copied = some (d, i) → (s.bindTag l.tag).inputSector l d i = none → exec (.transferCommand l.id) s = .next (s.bindTag l.tag)) ∧
      (l.state = .staging → nextInput l.copies l.copied = none → ∃ z m, exec (.transferCommand l.id) s = .next z ∧ z.launch? l.id = some m ∧
        m.state = .done ∧ m.reason = 0)) ∧
    (l.transfer = false →
      (l.state = .accepted → (scoreboard s.dev.launches).find? s.stageable = some l → ∃ z m, exec (.launchStaging l.id) s = .next z ∧
        z.launch? l.id = some m ∧ m.state = .staging ∧ (∀ g, m.groups[(g : DieId)] = ((s.dev.images[l.image]?).getD default).groups) ∧
        ∀ c ∈ l.carves, ∃ y ∈ (z.tileAt c.1).carves, y.launch = l.id ∧ y.size = c.2 ∧ y.mem = []) ∧
      (l.state = .accepted → (∀ m, (scoreboard s.dev.launches).find? s.stageable = some m → m.id ≠ l.id) → exec (.launchStaging l.id) s = .next s) ∧
      (l.state = .staging → nextInput l.copies l.copied = some (d, i) → (s.bindTag l.tag).inputSector l d i = some (s1, true) → s1.dev.launches = s.dev.launches →
        ∃ z, exec (.launchStaging l.id) s = .next z ∧ z.launch? l.id = some { l with copied := l.copied + 1 }) ∧
      (l.state = .staging → nextInput l.copies l.copied ≠ none → exec (.launchReady l.id) s = .next s) ∧
      (l.state = .staging → nextInput l.copies l.copied = none → ∃ z m, exec (.launchReady l.id) s = .next z ∧ z.launch? l.id = some m ∧
        m.state = .ready ∧ m.since = s.dev.now ∧ ∀ d, m.next[(d : DieId)] = blockStart (s.blocksOf l) d.val))

/-- 15 R316 to R319, R324, R325: a free tile, the lowest, takes the next task of the launch that may have it, or is reserved for a co-resident one; the third ready signal of a co-resident
launch maps its tasks. When its last task has retired a launch seals, and with no wave of it left it is DONE with the digest of its outputs. -/
def Obligations.PlacingAndSealing : Prop :=
  ∀ (s : State) (t : TileId) (l : Launch) (die : DieId),
    let x := s.tileAt t
    (∀ i, s.takerOf t = some l → s.launch? l.id = some l → x.task = none → s.lowestFree l t = true → l.cores = false → s.nextTask l t = some i → l.state = .running →
      ∃ z m, exec (.taskPlacement t) s = .next z ∧ (z.tileAt t).task = some (s.taskOf l i) ∧ (z.tileAt t).live = false ∧ (∀ u, u ≠ t → z.tileAt u = s.tileAt u) ∧
        z.launch? l.id = some m ∧ (i, TaskAt.running t) ∈ m.at_ ∧ (l.mode ≠ 2 → m.next[dieOf t] = l.next[dieOf t] + 1) ∧ m.since = s.dev.now ∧ z.dev.hbm = s.dev.hbm) ∧
    (s.takerOf t = none ∨ x.task.isSome = true → exec (.taskPlacement t) s = .next s) ∧
    (s.takerOf t = some l → x.task = none → s.lowestFree l t = true → l.cores = true →
      exec (.taskPlacement t) s = .next (s.updDev fun d => { d with launches := d.launches.map fun m =>
        if m.id = l.id then { m with reserved := t :: m.reserved } else m })) ∧
    (s.launch? l.id = some l → l.transfer = false → l.cores = true → l.state = .ready → l.mapped = false → l.ready.contains die = false → s.lacking l die = 0 →
      let marked := s.updLaunch l.id fun m => { m with ready := die :: m.ready }
      (l.ready.length < 2 → exec (.readySignal l.id die) s = .next marked) ∧
      (2 ≤ l.ready.length → exec (.readySignal l.id die) s = .next (marked.mapTasks l)) ∧
      (∀ s2, 2 ≤ l.ready.length → marked.writeMap l (marked.placements l) = (s2, true) → ((marked.placements l).map fun p => p.2).Nodup →
        ∃ z, exec (.readySignal l.id die) s = .next z ∧ ∀ p ∈ marked.placements l, (z.tileAt p.2).task = some (s.taskOf l p.1) ∧ (z.tileAt p.2).live = false)) ∧
    (s.launch? l.id = some l → l.transfer = false →
      (l.state = .running → l.retired = l.tasks → l.mode ≠ 1 → ∃ z, exec (.launchSealing l.id) s = .next z ∧ z.launch? l.id = some { l with state := .sealing }) ∧
      (l.state = .running → l.retired ≠ l.tasks → exec (.launchSealing l.id) s = .next s) ∧
      (l.state = .sealing → s.hasWaves l.id = true → exec (.launchSealing l.id) s = .next s) ∧
      (∀ v, l.state = .sealing → s.hasWaves l.id = false → (s.bindTag l.tag).digestOf l = .ok v → ∃ z m, exec (.launchSealing l.id) s = .next z ∧ z.launch? l.id = some m ∧
        m.state = .done ∧ m.reason = 0 ∧ m.digest = v ∧ m.tdone = s.clkrd ∧
        (∀ u, ((z.tileAt u).carves.all fun c => c.launch != l.id) = true) ∧
        ∀ d, (((z.dev.dies[(d : DieId)]).warren.all fun e => e.launch != l.id) = true)))

/-! ### The control window -/

/-- 15 R307, R308, R315, 00 R6, 01 R14: QCTL with EN = 1 enables a queue: it clears ERR, loads its head from the tail line and takes its priority, a tail that does not fit the head
setting ERR; at the first enabling of a session the record ring reads zero (that it is zeroed then is the model's choice, log 98). With EN = 0 it stops acceptance; a one in a
reserved bit sets ERR and the write has no other effect. Lines that tag 0x000 may not access are neither read nor written (log 64: DESIGN CHOICE). SEED and CTRBASE take the value written, and what an acceptance of the same cycle reads is kept. Priority
reaches the queue's commands in the scoreboard. In no state but READY does a register answer.
16 R330, 17 R344, 18 R369, 19 R378, R389, 15 R307, 00 R6: a write of a one to a reserved bit of SXCFG, FLGAP or HTAG has no effect (log 70), and one to QCTX sets the queue's ERR alone, while EN is 1
too (log 114: DEDUCED). The other registers of a queue that is enabled, TSLICE, SEED and CTRBASE apart, and SXBASE while the index is on, ignore a write. SXCFG sets the index size only while the index is off, and turning it on frees every slot; FLGAP takes at least 320. A register of the
control window reads back what was written to it, one with a step of its own acts as that step, and an offset without one changes nothing. -/
def Obligations.ControlWindowRegisters : Prop :=
  (∀ (s : State) (q : QueueId) (v : Word),
    let z := rd s.dev.queues q.val
    let p : BitVec 2 := v.extractLsb' 2 2
    let launches := fun (d : Device) => d.launches.map fun l => if l.queue = q.val then { l with prio := p.toNat } else l
    let put := fun (z : CmdQueue) => (.next (s.updDev fun d => { d with queues := wr d.queues q.val z, launches := launches d }) : Host.Outcome State Fault Refusal)
    let was := fun (o : Option (Nat × Word)) (v : Word) => match o with | some (c, w) => if c = s.dev.now then w else v | none => v
    let head := fun (y : State) => if y.physOk (z.tailA + 8) 8 .read = true then BitVec.ofNat 64 (y.physRead (z.tailA + 8) 8) else z.head
    let misfit := fun (y : State) (h : Word) => let tail := if y.physOk z.tailA 8 .read = true then y.physRead z.tailA 8 else z.head.toNat
      decide (tail < h.toNat) || decide (h.toNat + z.cap.toNat < tail)
    let bad : Host.Outcome State Fault Refusal := .next (s.updDev fun d => { d with queues := wr d.queues q.val { z with err := true } })
    (s.isReady = false → ∀ i ∈ [Instr.seedWrite q v, .ctrbaseWrite q v], exec i s = .next s) ∧
    (s.isReady = true →
      (bit v 0 = true → exec (.queueDisable q v) s = .next s ∧ (v.toNat / 16 ≠ 0 → exec (.queueEnable q v) s = bad) ∧
        (v.toNat / 16 = 0 → z.en = false → z.ringUsed = true →
          exec (.queueEnable q v) s = put { z with en := true, err := misfit s (head s), prio := p, head := head s }) ∧
        (v.toNat / 16 = 0 → z.en = false → z.ringUsed = false → ∃ y, exec (.queueEnable q v) s = .next y ∧ y.dev.launches = launches s.dev ∧ y.dev.tiles = s.dev.tiles ∧
          rd y.dev.queues q.val = { z with en := true, err := misfit y (head y), prio := p, head := head y, ringUsed := true } ∧
          (∀ i, i ≠ q.val → rd y.dev.queues i = rd s.dev.queues i) ∧
          (let a := bits z.recBase 39 0
           (s.physOk z.recBase 32768 .write = false → y.dev.host = s.dev.host ∧ y.dev.hbm = s.dev.hbm) ∧
           (s.physOk z.recBase 32768 .write = true → bit z.recBase 63 = false → y.dev.host = s.dev.host ∧
             ∀ c, y.dev.hbm.get c = if a ≤ c ∧ c < a + 32768 then 0 else s.dev.hbm.get c))) ∧
        (v.toNat / 16 = 0 → z.en = true → exec (.queueEnable q v) s = put { z with prio := p })) ∧
      (bit v 0 = false → exec (.queueEnable q v) s = .next s ∧ (v.toNat / 16 ≠ 0 → exec (.queueDisable q v) s = bad) ∧
        (v.toNat / 16 = 0 → exec (.queueDisable q v) s = put { z with en := false, prio := p })) ∧
      exec (.seedWrite q v) s = .next (s.updDev fun d => { d with queues := wr d.queues q.val { z with seed := v, seedWas := some (s.dev.now, was z.seedWas z.seed) } }) ∧
      exec (.ctrbaseWrite q v) s = .next (s.updDev fun d => { d with queues := wr d.queues q.val { z with ctrBase := v, baseWas := some (s.dev.now, was z.baseWas z.ctrBase) } }))) ∧
  (∀ (s : State) (v : Word),
    (s.isReady = false → ∀ off, exec (.registerWrite off v) s = .next s) ∧
    (s.isReady = true →
      (2 ^ 9 ≤ v.toNat → exec (.settIndexEnable v) s = .next s) ∧
      (v.toNat < 2 ^ 9 → s.dev.sxen = true → exec (.settIndexEnable v) s = .next (s.updDev fun d => { d with sxen := bit v 8 })) ∧
      (v.toNat < 2 ^ 9 → s.dev.sxen = false → bit v 8 = false → bits v 4 0 ≤ 20 → exec (.settIndexEnable v) s = .next (s.updDev fun d => { d with sxk := v.setWidth 5, sxen := false })) ∧
      (v.toNat < 2 ^ 9 → s.dev.sxen = false → bit v 8 = true → bits v 4 0 ≤ 20 → ∃ z, exec (.settIndexEnable v) s = .next z ∧ z.dev.sxen = true ∧ z.dev.sxk = v.setWidth 5 ∧
        z.dev.sxlive = 0 ∧ z.dev.walks = [] ∧
        ∀ a, z.dev.hbm.get a = if s.dev.sxbase.toNat ≤ a ∧ a < s.dev.sxbase.toNat + 4096 * z.buckets then 0 else s.dev.hbm.get a) ∧
      (2 ^ 16 ≤ v.toNat → exec (.flgapWrite v) s = .next s) ∧
      (v.toNat < 2 ^ 16 → exec (.flgapWrite v) s = .next (s.updDev fun d => { d with flgap := if v.toNat < 320 then 320 else v.setWidth 16 })) ∧
      exec (.registerWrite 0x25000 v) s = exec (.flgapWrite v) s ∧ exec (.registerWrite 0x20018 v) s = exec (.shootDown v) s ∧
      exec (.registerWrite 0x20020 v) s = exec (.atsync v) s ∧ exec (.registerWrite 0x23008 v) s = exec (.settIndexEnable v) s ∧
      (∀ off ∈ [(0x20000 : BitVec 32), 0x20008, 0x20010, 0x24000], ∃ z, exec (.registerWrite off v) s = .next z ∧ z.readReg off.toNat = v ∧
        (∀ r, r ≠ off.toNat → z.readReg r = s.readReg r) ∧ z.dev.tiles = s.dev.tiles ∧ z.dev.hbm = s.dev.hbm) ∧
      (∀ q, q < 64 → (rd s.dev.queues q).en = false → ∀ o ∈ [0x10, 0x18, 0x20, 0x28, 0x38, 0x40], ∃ z,
        exec (.registerWrite (BitVec.ofNat 32 (0x10000 + 256 * q + o)) v) s = .next z ∧ z.readReg (0x10000 + 256 * q + o) = v ∧
        ∀ r, r ≠ 0x10000 + 256 * q + o → z.readReg r = s.readReg r) ∧
      (∀ q, q < 64 → v.toNat < 2 ^ 32 → ∃ z, exec (.registerWrite (BitVec.ofNat 32 (0x10000 + 256 * q + 0x30)) v) s = .next z ∧
        z.readReg (0x10000 + 256 * q + 0x30) = v ∧ ∀ r, r ≠ 0x10000 + 256 * q + 0x30 → z.readReg r = s.readReg r) ∧
      (∀ q, q < 64 → (rd s.dev.queues q).en = false → v.toNat < 2 ^ 12 → ∃ z, exec (.registerWrite (BitVec.ofNat 32 (0x10000 + 256 * q + 8)) v) s = .next z ∧
        z.readReg (0x10000 + 256 * q + 8) = v ∧ ∀ r, r ≠ 0x10000 + 256 * q + 8 → z.readReg r = s.readReg r) ∧
      (∀ q, q < 64 → 2 ^ 12 ≤ v.toNat → exec (.registerWrite (BitVec.ofNat 32 (0x10000 + 256 * q + 8)) v) s =
        .next (s.updDev fun d => { d with queues := wr d.queues q { rd d.queues q with err := true } })) ∧
      (∀ q, q < 64 → (rd s.dev.queues q).en = true → ∀ o ∈ [0x08, 0x10, 0x18, 0x20, 0x28], (o = 0x08 → v.toNat < 2 ^ 12) →
        exec (.registerWrite (BitVec.ofNat 32 (0x10000 + 256 * q + o)) v) s = .next s) ∧
      (s.dev.sxen = true → exec (.registerWrite 0x23000 v) s = .next s) ∧
      (2 ^ 12 ≤ v.toNat → ∀ off ∈ [(0x25200 : BitVec 32), 0x25208], exec (.registerWrite off v) s = .next s) ∧
      (∀ off : BitVec 32, (off = 0x23000 ∧ s.dev.sxen = false) ∨ (off = 0x24008 ∧ v.toNat ≤ 4096) ∨ ((off = 0x25200 ∨ off = 0x25208) ∧ v.toNat < 2 ^ 12) →
        ∃ z, exec (.registerWrite off v) s = .next z ∧ z.readReg off.toNat = v ∧ (∀ r, r ≠ off.toNat → z.readReg r = s.readReg r) ∧
          z.dev.tiles = s.dev.tiles ∧ z.dev.hbm = s.dev.hbm) ∧
      (∀ off : BitVec 32, off.toNat % 8 ≠ 0 ∨ off.toNat < 0x10000 ∨ off.toNat = 0x25008 ∨ off.toNat = 0x26000 → exec (.registerWrite off v) s = .next s)))

/-- 16 R329 to R331, R337, R338, R340, R341, 19 R389, 00 R6: a write of a one to a reserved bit of SDCTL, an access-table entry or FARANGE has no effect. SDCTL's GO starts a shoot-down of a range of a tag; it is over when the translation caches hold nothing of it and no access translated through it is left. An
access-table entry takes effect whole, or from its two halves. ATSYNC waits for the accesses that have passed a check. A tile's partition and a far-atomic range take
the value written, the range's lines leaving the hub slices and the host's copies. -/
def Obligations.ProtectionRegisters : Prop :=
  ∀ (s : State) (t : TileId) (v : Word) (w : BitVec 128) (g : BitVec 9) (e : BitVec 10) (i : BitVec 6),
    s.isReady = true →
    (2 ^ 15 ≤ v.toNat → exec (.shootDown v) s = .next s) ∧
    (let kept := s.updDev fun d => { d with sdctl := v.setWidth 13 }
     v.toNat < 2 ^ 15 → (bit v 13 = true → s.dev.shoot = none → exec (.shootDown v) s =
       .next (kept.updDev fun d => { d with shoot := some ⟨v.setWidth 12, bit v 12, d.sdva.toNat, d.sdlen.toNat⟩ })) ∧
     (bit v 13 = false ∨ s.dev.shoot.isSome = true → exec (.shootDown v) s = .next kept)) ∧
    (s.dev.shoot = none → exec .shootDownComplete s = .next s) ∧
    (∀ d, s.dev.shoot = some d → ∃ z, exec .shootDownComplete s = .next z ∧ (z.dev.shoot = none ↔ s.shootBusy d = false) ∧
      (∀ u, ∀ x ∈ (z.tileAt u).tlb, x ∈ (s.tileAt u).tlb ∧ d.drops x = false) ∧ (∀ u, ∀ x ∈ (s.tileAt u).tlb, d.drops x = false → x ∈ (z.tileAt u).tlb) ∧
      (s.shootBusy d = false → d.all = false → z.dev.bound = s.dev.bound)) ∧
    (478 ≤ g.toNat → ∀ part, exec (.accessTableWrite g e part w) s = .next s) ∧
    (w &&& 0x0FFFFFFFFF000000 ≠ 0 → ∀ part ∈ [EntryPart.full, .low], exec (.accessTableWrite g e part w) s = .next s) ∧
    (w &&& 0x0FFFFFFFFF000000 = 0 → g.toNat < 478 → ∃ z y, exec (.accessTableWrite g e .full w) s = .next z ∧ z.acctEntry g.toNat e.toNat = w ∧
       exec (.accessTableWrite g e .low w) s = .next y ∧ (∀ a b, y.acctEntry a b = s.acctEntry a b) ∧
       (∀ a b, (a, b) ≠ (g.toNat, e.toNat) → z.acctEntry a b = s.acctEntry a b) ∧
       ∀ hi : BitVec 128, ∃ z2, exec (.accessTableWrite g e .high hi) y = .next z2 ∧ z2.acctEntry g.toNat e.toNat = hi.setWidth 64 ++ w.setWidth 64) ∧
    (bit v 0 = false → exec (.atsync v) s = .next s) ∧
    (bit v 0 = true → exec (.atsync v) s = .next (s.updDev fun d => { d with syncIds := s.checkedOpen })) ∧
    (s.partitionHeld t = true → exec (.partitionMapWrite t v) s = .next s) ∧
    (s.partitionHeld t = false → exec (.partitionMapWrite t v) s = .next (s.updAt t fun x => { x with pmap := v.setWidth 5 })) ∧
    (w &&& 0x80000000FFFFFFFF00000000FFFFFFFF ≠ w → exec (.farangeWrite i w) s = .next s) ∧
    (w &&& 0x80000000FFFFFFFF00000000FFFFFFFF = w → ∃ z, exec (.farangeWrite i w) s = .next z ∧ rd z.dev.farange i.toNat = w ∧
      (∀ j, j ≠ i.toNat → rd z.dev.farange j = rd s.dev.farange j) ∧
      (∀ l, l ∈ z.dev.hub ↔ l ∈ s.dev.hub ∧ inFarange [rd s.dev.farange i.toNat] (l / 512) = false ∧ inFarange [w] (l / 512) = false) ∧
      (∀ c, c ∈ z.dev.hostCopies ↔ c ∈ s.dev.hostCopies ∧ inFarange [rd s.dev.farange i.toNat] (c.1 / 512) = false ∧ inFarange [w] (c.1 / 512) = false) ∧
      z.dev.hbm = s.dev.hbm ∧ z.dev.tiles = s.dev.tiles)

/-! ### Links, the host, scrubbing and the management plane -/

/-- 19 R377, R381, R382, R389, 23 R416 to R418: a flowlet key idle for longer than FLGAP may move to a path that has not failed. A flit that fails its CRC is replayed and logged, and the
sixteenth failure within 2^20 cycles makes the port train again; a port that trains for 1 ms is marked down; one that has trained is up, but for the fabric ports of the higher of two sites with one number. The host reads and writes the bytes
that the access tables let it, and no others; it is granted copies of lines outside far-atomic blocks, stores only into a copy it holds alone, and loses its copy to a write
of the device. A request of another device is checked at its ingress port and at the hub slice or base die: refused it has no effect, permitted
it performs and is answered (16 R339, 19 R383; how such a request enters: log 87). That what the host stores into its own copy stands in HBM at once is the model's
choice (log 97), as is that a port whose HTAG holds 0xFFF gets no access (log 124).
23 R407 to R409, R412, R419 to R421: scrubbing corrects a single error and logs it with class 1; a double error loses its unit and is logged with class 3; no task learns of
either. A lost sector of a dirty hub line is lost in HBM. A Warren entry that has lost data is loaded again from its image, or its launch ends with reason 9. A fuse update is kept for the next cold reset.
A single error that an access meets is corrected and logged; uncorrectable data in the scratchpad or the register space is lost, and in other tile state is a tile-state error
(23 R407 to R411; how an error comes about: log 87). A lost sector of the register space that is clear holds nothing to lose. -/
def Obligations.LinksHostAndRepair : Prop :=
  (∀ (s : State) (k : FlowletKey) (path : Nat) (p : LinkId) (port : Fin 2) (a n : Nat) (bytes : List Byte),
    (∃ z, exec (.flowletPathChange k path) s = .next z ∧ z = (s.updDev fun d => { d with paths := z.dev.paths }) ∧
      (∀ f ∈ z.dev.paths, f ∈ s.dev.paths ∨ f.path = path ∧ f.key = k) ∧
      ((∀ f ∈ s.dev.paths, f.key = k → f.path ∉ s.dev.failed ∧ f.last + (s.dev.flgap.toNat + 9) / 10 < s.dev.clk) → path ∉ s.dev.failed →
        ∀ f ∈ z.dev.paths, f.key = k → f.path = path) ∧
      ((∀ f ∈ s.dev.paths, s.dev.clk ≤ f.last + (s.dev.flgap.toNat + 9) / 10) → z = s)) ∧
    (path ∉ s.dev.failed → ∃ z, exec (.pathFailure path) s = .next z ∧ z.dev.failed = path :: s.dev.failed ∧ z.dev.paths = s.dev.paths) ∧
    (path ∈ s.dev.failed → exec (.pathFailure path) s = .next s ∧ exec (.pathDrained path) s = .next (s.updDev fun d => { d with
      paths := d.paths.map fun f => if f.path = path then { f with path := s.newPath } else f })) ∧
    ((s.link p).up = true → ∃ z, exec (.linkReplay p) s = .next z ∧ z.dev.net = s.dev.net ∧ z.dev.tiles = s.dev.tiles ∧
      (let crc := s.dev.now :: (s.link p).crc.filter fun c => s.dev.now < c + 2 ^ 20
       (crc.length < 16 → z.link p = { s.link p with crc := crc }) ∧ (16 ≤ crc.length → z.link p = ⟨false, some s.dev.clk, []⟩))) ∧
    ((s.link p).up = false → exec (.linkReplay p) s = .next s) ∧
    (∀ c, (s.link p).training = some c →
      (s.dev.clk < c + 100000 → exec (.portDown p) s = .next s ∧ (p = .hentia port → exec (.hentiaLinkDown port) s = .next s)) ∧
      (c + 100000 ≤ s.dev.clk → ∃ z, exec (.portDown p) s = .next z ∧ (p = .hentia port → exec (.hentiaLinkDown port) s = .next z) ∧
        z.link p = ⟨false, none, []⟩ ∧ z.dev.tiles = s.dev.tiles ∧ z.dev.net = s.dev.net)) ∧
    ((∃ i, p = .fabric i) → (∃ r ∈ s.dev.remote, r.present = true ∧ r.num = s.devNum) → Config.lowerSite = false → exec (.linkTrained p) s = .next s) ∧
    ((s.link p).up = false → s.isReady = true → ((∃ i, p = .hentia i) ∨ (∀ r ∈ s.dev.remote, r.present = true → r.num ≠ s.devNum) ∨ Config.lowerSite = true) →
      ∃ z, exec (.linkTrained p) s = .next z ∧ z.link p = ⟨true, none, []⟩ ∧ z.dev.tiles = s.dev.tiles) ∧
    (s.isReady = true → (s.dev.hentia[port]).up = true →
      ((∀ r ∈ lineRuns (n + 1) a n, s.hostOk port (a + r.1) r.2 .read = true) → s.dev.lost = [] →
        exec (.hostAccess port (.read a n)) s = .next (s.updDev fun d => { d with hostReads := d.hostReads ++ [s.dev.hbm.bytes a n] })) ∧
      ((∃ r ∈ lineRuns (n + 1) a n, s.hostOk port (a + r.1) r.2 .read = false) →
        exec (.hostAccess port (.read a n)) s = .next (s.updDev fun d => { d with hostReads := d.hostReads ++ [[]] })) ∧
      (bytes ≠ [] → (∀ r ∈ lineRuns (bytes.length + 1) a bytes.length, s.hostOk port (a + r.1) r.2 .write = true) → s.dev.lost = [] →
        ∃ z, exec (.hostAccess port (.write a bytes)) s = .next z ∧
          (∀ c, z.dev.hbm.get c = if a ≤ c ∧ c < a + bytes.length then bytes.getD (c - a) 0 else s.dev.hbm.get c) ∧ z.dev.tiles = s.dev.tiles) ∧
      ((∀ r ∈ lineRuns (bytes.length + 1) a bytes.length, s.hostOk port (a + r.1) r.2 .write = false) →
        exec (.hostAccess port (.write a bytes)) s = .next s) ∧
      (∀ line excl,
        let held := (line, excl) :: s.dev.hostCopies.filter fun c => c.1 != line
        let grants := s.farLine line = false ∧ s.hostOk port (128 * line) 128 .read = true ∧ (excl = true → s.hostOk port (128 * line) 128 .write = true)
        (grants → s.dev.lost = [] → exec (.hostAccess port (.fetch line excl)) s = .next (s.updDev fun d => { d with
          hostReads := d.hostReads ++ [s.dev.hbm.bytes (128 * line) 128], hostCopies := held })) ∧
        (¬ grants → exec (.hostAccess port (.fetch line excl)) s = .next (s.updDev fun d => { d with hostReads := d.hostReads ++ [[]] })) ∧
        exec (.hostAccess port (.evict line)) s = .next (s.updDev fun d => { d with hostCopies := d.hostCopies.filter fun c => c.1 != line })) ∧
      (s.dev.hostCopies.contains (a / 128, true) = false → exec (.hostAccess port (.store a bytes)) s = .next s) ∧
      (bytes ≠ [] → a % 128 + bytes.length ≤ 128 → s.dev.hostCopies.contains (a / 128, true) = true → ∃ z, exec (.hostAccess port (.store a bytes)) s = .next z ∧
        z.dev.hostCopies = s.dev.hostCopies ∧ z.dev.tiles = s.dev.tiles ∧
        ∀ c, z.dev.hbm.get c = if a ≤ c ∧ c < a + bytes.length then bytes.getD (c - a) 0 else s.dev.hbm.get c)) ∧
    (∀ v, 0 < n → ∀ c, c ∈ (s.writeHbm a n v).dev.hostCopies ↔ c ∈ s.dev.hostCopies ∧ (c.1 < a / 128 ∨ (a + n - 1) / 128 < c.1)) ∧
    ((s.dev.hentia[port]).up = false → ∀ r, exec (.hostAccess port r) s = .next s) ∧
    (∀ x : FarAccess, ∃ z, s.takeTurn (.outside (.request x)) = .next z ∧ z.dev.tiles = s.dev.tiles ∧ (s.farOk x = false → z.dev.hbm = s.dev.hbm) ∧
      ((s.dev.ports[x.port]).up = false → z = s) ∧
      (s.isReady = true → (s.dev.ports[x.port]).up = true → x.dev ≠ s.devNum → farReqOk x.req = true →
        (s.farOk x = false → z.dev.farReplies = s.dev.farReplies ++ [.refused x.dev x.tile .accessDenied]) ∧
        (s.farOk x = true → s.dev.lost = [] →
          (∀ b m, x.req = .read b m → z.dev.hbm = s.dev.hbm ∧ z.dev.farReplies = s.dev.farReplies ++ [.data x.dev x.tile (s.dev.hbm.bytes b m)]) ∧
          (∀ b ys, x.req = .write b ys → z.dev.farReplies = s.dev.farReplies ++ [.data x.dev x.tile []] ∧
            ∀ c, z.dev.hbm.get c = if b ≤ c ∧ c < b + ys.length then ys.getD (c - b) 0 else s.dev.hbm.get c) ∧
          (∀ b op v e, x.req = .atomic b op v e → let w := atomWidth op
            z.dev.hbm.readN b w = atomNew op (s.dev.hbm.readN b w) v.toNat e.toNat ∧ (∀ c, c < b ∨ b + w ≤ c → z.dev.hbm.get c = s.dev.hbm.get c) ∧
            z.dev.farReplies = s.dev.farReplies ++ [.data x.dev x.tile (s.dev.hbm.bytes b w)]))))) ∧
  (∀ (s : State) (u : StoredUnit) (die : DieId) (n : Nat) (rows : List Nat),
    let entry := fun (c : Nat) => mkLog (BitVec.ofNat 64 (if u.code = 5 then u.off / 128 * 128 else u.off / 8 * 8)) 0 s.clkrd 0 0 (s.unitTile u).val u.code.toNat c
    let log := fun (z : State) => (z.dev.dies[dieOf (s.unitTile u)]).log
    exec (.patrolScrub u .none) s = .next s ∧
    (u.code.toNat = 4 ∨ u.code.toNat = 5 ∨ u.code.toNat = 6 →
      (∃ z, exec (.patrolScrub u .single) s = .next z ∧ log z = logWrite (log s) (entry 1) ∧ z.dev.lost = s.dev.lost ∧ z.dev.hbm = s.dev.hbm ∧
        z.dev.tiles = s.dev.tiles) ∧
      ∃ z, exec (.patrolScrub u .double) s = .next z ∧ log z = logWrite (log s) (entry 3) ∧ (∀ x ∈ s.dev.lost, x ∈ z.dev.lost) ∧ z.dev.hbm = s.dev.hbm ∧
        z.dev.tiles = s.dev.tiles ∧ (u.code.toNat = 6 → (⟨6, 0, u.off / 8 * 8⟩ : StoredUnit) ∈ z.dev.lost) ∧
        (u.code.toNat = 4 → u.off < 2 ^ 40 → u.off / 128 ∈ s.dev.hub → (⟨6, 1, u.off / 32 * 32⟩ : StoredUnit) ∈ z.dev.lost) ∧
        (u.code.toNat = 5 → u.off / 128 ∉ z.dev.hub ∧ (u.off / 128 ∈ s.dev.hub → ∀ i, i < 4 → (⟨6, 1, u.off / 128 * 128 + 32 * i⟩ : StoredUnit) ∈ z.dev.lost)) ∧
        (u.code.toNat = 6 → ∀ x ∈ z.dev.lost, x ∈ s.dev.lost ∨ x = ⟨6, 0, u.off / 8 * 8⟩)) ∧
    (¬ (u.code.toNat = 4 ∨ u.code.toNat = 5 ∨ u.code.toNat = 6) → ∀ e, exec (.patrolScrub u e) s = .next s) ∧
    (∀ e l, (s.dev.dies[die]).warren[n]? = some e → s.launch? e.launch = some l →
      (s.warrenLost die.val n = false → exec (.warrenReload die n) s = .next s) ∧
      (∀ i, s.warrenLost die.val n = true → s.dev.images[l.image]? = some i → i.readable = true → ∃ z, exec (.warrenReload die n) s = .next z ∧
        z.warrenLost die.val n = false ∧ z.dev.tiles = s.dev.tiles ∧ z.dev.dies = s.dev.dies ∧ z.dev.launches = s.dev.launches) ∧
      (∀ i, s.warrenLost die.val n = true → s.dev.images[l.image]? = some i → i.readable = false → ∃ z m, exec (.warrenReload die n) s = .next z ∧
        z.launch? e.launch = some m ∧ m.state = .aborted ∧ m.reason = 9)) ∧
    (∃ z, exec (.fuseUpdate die rows) s = .next z ∧ (z.dev.dies[die]).nextRows = rows ∧ (z.dev.dies[die]).rows = (s.dev.dies[die]).rows ∧
      z.dev.tiles = s.dev.tiles) ∧
    (s.isReady = true →
      (∀ t : TileId, u.place = t.val → u.code = 2 → (s.tileAt t).valid u.off = false → s.takeTurn (.outside (.softError u .double)) = .next s) ∧
      (∀ t : TileId, u.place = t.val → u.code = 1 ∨ u.code = 2 ∧ (s.tileAt t).valid u.off = true → ∃ z, s.takeTurn (.outside (.softError u .double)) = .next z ∧
        z.isLost u.code t.val u.off 1 = true ∧ z.dev.tiles = s.dev.tiles ∧ z.dev.hbm = s.dev.hbm) ∧
      (∀ t : TileId, u.place = t.val → u.code = 3 → (s.tileAt t).task ≠ none → (s.tileAt t).live = true →
        ∃ z, s.takeTurn (.outside (.softError u .double)) = .next z ∧
          z.tileAt t = { s.tileAt t with kill := some ⟨false, .eccUncorrected, .k, (s.tileAt t).k.pc⟩ } ∧ ∀ o, o ≠ t → z.tileAt o = s.tileAt o) ∧
      (∀ p, u.code = 7 → s.packet u.place = some p → ∃ z, s.takeTurn (.outside (.softError u .single)) = .next z ∧
        log z = logWrite (log s) (mkLog p.hdr p.launch s.clkrd 0 p.ctx (s.unitTile u).val 7 1)) ∧
      (1 ≤ u.code.toNat → u.code.toNat ≤ 10 → u.code ≠ 7 → ∃ z, s.takeTurn (.outside (.softError u .single)) = .next z ∧ log z = logWrite (log s) (entry 1) ∧
        z.dev.lost = s.dev.lost ∧ z.dev.hbm = s.dev.hbm ∧ z.dev.tiles = s.dev.tiles)))

/-- 01 R18, 23 R419, 24 R422 to R425, 19 R377: a reset ends the session: no task runs, no launch, queue, translation or flow is left. Bring-up then goes from state to state, a warm one
without FUSES; a cold one zeroes HBM and loses no unit, a warm one keeps HBM and the logs; it ends in READY, or in FAILED with the reason of the state that failed. While COLD_RST_N
or WARM_RST_N is low the state is 0; a cold reset overrides a warm one (a warm reset during a cold bring-up: log 80); without power every state but the fuses is lost. The
clock moves in steps of 100 MHz within the thermal, fused and power limits; at 105 °C it falls to 0.6 GHz, and 115 °C trips.
24 R425 to R428: Badger answers one request with one answer, in every state but reset, and no other state changes but what the request asks for: the power cap from 1,200 W to 2,800 W, to
which f falls, the logs, whose entries of the same cycle stay, the inactive firmware image. The measurement blocks and the launch chains are SHA-384 hashes; the folds of a cycle are made in ascending launch ID.
What an answer says, and how it is laid out, that the spec leaves to its standard is the model's own (log 15, 89); SHA-384 itself is its standard's (log 88). -/
def Obligations.ManagementPlane : Prop :=
  (∀ (s : State) (mhz sensor deg : Nat),
    let m := s.dev.mgmt
    let fresh := fun (z : State) => z.dev.tiles = Device.reset.tiles ∧ z.dev.queues = Device.reset.queues ∧ z.dev.launches = [] ∧ z.dev.saves = [] ∧
      z.dev.net = [] ∧ z.dev.bound = [] ∧ z.dev.acct = [] ∧ z.dev.combs = [] ∧ z.dev.walks = [] ∧ z.dev.sxen = false ∧
      ∀ d, (z.dev.dies[(d : DieId)]).warren = [] ∧ (z.dev.dies[(d : DieId)]).lists = [] ∧ (z.dev.dies[(d : DieId)]).stray = []
    let logs := fun (z : State) => ∀ d : DieId, (z.dev.dies[d]).log = (s.dev.dies[d]).log
    let failed := fun (z : State) (r : Nat) => z.dev.mgmt.state = 15 ∧ z.dev.mgmt.reason = r ∧ z.dev.mgmt.ready = false
    let rises := fun (p : State → Prop) => ∃ z, s.takeTurn (.outside .bringUp) = .next z ∧ z.dev.tiles = s.dev.tiles ∧ z.dev.launches = s.dev.launches ∧ p z
    (∃ z, exec .coldReset s = .next z ∧ fresh z ∧ z.dev.mgmt.state = 1 ∧ z.dev.mgmt.cold = true ∧ z.dev.mgmt.ready = false ∧
      (∀ d : DieId, (z.dev.dies[d]).log = []) ∧ z.dev.mgmt.resets = (if m.powered then m.resets + 1 else 0)) ∧
    (m.powered = true → m.coldLow = false → ∃ z, exec .warmReset s = .next z ∧ fresh z ∧ z.dev.hbm = s.dev.hbm ∧ logs z ∧
      z.dev.mgmt.state = (if m.cold = true ∧ m.state ≤ 5 then 1 else 2) ∧ z.dev.mgmt.resets = m.resets + 1 ∧ z.dev.mgmt.mhz = m.mhz ∧ z.dev.mgmt.ready = false) ∧
    (m.powered = false ∨ m.coldLow = true → exec .warmReset s = .next s ∧ s.takeTurn (.outside .warmLow) = .next s) ∧
    (m.powered = true → m.coldLow = false → ∃ z, s.takeTurn (.outside .warmLow) = .next z ∧ fresh z ∧ z.dev.mgmt.state = 0) ∧
    (m.state = 1 →
      ((∃ u ∈ s.dev.lost, u.code = 16) → rises fun z => failed z 1) ∧
      ((∀ u ∈ s.dev.lost, u.code ≠ 16) → (∃ d : DieId, rowsOk (s.dev.dies[d]).nextRows = false) → rises fun z => failed z 3) ∧
      ((∀ u ∈ s.dev.lost, u.code ≠ 16) → (∀ d : DieId, rowsOk (s.dev.dies[d]).nextRows = true) →
        rises fun z => z.dev.mgmt.state = 2 ∧ ∀ d : DieId, (z.dev.dies[d]).rows = (s.dev.dies[d]).nextRows)) ∧
    (m.state = 2 →
      let image := m.flashNext.getD m.flashActive
      (Config.verifies image = true → rises fun z => z.dev.mgmt.state = 3 ∧ z.dev.mgmt.flashActive = image ∧ z.dev.mgmt.measured = sha384 image) ∧
      (Config.verifies image = false → rises fun z => failed z 2)) ∧
    (m.state = 3 → rises fun z => z.dev.mgmt.state = 4 ∧ (m.cold = false → z.dev.mgmt.mhz = m.mhz ∧ z.dev.mgmt.cap = m.cap) ∧ (m.cold = true → z.dev.mgmt.cap = 2800)) ∧
    (m.state = 4 →
      (Config.hbmTrains m.resets = false → rises fun z => failed z 4) ∧
      (Config.hbmTrains m.resets = true → rises fun z => z.dev.mgmt.state = 5 ∧ (m.cold = true → z.dev.hbm = [] ∧ z.dev.lost = []) ∧
        (m.cold = false → z.dev.hbm = s.dev.hbm ∧ z.dev.lost = s.dev.lost))) ∧
    (m.state = 5 →
      ((∀ i : Fin 2, Config.linkTrains (.hentia i) m.resets = true) → rises fun z => z.dev.mgmt.state = 6 ∧ z.dev.mgmt.reason = 0 ∧ z.dev.mgmt.ready = true ∧
        z.devNum = if m.siteAnswers then m.site else m.strap) ∧
      ((∃ i : Fin 2, Config.linkTrains (.hentia i) m.resets = false) → rises fun z => failed z 5)) ∧
    (m.state = 0 ∨ 6 ≤ m.state → s.takeTurn (.outside .bringUp) = .next s) ∧
    (∃ z, exec .resetAsserted s = .next z ∧ fresh z ∧ z.dev.mgmt.state = 0 ∧ z.dev.mgmt.coldLow = true) ∧
    (∃ z, exec .powerRemoval s = .next z ∧ fresh z ∧ z.dev.hbm = [] ∧ z.dev.mgmt.powered = false ∧ z.dev.images = [] ∧
      ∀ d, (z.dev.dies[(d : DieId)]).rows = (s.dev.dies[(d : DieId)]).rows ∧ (z.dev.dies[(d : DieId)]).log = []) ∧
    (s.isReady = true →
      (600 ≤ mhz → mhz % 100 = 0 → mhz ≤ m.maxMhz s.dev.clk → ∃ z, exec (.clockChange mhz) s = .next z ∧ z.dev.mgmt.mhz = mhz ∧ z.dev.tiles = s.dev.tiles) ∧
      (mhz < 600 ∨ mhz % 100 ≠ 0 ∨ m.maxMhz s.dev.clk < mhz → exec (.clockChange mhz) s = .next s)) ∧
    (let f := m.maxMhz s.dev.clk
     f % 100 = 0 ∧ 600 ≤ f ∧ f ≤ 1800 ∧ (m.throttled = true → f = 600) ∧
      f ≤ max 600 m.fusedMax ∧ f ≤ max 600 (Config.capMhz m.cap s.dev.clk)) ∧
    (m.powered = true → sensor < 15 → ∃ z, exec (.thermalThrottle sensor deg) s = .next z ∧ rd z.dev.mgmt.temps sensor = deg ∧ z.dev.tiles = s.dev.tiles ∧
      (105 ≤ deg → z.dev.mgmt.mhz = 600 ∧ z.dev.mgmt.throttled = true) ∧
      ((∀ i, i < 15 → rd z.dev.mgmt.temps i < 100) → z.dev.mgmt.throttled = false) ∧
      (115 ≤ deg → z.dev.mgmt.thermtrip = true ∧ exec (.thermtrip sensor deg) s = .next z)) ∧
    (deg < 115 → exec (.thermtrip sensor deg) s = .next s)) ∧
  (∀ (s : State) (r : MgmtReq),
    let z := s.dev.mgmt
    let value := leNat ((r.data.drop 3).take 4)
    let point := leNat (r.data.take 2)
    let answered := fun (x : State) (a : Answer) => x.updDev fun d => { d with mgmt := { d.mgmt with answers := d.mgmt.answers ++ [a] } }
    z.state ≠ 0 →
    (∀ i ∈ [Instr.mctpControl r, .gettid r, .getpldmversion r, .getpdr r, .getCapabilities r], exec i s = .next (answered s (.ok (Config.mgmtPayload r)))) ∧
    exec (.getpldmtypes r) s = .next (answered s (.ok (leBytes 8 (2 ^ 0 + 2 ^ 2 + 2 ^ 5)))) ∧
    (r.data.headD 0 = 0 → exec (.getpldmcommands r) s = .next (answered s (.ok (leBytes 32 (2 ^ 2 + 2 ^ 3 + 2 ^ 4 + 2 ^ 5))))) ∧
    (r.data.headD 0 = 2 → exec (.getpldmcommands r) s = .next (answered s (.ok (leBytes 32 (2 ^ 0x0A + 2 ^ 0x11 + 2 ^ 0x31 + 2 ^ 0x32 + 2 ^ 0x51))))) ∧
    (r.data.headD 0 ≠ 0 → r.data.headD 0 ≠ 2 → exec (.getpldmcommands r) s = .next (answered s (.ok (Config.mgmtPayload r)))) ∧
    exec (.getVersion r) s = .next (answered s (.ok [0, 1, 0x00, 0x12])) ∧
    exec (.negotiateAlgorithms r) s = .next (answered s (.ok (leBytes 2 36 ++ [1, 0] ++ leBytes 4 1 ++ leBytes 4 0x80 ++ leBytes 4 2 ++ List.replicate 16 0))) ∧
    exec (.unsupportedRequest r) s = .next (answered s .unsupported) ∧
    (point = 1 → ∃ w, w ≤ z.cap ∧ exec (.getsensorreading r) s = .next (answered s (.ok (leBytes 4 w)))) ∧
    (point = 18 → exec (.getsensorreading r) s = .next (answered s (.ok (leBytes 4 (z.state % 16 + z.reason % 256 * 2 ^ 8))))) ∧
    (2 ≤ point → point ≤ 16 → exec (.getsensorreading r) s = .next (answered s (.ok (leBytes 4 (rd z.temps (point - 2)))))) ∧
    (point = 17 → exec (.getsensorreading r) s = .next (answered s (.ok (leBytes 4 z.mhz)))) ∧
    (1200 ≤ value → value ≤ 2800 →
      let capped := s.updDev fun d => { d with mgmt := { d.mgmt with cap := value } }
      let most := ({ z with cap := value } : Mgmt).maxMhz s.dev.clk
      (s.isReady = false ∨ z.mhz ≤ most → exec (.powerCapSet r) s = .next (answered capped (.ok []))) ∧
      (s.isReady = true → most < z.mhz → ∃ t, exec (.powerCapSet r) s = .next (answered t (.ok [])) ∧ t.dev.mgmt = { z with cap := value, mhz := most } ∧
        t.dev.tiles = s.dev.tiles)) ∧
    (value < 1200 ∨ 2800 < value → exec (.powerCapSet r) s = .next (answered s .outOfRange)) ∧
    (value = 1 → ∃ t, exec (.eventLogClear r) s = .next t ∧ t.dev.mgmt.answers = z.answers ++ [.ok []] ∧ t.dev.tiles = s.dev.tiles ∧
      (z.logAt ≠ s.dev.now → t.dev.mgmt.events = z.events ∧ ∀ d : DieId, (t.dev.dies[d]).log = []) ∧
      (z.logAt = s.dev.now → z.events.take z.heard <+: t.dev.mgmt.events ∧
        ∀ d : DieId, (t.dev.dies[d]).log = ((z.logNow.filter fun e => e.1 == d).map fun e => e.2).foldl logWrite [])) ∧
    (point = 1 → exec (.getnumericeffectervalue r) s = .next (answered s (.ok (leBytes 4 z.cap)))) ∧
    exec (.firmwareUpdate r) s = .next (answered (s.updDev fun d => { d with mgmt := { d.mgmt with flashNext := some r.data } }) (.ok [])) ∧
    exec (.getDigests r) s = .next (answered s (.ok (leBytes 48 (sha384 Config.certChain).toNat))) ∧
    (r.data.headD 0 = 0 → exec (.getCertificate r) s = .next (answered s (.ok Config.certChain))) ∧
    exec (.challenge r) s = .next (answered s (.ok (Config.sign r.data))) ∧
    (let b := s.blocks (r.data.getD 1 0).toNat
     exec (.getMeasurements r) s = .next (answered s (.ok (if bit (r.data.headD 0) 0 then b ++ Config.sign (r.data ++ b) else b)))) ∧
    s.block 2 = leBytes 48 z.measured.toNat ∧ s.block 3 = leBytes 48 (sha384 (Config.fuseMap (s.dev.dies.toList.map fun x => x.nextRows) z.fusedMax)).toNat ∧
    s.block 4 = leBytes 8 s.dev.devid.toNat ∧
    (∀ f, (insertFold f z.folds).Perm (f :: z.folds) ∧ (z.folds.Pairwise (fun a b => a.1 ≤ b.1) → (insertFold f z.folds).Pairwise fun a b => a.1 ≤ b.1)) ∧
    (∀ q rec, q < 64 → let c := rd z.chains q
      (z.fold q rec).chains = wr z.chains q (sha384 (leBytes 48 c.1.toNat ++ leBytes 128 rec), c.2 + 1)) ∧
    (z.foldAll.folds = [] ∧ ∀ f, z.folds = [f] → z.foldAll.chains = (z.fold f.2.1 f.2.2).chains) ∧
    (∀ q, q < 64 → s.block (16 + q) = leBytes 48 (rd z.chains q).1.toNat ++ leBytes 8 (rd z.chains q).2))

/-! ### The whole machine -/

/-- 04 R64 to R78, 05 R87 to R97: the words of every well-formed instruction decode to it, with every operand at every value that the encoding
admits, from its words and from its bytes in its section, whatever follows them. -/
def Obligations.DecodeEncode : Prop :=
  ∀ (i : Instr) (ws : Words) (more : List Byte), i.wellFormed = true → encode i = some ws →
    ws.decode = .ok i ∧ decodeBytes ws.sequencer (ws.bytes ++ more) = .ok (i, more)

/-- 04 R66 to R73, R78, 05 R87 to R95: words written out from the encoding tables, among them the spec's own examples, and the instructions that they are; a reserved
opcode, function code, type or width and a non-zero unused field are none. -/
def Obligations.SpecWordsDecode : Prop :=
  decodeK 0b0000001_00011_00100_00101_0000000001 0 = .ok (.sub 3 4 5) ∧
  decodeK 0x0430FFFB 0 = .ok (.addi 3 1 0x7FFB) ∧ decodeK 0x02000000 0 = .ok (.add 0 0 0) ∧ decodeK 0x84000000 0 = .ok .nop ∧
  decodeK 0b0001010_00010_01_000000000000000000 0x12345678 = .ok (.litZx 2 0x12345678) ∧
  decodeK 0x84000001 0 = .ok (.sqrd 0 0 0) ∧
  decodeK 0b0000001_00011_00100_00101_0000010101 0 = .error .reservedFunc ∧ decodeK 0x84100000 0 = .error .nonZeroField ∧
  decodeK 0 0 = .error .reservedOpcode ∧
  decodeL 0x104D028194004000 = .ok (.lds .offset .w128 ⟨2, 3, 2, 40, 3, 5, 256, 0, 0, 0⟩) ∧
  decodeL 0b01001000_001_000_000_00000000000_00011_00100_00000000000000000101_00_00_00 = .ok (.aadd ⟨1, 0, 0, 0, 3, 4, 5, 0, 0, 0⟩) ∧
  decodeS 0b01001000_001_000_000_00000000000_00011_00100_00000000000000000101_00_00_00 = .ok (.badd ⟨1, 0, 0, 0, 3, 4, 5, 0, 0, 0⟩) ∧
  decodeS 0b10011000_000_000_000_00001000001_00110_00000_00000000000000001000_01_10_00 = .ok (.atl 8 ⟨0, 0, 0, 65, 6, 0, 8, 1, 2, 0⟩) ∧
  decodeL 0x1300000000000000 = .error .reservedOpcode ∧ decodeS 0x3400000000000000 = .error .reservedOpcode ∧
  decodeC 0x4E10000A0040003FC00000000024080A =
    .ok (.vadd 0 ⟨0, false, 10, 2, 0, false, false⟩ ⟨2, 3, false, false, .lit 0x3FC00000, some ⟨.mxgo, ⟨2, 4, 5, false⟩⟩⟩) ∧
  decodeC 0x80000000000000000000000000000000 = .ok (.tokenBundle ⟨4, 0, false⟩) ∧ decodeC 0 = .error .reservedValue ∧
  decodeC 0x00118000000000000000000000000000 = .error .reservedValue

/-- 04 R85, R86: the value of each relocation type, computed exactly from the symbol's value plus addend and the field's address, is stored only where it fits its field; a
value that does not fit, a PC-relative one that is no whole number of words or whose symbol is of another section, an undefined symbol and a reserved type refuse the image, and nothing of it
is loaded; an object whose data lies beyond local HBM is refused too (log 105). What is stored is the value, in its field and nowhere else. Type 0 stores nothing. -/
def Obligations.RelocationsFit : Prop :=
  (∀ r : Reloc, (14 ≤ r.code → relocStore r = none) ∧ (r.code ≠ 0 → r.sym = none → relocStore r = none) ∧ (r.code = 0 → relocStore r = some (.none, 0))) ∧
  (∀ (r : Reloc) (y : Symbol), r.sym = some y →
    let v : Int := y.value + r.addend
    let d : Int := v - r.off
    (r.code = 1 → r.sec = .k → relocStore r = if -16384 ≤ v ∧ v < 16384 then some (.ki15, v) else none) ∧
    (r.code = 2 → r.sec = .k → relocStore r = if y.sec = some .k ∧ d % 4 = 0 ∧ -16384 ≤ d / 4 ∧ d / 4 < 16384 then some (.kb15, d / 4) else none) ∧
    (r.code = 3 → r.sec = .k → relocStore r =
      if y.sec = some .k ∧ d % 4 = 0 ∧ -16777216 ≤ d / 4 ∧ d / 4 < 16777216 then some (.kj25, d / 4) else none) ∧
    (r.code = 4 → r.sec = .k → relocStore r = if -2147483648 ≤ v ∧ v < 2147483648 then some (.lit32s, v) else none) ∧
    (r.code = 5 → r.sec = .k → relocStore r = if 0 ≤ v ∧ v < 4294967296 then some (.lit32u, v) else none) ∧
    (r.code = 6 → r.sec = .k → relocStore r = some (.hi32, v / 4294967296)) ∧
    (r.code = 7 → r.sec = .k → relocStore r = some (.lo32, v % 4294967296)) ∧
    (r.code = 8 → r.sec = .l ∨ r.sec = .s → relocStore r = if -524288 ≤ v ∧ v < 524288 then some (.ls20, v) else none) ∧
    (r.code = 9 → r.sec = .l ∨ r.sec = .s → relocStore r =
      if y.sec = some r.sec ∧ d % 8 = 0 ∧ -524288 ≤ d / 8 ∧ d / 8 < 524288 then some (.lspc20, d / 8) else none) ∧
    (r.code = 10 → r.sec = .c → relocStore r = if -2147483648 ≤ v ∧ v < 4294967296 then some (.clit32, v) else none) ∧
    (r.code = 11 → r.sec = .c → relocStore r =
      if y.sec = some .c ∧ d % 16 = 0 ∧ -2147483648 ≤ d / 16 ∧ d / 16 < 2147483648 then some (.cpc32, d / 16) else none) ∧
    (r.code = 12 → r.sec = .data → relocStore r = if 0 ≤ v ∧ v < 4294967296 then some (.abs32, v) else none) ∧
    (r.code = 13 → r.sec = .data → relocStore r = some (.abs64, v))) ∧
  (∀ (o z : Object) (r : Reloc) (t : RelocType) (v : Int), relocStore r = some (t, v) → t ≠ .none → applyReloc o r = some z →
    let f := relocField t
    let old := sectionOf o r.sec
    let new := sectionOf z r.sec
    new.length = old.length ∧ (∀ i, i < r.off ∨ r.off + f.1 ≤ i → new[i]? = old[i]?) ∧ (∀ x, x ≠ r.sec → sectionOf z x = sectionOf o x) ∧
    nbits (leNat ((new.drop r.off).take f.1)) f.2.1 f.2.2 = (v % 2 ^ f.2.2).toNat ∧
    ∀ b, b < f.2.1 ∨ f.2.1 + f.2.2 ≤ b → (leNat ((new.drop r.off).take f.1)).testBit b = (leNat ((old.drop r.off).take f.1)).testBit b) ∧
  (∀ (s : State) (o : Object), (∃ r ∈ o.relocs, relocStore r = none) →
    (∃ r ∈ o.relocs, relocateAll o o.relocs = .error r) ∧ s.takeTurn (.outside (.load o)) = .next s) ∧
  (∀ (s : State) (o x : Object), relocateAll o o.relocs = .ok x → x.data ≠ [] → hbmSize < x.dataAt + x.data.length →
    s.takeTurn (.outside (.load o)) = .next s) ∧
  ∀ (s : State) (o x : Object), s.isReady = true → relocateAll o o.relocs = .ok x → x.data = [] ∨ x.dataAt + x.data.length ≤ hbmSize →
    ∃ z, s.takeTurn (.outside (.load o)) = .next z ∧ imageOfObject x ∈ z.dev.images ∧ z.dev.tiles = s.dev.tiles ∧ z.dev.launches = s.dev.launches

/-- 04 R64, R65, R78, 18 R361: a turn of a sequencer of a live task that nothing keeps from running fetches at its program counter: where the bytes there decode to an
instruction that lies in its stream, the step is exec of that instruction; where they do not, the sequencer meets ILLEGAL at its address: K takes it, another stops once no memory
instruction of it is unfinished (07 R139). Before an instruction of K other than the first that joins them, the barrier updates of the cycle are made (06 R117).
A tile whose partition map is not valid, or not the partition of its task's context, runs no task (16 R329); an access of K that waits at its link is tried again.
A turn of another unit is exec of its event; time passes, and the outside acts (log 87), in turns of their own. After the turn the Owls count the cycles of launches that
are quiet, and forget the counts of contexts that can move. -/
def Obligations.StepRunsDecoded : Prop :=
  ∀ (s : State) (rest : List Turn) (t : TileId) (q : Sequencer) (d : Bool) (k : Task),
    let x := s.tileAt t
    let s1 : State := { s with agenda := rest, tick := s.tick + 1, cur := t, defer := d }
    let pc := (x.pcOf q).toNat
    let bytes := s.fetchBytes t q
    (s.agenda = .seq t q d :: rest → x.task = some k → x.live = true → (x.preempt = .none ∨ q = .k ∧ ∃ a, x.k.pend = some (.access a)) → s.runsOn t x.ctx = true → x.killDue = none → x.endedOf q = false →
      x.stopOf q = none → (q = .k → x.k.pend = none ∧ (x.stopped = false ∨ x.k.trap = true) ∨ ∃ a, x.k.pend = some (.access a)) →
      (∀ i more, decodeBytes q bytes = .ok (i, more) → (k.entry q).toNat ≤ pc → pc + instrLen q bytes ≤ (k.fin q).toNat →
        step s = afterTurn (exec i (s1.barSettle q i))) ∧
      (∀ r, decodeBytes q bytes = .error r → step s = afterTurn (.next (s1.illegalAt q))) ∧
      ((k.fin q).toNat < pc + instrLen q bytes → step s = afterTurn (.next (s1.illegalAt q)))) ∧
    (s.agenda = .seq t q d :: rest → (s.runsOn t x.ctx = false ∨ bit x.pmap 4 = false) → step s = afterTurn (.next s1)) ∧
    ((q ≠ .k ∨ x.barOpen = none → ∀ i, s1.barSettle q i = s1) ∧
      ∀ i b, q = .k → x.barOpen = some b → s1.barSettle q i = if b = false ∧ updatesBar i = true then s1 else s1.barFlush t) ∧
    (s1.illegalAt .k = s1.kFault .illegal 0 ∧ ∀ r, r ≠ .k → s1.illegalAt r = if x.mayStop r then s1.stopSeq t r .illegal 0 false false else s1) ∧
    (∀ i, s.agenda = .event i :: rest → encode i = none → step s = afterTurn (exec i { s with agenda := rest, tick := s.tick + 1 })) ∧
    (∀ n, s.agenda = .elapse n :: rest → step s = afterTurn (.next (State.elapse { s with agenda := rest, tick := s.tick + 1 } n))) ∧
    (∀ z, s.agenda = .outside z :: rest → step s = afterTurn (.next (State.outside { s with agenda := rest, tick := s.tick + 1 } z))) ∧
    ∀ z, afterTurn (.next z) = .next z.keepQuiet.keepStalls

/-- Every instruction and every event has its effect in every state: exec answers a next state, never a fault or a refusal. The rules whose
effects these are: 95, "what each step holds", and the rule of each row of spec/opcode_table.json. -/
def Obligations.NeverStops : Prop :=
  ∀ (i : Instr) (s : State), ∃ t, exec i s = .next t

/-- 02 R19 and log 7: every step keeps every memory of the machine in its canonical form, so that equal memories are equal data. -/
def Obligations.MemoryStaysCanonical : Prop :=
  ∀ s t : State, s.memOk → step s = .next t → t.memOk

/-- 10 R241: after every step only contexts in which nothing can move are counted, so that a count runs without a break from its first cycle. -/
def Obligations.StallCountsHold : Prop :=
  ∀ s t : State, step s = .next t → ∀ p ∈ t.dev.stall, t.stalled p.1 = true

/-- 01 R14, 24 R423: what reset leaves: HBM and every memory zero and canonical, nothing in flight, every queue and table empty, no task; on every tile
the registers of K, L and S, semaphores, register space and scratchpad zero, lp0 and sp0 true, p0 all ones, guards free; FLGAP 400, EN of the Sett index 0.
The values that R14 does not give are the model's (log 12) and stand in no clause. -/
def Obligations.ResetState : Prop :=
  let d := State.reset.dev
  State.reset.memOk ∧ d.stall = [] ∧ (∀ a, d.hbm.get a = 0) ∧ d.launches = [] ∧ d.net = [] ∧ d.combs = [] ∧ d.acct = [] ∧ d.bound = [] ∧ d.saves = [] ∧
  d.sxen = false ∧ d.flgap = 400 ∧ d.hub = [] ∧ d.hostCopies = [] ∧ d.clk = 0 ∧ (∀ q, q < 64 → rd d.queues q = CmdQueue.reset) ∧
  (∀ i : DieId, (d.dies[i]).warren = [] ∧ (d.dies[i]).lists = [] ∧ (d.dies[i]).stray = [] ∧ (d.dies[i]).log = []) ∧
  ∀ t : TileId, let x := State.reset.tileAt t
    x.task = none ∧ (∀ r, x.kget r = 0 ∧ x.areg .l r = 0 ∧ x.areg .s r = 0) ∧ (∀ i, i < 8 → rd x.k.kt i = 0) ∧ (∀ n, x.smGet n = 0) ∧
    (∀ g, g < 16 → rd x.gd g = .free) ∧ (∀ a, x.rbyte a = 0 ∧ x.spm.get a = 0 ∧ x.side.get a = 0) ∧
    x.pred .l 0 = true ∧ x.pred .s 0 = true ∧ (∀ p, p ≠ 0 → x.l.preds.getLsbD p = false ∧ x.s.preds.getLsbD p = false) ∧
    x.c.pget 0 = BitVec.allOnes 128 ∧ (∀ p, 0 < p → p < 8 → x.c.pget p = 0) ∧ x.evq = [] ∧ x.tlb = [] ∧ x.matchT = [] ∧ x.waves = [] ∧ x.carves = [] ∧
    (∀ q, x.cmds q = []) ∧ ∀ a b, a ≠ b → (x.tokQ a b).items = []
end

