-- ==== Sys2Proof/Laws/Encoding.lean ====
section
/-! SUPPORT. What the encoders' words hold in each field, and the bytes of a number. -/

namespace Sys2Proof

/-! ### Fields of joined words -/

theorem extract_append_low {m n k : Nat} (x : BitVec m) (y : BitVec n) (i : Nat) (h : i + k ≤ n) :
    (x ++ y).extractLsb' i k = y.extractLsb' i k := by
  apply BitVec.eq_of_getLsbD_eq
  intro j hj
  simp [BitVec.getLsbD_append, hj]
  intro
  omega

theorem extract_append_high {m n k : Nat} (x : BitVec m) (y : BitVec n) (i : Nat) (h : n ≤ i) :
    (x ++ y).extractLsb' i k = x.extractLsb' (i - n) k := by
  apply BitVec.eq_of_getLsbD_eq
  intro j hj
  have : ¬ i + j < n := by omega
  simp [BitVec.getLsbD_append, hj, this]
  congr 1
  omega

/-- A field as a number is its extract as a number. -/
theorem bits_eq {n : Nat} (w : BitVec n) (hi lo : Nat) : bits w hi lo = (w.extractLsb' lo (hi + 1 - lo)).toNat := by
  simp [bits, BitVec.extractLsb'_toNat]

theorem bits_lt {n : Nat} (w : BitVec n) (hi lo : Nat) : bits w hi lo < 2 ^ (hi + 1 - lo) := Nat.mod_lt _ (by positivity)

/-- A bit is the extract of one bit. -/
theorem bit_eq {n : Nat} (w : BitVec n) (i : Nat) : bit w i = (w.extractLsb' i 1).getLsbD 0 := by simp [bit]

/-! ### Bytes of a number -/

@[simp] theorem leBytes_length (n v : Nat) : (leBytes n v).length = n := by
  induction n generalizing v with
  | zero => rfl
  | succ n ih => simp [leBytes, ih]

theorem leNat_leBytes (n v : Nat) : leNat (leBytes n v) = v % 256 ^ n := by
  induction n generalizing v with
  | zero => simp [leBytes, leNat, Nat.mod_one]
  | succ n ih =>
    simp only [leBytes, leNat, ih, BitVec.toNat_ofNat]
    have h : v % 2 ^ 8 = v % 256 := by norm_num
    rw [h, Nat.pow_succ', Nat.mod_mul]

theorem leNat_append (a b : List Byte) : leNat (a ++ b) = leNat a + 256 ^ a.length * leNat b := by
  induction a with
  | nil => simp [leNat]
  | cons x t ih =>
    simp only [List.cons_append, leNat, ih, List.length_cons, Nat.pow_succ']
    ring

/-! ### The fields of every word -/

@[simp] theorem krWord_op (op : BitVec 7) (d : BitVec 5) (a : BitVec 5) (b : BitVec 5) (f : BitVec 10) : bits (krWord op d a b f) 31 25 = op.toNat := by
  rw [bits_eq]
  unfold krWord
  rw [extract_append_high _ _ _ (by decide), extract_append_high _ _ _ (by decide), extract_append_high _ _ _ (by decide), extract_append_high _ _ _ (by decide)]
  simp

@[simp] theorem krWord_d (op : BitVec 7) (d : BitVec 5) (a : BitVec 5) (b : BitVec 5) (f : BitVec 10) : (krWord op d a b f).extractLsb' 20 5 = d := by
  unfold krWord
  rw [extract_append_high _ _ _ (by decide), extract_append_high _ _ _ (by decide), extract_append_high _ _ _ (by decide), extract_append_low _ _ _ (by decide)]
  simp

@[simp] theorem krWord_a (op : BitVec 7) (d : BitVec 5) (a : BitVec 5) (b : BitVec 5) (f : BitVec 10) : (krWord op d a b f).extractLsb' 15 5 = a := by
  unfold krWord
  rw [extract_append_high _ _ _ (by decide), extract_append_high _ _ _ (by decide), extract_append_low _ _ _ (by decide)]
  simp

@[simp] theorem krWord_b (op : BitVec 7) (d : BitVec 5) (a : BitVec 5) (b : BitVec 5) (f : BitVec 10) : (krWord op d a b f).extractLsb' 10 5 = b := by
  unfold krWord
  rw [extract_append_high _ _ _ (by decide), extract_append_low _ _ _ (by decide)]
  simp

@[simp] theorem krWord_f (op : BitVec 7) (d : BitVec 5) (a : BitVec 5) (b : BitVec 5) (f : BitVec 10) : bits (krWord op d a b f) 9 0 = f.toNat := by
  rw [bits_eq]
  unfold krWord
  rw [extract_append_low _ _ _ (by decide)]
  simp

@[simp] theorem kiWord_op (op : BitVec 7) (d : BitVec 5) (a : BitVec 5) (imm : BitVec 15) : bits (kiWord op d a imm) 31 25 = op.toNat := by
  rw [bits_eq]
  unfold kiWord
  rw [extract_append_high _ _ _ (by decide), extract_append_high _ _ _ (by decide), extract_append_high _ _ _ (by decide)]
  simp

@[simp] theorem kiWord_d (op : BitVec 7) (d : BitVec 5) (a : BitVec 5) (imm : BitVec 15) : (kiWord op d a imm).extractLsb' 20 5 = d := by
  unfold kiWord
  rw [extract_append_high _ _ _ (by decide), extract_append_high _ _ _ (by decide), extract_append_low _ _ _ (by decide)]
  simp

@[simp] theorem kiWord_a (op : BitVec 7) (d : BitVec 5) (a : BitVec 5) (imm : BitVec 15) : (kiWord op d a imm).extractLsb' 15 5 = a := by
  unfold kiWord
  rw [extract_append_high _ _ _ (by decide), extract_append_low _ _ _ (by decide)]
  simp

@[simp] theorem kiWord_imm (op : BitVec 7) (d : BitVec 5) (a : BitVec 5) (imm : BitVec 15) : (kiWord op d a imm).extractLsb' 0 15 = imm := by
  unfold kiWord
  rw [extract_append_low _ _ _ (by decide)]
  simp

@[simp] theorem kbWord_op (op : BitVec 7) (a : BitVec 5) (b : BitVec 5) (off : BitVec 15) : bits (kbWord op a b off) 31 25 = op.toNat := by
  rw [bits_eq]
  unfold kbWord
  rw [extract_append_high _ _ _ (by decide), extract_append_high _ _ _ (by decide), extract_append_high _ _ _ (by decide)]
  simp

@[simp] theorem kbWord_a (op : BitVec 7) (a : BitVec 5) (b : BitVec 5) (off : BitVec 15) : (kbWord op a b off).extractLsb' 20 5 = a := by
  unfold kbWord
  rw [extract_append_high _ _ _ (by decide), extract_append_high _ _ _ (by decide), extract_append_low _ _ _ (by decide)]
  simp

@[simp] theorem kbWord_b (op : BitVec 7) (a : BitVec 5) (b : BitVec 5) (off : BitVec 15) : (kbWord op a b off).extractLsb' 15 5 = b := by
  unfold kbWord
  rw [extract_append_high _ _ _ (by decide), extract_append_low _ _ _ (by decide)]
  simp

@[simp] theorem kbWord_off (op : BitVec 7) (a : BitVec 5) (b : BitVec 5) (off : BitVec 15) : (kbWord op a b off).extractLsb' 0 15 = off := by
  unfold kbWord
  rw [extract_append_low _ _ _ (by decide)]
  simp

@[simp] theorem kjWord_op (op : BitVec 7) (off : BitVec 25) : bits (kjWord op off) 31 25 = op.toNat := by
  rw [bits_eq]
  unfold kjWord
  rw [extract_append_high _ _ _ (by decide)]
  simp

@[simp] theorem kjWord_off (op : BitVec 7) (off : BitVec 25) : (kjWord op off).extractLsb' 0 25 = off := by
  unfold kjWord
  rw [extract_append_low _ _ _ (by decide)]
  simp

@[simp] theorem kxWord_op (op : BitVec 7) (d : BitVec 5) (sel : BitVec 2) : bits (kxWord op d sel) 31 25 = op.toNat := by
  rw [bits_eq]
  unfold kxWord
  rw [extract_append_high _ _ _ (by decide), extract_append_high _ _ _ (by decide), extract_append_high _ _ _ (by decide)]
  simp

@[simp] theorem kxWord_d (op : BitVec 7) (d : BitVec 5) (sel : BitVec 2) : (kxWord op d sel).extractLsb' 20 5 = d := by
  unfold kxWord
  rw [extract_append_high _ _ _ (by decide), extract_append_high _ _ _ (by decide), extract_append_low _ _ _ (by decide)]
  simp

@[simp] theorem kxWord_sel (op : BitVec 7) (d : BitVec 5) (sel : BitVec 2) : bits (kxWord op d sel) 19 18 = sel.toNat := by
  rw [bits_eq]
  unfold kxWord
  rw [extract_append_high _ _ _ (by decide), extract_append_low _ _ _ (by decide)]
  simp

@[simp] theorem lsWord_op (op : BitVec 8) (f : LSF) : bits (lsWord op f) 63 56 = op.toNat := by
  rw [bits_eq]
  unfold lsWord
  rw [extract_append_high _ _ _ (by decide), extract_append_high _ _ _ (by decide), extract_append_high _ _ _ (by decide), extract_append_high _ _ _ (by decide), extract_append_high _ _ _ (by decide), extract_append_high _ _ _ (by decide), extract_append_high _ _ _ (by decide), extract_append_high _ _ _ (by decide), extract_append_high _ _ _ (by decide), extract_append_high _ _ _ (by decide)]
  simp

@[simp] theorem lsWord_pop (op : BitVec 8) (f : LSF) : (lsWord op f).extractLsb' 53 3 = f.pop := by
  unfold lsWord
  rw [extract_append_high _ _ _ (by decide), extract_append_high _ _ _ (by decide), extract_append_high _ _ _ (by decide), extract_append_high _ _ _ (by decide), extract_append_high _ _ _ (by decide), extract_append_high _ _ _ (by decide), extract_append_high _ _ _ (by decide), extract_append_high _ _ _ (by decide), extract_append_high _ _ _ (by decide), extract_append_low _ _ _ (by decide)]
  simp

@[simp] theorem lsWord_push (op : BitVec 8) (f : LSF) : (lsWord op f).extractLsb' 50 3 = f.push := by
  unfold lsWord
  rw [extract_append_high _ _ _ (by decide), extract_append_high _ _ _ (by decide), extract_append_high _ _ _ (by decide), extract_append_high _ _ _ (by decide), extract_append_high _ _ _ (by decide), extract_append_high _ _ _ (by decide), extract_append_high _ _ _ (by decide), extract_append_high _ _ _ (by decide), extract_append_low _ _ _ (by decide)]
  simp

@[simp] theorem lsWord_pred (op : BitVec 8) (f : LSF) : (lsWord op f).extractLsb' 47 3 = f.pred := by
  unfold lsWord
  rw [extract_append_high _ _ _ (by decide), extract_append_high _ _ _ (by decide), extract_append_high _ _ _ (by decide), extract_append_high _ _ _ (by decide), extract_append_high _ _ _ (by decide), extract_append_high _ _ _ (by decide), extract_append_high _ _ _ (by decide), extract_append_low _ _ _ (by decide)]
  simp

@[simp] theorem lsWord_vreg (op : BitVec 8) (f : LSF) : (lsWord op f).extractLsb' 36 11 = f.vreg := by
  unfold lsWord
  rw [extract_append_high _ _ _ (by decide), extract_append_high _ _ _ (by decide), extract_append_high _ _ _ (by decide), extract_append_high _ _ _ (by decide), extract_append_high _ _ _ (by decide), extract_append_high _ _ _ (by decide), extract_append_low _ _ _ (by decide)]
  simp

@[simp] theorem lsWord_base (op : BitVec 8) (f : LSF) : (lsWord op f).extractLsb' 31 5 = f.base := by
  unfold lsWord
  rw [extract_append_high _ _ _ (by decide), extract_append_high _ _ _ (by decide), extract_append_high _ _ _ (by decide), extract_append_high _ _ _ (by decide), extract_append_high _ _ _ (by decide), extract_append_low _ _ _ (by decide)]
  simp

@[simp] theorem lsWord_index (op : BitVec 8) (f : LSF) : (lsWord op f).extractLsb' 26 5 = f.index := by
  unfold lsWord
  rw [extract_append_high _ _ _ (by decide), extract_append_high _ _ _ (by decide), extract_append_high _ _ _ (by decide), extract_append_high _ _ _ (by decide), extract_append_low _ _ _ (by decide)]
  simp

@[simp] theorem lsWord_imm (op : BitVec 8) (f : LSF) : (lsWord op f).extractLsb' 6 20 = f.imm := by
  unfold lsWord
  rw [extract_append_high _ _ _ (by decide), extract_append_high _ _ _ (by decide), extract_append_high _ _ _ (by decide), extract_append_low _ _ _ (by decide)]
  simp

@[simp] theorem lsWord_order (op : BitVec 8) (f : LSF) : (lsWord op f).extractLsb' 4 2 = f.order := by
  unfold lsWord
  rw [extract_append_high _ _ _ (by decide), extract_append_high _ _ _ (by decide), extract_append_low _ _ _ (by decide)]
  simp

@[simp] theorem lsWord_scope (op : BitVec 8) (f : LSF) : (lsWord op f).extractLsb' 2 2 = f.scope := by
  unfold lsWord
  rw [extract_append_high _ _ _ (by decide), extract_append_low _ _ _ (by decide)]
  simp

@[simp] theorem lsWord_cache (op : BitVec 8) (f : LSF) : (lsWord op f).extractLsb' 0 2 = f.cache := by
  unfold lsWord
  rw [extract_append_low _ _ _ (by decide)]
  simp

@[simp] theorem slotWord_op (op : BitVec 9) (f : SlotF) : bits (slotWord op f) 47 39 = op.toNat := by
  rw [bits_eq]
  unfold slotWord
  rw [extract_append_high _ _ _ (by decide), extract_append_high _ _ _ (by decide), extract_append_high _ _ _ (by decide), extract_append_high _ _ _ (by decide), extract_append_high _ _ _ (by decide), extract_append_high _ _ _ (by decide), extract_append_high _ _ _ (by decide)]
  simp

@[simp] theorem slotWord_pred (op : BitVec 9) (f : SlotF) : (slotWord op f).extractLsb' 36 3 = f.pred := by
  unfold slotWord
  rw [extract_append_high _ _ _ (by decide), extract_append_high _ _ _ (by decide), extract_append_high _ _ _ (by decide), extract_append_high _ _ _ (by decide), extract_append_high _ _ _ (by decide), extract_append_high _ _ _ (by decide), extract_append_low _ _ _ (by decide)]
  simp

@[simp] theorem slotWord_neg (op : BitVec 9) (f : SlotF) : (slotWord op f).extractLsb' 35 1 = BitVec.ofBool f.neg := by
  unfold slotWord
  rw [extract_append_high _ _ _ (by decide), extract_append_high _ _ _ (by decide), extract_append_high _ _ _ (by decide), extract_append_high _ _ _ (by decide), extract_append_high _ _ _ (by decide), extract_append_low _ _ _ (by decide)]
  simp

@[simp] theorem slotWord_vd (op : BitVec 9) (f : SlotF) : (slotWord op f).extractLsb' 24 11 = f.vd := by
  unfold slotWord
  rw [extract_append_high _ _ _ (by decide), extract_append_high _ _ _ (by decide), extract_append_high _ _ _ (by decide), extract_append_high _ _ _ (by decide), extract_append_low _ _ _ (by decide)]
  simp

@[simp] theorem slotWord_va (op : BitVec 9) (f : SlotF) : (slotWord op f).extractLsb' 13 11 = f.va := by
  unfold slotWord
  rw [extract_append_high _ _ _ (by decide), extract_append_high _ _ _ (by decide), extract_append_high _ _ _ (by decide), extract_append_low _ _ _ (by decide)]
  simp

@[simp] theorem slotWord_vb (op : BitVec 9) (f : SlotF) : (slotWord op f).extractLsb' 2 11 = f.vb := by
  unfold slotWord
  rw [extract_append_high _ _ _ (by decide), extract_append_high _ _ _ (by decide), extract_append_low _ _ _ (by decide)]
  simp

@[simp] theorem slotWord_tr (op : BitVec 9) (f : SlotF) : (slotWord op f).extractLsb' 1 1 = BitVec.ofBool f.tr := by
  unfold slotWord
  rw [extract_append_high _ _ _ (by decide), extract_append_low _ _ _ (by decide)]
  simp

@[simp] theorem slotWord_rot (op : BitVec 9) (f : SlotF) : (slotWord op f).extractLsb' 0 1 = BitVec.ofBool f.rot := by
  unfold slotWord
  rw [extract_append_low _ _ _ (by decide)]
  simp

@[simp] theorem bundleWord_pop (pop push : BitVec 3) (zero : Bool) (a : BitVec 48) (b : SlotB) (m : Option MCmd) : (bundleWord pop push zero a b m).extractLsb' 125 3 = pop := by
  unfold bundleWord
  rw [extract_append_high _ _ _ (by decide), extract_append_high _ _ _ (by decide), extract_append_high _ _ _ (by decide), extract_append_high _ _ _ (by decide), extract_append_high _ _ _ (by decide), extract_append_high _ _ _ (by decide)]
  simp

@[simp] theorem bundleWord_push (pop push : BitVec 3) (zero : Bool) (a : BitVec 48) (b : SlotB) (m : Option MCmd) : (bundleWord pop push zero a b m).extractLsb' 122 3 = push := by
  unfold bundleWord
  rw [extract_append_high _ _ _ (by decide), extract_append_high _ _ _ (by decide), extract_append_high _ _ _ (by decide), extract_append_high _ _ _ (by decide), extract_append_high _ _ _ (by decide), extract_append_low _ _ _ (by decide)]
  simp

@[simp] theorem bundleWord_lit (pop push : BitVec 3) (zero : Bool) (a : BitVec 48) (b : SlotB) (m : Option MCmd) : (bundleWord pop push zero a b m).extractLsb' 121 1 = BitVec.ofBool b.isLit := by
  unfold bundleWord
  rw [extract_append_high _ _ _ (by decide), extract_append_high _ _ _ (by decide), extract_append_high _ _ _ (by decide), extract_append_high _ _ _ (by decide), extract_append_low _ _ _ (by decide)]
  simp

@[simp] theorem bundleWord_zero (pop push : BitVec 3) (zero : Bool) (a : BitVec 48) (b : SlotB) (m : Option MCmd) : (bundleWord pop push zero a b m).extractLsb' 120 1 = BitVec.ofBool zero := by
  unfold bundleWord
  rw [extract_append_high _ _ _ (by decide), extract_append_high _ _ _ (by decide), extract_append_high _ _ _ (by decide), extract_append_low _ _ _ (by decide)]
  simp

@[simp] theorem bundleWord_a (pop push : BitVec 3) (zero : Bool) (a : BitVec 48) (b : SlotB) (m : Option MCmd) : (bundleWord pop push zero a b m).extractLsb' 72 48 = a := by
  unfold bundleWord
  rw [extract_append_high _ _ _ (by decide), extract_append_high _ _ _ (by decide), extract_append_low _ _ _ (by decide)]
  simp

@[simp] theorem bundleWord_b (pop push : BitVec 3) (zero : Bool) (a : BitVec 48) (b : SlotB) (m : Option MCmd) : (bundleWord pop push zero a b m).extractLsb' 24 48 = b.word := by
  unfold bundleWord
  rw [extract_append_high _ _ _ (by decide), extract_append_low _ _ _ (by decide)]
  simp

@[simp] theorem bundleWord_m (pop push : BitVec 3) (zero : Bool) (a : BitVec 48) (b : SlotB) (m : Option MCmd) : (bundleWord pop push zero a b m).extractLsb' 0 24 = mWord m := by
  unfold bundleWord
  rw [extract_append_low _ _ _ (by decide)]
  simp


@[simp] theorem kxWord_low (op : BitVec 7) (d : Reg) (sel : BitVec 2) : (kxWord op d sel).extractLsb' 0 18 = 0 := by
  unfold kxWord
  rw [extract_append_low _ _ _ (by decide)]
  simp

@[simp] theorem kjWord_off' (op : BitVec 7) (off : BitVec 25) : (kjWord op off).extractLsb' 0 25 = off := kjWord_off op off

/-- The fields of an L or S word are those it was made from. -/
@[simp] theorem ofWord_lsWord (op : BitVec 8) (f : LSF) : LSF.ofWord (lsWord op f) = f := by
  simp [LSF.ofWord]

/-- The fields of a vector slot are those it was made from. -/
@[simp] theorem ofWord_slotWord (op : BitVec 9) (f : SlotF) : SlotF.ofWord (slotWord op f) = f := by
  simp [SlotF.ofWord, bit_eq]

/-- The fields of slot M are those it was made from. -/
theorem ofWord_mWord (op : MOp) (m : MSlot) :
    MSlot.ofWord (mWord (some ⟨op, m⟩)) = m ∧ bits (mWord (some ⟨op, m⟩)) 23 21 = match op with | .mxgo => 1 | .mxgou => 2 | .mxloop => 3 := by
  obtain ⟨md, wait, signal, guard⟩ := m
  constructor
  · simp only [MSlot.ofWord, mWord, bit_eq, MSlot.mk.injEq]
    refine ⟨?_, ?_, ?_, ?_⟩
    · rw [extract_append_high _ _ _ (by decide), extract_append_high _ _ _ (by decide), extract_append_high _ _ _ (by decide),
        extract_append_low _ _ _ (by decide)]
      simp
    · rw [extract_append_high _ _ _ (by decide), extract_append_high _ _ _ (by decide), extract_append_low _ _ _ (by decide)]
      simp
    · rw [extract_append_high _ _ _ (by decide), extract_append_low _ _ _ (by decide)]
      simp
    · rw [extract_append_low _ _ _ (by decide)]
      simp
  · rw [bits_eq]
    simp only [mWord]
    rw [extract_append_high _ _ _ (by decide), extract_append_high _ _ _ (by decide), extract_append_high _ _ _ (by decide),
      extract_append_high _ _ _ (by decide)]
    cases op <;> rfl

/-! ### Decoding what was encoded -/

/-- A decoder's answer stands when the instruction is well formed. -/
theorem checked_ok {i : Instr} (h : i.wellFormed = true) : checked (.ok i) = .ok i := by simp only [checked, h, if_true]

theorem decodeK_ok {i : Instr} {w n : BitVec 32} (h : i.wellFormed = true) (e : decodeKRaw w n = .ok i) : decodeK w n = .ok i := by
  rw [decodeK, e, checked_ok h]

theorem decodeL_ok {i : Instr} {op : BitVec 8} {f : LSF} (h : i.wellFormed = true)
    (e : (if 0x10 ≤ op.toNat ∧ op.toNat < 0x40 then decodeMem true op.toNat f else decodeLOther op.toNat f) = .ok i) :
    decodeL (lsWord op f) = .ok i := by
  unfold decodeL
  simp only [lsWord_op, ofWord_lsWord]
  rw [e, checked_ok h]

theorem decodeS_ok {i : Instr} {op : BitVec 8} {f : LSF} (h : i.wellFormed = true)
    (e : (if 0x10 ≤ op.toNat ∧ op.toNat < 0x40 then decodeMem false op.toNat f else decodeSOther op.toNat f) = .ok i) :
    decodeS (lsWord op f) = .ok i := by
  unfold decodeS
  simp only [lsWord_op, ofWord_lsWord]
  rw [e, checked_ok h]

theorem four_cases (P : BitVec 4 → Prop) (h : ∀ n, n < 16 → P (BitVec.ofNat 4 n)) (x : BitVec 4) : P x := by
  have := h x.toNat x.isLt
  simpa using this

theorem decodeM_mWord (m : Option MCmd) : decodeM (mWord m) = .ok m := by
  match m with
  | none => rfl
  | some ⟨op, m⟩ =>
    obtain ⟨h1, h2⟩ := ofWord_mWord op m
    unfold decodeM
    rw [h2, h1]
    cases op <;> rfl

theorem ofOpcode_code (c : VCode) (ty : BitVec 2) (h : c.typing.accepts ty = true) :
    VCode.ofOpcode (c.opcode + ty.toNat) = some (if c = .loopSet then .loopC else c, ty) := by
  revert ty
  cases c <;> decide

theorem decodeSlot_word {c : VCode} {ty : BitVec 2} {f : SlotF} (h : c.typing.accepts ty = true)
    (hc : c = .loopC → bit f.vd 2 = false) (hs : c = .loopSet → bit f.vd 2 = true) :
    decodeSlot (Slot.word ⟨c, ty, f⟩) = .ok (some ⟨c, ty, f⟩) := by
  have lt : c.opcode + ty.toNat < 512 := by have := ty.isLt; cases c <;> simp [VCode.opcode] <;> omega
  have pos : c.opcode + ty.toNat ≠ 0 := by cases c <;> simp [VCode.opcode]
  have e : (BitVec.ofNat 9 (c.opcode + ty.toNat)).toNat = c.opcode + ty.toNat := by simp; omega
  unfold decodeSlot Slot.word
  simp only [slotWord_op, e, ofWord_slotWord, ofOpcode_code c ty h]
  rw [if_neg pos]
  by_cases h1 : c = .loopSet
  · subst h1
    have t0 : ty = 0 := by simpa [VCode.typing, VTyping.accepts] using h
    simp [hs rfl, t0]
  · by_cases h2 : c = .loopC
    · subst h2
      have t0 : ty = 0 := by simpa [VCode.typing, VTyping.accepts] using h
      simp [hc rfl, t0]
    · rw [if_neg h1]
      split
      · contradiction
      · rename_i h; simp at h; exact absurd h.1 h2
      · rename_i h; simp at h; simp [h]

theorem fieldsOk_loop {f : SlotF} {pop : BitVec 3} {lit} : (VForm.loopC.fieldsOk f pop lit = true → bit f.vd 2 = false) ∧
    (VForm.loopSet.fieldsOk f pop lit = true → bit f.vd 2 = true) := by
  constructor <;> intro h <;> simp [VForm.fieldsOk] at h <;> simp [h]

theorem decodeSlot_ok {c : VCode} {ty : BitVec 2} {f : SlotF} {pop zero lit} (h : slotOk c ty f pop zero lit = true) :
    decodeSlot (Slot.word ⟨c, ty, f⟩) = .ok (some ⟨c, ty, f⟩) := by
  simp only [slotOk, Bool.and_eq_true] at h
  obtain ⟨⟨⟨⟨⟨h1, h2⟩, -⟩, -⟩, -⟩, -⟩ := h
  refine decodeSlot_word h1 ?_ ?_
  · rintro rfl; exact fieldsOk_loop.1 h2
  · rintro rfl; exact fieldsOk_loop.2 h2

theorem bundleWord_litBit (pop push : BitVec 3) (zero : Bool) (a : BitVec 48) (b : SlotB) (m : Option MCmd) :
    bit (bundleWord pop push zero a b m) 121 = b.isLit := by rw [bit_eq, bundleWord_lit]; simp
theorem bundleWord_zeroBit (pop push : BitVec 3) (zero : Bool) (a : BitVec 48) (b : SlotB) (m : Option MCmd) :
    bit (bundleWord pop push zero a b m) 120 = zero := by rw [bit_eq, bundleWord_zero]; simp

theorem decodeC_bundle {pop push : BitVec 3} {zero : Bool} {a : BitVec 48} {b : SlotB} {m : Option MCmd} {sa : Option Slot}
    (ha : decodeSlot a = .ok sa) (hb : decodeB b.isLit b.word = .ok b) :
    decodeC (bundleWord pop push zero a b m) = checked (assemble sa b m ⟨pop, push, zero⟩) := by
  unfold decodeC
  simp only [bundleWord_a, bundleWord_b, bundleWord_m, bundleWord_pop, bundleWord_push, bundleWord_litBit, bundleWord_zeroBit, ha, hb,
    decodeM_mWord]

theorem decodeB_lit (w : BitVec 32) : decodeB true (SlotB.lit w).word = .ok (.lit w) := by
  unfold decodeB SlotB.word
  rw [extract_append_low _ _ _ (by decide), extract_append_high _ _ _ (by decide)]
  simp

theorem encodeV_decode {c : VCode} {ty : BitVec 2} {f : SlotF} {x : Bun} (h : bundleOk c ty f x = true) :
    (encodeV c ty f x).decode = checked (.ok (Instr.ofSlot ⟨c, ty, f⟩ x)) := by
  obtain ⟨pop, push, zero, inB, b, m⟩ := x
  unfold encodeV
  cases inB
  · simp only [bundleOk] at h
    cases b with
    | empty =>
      exact decodeC_bundle (b := .empty) (decodeSlot_ok h) rfl
    | lit w => exact decodeC_bundle (decodeSlot_ok h) (decodeB_lit w)
    | slot b =>
      simp only [Bool.false_eq_true, if_false, Bool.and_eq_true] at h
      obtain ⟨⟨h1, -⟩, h3⟩ := h
      refine decodeC_bundle (decodeSlot_ok h1) ?_
      have e := decodeSlot_ok h3
      simp only [decodeB, SlotB.isLit, SlotB.word]
      simp [e]
  · simp only [bundleOk, if_true, Bool.and_eq_true, beq_iff_eq] at h
    obtain ⟨⟨-, rfl⟩, h3⟩ := h
    have e := decodeSlot_ok h3
    refine decodeC_bundle (sa := none) (by decide) ?_
    simp only [decodeB, SlotB.isLit, SlotB.word]
    simp [e]

@[simp] theorem kiWord_sh (op : BitVec 7) (d a : BitVec 5) (i : BitVec 6) : (kiWord op d a ((0 : BitVec 9) ++ i)).extractLsb' 0 6 = i := by
  unfold kiWord
  rw [extract_append_low _ _ _ (by decide), extract_append_low _ _ _ (by decide)]
  simp

/-- An immediate that holds a shift count alone has nothing above it. -/
theorem bits_sh (i : BitVec 6) : bits ((0 : BitVec 9) ++ i) 14 6 = 0 := by
  rw [bits_eq, extract_append_high _ _ _ (by decide)]
  simp

/-- A code of three bits in a register field. -/
theorem code3 (c : BitVec 3) : bits ((0 : BitVec 2) ++ c) 4 3 = 0 ∧ ((0 : BitVec 2) ++ c).extractLsb' 0 3 = c := by
  revert c
  decide

/-- The kind and scope of FENCE in a register field. -/
theorem fenceField (k z : BitVec 2) : ((0 : BitVec 1) ++ k ++ z).extractLsb' 2 2 = k ∧ ((0 : BitVec 1) ++ k ++ z).extractLsb' 0 2 = z ∧
    bit ((0 : BitVec 1) ++ k ++ z) 4 = false := by
  revert k z
  decide

/-- An operation code in the func field of an atomic. -/
theorem atomicFunc (op : BitVec 4) (mk : BitVec 4 → Instr) : decodeKAtomic ((0 : BitVec 6) ++ op).toNat mk = .ok (mk op) := by
  revert op
  apply four_cases
  intro n hn
  interval_cases n <;> rfl

/-- An S atomic from its opcode. -/
theorem decodeS_atomic (op : BitVec 4) (f : LSF) :
    decodeSOther ((0x8 : BitVec 4) ++ op).toNat f = .ok (.atm op f) ∧ decodeSOther ((0x9 : BitVec 4) ++ op).toNat f = .ok (.atl op f) ∧
      decodeSOther ((0xA : BitVec 4) ++ op).toNat f = .ok (.atf op f) := by
  revert op
  apply four_cases
  intro n hn
  interval_cases n <;> exact ⟨rfl, rfl, rfl⟩

theorem atomic_not_mem (op : BitVec 4) : ¬ ((0x8 : BitVec 4) ++ op).toNat < 0x40 ∧ ¬ ((0x9 : BitVec 4) ++ op).toNat < 0x40 ∧
    ¬ ((0xA : BitVec 4) ++ op).toNat < 0x40 := by
  revert op
  apply four_cases
  intro n hn
  interval_cases n <;> decide

/-- A bundle of slot M with empty vector slots. -/
theorem encodeM_decode (op : MOp) (m : MSlot) (k : Toks) : (encodeM op m k).decode = checked (.ok (Instr.ofM (some ⟨op, m⟩) k)) :=
  decodeC_bundle (sa := none) (b := .empty) (by decide) (by decide)

end Sys2Proof
end

