-- ==== Sys2Proof/Laws/State.lean ====
section
/-! SUPPORT. What the updates of State leave and set: one lemma for each field and update, so that no proof unfolds a record update. -/

namespace Sys2Proof.Machine

/-! ### Vectors by number -/

@[simp] theorem rd_wr_self {α : Type} {n : Nat} [Inhabited α] (v : Vector α n) (i : Nat) (x : α) (h : i < n) :
    rd (wr v i x) i = x := by simp [rd, wr, h]

theorem rd_wr_ne {α : Type} {n : Nat} [Inhabited α] (v : Vector α n) (i j : Nat) (x : α) (h : i ≠ j) :
    rd (wr v i x) j = rd v j := by simp [rd, wr, Vector.getElem?_setIfInBounds_ne h]

/-! ### Tiles -/

@[simp] theorem tileAt_setTileAt_self (s : State) (t : TileId) (x : Tile) : (s.setTileAt t x).tileAt t = x := by
  simp [State.tileAt, State.setTileAt]

theorem tileAt_setTileAt_ne (s : State) (t u : TileId) (x : Tile) (h : t ≠ u) : (s.setTileAt t x).tileAt u = s.tileAt u := by
  have : t.val ≠ u.val := fun e => h (Fin.ext e)
  simp [State.tileAt, State.setTileAt, Vector.getElem_set_ne, this]

theorem tileAt_setTileAt (s : State) (t u : TileId) (x : Tile) :
    (s.setTileAt t x).tileAt u = if t = u then x else s.tileAt u := by
  by_cases h : t = u
  · subst h; simp
  · simp [h, tileAt_setTileAt_ne]

@[simp] theorem setTileAt_setTileAt (s : State) (t : TileId) (x y : Tile) :
    (s.setTileAt t x).setTileAt t y = s.setTileAt t y := by simp [State.setTileAt]

@[simp] theorem setTileAt_tileAt (s : State) (t : TileId) : s.setTileAt t (s.tileAt t) = s := by
  simp [State.setTileAt, State.tileAt]

@[simp] theorem cur_setTileAt (s : State) (t : TileId) (x : Tile) : (s.setTileAt t x).cur = s.cur := rfl
@[simp] theorem defer_setTileAt (s : State) (t : TileId) (x : Tile) : (s.setTileAt t x).defer = s.defer := rfl
@[simp] theorem agenda_setTileAt (s : State) (t : TileId) (x : Tile) : (s.setTileAt t x).agenda = s.agenda := rfl
@[simp] theorem tick_setTileAt (s : State) (t : TileId) (x : Tile) : (s.setTileAt t x).tick = s.tick := rfl
@[simp] theorem cur_updDev (s : State) (f : Device → Device) : (s.updDev f).cur = s.cur := rfl
@[simp] theorem dev_updDev (s : State) (f : Device → Device) : (s.updDev f).dev = f s.dev := rfl
@[simp] theorem cur_upd (s : State) (f : Tile → Tile) : (s.upd f).cur = s.cur := rfl
@[simp] theorem defer_upd (s : State) (f : Tile → Tile) : (s.upd f).defer = s.defer := rfl

@[simp] theorem tile_upd (s : State) (f : Tile → Tile) : (s.upd f).tile = f s.tile := by
  simp [State.upd, State.updAt, State.tile]

@[simp] theorem upd_upd (s : State) (f g : Tile → Tile) : (s.upd f).upd g = s.upd fun t => g (f t) := by
  simp [State.upd, State.updAt]

@[simp] theorem tileAt_updAt_self (s : State) (t : TileId) (f : Tile → Tile) : (s.updAt t f).tileAt t = f (s.tileAt t) := by
  simp [State.updAt]

theorem tileAt_updAt_ne (s : State) (t u : TileId) (f : Tile → Tile) (h : t ≠ u) : (s.updAt t f).tileAt u = s.tileAt u :=
  tileAt_setTileAt_ne s t u _ h

@[simp] theorem hbm_setTileAt (s : State) (t : TileId) (x : Tile) : (s.setTileAt t x).dev.hbm = s.dev.hbm := rfl
@[simp] theorem hub_setTileAt (s : State) (t : TileId) (x : Tile) : (s.setTileAt t x).dev.hub = s.dev.hub := rfl
@[simp] theorem host_setTileAt (s : State) (t : TileId) (x : Tile) : (s.setTileAt t x).dev.host = s.dev.host := rfl
@[simp] theorem hostCopies_setTileAt (s : State) (t : TileId) (x : Tile) : (s.setTileAt t x).dev.hostCopies = s.dev.hostCopies := rfl
@[simp] theorem hostDeny_setTileAt (s : State) (t : TileId) (x : Tile) : (s.setTileAt t x).dev.hostDeny = s.dev.hostDeny := rfl
@[simp] theorem hostLost_setTileAt (s : State) (t : TileId) (x : Tile) : (s.setTileAt t x).dev.hostLost = s.dev.hostLost := rfl
@[simp] theorem queues_setTileAt (s : State) (t : TileId) (x : Tile) : (s.setTileAt t x).dev.queues = s.dev.queues := rfl
@[simp] theorem served_setTileAt (s : State) (t : TileId) (x : Tile) : (s.setTileAt t x).dev.served = s.dev.served := rfl
@[simp] theorem launches_setTileAt (s : State) (t : TileId) (x : Tile) : (s.setTileAt t x).dev.launches = s.dev.launches := rfl
@[simp] theorem images_setTileAt (s : State) (t : TileId) (x : Tile) : (s.setTileAt t x).dev.images = s.dev.images := rfl
@[simp] theorem ctxbase_setTileAt (s : State) (t : TileId) (x : Tile) : (s.setTileAt t x).dev.ctxbase = s.dev.ctxbase := rfl
@[simp] theorem sdva_setTileAt (s : State) (t : TileId) (x : Tile) : (s.setTileAt t x).dev.sdva = s.dev.sdva := rfl
@[simp] theorem sdlen_setTileAt (s : State) (t : TileId) (x : Tile) : (s.setTileAt t x).dev.sdlen = s.dev.sdlen := rfl
@[simp] theorem sdctl_setTileAt (s : State) (t : TileId) (x : Tile) : (s.setTileAt t x).dev.sdctl = s.dev.sdctl := rfl
@[simp] theorem shoot_setTileAt (s : State) (t : TileId) (x : Tile) : (s.setTileAt t x).dev.shoot = s.dev.shoot := rfl
@[simp] theorem syncIds_setTileAt (s : State) (t : TileId) (x : Tile) : (s.setTileAt t x).dev.syncIds = s.dev.syncIds := rfl
@[simp] theorem farange_setTileAt (s : State) (t : TileId) (x : Tile) : (s.setTileAt t x).dev.farange = s.dev.farange := rfl
@[simp] theorem acct_setTileAt (s : State) (t : TileId) (x : Tile) : (s.setTileAt t x).dev.acct = s.dev.acct := rfl
@[simp] theorem acctHeld_setTileAt (s : State) (t : TileId) (x : Tile) : (s.setTileAt t x).dev.acctHeld = s.dev.acctHeld := rfl
@[simp] theorem bound_setTileAt (s : State) (t : TileId) (x : Tile) : (s.setTileAt t x).dev.bound = s.dev.bound := rfl
@[simp] theorem sxbase_setTileAt (s : State) (t : TileId) (x : Tile) : (s.setTileAt t x).dev.sxbase = s.dev.sxbase := rfl
@[simp] theorem sxk_setTileAt (s : State) (t : TileId) (x : Tile) : (s.setTileAt t x).dev.sxk = s.dev.sxk := rfl
@[simp] theorem sxen_setTileAt (s : State) (t : TileId) (x : Tile) : (s.setTileAt t x).dev.sxen = s.dev.sxen := rfl
@[simp] theorem sxlive_setTileAt (s : State) (t : TileId) (x : Tile) : (s.setTileAt t x).dev.sxlive = s.dev.sxlive := rfl
@[simp] theorem walks_setTileAt (s : State) (t : TileId) (x : Tile) : (s.setTileAt t x).dev.walks = s.dev.walks := rfl
@[simp] theorem savebase_setTileAt (s : State) (t : TileId) (x : Tile) : (s.setTileAt t x).dev.savebase = s.dev.savebase := rfl
@[simp] theorem saveslots_setTileAt (s : State) (t : TileId) (x : Tile) : (s.setTileAt t x).dev.saveslots = s.dev.saveslots := rfl
@[simp] theorem saves_setTileAt (s : State) (t : TileId) (x : Tile) : (s.setTileAt t x).dev.saves = s.dev.saves := rfl
@[simp] theorem flgap_setTileAt (s : State) (t : TileId) (x : Tile) : (s.setTileAt t x).dev.flgap = s.dev.flgap := rfl
@[simp] theorem devid_setTileAt (s : State) (t : TileId) (x : Tile) : (s.setTileAt t x).dev.devid = s.dev.devid := rfl
@[simp] theorem htag_setTileAt (s : State) (t : TileId) (x : Tile) : (s.setTileAt t x).dev.htag = s.dev.htag := rfl
@[simp] theorem ports_setTileAt (s : State) (t : TileId) (x : Tile) : (s.setTileAt t x).dev.ports = s.dev.ports := rfl
@[simp] theorem hentia_setTileAt (s : State) (t : TileId) (x : Tile) : (s.setTileAt t x).dev.hentia = s.dev.hentia := rfl
@[simp] theorem paths_setTileAt (s : State) (t : TileId) (x : Tile) : (s.setTileAt t x).dev.paths = s.dev.paths := rfl
@[simp] theorem failed_setTileAt (s : State) (t : TileId) (x : Tile) : (s.setTileAt t x).dev.failed = s.dev.failed := rfl
@[simp] theorem net_setTileAt (s : State) (t : TileId) (x : Tile) : (s.setTileAt t x).dev.net = s.dev.net := rfl
@[simp] theorem portT_setTileAt (s : State) (t : TileId) (x : Tile) : (s.setTileAt t x).dev.portT = s.dev.portT := rfl
@[simp] theorem portWaves_setTileAt (s : State) (t : TileId) (x : Tile) : (s.setTileAt t x).dev.portWaves = s.dev.portWaves := rfl
@[simp] theorem combs_setTileAt (s : State) (t : TileId) (x : Tile) : (s.setTileAt t x).dev.combs = s.dev.combs := rfl
@[simp] theorem toFabric_setTileAt (s : State) (t : TileId) (x : Tile) : (s.setTileAt t x).dev.toFabric = s.dev.toFabric := rfl
@[simp] theorem hostReads_setTileAt (s : State) (t : TileId) (x : Tile) : (s.setTileAt t x).dev.hostReads = s.dev.hostReads := rfl
@[simp] theorem farReplies_setTileAt (s : State) (t : TileId) (x : Tile) : (s.setTileAt t x).dev.farReplies = s.dev.farReplies := rfl
@[simp] theorem remote_setTileAt (s : State) (t : TileId) (x : Tile) : (s.setTileAt t x).dev.remote = s.dev.remote := rfl
@[simp] theorem lost_setTileAt (s : State) (t : TileId) (x : Tile) : (s.setTileAt t x).dev.lost = s.dev.lost := rfl
@[simp] theorem nextId_setTileAt (s : State) (t : TileId) (x : Tile) : (s.setTileAt t x).dev.nextId = s.dev.nextId := rfl
@[simp] theorem stall_setTileAt (s : State) (t : TileId) (x : Tile) : (s.setTileAt t x).dev.stall = s.dev.stall := rfl
@[simp] theorem now_setTileAt (s : State) (t : TileId) (x : Tile) : (s.setTileAt t x).dev.now = s.dev.now := rfl
@[simp] theorem clk_setTileAt (s : State) (t : TileId) (x : Tile) : (s.setTileAt t x).dev.clk = s.dev.clk := rfl
@[simp] theorem clkRem_setTileAt (s : State) (t : TileId) (x : Tile) : (s.setTileAt t x).dev.clkRem = s.dev.clkRem := rfl
@[simp] theorem mgmt_setTileAt (s : State) (t : TileId) (x : Tile) : (s.setTileAt t x).dev.mgmt = s.dev.mgmt := rfl
@[simp] theorem dies_setTileAt (s : State) (t : TileId) (x : Tile) : (s.setTileAt t x).dev.dies = s.dev.dies := rfl

/-! ### K goes on -/

@[simp] theorem task_kGo (t : Tile) (pc : Word) : (t.kGo pc).task = t.task := rfl
@[simp] theorem live_kGo (t : Tile) (pc : Word) : (t.kGo pc).live = t.live := rfl
@[simp] theorem loopmode_kGo (t : Tile) (pc : Word) : (t.kGo pc).loopmode = t.loopmode := rfl
@[simp] theorem age_kGo (t : Tile) (pc : Word) : (t.kGo pc).age = t.age := rfl
@[simp] theorem tvec_kGo (t : Tile) (pc : Word) : (t.kGo pc).tvec = t.tvec := rfl
@[simp] theorem l_kGo (t : Tile) (pc : Word) : (t.kGo pc).l = t.l := rfl
@[simp] theorem s_kGo (t : Tile) (pc : Word) : (t.kGo pc).s = t.s := rfl
@[simp] theorem c_kGo (t : Tile) (pc : Word) : (t.kGo pc).c = t.c := rfl
@[simp] theorem gd_kGo (t : Tile) (pc : Word) : (t.kGo pc).gd = t.gd := rfl
@[simp] theorem sm_kGo (t : Tile) (pc : Word) : (t.kGo pc).sm = t.sm := rfl
@[simp] theorem evq_kGo (t : Tile) (pc : Word) : (t.kGo pc).evq = t.evq := rfl
@[simp] theorem evHead_kGo (t : Tile) (pc : Word) : (t.kGo pc).evHead = t.evHead := rfl
@[simp] theorem evWait_kGo (t : Tile) (pc : Word) : (t.kGo pc).evWait = t.evWait := rfl
@[simp] theorem tok_kGo (t : Tile) (pc : Word) : (t.kGo pc).tok = t.tok := rfl
@[simp] theorem regspace_kGo (t : Tile) (pc : Word) : (t.kGo pc).regspace = t.regspace := rfl
@[simp] theorem rvalid_kGo (t : Tile) (pc : Word) : (t.kGo pc).rvalid = t.rvalid := rfl
@[simp] theorem side_kGo (t : Tile) (pc : Word) : (t.kGo pc).side = t.side := rfl
@[simp] theorem q_kGo (t : Tile) (pc : Word) : (t.kGo pc).q = t.q := rfl
@[simp] theorem qhead_kGo (t : Tile) (pc : Word) : (t.kGo pc).qhead = t.qhead := rfl
@[simp] theorem subs_kGo (t : Tile) (pc : Word) : (t.kGo pc).subs = t.subs := rfl
@[simp] theorem pubs_kGo (t : Tile) (pc : Word) : (t.kGo pc).pubs = t.pubs := rfl
@[simp] theorem batch_kGo (t : Tile) (pc : Word) : (t.kGo pc).batch = t.batch := rfl
@[simp] theorem barDue_kGo (t : Tile) (pc : Word) : (t.kGo pc).barDue = t.barDue := rfl
@[simp] theorem reqs_kGo (t : Tile) (pc : Word) : (t.kGo pc).reqs = t.reqs := rfl
@[simp] theorem orphans_kGo (t : Tile) (pc : Word) : (t.kGo pc).orphans = t.orphans := rfl
@[simp] theorem refused_kGo (t : Tile) (pc : Word) : (t.kGo pc).refused = t.refused := rfl
@[simp] theorem chans_kGo (t : Tile) (pc : Word) : (t.kGo pc).chans = t.chans := rfl
@[simp] theorem spm_kGo (t : Tile) (pc : Word) : (t.kGo pc).spm = t.spm := rfl
@[simp] theorem spmLaunch_kGo (t : Tile) (pc : Word) : (t.kGo pc).spmLaunch = t.spmLaunch := rfl
@[simp] theorem tlb_kGo (t : Tile) (pc : Word) : (t.kGo pc).tlb = t.tlb := rfl
@[simp] theorem pmap_kGo (t : Tile) (pc : Word) : (t.kGo pc).pmap = t.pmap := rfl
@[simp] theorem preempt_kGo (t : Tile) (pc : Word) : (t.kGo pc).preempt = t.preempt := rfl
@[simp] theorem kill_kGo (t : Tile) (pc : Word) : (t.kGo pc).kill = t.kill := rfl
@[simp] theorem matchT_kGo (t : Tile) (pc : Word) : (t.kGo pc).matchT = t.matchT := rfl
@[simp] theorem waves_kGo (t : Tile) (pc : Word) : (t.kGo pc).waves = t.waves := rfl
@[simp] theorem acc_kGo (t : Tile) (pc : Word) : (t.kGo pc).acc = t.acc := rfl
@[simp] theorem carves_kGo (t : Tile) (pc : Word) : (t.kGo pc).carves = t.carves := rfl
@[simp] theorem kept_kGo (t : Tile) (pc : Word) : (t.kGo pc).kept = t.kept := rfl
@[simp] theorem guarded_kGo (t : Tile) (pc : Word) : (t.kGo pc).guarded = t.guarded := rfl
@[simp] theorem lstall_kGo (t : Tile) (pc : Word) : (t.kGo pc).lstall = t.lstall := rfl
@[simp] theorem k_regs_kGo (t : Tile) (pc : Word) : (t.kGo pc).k.regs = t.k.regs := rfl
@[simp] theorem k_kt_kGo (t : Tile) (pc : Word) : (t.kGo pc).k.kt = t.k.kt := rfl
@[simp] theorem k_trap_kGo (t : Tile) (pc : Word) : (t.kGo pc).k.trap = t.k.trap := rfl
@[simp] theorem k_ended_kGo (t : Tile) (pc : Word) : (t.kGo pc).k.ended = t.k.ended := rfl
@[simp] theorem k_pend_kGo (t : Tile) (pc : Word) : (t.kGo pc).k.pend = none := rfl
@[simp] theorem k_pc_kGo (t : Tile) (pc : Word) : (t.kGo pc).k.pc = pc := rfl

/-! ### A register of K written -/

@[simp] theorem task_kset (t : Tile) (r : Reg) (v : Word) : (t.kset r v).task = t.task := by
  unfold Tile.kset; split <;> [rfl; split <;> rfl]
@[simp] theorem live_kset (t : Tile) (r : Reg) (v : Word) : (t.kset r v).live = t.live := by
  unfold Tile.kset; split <;> [rfl; split <;> rfl]
@[simp] theorem loopmode_kset (t : Tile) (r : Reg) (v : Word) : (t.kset r v).loopmode = t.loopmode := by
  unfold Tile.kset; split <;> [rfl; split <;> rfl]
@[simp] theorem age_kset (t : Tile) (r : Reg) (v : Word) : (t.kset r v).age = t.age := by
  unfold Tile.kset; split <;> [rfl; split <;> rfl]
@[simp] theorem tvec_kset (t : Tile) (r : Reg) (v : Word) : (t.kset r v).tvec = t.tvec := by
  unfold Tile.kset; split <;> [rfl; split <;> rfl]
@[simp] theorem l_kset (t : Tile) (r : Reg) (v : Word) : (t.kset r v).l = t.l := by
  unfold Tile.kset; split <;> [rfl; split <;> rfl]
@[simp] theorem s_kset (t : Tile) (r : Reg) (v : Word) : (t.kset r v).s = t.s := by
  unfold Tile.kset; split <;> [rfl; split <;> rfl]
@[simp] theorem c_kset (t : Tile) (r : Reg) (v : Word) : (t.kset r v).c = t.c := by
  unfold Tile.kset; split <;> [rfl; split <;> rfl]
@[simp] theorem gd_kset (t : Tile) (r : Reg) (v : Word) : (t.kset r v).gd = t.gd := by
  unfold Tile.kset; split <;> [rfl; split <;> rfl]
@[simp] theorem sm_kset (t : Tile) (r : Reg) (v : Word) : (t.kset r v).sm = t.sm := by
  unfold Tile.kset; split <;> [rfl; split <;> rfl]
@[simp] theorem evq_kset (t : Tile) (r : Reg) (v : Word) : (t.kset r v).evq = t.evq := by
  unfold Tile.kset; split <;> [rfl; split <;> rfl]
@[simp] theorem evHead_kset (t : Tile) (r : Reg) (v : Word) : (t.kset r v).evHead = t.evHead := by
  unfold Tile.kset; split <;> [rfl; split <;> rfl]
@[simp] theorem evWait_kset (t : Tile) (r : Reg) (v : Word) : (t.kset r v).evWait = t.evWait := by
  unfold Tile.kset; split <;> [rfl; split <;> rfl]
@[simp] theorem tok_kset (t : Tile) (r : Reg) (v : Word) : (t.kset r v).tok = t.tok := by
  unfold Tile.kset; split <;> [rfl; split <;> rfl]
@[simp] theorem regspace_kset (t : Tile) (r : Reg) (v : Word) : (t.kset r v).regspace = t.regspace := by
  unfold Tile.kset; split <;> [rfl; split <;> rfl]
@[simp] theorem rvalid_kset (t : Tile) (r : Reg) (v : Word) : (t.kset r v).rvalid = t.rvalid := by
  unfold Tile.kset; split <;> [rfl; split <;> rfl]
@[simp] theorem side_kset (t : Tile) (r : Reg) (v : Word) : (t.kset r v).side = t.side := by
  unfold Tile.kset; split <;> [rfl; split <;> rfl]
@[simp] theorem q_kset (t : Tile) (r : Reg) (v : Word) : (t.kset r v).q = t.q := by
  unfold Tile.kset; split <;> [rfl; split <;> rfl]
@[simp] theorem qhead_kset (t : Tile) (r : Reg) (v : Word) : (t.kset r v).qhead = t.qhead := by
  unfold Tile.kset; split <;> [rfl; split <;> rfl]
@[simp] theorem subs_kset (t : Tile) (r : Reg) (v : Word) : (t.kset r v).subs = t.subs := by
  unfold Tile.kset; split <;> [rfl; split <;> rfl]
@[simp] theorem pubs_kset (t : Tile) (r : Reg) (v : Word) : (t.kset r v).pubs = t.pubs := by
  unfold Tile.kset; split <;> [rfl; split <;> rfl]
@[simp] theorem batch_kset (t : Tile) (r : Reg) (v : Word) : (t.kset r v).batch = t.batch := by
  unfold Tile.kset; split <;> [rfl; split <;> rfl]
@[simp] theorem barDue_kset (t : Tile) (r : Reg) (v : Word) : (t.kset r v).barDue = t.barDue := by
  unfold Tile.kset; split <;> [rfl; split <;> rfl]
@[simp] theorem reqs_kset (t : Tile) (r : Reg) (v : Word) : (t.kset r v).reqs = t.reqs := by
  unfold Tile.kset; split <;> [rfl; split <;> rfl]
@[simp] theorem orphans_kset (t : Tile) (r : Reg) (v : Word) : (t.kset r v).orphans = t.orphans := by
  unfold Tile.kset; split <;> [rfl; split <;> rfl]
@[simp] theorem refused_kset (t : Tile) (r : Reg) (v : Word) : (t.kset r v).refused = t.refused := by
  unfold Tile.kset; split <;> [rfl; split <;> rfl]
@[simp] theorem chans_kset (t : Tile) (r : Reg) (v : Word) : (t.kset r v).chans = t.chans := by
  unfold Tile.kset; split <;> [rfl; split <;> rfl]
@[simp] theorem spm_kset (t : Tile) (r : Reg) (v : Word) : (t.kset r v).spm = t.spm := by
  unfold Tile.kset; split <;> [rfl; split <;> rfl]
@[simp] theorem spmLaunch_kset (t : Tile) (r : Reg) (v : Word) : (t.kset r v).spmLaunch = t.spmLaunch := by
  unfold Tile.kset; split <;> [rfl; split <;> rfl]
@[simp] theorem tlb_kset (t : Tile) (r : Reg) (v : Word) : (t.kset r v).tlb = t.tlb := by
  unfold Tile.kset; split <;> [rfl; split <;> rfl]
@[simp] theorem pmap_kset (t : Tile) (r : Reg) (v : Word) : (t.kset r v).pmap = t.pmap := by
  unfold Tile.kset; split <;> [rfl; split <;> rfl]
@[simp] theorem preempt_kset (t : Tile) (r : Reg) (v : Word) : (t.kset r v).preempt = t.preempt := by
  unfold Tile.kset; split <;> [rfl; split <;> rfl]
@[simp] theorem kill_kset (t : Tile) (r : Reg) (v : Word) : (t.kset r v).kill = t.kill := by
  unfold Tile.kset; split <;> [rfl; split <;> rfl]
@[simp] theorem matchT_kset (t : Tile) (r : Reg) (v : Word) : (t.kset r v).matchT = t.matchT := by
  unfold Tile.kset; split <;> [rfl; split <;> rfl]
@[simp] theorem waves_kset (t : Tile) (r : Reg) (v : Word) : (t.kset r v).waves = t.waves := by
  unfold Tile.kset; split <;> [rfl; split <;> rfl]
@[simp] theorem acc_kset (t : Tile) (r : Reg) (v : Word) : (t.kset r v).acc = t.acc := by
  unfold Tile.kset; split <;> [rfl; split <;> rfl]
@[simp] theorem carves_kset (t : Tile) (r : Reg) (v : Word) : (t.kset r v).carves = t.carves := by
  unfold Tile.kset; split <;> [rfl; split <;> rfl]
@[simp] theorem kept_kset (t : Tile) (r : Reg) (v : Word) : (t.kset r v).kept = t.kept := by
  unfold Tile.kset; split <;> [rfl; split <;> rfl]
@[simp] theorem guarded_kset (t : Tile) (r : Reg) (v : Word) : (t.kset r v).guarded = t.guarded := by
  unfold Tile.kset; split <;> [rfl; split <;> rfl]
@[simp] theorem lstall_kset (t : Tile) (r : Reg) (v : Word) : (t.kset r v).lstall = t.lstall := by
  unfold Tile.kset; split <;> [rfl; split <;> rfl]
@[simp] theorem k_pc_kset (t : Tile) (r : Reg) (v : Word) : (t.kset r v).k.pc = t.k.pc := by
  unfold Tile.kset; split <;> [rfl; split <;> rfl]
@[simp] theorem k_trap_kset (t : Tile) (r : Reg) (v : Word) : (t.kset r v).k.trap = t.k.trap := by
  unfold Tile.kset; split <;> [rfl; split <;> rfl]
@[simp] theorem k_ended_kset (t : Tile) (r : Reg) (v : Word) : (t.kset r v).k.ended = t.k.ended := by
  unfold Tile.kset; split <;> [rfl; split <;> rfl]
@[simp] theorem k_pend_kset (t : Tile) (r : Reg) (v : Word) : (t.kset r v).k.pend = t.k.pend := by
  unfold Tile.kset; split <;> [rfl; split <;> rfl]
@[simp] theorem k_since_kset (t : Tile) (r : Reg) (v : Word) : (t.kset r v).k.since = t.k.since := by
  unfold Tile.kset; split <;> [rfl; split <;> rfl]
@[simp] theorem k_clk_kset (t : Tile) (r : Reg) (v : Word) : (t.kset r v).k.clk = t.k.clk := by
  unfold Tile.kset; split <;> [rfl; split <;> rfl]

end Sys2Proof.Machine
end

