-- ==== Sys2Proof/Laws/K.lean ====
section
/-! SUPPORT. What the shared operations of K do: a register written, K going on, a fault of K's own instruction. -/

namespace Sys2Proof.Machine

/-- Reading a register of K after one has been written. -/
theorem kget_kset (t : Tile) (d r : Reg) (v : Word) :
    (t.kset d v).kget r = if r = d ∧ r ≠ 0 then v else t.kget r := by
  have hlt : ∀ x : Reg, x.toNat < 32 := fun x => x.isLt
  have hne : ∀ x y : Reg, x ≠ y → x.toNat ≠ y.toNat := fun x y h e => h (BitVec.eq_of_toNat_eq e)
  by_cases hd : d = 0
  · subst hd; simp [Tile.kset]
  by_cases hr : r = 0
  · subst hr; simp [Tile.kget]
  unfold Tile.kset Tile.kget
  by_cases htr : t.k.trap = true <;> by_cases h24 : 24 ≤ d.toNat <;> by_cases k24 : 24 ≤ r.toNat <;>
    simp only [hd, hr, htr, h24, k24, if_false, if_true, decide_true, decide_false,
      Bool.and_true, Bool.and_false, ne_eq, not_false_eq_true, and_true, Bool.false_eq_true] <;>
    by_cases e : r = d <;> simp only [e, if_true, if_false]
  all_goals first
    | (rw [rd_wr_self _ _ _ (by have := hlt d; omega)])
    | (rw [rd_wr_ne _ _ _ _ (by have := hne r d e; omega)])
    | (subst e; omega)

theorem kset_kt_of_user (t : Tile) (d : Reg) (v : Word) (h : t.k.trap = false) : (t.kset d v).k.kt = t.k.kt := by
  unfold Tile.kset; simp only [h, Bool.false_and]; split <;> rfl

theorem kset_regs_of_trap (t : Tile) (d : Reg) (v : Word) (h : t.k.trap = true) (i : Nat) (hi : 24 ≤ i) :
    rd (t.kset d v).k.regs i = rd t.k.regs i := by
  unfold Tile.kset
  split
  · rfl
  split
  · rfl
  next h24 =>
    have : ¬ 24 ≤ d.toNat := by simpa [h] using h24
    exact rd_wr_ne _ _ _ _ (by omega)

theorem kget_kGo (t : Tile) (pc : Word) (r : Reg) : (t.kGo pc).kget r = t.kget r := rfl

theorem kset_eq (t : Tile) (d : Reg) (v : Word) : t.kset d v = { t with k := (t.kset d v).k } := by
  unfold Tile.kset; split <;> [rfl; split <;> rfl]

/-- A change of K's own state leaves every memory. -/
theorem sameMemory_upd_k (s : State) (k : Tile → KState) : SameMemory s (s.upd fun x => { x with k := k x }) := by
  refine ⟨fun _ => rfl, fun _ => rfl, fun _ _ => rfl, fun u => ?_⟩
  by_cases h : s.cur = u
  · subst h
    have : (s.upd fun x => { x with k := k x }).tileAt s.cur = { s.tileAt s.cur with k := k (s.tileAt s.cur) } := by
      simp [State.upd]
    rw [this]; exact ⟨fun _ => rfl, fun _ => rfl, fun _ => rfl, fun _ _ => rfl⟩
  · have : (s.upd fun x => { x with k := k x }).tileAt u = s.tileAt u := tileAt_updAt_ne _ _ _ _ h
    rw [this]; exact ⟨fun _ => rfl, fun _ => rfl, fun _ => rfl, fun _ _ => rfl⟩

/-- K writes a register and continues at an address. -/
theorem kset_kGo_wrote (s : State) (d : Reg) (v pc : Word) : KWrote s (s.upd fun t => (t.kset d v).kGo pc) d v pc := by
  have he : (s.upd fun t => (t.kset d v).kGo pc) = s.upd fun t => { t with k := ((t.kset d v).kGo pc).k } := by
    unfold State.upd State.updAt
    congr 1
    generalize s.tileAt s.cur = t
    change (t.kset d v).kGo pc = { t with k := ((t.kset d v).kGo pc).k }
    rw [kset_eq t d v]; rfl
  refine ⟨fun r => ?_, fun h i hi => ?_, fun h => ?_, ?_, ?_, ?_, ?_, ?_, ?_⟩
  · simp only [tile_upd]; rw [kget_kGo, kget_kset]
  · simp only [tile_upd]; exact kset_regs_of_trap _ _ _ h _ hi
  · simp only [tile_upd]; exact kset_kt_of_user _ _ _ h
  · simp
  · simp
  · simp
  · simp
  · unfold OnlyK; simp only [tile_upd]; exact he
  · rw [he]; exact sameMemory_upd_k s _

/-- What State.kDone does. -/
theorem kDone_wrote (s : State) (d : Reg) (v : Word) : KWrote s (s.kDone d v) d v (s.tile.k.pc + 4) := by
  have : s.kDone d v = s.upd fun t => (t.kset d v).kGo (s.tile.k.pc + 4) := by
    unfold State.kDone Tile.kNext State.upd State.updAt State.tile; simp
  rw [this]; exact kset_kGo_wrote s d v _

/-- What State.kSkip does. -/
theorem kSkip_went (s : State) : KWent s s.kSkip (s.tile.k.pc + 4) := by
  have : s.kSkip = s.upd fun t => (t.kset 0 0).kGo (s.tile.k.pc + 4) := by
    unfold State.kSkip Tile.kNext State.upd State.updAt State.tile; simp [Tile.kset]
  rw [this]; exact kset_kGo_wrote s 0 0 _

/-- K jumps to an address in its stream, after a register write. -/
theorem kJump_wrote (s : State) (pc : Word) (d : Reg) (v : Word) (h : s.tile.kIn pc = true) :
    KWrote s (s.kJump pc fun t => t.kset d v) d v pc := by
  unfold State.kJump; simp only [h, if_true]; exact kset_kGo_wrote s d v pc

theorem kJump_went (s : State) (pc : Word) (h : s.tile.kIn pc = true) : KWent s (s.kJump pc id) pc := by
  have : s.kJump pc id = s.kJump pc fun t => t.kset 0 0 := by unfold State.kJump; simp [Tile.kset]
  rw [this]; exact kJump_wrote s pc 0 0 h

theorem kJump_out (s : State) (pc : Word) (f : Tile → Tile) (h : s.tile.kIn pc = false) : s.kJump pc f = s.kFault .illegal 0 := by
  unfold State.kJump; simp [h]

/-! ### Exceptions -/

theorem rd_wr5 (v : Vector Word 8) (a b c d e : Word) :
    rd (wr (wr (wr (wr (wr v 0 a) 1 b) 2 c) 3 d) 4 e) 0 = a ∧ rd (wr (wr (wr (wr (wr v 0 a) 1 b) 2 c) 3 d) 4 e) 1 = b ∧
    rd (wr (wr (wr (wr (wr v 0 a) 1 b) 2 c) 3 d) 4 e) 2 = c ∧ rd (wr (wr (wr (wr (wr v 0 a) 1 b) 2 c) 3 d) 4 e) 3 = d ∧
    rd (wr (wr (wr (wr (wr v 0 a) 1 b) 2 c) 3 d) 4 e) 4 = e ∧
    ∀ i, 5 ≤ i → rd (wr (wr (wr (wr (wr v 0 a) 1 b) 2 c) 3 d) 4 e) i = rd v i := by
  refine ⟨?_, ?_, ?_, ?_, ?_, fun i hi => ?_⟩ <;> simp [rd, wr, Vector.getElem?_setIfInBounds]
  rw [if_neg (by omega), if_neg (by omega), if_neg (by omega), if_neg (by omega), if_neg (by omega)]

/-- The cause word of a cause of K's own, with the stopped ones of L, C and S. -/
def ownKt1 (c : Cause) (x y z : Bool) : Word :=
  BitVec.ofNat 64 (c.code + 0 * 2 ^ 8 + ((if x then 2 ^ 10 else 0) + (if y then 2 ^ 11 else 0) +
    (if z then 2 ^ 12 else 0)) + 0)

/-- kt1 of a cause of K's own: the cause's code, sequencer 0, the stopped sequencers, nothing else. -/
theorem kt1_fields (c : Cause) (x y z : Bool) :
    bits (ownKt1 c x y z) 7 0 = c.code ∧ bits (ownKt1 c x y z) 9 8 = 0 ∧ bit (ownKt1 c x y z) 10 = x ∧
    bit (ownKt1 c x y z) 11 = y ∧ bit (ownKt1 c x y z) 12 = z ∧ bits (ownKt1 c x y z) 63 13 = 0 := by
  cases c <;> cases x <;> cases y <;> cases z <;> decide

/-- A cause that K raises with a handler to take it, other than a stall of the launch. -/
theorem kRaise_handled (t : Tile) (c : Cause) (v ret w : Word) (h : t.k.trap = false) (ht : t.tvec ≠ 0) (hc : c ≠ .launchStall) :
    t.kRaise c v ret w = t.enterTrap ret c .k false v t.k.pc w := by
  have hc' : (c == Cause.launchStall) = false := by simpa using hc
  have ht' : (t.tvec == 0) = false := by simpa using ht
  unfold Tile.kRaise
  simp only [hc', h, ht', Bool.or_false, Bool.false_eq_true, if_false]

theorem enterTrap_kt (t : Tile) (ret : Word) (c : Cause) (v pc w : Word) :
    (t.enterTrap ret c .k false v pc w).k.kt = wr (wr (wr (wr (wr t.k.kt 0 ret) 1 (ownKt1 c t.l.stop.isSome t.c.stop.isSome t.s.stop.isSome)) 2 v) 3 pc) 4 w := by
  simp only [Tile.enterTrap, Tile.stopBits, seqCode, ownKt1, Bool.false_eq_true, if_false, ne_eq, reduceCtorEq, not_false_eq_true,
    bne_iff_ne, Option.some.injEq, Bool.and_eq_true, and_true]

/-- What trap entry for a cause of K's own leaves, register by register. -/
theorem enterTrap_k (t : Tile) (ret : Word) (c : Cause) (v pc w : Word) (x : KState)
    (hx : x = (t.enterTrap ret c .k false v pc w).k) :
    x.trap = true ∧ x.pc = t.tvec ∧ rd x.kt 0 = ret ∧ bits (rd x.kt 1) 7 0 = c.code ∧ bits (rd x.kt 1) 9 8 = 0 ∧
    bit (rd x.kt 1) 10 = t.l.stop.isSome ∧ bit (rd x.kt 1) 11 = t.c.stop.isSome ∧ bit (rd x.kt 1) 12 = t.s.stop.isSome ∧
    bits (rd x.kt 1) 63 13 = 0 ∧ rd x.kt 2 = v ∧ rd x.kt 3 = pc ∧ rd x.kt 4 = w ∧ (∀ i, 5 ≤ i → rd x.kt i = rd t.k.kt i) ∧
    x.regs = t.k.regs ∧ x.ended = t.k.ended := by
  have hkt : x.kt = _ := hx ▸ enterTrap_kt t ret c v pc w
  have ht : x.trap = true := by simp only [hx, Tile.enterTrap]
  have hp : x.pc = t.tvec := by simp only [hx, Tile.enterTrap]
  have hr : x.regs = t.k.regs := by simp only [hx, Tile.enterTrap]
  have he : x.ended = t.k.ended := by simp only [hx, Tile.enterTrap]
  obtain ⟨a0, a1, a2, a3, a4, a5⟩ := rd_wr5 t.k.kt ret (ownKt1 c t.l.stop.isSome t.c.stop.isSome t.s.stop.isSome) v pc w
  obtain ⟨b0, b1, b2, b3, b4, b5⟩ := kt1_fields c t.l.stop.isSome t.c.stop.isSome t.s.stop.isSome
  clear hx
  generalize ownKt1 c t.l.stop.isSome t.c.stop.isSome t.s.stop.isSome = y at *
  rw [hkt, a0, a1, a2, a3, a4]
  exact ⟨ht, hp, rfl, b0, b1, b2, b3, b4, b5, rfl, rfl, rfl, a5, hr, he⟩

/-- A fault of K's own instruction other than a stall of its launch, with a handler to take it. -/
theorem kFault_trapped (s : State) (c : Cause) (v : Word) (h : KHandles s) (hc : c ≠ .launchStall) :
    KTrapped s (s.kFault c v) c s.tile.k.pc v := by
  have he : s.kFault c v = s.upd fun t => { t with k := (s.tile.enterTrap s.tile.k.pc c .k false v s.tile.k.pc s.kWord).k } := by
    unfold State.kFault State.upd State.updAt
    congr 1
    exact kRaise_handled s.tile c v s.tile.k.pc s.kWord h.1 h.2 hc
  have hk : (s.kFault c v).tile.k = (s.tile.enterTrap s.tile.k.pc c .k false v s.tile.k.pc s.kWord).k := by
    rw [he]; simp
  obtain ⟨e0, e1, e2, e3, e4, e5, e6, e7, e8, e9, e10, e11, e12, e13, e14⟩ := enterTrap_k s.tile s.tile.k.pc c v s.tile.k.pc s.kWord _ hk
  unfold KTrapped OnlyK
  exact ⟨e0, e1, e2, e3, e4, e5, e6, e7, e8, e9, e10, e11, e12, e13, e14, hk ▸ he, he ▸ sameMemory_upd_k s _⟩

end Sys2Proof.Machine
end

