-- ==== Sys2Proof/Laws/Ls.lean ====
section
/-! SUPPORT. What the shared operation of L and S words does once a word finds nothing to wait for. -/

namespace Sys2Proof.Machine

/-- A word that is ready acts as its body says in the state that has its entries popped and its pushes reserved. -/
theorem lsRun_ready (s : State) (q : Sequencer) (f : LSF) (regs : List Reg) (preds : List (BitVec 3)) (body : State → Issue)
    (h : LsReady s q f regs preds) :
    s.lsRun q f regs preds body =
      match body (s.lsIssue q f) with
      | .wait => s.upd fun t => t.lsHold q s.dev.now
      | .link a => (s.bindTag s.tile.ctx).upd fun t =>
        let t := t.lsHold q s.dev.now
        t.setLsState q { t.ls q with sent := some ((t.ls q).sent.getD (s.dev.now, a)) }
      | .stall s2 => s2.upd fun t => t.lsHold q s.dev.now
      | .held s2 => s2
      | .fault c a m => if s.tile.mayStop q then (s.consumed s.cur c m).lsStop q (peersOf q f.push) c a else s.upd fun t => t.lsHold q s.dev.now
      | .stop s2 c a => if s.tile.mayStop q then s2.lsStop q (peersOf q f.push) c a else s.upd fun t => t.lsHold q s.dev.now
      | .next s2 pay => s2.lsEnd s q f pay
      | .jump s2 pay target =>
        if s.tile.inStream q target then
          s2.upd fun t => (t.pushReserved q (peersOf q f.push) pay (s.lsClk q f)).lsGo q (leaveLoops (t.ls q).lc target) target
        else if s.tile.mayStop q then s.lsStop q (peersOf q f.push) .illegal 0 else s.upd fun t => t.lsHold q s.dev.now
      | .loop s2 lc target =>
        if s.tile.inStream q target then
          s2.upd fun t => (t.pushReserved q (peersOf q f.push) 0 (s.lsClk q f)).lsGo q lc target
        else if s.tile.mayStop q then s.lsStop q (peersOf q f.push) .illegal 0 else s.upd fun t => t.lsHold q s.dev.now
      | .pending s2 => s2.lsGoOn q := by
  obtain ⟨h1, h2, h3, hp, h4, h5, h6⟩ := h
  have h7 : (!s.tile.canPop q (peersOf q f.pop) || !((s.tile.ls q).resv || s.tile.canPush q (peersOf q f.push))) = false := by
    rcases h6 with h6 | h6 <;> simp [h5, h6]
  unfold State.lsRun
  simp only [h1, h2, h3, hp, h4, h7, Bool.or_self, Bool.not_true, Bool.false_eq_true, if_false]
  rfl

/-- Popping and reserving touch neither the address registers nor anything else a word reads of its sequencer. -/
theorem ls_setTokQ (t : Tile) (x y : Sequencer) (v : TokQ) : (t.setTokQ x y v) = { t with tok := (t.setTokQ x y v).tok } := rfl

theorem mark_eq (t : Tile) (q : Sequencer) (n : Nat) : t.mark q n = { t with outL := (t.mark q n).outL, outS := (t.mark q n).outS } := by
  cases q <;> rfl

theorem reserve_eq (t : Tile) (q : Sequencer) (ps : List Sequencer) :
    t.reserve q ps = { t with tok := (t.reserve q ps).tok, outL := (t.reserve q ps).outL, outS := (t.reserve q ps).outS } := by
  unfold Tile.reserve
  generalize (t.clkOf q).at q + 1 = n
  induction ps generalizing t with
  | nil => rfl
  | cons p ps ih => simp only [List.foldl_cons]; rw [ih, mark_eq]; rfl

theorem pushReserved_eq (t : Tile) (q : Sequencer) (ps : List Sequencer) (pay : BitVec 32) (c : Clk) :
    t.pushReserved q ps pay c = { t with tok := (t.pushReserved q ps pay c).tok } := by
  unfold Tile.pushReserved
  induction ps generalizing t with
  | nil => rfl
  | cons p ps ih => simp only [List.foldl_cons]; rw [ih]; rfl

/-- One entry of queue p to q popped. -/
def popOne (q : Sequencer) (t : Tile) (p : Sequencer) : Tile :=
  let z := t.tokQ p q
  match z.items with
  | [] => t
  | k :: r => (t.setTokQ p q { z with head := (z.head + 1) % 16, items := r }).mark p (k.clk.at p)

theorem popFold_eq (t : Tile) (q : Sequencer) (ps : List Sequencer) :
    ps.foldl (popOne q) t =
      { t with tok := (ps.foldl (popOne q) t).tok, outL := (ps.foldl (popOne q) t).outL, outS := (ps.foldl (popOne q) t).outS } := by
  induction ps generalizing t with
  | nil => rfl
  | cons p ps ih =>
    simp only [List.foldl_cons]
    rw [ih]
    unfold popOne
    dsimp only
    split
    · rfl
    · rw [mark_eq]; rfl

/-- Popping changes the queues, the marks and the clock of the sequencer that pops, and nothing else. -/
theorem popToks_form (t : Tile) (q : Sequencer) (ps : List Sequencer) :
    ∃ z c a b, t.popToks q ps = ({ t with tok := z, outL := a, outS := b }).setClk q c :=
  ⟨_, _, _, _, congrArg (Tile.setClk · q _) (popFold_eq t q ps)⟩

theorem popFor_l (t : Tile) (ps : List Sequencer) :
    ∃ z c u a b, t.popFor .l ps = { t with tok := z, outL := a, outS := b, l := { t.l with clk := c, trail := u } } := by
  unfold Tile.popFor
  obtain ⟨z, c, a, b, h⟩ := popToks_form (t.setLsState .l { t.ls .l with trail := _ }) .l ps
  rw [h]
  exact ⟨_, _, _, _, _, rfl⟩

theorem popFor_s (t : Tile) (ps : List Sequencer) :
    ∃ z c u a b, t.popFor .s ps = { t with tok := z, outL := a, outS := b, s := { t.s with clk := c, trail := u } } := by
  unfold Tile.popFor
  obtain ⟨z, c, a, b, h⟩ := popToks_form (t.setLsState .s { t.ls .s with trail := _ }) .s ps
  rw [h]
  exact ⟨_, _, _, _, _, rfl⟩

/-- Of the stepping tile an L word's issue changes the queues, the marks, and L's clock and trail. -/
theorem lsIssue_tile_l (s : State) (f : LSF) :
    ∃ z c u a b, (s.lsIssue .l f).tile = { s.tile with tok := z, outL := a, outS := b, l := { s.tile.l with clk := c, trail := u } } := by
  obtain ⟨z, c, u, a, b, h⟩ := popFor_l s.tile (peersOf .l f.pop)
  unfold State.lsIssue
  simp only [tile_upd]
  split
  · exact ⟨z, c, u, a, b, h⟩
  · rw [reserve_eq, h]; exact ⟨_, c, u, _, _, rfl⟩

theorem lsIssue_tile_s (s : State) (f : LSF) :
    ∃ z c u a b, (s.lsIssue .s f).tile = { s.tile with tok := z, outL := a, outS := b, s := { s.tile.s with clk := c, trail := u } } := by
  obtain ⟨z, c, u, a, b, h⟩ := popFor_s s.tile (peersOf .s f.pop)
  unfold State.lsIssue
  simp only [tile_upd]
  split
  · exact ⟨z, c, u, a, b, h⟩
  · rw [reserve_eq, h]; exact ⟨_, c, u, _, _, rfl⟩

@[simp] theorem areg_lsIssue_l (s : State) (f : LSF) (r : Reg) : (s.lsIssue .l f).tile.areg .l r = s.tile.areg .l r := by
  obtain ⟨z, c, u, a, b, h⟩ := lsIssue_tile_l s f
  rw [h]; rfl

@[simp] theorem areg_lsIssue_s (s : State) (f : LSF) (r : Reg) : (s.lsIssue .s f).tile.areg .s r = s.tile.areg .s r := by
  obtain ⟨z, c, u, a, b, h⟩ := lsIssue_tile_s s f
  rw [h]; rfl

@[simp] theorem cur_lsIssue (s : State) (q : Sequencer) (f : LSF) : (s.lsIssue q f).cur = s.cur := rfl

end Sys2Proof.Machine
end

