-- ==== Sys2Proof/Laws/Memory.lean ====
section
/-! SUPPORT. What the memory operations do: what a byte reads as after a write, and that every operation keeps the canonical form. -/

namespace Sys2Proof.Machine

/-- A wider bound is a weaker demand. -/
theorem Mem.wfAbove_mono {m : Mem} {i j : Nat} (h : j ≤ i) (w : Mem.wfAbove i m = true) : Mem.wfAbove j m = true := by
  cases m with
  | nil => rfl
  | cons c t =>
    obtain ⟨a, v⟩ := c
    simp only [Mem.wfAbove, Bool.and_eq_true, decide_eq_true_eq] at w ⊢
    exact ⟨⟨by omega, w.1.2⟩, w.2⟩

/-- A filtered memory keeps the form above a bound. -/
theorem Mem.wfAbove_filter (p : Host.Cell → Bool) {m : Mem} {i : Nat} (w : Mem.wfAbove i m = true) :
    Mem.wfAbove i (m.filter p) = true := by
  induction m generalizing i with
  | nil => rfl
  | cons c t ih =>
    obtain ⟨b, v⟩ := c
    simp only [Mem.wfAbove, Bool.and_eq_true, decide_eq_true_eq] at w
    simp only [List.filter_cons]
    split
    · simp only [Mem.wfAbove, Bool.and_eq_true, decide_eq_true_eq]
      exact ⟨w.1, ih w.2⟩
    · exact Mem.wfAbove_mono (by omega) (ih w.2)

/-- A nonzero byte put at its place keeps the form above a bound. -/
theorem Mem.wfAbove_put {m : Mem} {i a : Nat} {x : Byte} (h : i ≤ a) (hx : x ≠ 0) (w : Mem.wfAbove i m = true) :
    Mem.wfAbove i (m.put a x) = true := by
  induction m generalizing i with
  | nil => simpa [Mem.put, Mem.wfAbove, h] using hx
  | cons c t ih =>
    obtain ⟨b, v⟩ := c
    simp only [Mem.wfAbove, Bool.and_eq_true, decide_eq_true_eq] at w
    unfold Mem.put
    split
    · simp only [Mem.wfAbove, Bool.and_eq_true, decide_eq_true_eq]
      exact ⟨⟨h, by simpa using hx⟩, ⟨by omega, w.1.2⟩, w.2⟩
    · split
      · rename_i h1 h2
        subst h2
        simp only [Mem.wfAbove, Bool.and_eq_true, decide_eq_true_eq]
        exact ⟨⟨h, by simpa using hx⟩, w.2⟩
      · simp only [Mem.wfAbove, Bool.and_eq_true, decide_eq_true_eq]
        exact ⟨w.1, ih (by omega) w.2⟩

/-- One byte written keeps the canonical form. -/
theorem Mem.wf_set {m : Mem} (a : Nat) (x : Byte) (w : m.wf = true) : (m.set a x).wf = true := by
  unfold Mem.set
  split
  · exact Mem.wfAbove_filter _ w
  · rename_i h; exact Mem.wfAbove_put (Nat.zero_le a) h w

/-- Bytes written as a number keep the canonical form. -/
theorem Mem.wf_writeN {m : Mem} (a n v : Nat) (w : m.wf = true) : (m.writeN a n v).wf = true := by
  induction n generalizing m a v with
  | zero => exact w
  | succ n ih => exact ih _ _ (Mem.wf_set _ _ w)

/-- Bytes written as a list keep the canonical form. -/
theorem Mem.wf_writeBytes {m : Mem} (a : Nat) (bs : List Byte) (w : m.wf = true) : (m.writeBytes a bs).wf = true := by
  induction bs generalizing m a with
  | nil => exact w
  | cons b t ih => exact ih _ (Mem.wf_set _ _ w)

/-- Bytes written under a mask keep the canonical form. -/
theorem Mem.wf_writeMask {m : Mem} (a mask n v : Nat) (w : m.wf = true) : (m.writeMask a mask n v).wf = true := by
  induction n generalizing m a mask v with
  | zero => exact w
  | succ n ih =>
    unfold Mem.writeMask
    apply ih
    split
    · exact Mem.wf_set _ _ w
    · exact w

/-- Clearing bytes keeps the canonical form. -/
theorem Mem.wf_clear {m : Mem} (a n : Nat) (w : m.wf = true) : (m.clear a n).wf = true := Mem.wfAbove_filter _ w

/-- A barrier object written keeps the canonical form. -/
theorem Mem.wf_setBar {m : Mem} (a : Nat) (b : Bar) (w : m.wf = true) : (m.setBar a b).wf = true :=
  Mem.wf_writeN _ _ _ (Mem.wf_writeN _ _ _ w)

/-- A byte of a memory from which some cells were taken out by their address. -/
theorem Mem.get_filter (m : Mem) (p : Nat → Bool) (b : Nat) :
    Mem.get (m.filter fun c => p c.1) b = if p b then m.get b else 0 := by
  induction m with
  | nil => simp [Mem.get]
  | cons c t ih =>
    obtain ⟨d, v⟩ := c
    by_cases hd : b = d
    · subst hd
      by_cases hp : p b = true
      · simp [hp, Mem.get]
      · simp only [List.filter_cons, hp, if_false, Bool.false_eq_true] at ih ⊢
        simpa [hp] using ih
    · by_cases hp : p d = true
      · simp only [List.filter_cons, hp, if_true, Mem.get, if_neg hd, ih]
      · simp only [List.filter_cons, hp, if_false, Bool.false_eq_true, Mem.get, if_neg hd, ih]

/-- What a byte reads as after a byte was put at its place. -/
theorem Mem.get_put (m : Mem) (a b : Nat) (x : Byte) : (m.put a x).get b = if b = a then x else m.get b := by
  induction m with
  | nil => simp [Mem.put, Mem.get]
  | cons c t ih =>
    obtain ⟨d, v⟩ := c
    unfold Mem.put
    split
    · simp only [Mem.get]
    · split
      · rename_i h1 h2
        subst h2
        by_cases h : b = a <;> simp [Mem.get, h]
      · rename_i h1 h2
        simp only [Mem.get, ih]
        by_cases h : b = d
        · subst h; simp [show ¬ b = a by omega]
        · simp [h]

/-- What a byte reads as after one byte was written. -/
theorem Mem.get_set (m : Mem) (a b : Nat) (x : Byte) : (m.set a x).get b = if b = a then x else m.get b := by
  unfold Mem.set
  split
  · rename_i h
    subst h
    rw [Mem.get_filter m (fun c => c != a) b]
    by_cases h : b = a <;> simp [h]
  · exact Mem.get_put m a b x

/-- What a byte reads as after n bytes of a number were written. -/
theorem Mem.get_writeN (m : Mem) (a n v b : Nat) :
    (m.writeN a n v).get b = if a ≤ b ∧ b < a + n then BitVec.ofNat 8 (v / 256 ^ (b - a)) else m.get b := by
  induction n generalizing m a v with
  | zero => rw [if_neg (by omega)]; rfl
  | succ n ih =>
    simp only [Mem.writeN]
    rw [ih, Mem.get_set]
    by_cases h : b = a
    · subst h; simp
    · by_cases h2 : a + 1 ≤ b ∧ b < a + 1 + n
      · rw [if_pos h2, if_pos (by omega), Nat.div_div_eq_div_mul, ← Nat.pow_succ', show (b - (a + 1)).succ = b - a by omega]
      · rw [if_neg h2, if_neg h, if_neg (by omega)]

/-- Bytes outside those written read as before. -/
theorem Mem.get_writeN_out (m : Mem) (a n v b : Nat) (h : b < a ∨ a + n ≤ b) : (m.writeN a n v).get b = m.get b := by
  rw [Mem.get_writeN, if_neg (by omega)]

/-- The bytes written read back as the number's low bytes. -/
theorem Mem.readN_writeN (m : Mem) (a n v : Nat) : (m.writeN a n v).readN a n = v % 256 ^ n := by
  induction n generalizing m a v with
  | zero => simp [Mem.readN, Nat.mod_one]
  | succ n ih =>
    simp only [Mem.readN, Mem.writeN]
    rw [ih, Mem.get_writeN_out _ _ _ _ _ (by omega), Mem.get_set, if_pos rfl]
    have h1 : (BitVec.ofNat 8 v : Byte).toNat = v % 256 := by simp
    rw [h1, Nat.pow_succ, Nat.mul_comm (256 ^ n) 256, Nat.mod_mul]

/-- A byte read after a block was cleared. -/
theorem Mem.get_clear (m : Mem) (a n b : Nat) : (m.clear a n).get b = if a ≤ b ∧ b < a + n then 0 else m.get b := by
  unfold Mem.clear
  rw [Mem.get_filter m (fun c => c < a || a + n ≤ c) b]
  by_cases h : a ≤ b ∧ b < a + n
  · simp [h]
  · rw [if_neg h, if_pos (by simp; omega)]

end Sys2Proof.Machine
end

