-- ==== Sys2Proof/Laws/PerInstr.lean ====
section
/-! SUPPORT. One lemma for each constructor of Instr: its words decode to it. A step that is an event has no words. -/

namespace Sys2Proof.Laws

/-- The words of an instruction, where it has any and is well formed, decode to it (04 R64 to R78, 05 R87 to R97). -/
def RoundTrip.Statement (i : Instr) : Prop := i.wellFormed = true → ∀ ws, encode i = some ws → ws.decode = .ok i

/-- A step without an encoding. -/
theorem RoundTrip.noWords {i : Instr} (h : encode i = none) : RoundTrip.Statement i := by
  intro _ ws e
  rw [h] at e
  cases e

theorem RoundTrip.add (d a b : Reg) : RoundTrip.Statement (.add d a b) := by
  intro h ws e
  cases e
  exact decodeK_ok h (by unfold decodeKRaw; simp only [krWord_op, krWord_d, krWord_a, krWord_b, krWord_f]; rfl)

theorem RoundTrip.sub (d a b : Reg) : RoundTrip.Statement (.sub d a b) := by
  intro h ws e
  cases e
  exact decodeK_ok h (by unfold decodeKRaw; simp only [krWord_op, krWord_d, krWord_a, krWord_b, krWord_f]; rfl)

theorem RoundTrip.and (d a b : Reg) : RoundTrip.Statement (.and d a b) := by
  intro h ws e
  cases e
  exact decodeK_ok h (by unfold decodeKRaw; simp only [krWord_op, krWord_d, krWord_a, krWord_b, krWord_f]; rfl)

theorem RoundTrip.or (d a b : Reg) : RoundTrip.Statement (.or d a b) := by
  intro h ws e
  cases e
  exact decodeK_ok h (by unfold decodeKRaw; simp only [krWord_op, krWord_d, krWord_a, krWord_b, krWord_f]; rfl)

theorem RoundTrip.xor (d a b : Reg) : RoundTrip.Statement (.xor d a b) := by
  intro h ws e
  cases e
  exact decodeK_ok h (by unfold decodeKRaw; simp only [krWord_op, krWord_d, krWord_a, krWord_b, krWord_f]; rfl)

theorem RoundTrip.shl (d a b : Reg) : RoundTrip.Statement (.shl d a b) := by
  intro h ws e
  cases e
  exact decodeK_ok h (by unfold decodeKRaw; simp only [krWord_op, krWord_d, krWord_a, krWord_b, krWord_f]; rfl)

theorem RoundTrip.shr (d a b : Reg) : RoundTrip.Statement (.shr d a b) := by
  intro h ws e
  cases e
  exact decodeK_ok h (by unfold decodeKRaw; simp only [krWord_op, krWord_d, krWord_a, krWord_b, krWord_f]; rfl)

theorem RoundTrip.sar (d a b : Reg) : RoundTrip.Statement (.sar d a b) := by
  intro h ws e
  cases e
  exact decodeK_ok h (by unfold decodeKRaw; simp only [krWord_op, krWord_d, krWord_a, krWord_b, krWord_f]; rfl)

theorem RoundTrip.mul (d a b : Reg) : RoundTrip.Statement (.mul d a b) := by
  intro h ws e
  cases e
  exact decodeK_ok h (by unfold decodeKRaw; simp only [krWord_op, krWord_d, krWord_a, krWord_b, krWord_f]; rfl)

theorem RoundTrip.mulh (d a b : Reg) : RoundTrip.Statement (.mulh d a b) := by
  intro h ws e
  cases e
  exact decodeK_ok h (by unfold decodeKRaw; simp only [krWord_op, krWord_d, krWord_a, krWord_b, krWord_f]; rfl)

theorem RoundTrip.mulhn (d a b : Reg) : RoundTrip.Statement (.mulhn d a b) := by
  intro h ws e
  cases e
  exact decodeK_ok h (by unfold decodeKRaw; simp only [krWord_op, krWord_d, krWord_a, krWord_b, krWord_f]; rfl)

theorem RoundTrip.div (d a b : Reg) : RoundTrip.Statement (.div d a b) := by
  intro h ws e
  cases e
  exact decodeK_ok h (by unfold decodeKRaw; simp only [krWord_op, krWord_d, krWord_a, krWord_b, krWord_f]; rfl)

theorem RoundTrip.divn (d a b : Reg) : RoundTrip.Statement (.divn d a b) := by
  intro h ws e
  cases e
  exact decodeK_ok h (by unfold decodeKRaw; simp only [krWord_op, krWord_d, krWord_a, krWord_b, krWord_f]; rfl)

theorem RoundTrip.rem (d a b : Reg) : RoundTrip.Statement (.rem d a b) := by
  intro h ws e
  cases e
  exact decodeK_ok h (by unfold decodeKRaw; simp only [krWord_op, krWord_d, krWord_a, krWord_b, krWord_f]; rfl)

theorem RoundTrip.remn (d a b : Reg) : RoundTrip.Statement (.remn d a b) := by
  intro h ws e
  cases e
  exact decodeK_ok h (by unfold decodeKRaw; simp only [krWord_op, krWord_d, krWord_a, krWord_b, krWord_f]; rfl)

theorem RoundTrip.min (d a b : Reg) : RoundTrip.Statement (.min d a b) := by
  intro h ws e
  cases e
  exact decodeK_ok h (by unfold decodeKRaw; simp only [krWord_op, krWord_d, krWord_a, krWord_b, krWord_f]; rfl)

theorem RoundTrip.max (d a b : Reg) : RoundTrip.Statement (.max d a b) := by
  intro h ws e
  cases e
  exact decodeK_ok h (by unfold decodeKRaw; simp only [krWord_op, krWord_d, krWord_a, krWord_b, krWord_f]; rfl)

theorem RoundTrip.minn (d a b : Reg) : RoundTrip.Statement (.minn d a b) := by
  intro h ws e
  cases e
  exact decodeK_ok h (by unfold decodeKRaw; simp only [krWord_op, krWord_d, krWord_a, krWord_b, krWord_f]; rfl)

theorem RoundTrip.maxn (d a b : Reg) : RoundTrip.Statement (.maxn d a b) := by
  intro h ws e
  cases e
  exact decodeK_ok h (by unfold decodeKRaw; simp only [krWord_op, krWord_d, krWord_a, krWord_b, krWord_f]; rfl)

theorem RoundTrip.slt (d a b : Reg) : RoundTrip.Statement (.slt d a b) := by
  intro h ws e
  cases e
  exact decodeK_ok h (by unfold decodeKRaw; simp only [krWord_op, krWord_d, krWord_a, krWord_b, krWord_f]; rfl)

theorem RoundTrip.sltn (d a b : Reg) : RoundTrip.Statement (.sltn d a b) := by
  intro h ws e
  cases e
  exact decodeK_ok h (by unfold decodeKRaw; simp only [krWord_op, krWord_d, krWord_a, krWord_b, krWord_f]; rfl)

theorem RoundTrip.addi (d a : Reg) (imm : BitVec 15) : RoundTrip.Statement (.addi d a imm) := by
  intro h ws e
  cases e
  exact decodeK_ok h (by unfold decodeKRaw; simp only [kiWord_op, kiWord_d, kiWord_a, kiWord_imm]; rfl)

theorem RoundTrip.andi (d a : Reg) (imm : BitVec 15) : RoundTrip.Statement (.andi d a imm) := by
  intro h ws e
  cases e
  exact decodeK_ok h (by unfold decodeKRaw; simp only [kiWord_op, kiWord_d, kiWord_a, kiWord_imm]; rfl)

theorem RoundTrip.ori (d a : Reg) (imm : BitVec 15) : RoundTrip.Statement (.ori d a imm) := by
  intro h ws e
  cases e
  exact decodeK_ok h (by unfold decodeKRaw; simp only [kiWord_op, kiWord_d, kiWord_a, kiWord_imm]; rfl)

theorem RoundTrip.xori (d a : Reg) (imm : BitVec 15) : RoundTrip.Statement (.xori d a imm) := by
  intro h ws e
  cases e
  exact decodeK_ok h (by unfold decodeKRaw; simp only [kiWord_op, kiWord_d, kiWord_a, kiWord_imm]; rfl)

theorem RoundTrip.shli (d a : Reg) (sh : BitVec 6) : RoundTrip.Statement (.shli d a sh) := by
  intro h ws e
  cases e
  exact decodeK_ok h (by unfold decodeKRaw; simp only [kiWord_op, kiWord_d, kiWord_a, kiWord_imm, kiWord_sh, bits_sh]; rfl)

theorem RoundTrip.shri (d a : Reg) (sh : BitVec 6) : RoundTrip.Statement (.shri d a sh) := by
  intro h ws e
  cases e
  exact decodeK_ok h (by unfold decodeKRaw; simp only [kiWord_op, kiWord_d, kiWord_a, kiWord_imm, kiWord_sh, bits_sh]; rfl)

theorem RoundTrip.sari (d a : Reg) (sh : BitVec 6) : RoundTrip.Statement (.sari d a sh) := by
  intro h ws e
  cases e
  exact decodeK_ok h (by unfold decodeKRaw; simp only [kiWord_op, kiWord_d, kiWord_a, kiWord_imm, kiWord_sh, bits_sh]; rfl)

theorem RoundTrip.slti (d a : Reg) (imm : BitVec 15) : RoundTrip.Statement (.slti d a imm) := by
  intro h ws e
  cases e
  exact decodeK_ok h (by unfold decodeKRaw; simp only [kiWord_op, kiWord_d, kiWord_a, kiWord_imm]; rfl)

theorem RoundTrip.lit (d : Reg) (w : BitVec 32) : RoundTrip.Statement (.lit d w) := by
  intro h ws e
  cases e
  exact decodeK_ok h (by
    unfold decodeKRaw decodeKX
    simp only [kxWord_op, kxWord_d, kxWord_low, kxWord_sel]
    rfl)

theorem RoundTrip.litZx (d : Reg) (w : BitVec 32) : RoundTrip.Statement (.litZx d w) := by
  intro h ws e
  cases e
  exact decodeK_ok h (by
    unfold decodeKRaw decodeKX
    simp only [kxWord_op, kxWord_d, kxWord_low, kxWord_sel]
    rfl)

theorem RoundTrip.litHi (d : Reg) (w : BitVec 32) : RoundTrip.Statement (.litHi d w) := by
  intro h ws e
  cases e
  exact decodeK_ok h (by
    unfold decodeKRaw decodeKX
    simp only [kxWord_op, kxWord_d, kxWord_low, kxWord_sel]
    rfl)

theorem RoundTrip.beq (a b : Reg) (off : BitVec 15) : RoundTrip.Statement (.beq a b off) := by
  intro h ws e
  cases e
  exact decodeK_ok h (by unfold decodeKRaw; simp only [kbWord_op, kbWord_a, kbWord_b, kbWord_off]; rfl)

theorem RoundTrip.bne (a b : Reg) (off : BitVec 15) : RoundTrip.Statement (.bne a b off) := by
  intro h ws e
  cases e
  exact decodeK_ok h (by unfold decodeKRaw; simp only [kbWord_op, kbWord_a, kbWord_b, kbWord_off]; rfl)

theorem RoundTrip.blt (a b : Reg) (off : BitVec 15) : RoundTrip.Statement (.blt a b off) := by
  intro h ws e
  cases e
  exact decodeK_ok h (by unfold decodeKRaw; simp only [kbWord_op, kbWord_a, kbWord_b, kbWord_off]; rfl)

theorem RoundTrip.bge (a b : Reg) (off : BitVec 15) : RoundTrip.Statement (.bge a b off) := by
  intro h ws e
  cases e
  exact decodeK_ok h (by unfold decodeKRaw; simp only [kbWord_op, kbWord_a, kbWord_b, kbWord_off]; rfl)

theorem RoundTrip.bltn (a b : Reg) (off : BitVec 15) : RoundTrip.Statement (.bltn a b off) := by
  intro h ws e
  cases e
  exact decodeK_ok h (by unfold decodeKRaw; simp only [kbWord_op, kbWord_a, kbWord_b, kbWord_off]; rfl)

theorem RoundTrip.bgen (a b : Reg) (off : BitVec 15) : RoundTrip.Statement (.bgen a b off) := by
  intro h ws e
  cases e
  exact decodeK_ok h (by unfold decodeKRaw; simp only [kbWord_op, kbWord_a, kbWord_b, kbWord_off]; rfl)

theorem RoundTrip.jal (off : BitVec 25) : RoundTrip.Statement (.jal off) := by
  intro h ws e
  cases e
  exact decodeK_ok h (by unfold decodeKRaw; simp only [kjWord_op, kjWord_off]; rfl)

theorem RoundTrip.jalr (d a : Reg) (imm : BitVec 15) : RoundTrip.Statement (.jalr d a imm) := by
  intro h ws e
  cases e
  exact decodeK_ok h (by unfold decodeKRaw; simp only [kiWord_op, kiWord_d, kiWord_a, kiWord_imm]; rfl)

theorem RoundTrip.klds (d a : Reg) (imm : BitVec 15) : RoundTrip.Statement (.klds d a imm) := by
  intro h ws e
  cases e
  exact decodeK_ok h (by unfold decodeKRaw; simp only [kiWord_op, kiWord_d, kiWord_a, kiWord_imm]; rfl)

theorem RoundTrip.kldm (d a : Reg) (imm : BitVec 15) : RoundTrip.Statement (.kldm d a imm) := by
  intro h ws e
  cases e
  exact decodeK_ok h (by unfold decodeKRaw; simp only [kiWord_op, kiWord_d, kiWord_a, kiWord_imm]; rfl)

theorem RoundTrip.kldl (d a : Reg) (imm : BitVec 15) : RoundTrip.Statement (.kldl d a imm) := by
  intro h ws e
  cases e
  exact decodeK_ok h (by unfold decodeKRaw; simp only [kiWord_op, kiWord_d, kiWord_a, kiWord_imm]; rfl)

theorem RoundTrip.kldf (d a : Reg) (imm : BitVec 15) : RoundTrip.Statement (.kldf d a imm) := by
  intro h ws e
  cases e
  exact decodeK_ok h (by unfold decodeKRaw; simp only [kiWord_op, kiWord_d, kiWord_a, kiWord_imm]; rfl)

theorem RoundTrip.kldh (d a : Reg) (imm : BitVec 15) : RoundTrip.Statement (.kldh d a imm) := by
  intro h ws e
  cases e
  exact decodeK_ok h (by unfold decodeKRaw; simp only [kiWord_op, kiWord_d, kiWord_a, kiWord_imm]; rfl)

theorem RoundTrip.ksts (a b : Reg) (imm : BitVec 15) : RoundTrip.Statement (.ksts a b imm) := by
  intro h ws e
  cases e
  exact decodeK_ok h (by unfold decodeKRaw; simp only [kbWord_op, kbWord_a, kbWord_b, kbWord_off]; rfl)

theorem RoundTrip.kstm (a b : Reg) (imm : BitVec 15) : RoundTrip.Statement (.kstm a b imm) := by
  intro h ws e
  cases e
  exact decodeK_ok h (by unfold decodeKRaw; simp only [kbWord_op, kbWord_a, kbWord_b, kbWord_off]; rfl)

theorem RoundTrip.kstl (a b : Reg) (imm : BitVec 15) : RoundTrip.Statement (.kstl a b imm) := by
  intro h ws e
  cases e
  exact decodeK_ok h (by unfold decodeKRaw; simp only [kbWord_op, kbWord_a, kbWord_b, kbWord_off]; rfl)

theorem RoundTrip.kstf (a b : Reg) (imm : BitVec 15) : RoundTrip.Statement (.kstf a b imm) := by
  intro h ws e
  cases e
  exact decodeK_ok h (by unfold decodeKRaw; simp only [kbWord_op, kbWord_a, kbWord_b, kbWord_off]; rfl)

theorem RoundTrip.ksth (a b : Reg) (imm : BitVec 15) : RoundTrip.Statement (.ksth a b imm) := by
  intro h ws e
  cases e
  exact decodeK_ok h (by unfold decodeKRaw; simp only [kbWord_op, kbWord_a, kbWord_b, kbWord_off]; rfl)

theorem RoundTrip.katm (d a b : Reg) (op : BitVec 4) : RoundTrip.Statement (.katm d a b op) := by
  intro h ws e
  cases e
  exact decodeK_ok h (by unfold decodeKRaw; simp only [krWord_op, krWord_d, krWord_a, krWord_b, krWord_f]; exact atomicFunc op _)

theorem RoundTrip.katl (d a b : Reg) (op : BitVec 4) : RoundTrip.Statement (.katl d a b op) := by
  intro h ws e
  cases e
  exact decodeK_ok h (by unfold decodeKRaw; simp only [krWord_op, krWord_d, krWord_a, krWord_b, krWord_f]; exact atomicFunc op _)

theorem RoundTrip.katf (d a b : Reg) (op : BitVec 4) : RoundTrip.Statement (.katf d a b op) := by
  intro h ws e
  cases e
  exact decodeK_ok h (by unfold decodeKRaw; simp only [krWord_op, krWord_d, krWord_a, krWord_b, krWord_f]; exact atomicFunc op _)

theorem RoundTrip.smwait (a : Reg) : RoundTrip.Statement (.smwait a) := by
  intro h ws e
  cases e
  exact decodeK_ok h (by unfold decodeKRaw; simp only [krWord_op, krWord_d, krWord_a, krWord_b, krWord_f]; rfl)

theorem RoundTrip.smsig (a : Reg) : RoundTrip.Statement (.smsig a) := by
  intro h ws e
  cases e
  exact decodeK_ok h (by unfold decodeKRaw; simp only [krWord_op, krWord_d, krWord_a, krWord_b, krWord_f]; rfl)

theorem RoundTrip.smset (a b : Reg) : RoundTrip.Statement (.smset a b) := by
  intro h ws e
  cases e
  exact decodeK_ok h (by unfold decodeKRaw; simp only [krWord_op, krWord_d, krWord_a, krWord_b, krWord_f]; rfl)

theorem RoundTrip.smrd (d a : Reg) : RoundTrip.Statement (.smrd d a) := by
  intro h ws e
  cases e
  exact decodeK_ok h (by unfold decodeKRaw; simp only [krWord_op, krWord_d, krWord_a, krWord_b, krWord_f]; rfl)

theorem RoundTrip.evpop (d : Reg) : RoundTrip.Statement (.evpop d) := by
  intro h ws e
  cases e
  exact decodeK_ok h (by unfold decodeKRaw; simp only [krWord_op, krWord_d, krWord_a, krWord_b, krWord_f]; rfl)

theorem RoundTrip.evpeek (d : Reg) : RoundTrip.Statement (.evpeek d) := by
  intro h ws e
  cases e
  exact decodeK_ok h (by unfold decodeKRaw; simp only [krWord_op, krWord_d, krWord_a, krWord_b, krWord_f]; rfl)

theorem RoundTrip.gres (a b : Reg) : RoundTrip.Statement (.gres a b) := by
  intro h ws e
  cases e
  exact decodeK_ok h (by unfold decodeKRaw; simp only [krWord_op, krWord_d, krWord_a, krWord_b, krWord_f]; rfl)

theorem RoundTrip.tkpush (a : Reg) (c : BitVec 3) : RoundTrip.Statement (.tkpush a c) := by
  intro h ws e
  cases e
  exact decodeK_ok h (by
    unfold decodeKRaw
    simp only [krWord_op, krWord_d, krWord_a, krWord_b, krWord_f]
    show decodeKSync _ _ _ _ = _
    simp only [decodeKSync, code3]
    rfl)

theorem RoundTrip.tkpop (d : Reg) (c : BitVec 3) : RoundTrip.Statement (.tkpop d c) := by
  intro h ws e
  cases e
  exact decodeK_ok h (by
    unfold decodeKRaw
    simp only [krWord_op, krWord_d, krWord_a, krWord_b, krWord_f]
    show decodeKSync _ _ _ _ = _
    simp only [decodeKSync, code3]
    rfl)

theorem RoundTrip.barr (d a b : Reg) : RoundTrip.Statement (.barr d a b) := by
  intro h ws e
  cases e
  exact decodeK_ok h (by unfold decodeKRaw; simp only [krWord_op, krWord_d, krWord_a, krWord_b, krWord_f]; rfl)

theorem RoundTrip.bard (d a : Reg) : RoundTrip.Statement (.bard d a) := by
  intro h ws e
  cases e
  exact decodeK_ok h (by unfold decodeKRaw; simp only [krWord_op, krWord_d, krWord_a, krWord_b, krWord_f]; rfl)

theorem RoundTrip.barx (a b : Reg) : RoundTrip.Statement (.barx a b) := by
  intro h ws e
  cases e
  exact decodeK_ok h (by unfold decodeKRaw; simp only [krWord_op, krWord_d, krWord_a, krWord_b, krWord_f]; rfl)

theorem RoundTrip.barw (d a b : Reg) : RoundTrip.Statement (.barw d a b) := by
  intro h ws e
  cases e
  exact decodeK_ok h (by unfold decodeKRaw; simp only [krWord_op, krWord_d, krWord_a, krWord_b, krWord_f]; rfl)

theorem RoundTrip.flagadd (a b : Reg) : RoundTrip.Statement (.flagadd a b) := by
  intro h ws e
  cases e
  exact decodeK_ok h (by unfold decodeKRaw; simp only [krWord_op, krWord_d, krWord_a, krWord_b, krWord_f]; rfl)

theorem RoundTrip.flagset (a b : Reg) : RoundTrip.Statement (.flagset a b) := by
  intro h ws e
  cases e
  exact decodeK_ok h (by unfold decodeKRaw; simp only [krWord_op, krWord_d, krWord_a, krWord_b, krWord_f]; rfl)

theorem RoundTrip.grpset (a b : Reg) : RoundTrip.Statement (.grpset a b) := by
  intro h ws e
  cases e
  exact decodeK_ok h (by unfold decodeKRaw; simp only [krWord_op, krWord_d, krWord_a, krWord_b, krWord_f]; rfl)

theorem RoundTrip.grpq (d a b : Reg) : RoundTrip.Statement (.grpq d a b) := by
  intro h ws e
  cases e
  exact decodeK_ok h (by unfold decodeKRaw; simp only [krWord_op, krWord_d, krWord_a, krWord_b, krWord_f]; rfl)

theorem RoundTrip.fence (kind scope : BitVec 2) : RoundTrip.Statement (.fence kind scope) := by
  intro h ws e
  cases e
  exact decodeK_ok h (by
    unfold decodeKRaw
    simp only [krWord_op, krWord_d, krWord_a, krWord_b, krWord_f]
    show decodeKSync _ _ _ _ = _
    simp only [decodeKSync, fenceField]
    rfl)

theorem RoundTrip.qfence (a b : Reg) : RoundTrip.Statement (.qfence a b) := by
  intro h ws e
  cases e
  exact decodeK_ok h (by unfold decodeKRaw; simp only [krWord_op, krWord_d, krWord_a, krWord_b, krWord_f]; rfl)

theorem RoundTrip.subon (d a b : Reg) : RoundTrip.Statement (.subon d a b) := by
  intro h ws e
  cases e
  exact decodeK_ok h (by unfold decodeKRaw; simp only [krWord_op, krWord_d, krWord_a, krWord_b, krWord_f]; rfl)

theorem RoundTrip.suboff (d a : Reg) : RoundTrip.Statement (.suboff d a) := by
  intro h ws e
  cases e
  exact decodeK_ok h (by unfold decodeKRaw; simp only [krWord_op, krWord_d, krWord_a, krWord_b, krWord_f]; rfl)

theorem RoundTrip.chresync (d a : Reg) : RoundTrip.Statement (.chresync d a) := by
  intro h ws e
  cases e
  exact decodeK_ok h (by unfold decodeKRaw; simp only [krWord_op, krWord_d, krWord_a, krWord_b, krWord_f]; rfl)

theorem RoundTrip.sinc (d a : Reg) : RoundTrip.Statement (.sinc d a) := by
  intro h ws e
  cases e
  exact decodeK_ok h (by unfold decodeKRaw; simp only [krWord_op, krWord_d, krWord_a, krWord_b, krWord_f]; rfl)

theorem RoundTrip.srel (d a : Reg) : RoundTrip.Statement (.srel d a) := by
  intro h ws e
  cases e
  exact decodeK_ok h (by unfold decodeKRaw; simp only [krWord_op, krWord_d, krWord_a, krWord_b, krWord_f]; rfl)

theorem RoundTrip.sroot (d a b : Reg) : RoundTrip.Statement (.sroot d a b) := by
  intro h ws e
  cases e
  exact decodeK_ok h (by unfold decodeKRaw; simp only [krWord_op, krWord_d, krWord_a, krWord_b, krWord_f]; rfl)

theorem RoundTrip.nop : RoundTrip.Statement (.nop) := by
  intro h ws e
  cases e
  exact decodeK_ok h (by unfold decodeKRaw; simp only [krWord_op, krWord_d, krWord_a, krWord_b, krWord_f]; rfl)

theorem RoundTrip.sqrd (d a b : Reg) : RoundTrip.Statement (.sqrd d a b) := by
  intro h ws e
  cases e
  exact decodeK_ok h (by unfold decodeKRaw; simp only [krWord_op, krWord_d, krWord_a, krWord_b, krWord_f]; rfl)

theorem RoundTrip.sqres (a : Reg) : RoundTrip.Statement (.sqres a) := by
  intro h ws e
  cases e
  exact decodeK_ok h (by unfold decodeKRaw; simp only [krWord_op, krWord_d, krWord_a, krWord_b, krWord_f]; rfl)

theorem RoundTrip.sqskip (a : Reg) : RoundTrip.Statement (.sqskip a) := by
  intro h ws e
  cases e
  exact decodeK_ok h (by unfold decodeKRaw; simp only [krWord_op, krWord_d, krWord_a, krWord_b, krWord_f]; rfl)

theorem RoundTrip.srrd (d a : Reg) : RoundTrip.Statement (.srrd d a) := by
  intro h ws e
  cases e
  exact decodeK_ok h (by unfold decodeKRaw; simp only [krWord_op, krWord_d, krWord_a, krWord_b, krWord_f]; rfl)

theorem RoundTrip.srwr (a b : Reg) : RoundTrip.Statement (.srwr a b) := by
  intro h ws e
  cases e
  exact decodeK_ok h (by unfold decodeKRaw; simp only [krWord_op, krWord_d, krWord_a, krWord_b, krWord_f]; rfl)

theorem RoundTrip.rng (d a : Reg) : RoundTrip.Statement (.rng d a) := by
  intro h ws e
  cases e
  exact decodeK_ok h (by unfold decodeKRaw; simp only [krWord_op, krWord_d, krWord_a, krWord_b, krWord_f]; rfl)

theorem RoundTrip.clkrd (d : Reg) : RoundTrip.Statement (.clkrd d) := by
  intro h ws e
  cases e
  exact decodeK_ok h (by unfold decodeKRaw; simp only [krWord_op, krWord_d, krWord_a, krWord_b, krWord_f]; rfl)

theorem RoundTrip.trap (a : Reg) : RoundTrip.Statement (.trap a) := by
  intro h ws e
  cases e
  exact decodeK_ok h (by unfold decodeKRaw; simp only [krWord_op, krWord_d, krWord_a, krWord_b, krWord_f]; rfl)

theorem RoundTrip.eret : RoundTrip.Statement (.eret) := by
  intro h ws e
  cases e
  exact decodeK_ok h (by unfold decodeKRaw; simp only [krWord_op, krWord_d, krWord_a, krWord_b, krWord_f]; rfl)

theorem RoundTrip.yield : RoundTrip.Statement (.yield) := by
  intro h ws e
  cases e
  exact decodeK_ok h (by unfold decodeKRaw; simp only [krWord_op, krWord_d, krWord_a, krWord_b, krWord_f]; rfl)

theorem RoundTrip.exit : RoundTrip.Statement (.exit) := by
  intro h ws e
  cases e
  exact decodeK_ok h (by unfold decodeKRaw; simp only [krWord_op, krWord_d, krWord_a, krWord_b, krWord_f]; rfl)

theorem RoundTrip.lds (m : AMode) (w : Width) (f : LSF) : RoundTrip.Statement (.lds m w f) := by
  intro h ws e
  cases e
  exact decodeL_ok h (by cases m <;> cases w <;> rfl)

theorem RoundTrip.ldm (m : AMode) (w : Width) (f : LSF) : RoundTrip.Statement (.ldm m w f) := by
  intro h ws e
  cases e
  exact decodeL_ok h (by cases m <;> cases w <;> rfl)

theorem RoundTrip.ldl (m : AMode) (w : Width) (f : LSF) : RoundTrip.Statement (.ldl m w f) := by
  intro h ws e
  cases e
  exact decodeL_ok h (by cases m <;> cases w <;> rfl)

theorem RoundTrip.ldf (m : AMode) (w : Width) (f : LSF) : RoundTrip.Statement (.ldf m w f) := by
  intro h ws e
  cases e
  exact decodeL_ok h (by cases m <;> cases w <;> rfl)

theorem RoundTrip.ldn (m : AMode) (w : Width) (f : LSF) : RoundTrip.Statement (.ldn m w f) := by
  intro h ws e
  cases e
  exact decodeL_ok h (by cases m <;> cases w <;> rfl)

theorem RoundTrip.ldh (m : AMode) (w : Width) (f : LSF) : RoundTrip.Statement (.ldh m w f) := by
  intro h ws e
  cases e
  exact decodeL_ok h (by cases m <;> cases w <;> rfl)

theorem RoundTrip.sts (m : AMode) (w : Width) (f : LSF) : RoundTrip.Statement (.sts m w f) := by
  intro h ws e
  cases e
  exact decodeS_ok h (by cases m <;> cases w <;> rfl)

theorem RoundTrip.stm (m : AMode) (w : Width) (f : LSF) : RoundTrip.Statement (.stm m w f) := by
  intro h ws e
  cases e
  exact decodeS_ok h (by cases m <;> cases w <;> rfl)

theorem RoundTrip.stl (m : AMode) (w : Width) (f : LSF) : RoundTrip.Statement (.stl m w f) := by
  intro h ws e
  cases e
  exact decodeS_ok h (by cases m <;> cases w <;> rfl)

theorem RoundTrip.stf (m : AMode) (w : Width) (f : LSF) : RoundTrip.Statement (.stf m w f) := by
  intro h ws e
  cases e
  exact decodeS_ok h (by cases m <;> cases w <;> rfl)

theorem RoundTrip.sth (m : AMode) (w : Width) (f : LSF) : RoundTrip.Statement (.sth m w f) := by
  intro h ws e
  cases e
  exact decodeS_ok h (by cases m <;> cases w <;> rfl)

theorem RoundTrip.gths (f : LSF) : RoundTrip.Statement (.gths f) := by
  intro h ws e
  cases e
  exact decodeL_ok h rfl

theorem RoundTrip.gthl (f : LSF) : RoundTrip.Statement (.gthl f) := by
  intro h ws e
  cases e
  exact decodeL_ok h rfl

theorem RoundTrip.scts (f : LSF) : RoundTrip.Statement (.scts f) := by
  intro h ws e
  cases e
  exact decodeS_ok h rfl

theorem RoundTrip.sctl (f : LSF) : RoundTrip.Statement (.sctl f) := by
  intro h ws e
  cases e
  exact decodeS_ok h rfl

theorem RoundTrip.aadd (f : LSF) : RoundTrip.Statement (.aadd f) := by
  intro h ws e
  cases e
  exact decodeL_ok h rfl

theorem RoundTrip.aaddi (f : LSF) : RoundTrip.Statement (.aaddi f) := by
  intro h ws e
  cases e
  exact decodeL_ok h rfl

theorem RoundTrip.asub (f : LSF) : RoundTrip.Statement (.asub f) := by
  intro h ws e
  cases e
  exact decodeL_ok h rfl

theorem RoundTrip.amul (f : LSF) : RoundTrip.Statement (.amul f) := by
  intro h ws e
  cases e
  exact decodeL_ok h rfl

theorem RoundTrip.ashl (f : LSF) : RoundTrip.Statement (.ashl f) := by
  intro h ws e
  cases e
  exact decodeL_ok h rfl

theorem RoundTrip.amov (f : LSF) : RoundTrip.Statement (.amov f) := by
  intro h ws e
  cases e
  exact decodeL_ok h rfl

theorem RoundTrip.alit (f : LSF) : RoundTrip.Statement (.alit f) := by
  intro h ws e
  cases e
  exact decodeL_ok h rfl

theorem RoundTrip.aslt (f : LSF) : RoundTrip.Statement (.aslt f) := by
  intro h ws e
  cases e
  exact decodeL_ok h rfl

theorem RoundTrip.aeq (f : LSF) : RoundTrip.Statement (.aeq f) := by
  intro h ws e
  cases e
  exact decodeL_ok h rfl

theorem RoundTrip.badd (f : LSF) : RoundTrip.Statement (.badd f) := by
  intro h ws e
  cases e
  exact decodeS_ok h rfl

theorem RoundTrip.baddi (f : LSF) : RoundTrip.Statement (.baddi f) := by
  intro h ws e
  cases e
  exact decodeS_ok h rfl

theorem RoundTrip.bsub (f : LSF) : RoundTrip.Statement (.bsub f) := by
  intro h ws e
  cases e
  exact decodeS_ok h rfl

theorem RoundTrip.bmul (f : LSF) : RoundTrip.Statement (.bmul f) := by
  intro h ws e
  cases e
  exact decodeS_ok h rfl

theorem RoundTrip.bshl (f : LSF) : RoundTrip.Statement (.bshl f) := by
  intro h ws e
  cases e
  exact decodeS_ok h rfl

theorem RoundTrip.bmov (f : LSF) : RoundTrip.Statement (.bmov f) := by
  intro h ws e
  cases e
  exact decodeS_ok h rfl

theorem RoundTrip.blit (f : LSF) : RoundTrip.Statement (.blit f) := by
  intro h ws e
  cases e
  exact decodeS_ok h rfl

theorem RoundTrip.bslt (f : LSF) : RoundTrip.Statement (.bslt f) := by
  intro h ws e
  cases e
  exact decodeS_ok h rfl

theorem RoundTrip.beqS (f : LSF) : RoundTrip.Statement (.beqS f) := by
  intro h ws e
  cases e
  exact decodeS_ok h rfl

theorem RoundTrip.lbr (f : LSF) : RoundTrip.Statement (.lbr f) := by
  intro h ws e
  cases e
  exact decodeL_ok h rfl

theorem RoundTrip.lj (f : LSF) : RoundTrip.Statement (.lj f) := by
  intro h ws e
  cases e
  exact decodeL_ok h rfl

theorem RoundTrip.sbr (f : LSF) : RoundTrip.Statement (.sbr f) := by
  intro h ws e
  cases e
  exact decodeS_ok h rfl

theorem RoundTrip.sj (f : LSF) : RoundTrip.Statement (.sj f) := by
  intro h ws e
  cases e
  exact decodeS_ok h rfl

theorem RoundTrip.loopL (f : LSF) : RoundTrip.Statement (.loopL f) := by
  intro h ws e
  cases e
  exact decodeL_ok h rfl

theorem RoundTrip.loopS (f : LSF) : RoundTrip.Statement (.loopS f) := by
  intro h ws e
  cases e
  exact decodeS_ok h rfl

theorem RoundTrip.cpy (f : LSF) : RoundTrip.Statement (.cpy f) := by
  intro h ws e
  cases e
  exact decodeL_ok h rfl

theorem RoundTrip.cpy2 (f : LSF) : RoundTrip.Statement (.cpy2 f) := by
  intro h ws e
  cases e
  exact decodeL_ok h rfl

theorem RoundTrip.pfh (f : LSF) : RoundTrip.Statement (.pfh f) := by
  intro h ws e
  cases e
  exact decodeL_ok h rfl

theorem RoundTrip.mdld (f : LSF) : RoundTrip.Statement (.mdld f) := by
  intro h ws e
  cases e
  exact decodeL_ok h rfl

theorem RoundTrip.scout (f : LSF) : RoundTrip.Statement (.scout f) := by
  intro h ws e
  cases e
  exact decodeL_ok h rfl

theorem RoundTrip.chrecv (f : LSF) : RoundTrip.Statement (.chrecv f) := by
  intro h ws e
  cases e
  exact decodeL_ok h rfl

theorem RoundTrip.wlpop (f : LSF) : RoundTrip.Statement (.wlpop f) := by
  intro h ws e
  cases e
  exact decodeL_ok h rfl

theorem RoundTrip.facc (f : LSF) : RoundTrip.Statement (.facc f) := by
  intro h ws e
  cases e
  exact decodeL_ok h rfl

theorem RoundTrip.fsend (f : LSF) : RoundTrip.Statement (.fsend f) := by
  intro h ws e
  cases e
  exact decodeS_ok h rfl

theorem RoundTrip.fsend2 (f : LSF) : RoundTrip.Statement (.fsend2 f) := by
  intro h ws e
  cases e
  exact decodeS_ok h rfl

theorem RoundTrip.chsend (f : LSF) : RoundTrip.Statement (.chsend f) := by
  intro h ws e
  cases e
  exact decodeS_ok h rfl

theorem RoundTrip.wlapp (f : LSF) : RoundTrip.Statement (.wlapp f) := by
  intro h ws e
  cases e
  exact decodeS_ok h rfl

theorem RoundTrip.slook (f : LSF) : RoundTrip.Statement (.slook f) := by
  intro h ws e
  cases e
  exact decodeS_ok h rfl

theorem RoundTrip.slooki (f : LSF) : RoundTrip.Statement (.slooki f) := by
  intro h ws e
  cases e
  exact decodeS_ok h rfl

theorem RoundTrip.atm (op : BitVec 4) (f : LSF) : RoundTrip.Statement (.atm op f) := by
  intro h ws e
  cases e
  exact decodeS_ok h ((if_neg fun x => (atomic_not_mem op).1 x.2).trans (decodeS_atomic op f).1)

theorem RoundTrip.atl (op : BitVec 4) (f : LSF) : RoundTrip.Statement (.atl op f) := by
  intro h ws e
  cases e
  exact decodeS_ok h ((if_neg fun x => (atomic_not_mem op).2.1 x.2).trans (decodeS_atomic op f).2.1)

theorem RoundTrip.atf (op : BitVec 4) (f : LSF) : RoundTrip.Statement (.atf op f) := by
  intro h ws e
  cases e
  exact decodeS_ok h ((if_neg fun x => (atomic_not_mem op).2.2 x.2).trans (decodeS_atomic op f).2.2)

theorem RoundTrip.vadd (ty : BitVec 2) (f : SlotF) (x : Bun) : RoundTrip.Statement (.vadd ty f x) := by
  intro h ws e
  cases e
  exact (encodeV_decode h).trans (checked_ok h)

theorem RoundTrip.vsub (ty : BitVec 2) (f : SlotF) (x : Bun) : RoundTrip.Statement (.vsub ty f x) := by
  intro h ws e
  cases e
  exact (encodeV_decode h).trans (checked_ok h)

theorem RoundTrip.vmul (ty : BitVec 2) (f : SlotF) (x : Bun) : RoundTrip.Statement (.vmul ty f x) := by
  intro h ws e
  cases e
  exact (encodeV_decode h).trans (checked_ok h)

theorem RoundTrip.vfma (ty : BitVec 2) (f : SlotF) (x : Bun) : RoundTrip.Statement (.vfma ty f x) := by
  intro h ws e
  cases e
  exact (encodeV_decode h).trans (checked_ok h)

theorem RoundTrip.vfms (ty : BitVec 2) (f : SlotF) (x : Bun) : RoundTrip.Statement (.vfms ty f x) := by
  intro h ws e
  cases e
  exact (encodeV_decode h).trans (checked_ok h)

theorem RoundTrip.vmin (ty : BitVec 2) (f : SlotF) (x : Bun) : RoundTrip.Statement (.vmin ty f x) := by
  intro h ws e
  cases e
  exact (encodeV_decode h).trans (checked_ok h)

theorem RoundTrip.vmax (ty : BitVec 2) (f : SlotF) (x : Bun) : RoundTrip.Statement (.vmax ty f x) := by
  intro h ws e
  cases e
  exact (encodeV_decode h).trans (checked_ok h)

theorem RoundTrip.vabs (ty : BitVec 2) (f : SlotF) (x : Bun) : RoundTrip.Statement (.vabs ty f x) := by
  intro h ws e
  cases e
  exact (encodeV_decode h).trans (checked_ok h)

theorem RoundTrip.vneg (ty : BitVec 2) (f : SlotF) (x : Bun) : RoundTrip.Statement (.vneg ty f x) := by
  intro h ws e
  cases e
  exact (encodeV_decode h).trans (checked_ok h)

theorem RoundTrip.vcpys (ty : BitVec 2) (f : SlotF) (x : Bun) : RoundTrip.Statement (.vcpys ty f x) := by
  intro h ws e
  cases e
  exact (encodeV_decode h).trans (checked_ok h)

theorem RoundTrip.viadd (ty : BitVec 2) (f : SlotF) (x : Bun) : RoundTrip.Statement (.viadd ty f x) := by
  intro h ws e
  cases e
  exact (encodeV_decode h).trans (checked_ok h)

theorem RoundTrip.visub (ty : BitVec 2) (f : SlotF) (x : Bun) : RoundTrip.Statement (.visub ty f x) := by
  intro h ws e
  cases e
  exact (encodeV_decode h).trans (checked_ok h)

theorem RoundTrip.vimul (ty : BitVec 2) (f : SlotF) (x : Bun) : RoundTrip.Statement (.vimul ty f x) := by
  intro h ws e
  cases e
  exact (encodeV_decode h).trans (checked_ok h)

theorem RoundTrip.vimulh (ty : BitVec 2) (f : SlotF) (x : Bun) : RoundTrip.Statement (.vimulh ty f x) := by
  intro h ws e
  cases e
  exact (encodeV_decode h).trans (checked_ok h)

theorem RoundTrip.vand (ty : BitVec 2) (f : SlotF) (x : Bun) : RoundTrip.Statement (.vand ty f x) := by
  intro h ws e
  cases e
  exact (encodeV_decode h).trans (checked_ok h)

theorem RoundTrip.vor (ty : BitVec 2) (f : SlotF) (x : Bun) : RoundTrip.Statement (.vor ty f x) := by
  intro h ws e
  cases e
  exact (encodeV_decode h).trans (checked_ok h)

theorem RoundTrip.vxor (ty : BitVec 2) (f : SlotF) (x : Bun) : RoundTrip.Statement (.vxor ty f x) := by
  intro h ws e
  cases e
  exact (encodeV_decode h).trans (checked_ok h)

theorem RoundTrip.vnot (ty : BitVec 2) (f : SlotF) (x : Bun) : RoundTrip.Statement (.vnot ty f x) := by
  intro h ws e
  cases e
  exact (encodeV_decode h).trans (checked_ok h)

theorem RoundTrip.vshl (ty : BitVec 2) (f : SlotF) (x : Bun) : RoundTrip.Statement (.vshl ty f x) := by
  intro h ws e
  cases e
  exact (encodeV_decode h).trans (checked_ok h)

theorem RoundTrip.vshr (ty : BitVec 2) (f : SlotF) (x : Bun) : RoundTrip.Statement (.vshr ty f x) := by
  intro h ws e
  cases e
  exact (encodeV_decode h).trans (checked_ok h)

theorem RoundTrip.vsar (ty : BitVec 2) (f : SlotF) (x : Bun) : RoundTrip.Statement (.vsar ty f x) := by
  intro h ws e
  cases e
  exact (encodeV_decode h).trans (checked_ok h)

theorem RoundTrip.vimin (ty : BitVec 2) (f : SlotF) (x : Bun) : RoundTrip.Statement (.vimin ty f x) := by
  intro h ws e
  cases e
  exact (encodeV_decode h).trans (checked_ok h)

theorem RoundTrip.vimax (ty : BitVec 2) (f : SlotF) (x : Bun) : RoundTrip.Statement (.vimax ty f x) := by
  intro h ws e
  cases e
  exact (encodeV_decode h).trans (checked_ok h)

theorem RoundTrip.vicmpeq (ty : BitVec 2) (f : SlotF) (x : Bun) : RoundTrip.Statement (.vicmpeq ty f x) := by
  intro h ws e
  cases e
  exact (encodeV_decode h).trans (checked_ok h)

theorem RoundTrip.vicmplt (ty : BitVec 2) (f : SlotF) (x : Bun) : RoundTrip.Statement (.vicmplt ty f x) := by
  intro h ws e
  cases e
  exact (encodeV_decode h).trans (checked_ok h)

theorem RoundTrip.vcmpeq (ty : BitVec 2) (f : SlotF) (x : Bun) : RoundTrip.Statement (.vcmpeq ty f x) := by
  intro h ws e
  cases e
  exact (encodeV_decode h).trans (checked_ok h)

theorem RoundTrip.vcmplt (ty : BitVec 2) (f : SlotF) (x : Bun) : RoundTrip.Statement (.vcmplt ty f x) := by
  intro h ws e
  cases e
  exact (encodeV_decode h).trans (checked_ok h)

theorem RoundTrip.vcmple (ty : BitVec 2) (f : SlotF) (x : Bun) : RoundTrip.Statement (.vcmple ty f x) := by
  intro h ws e
  cases e
  exact (encodeV_decode h).trans (checked_ok h)

theorem RoundTrip.vcmpun (ty : BitVec 2) (f : SlotF) (x : Bun) : RoundTrip.Statement (.vcmpun ty f x) := by
  intro h ws e
  cases e
  exact (encodeV_decode h).trans (checked_ok h)

theorem RoundTrip.vsel (ty : BitVec 2) (f : SlotF) (x : Bun) : RoundTrip.Statement (.vsel ty f x) := by
  intro h ws e
  cases e
  exact (encodeV_decode h).trans (checked_ok h)

theorem RoundTrip.vmov (ty : BitVec 2) (f : SlotF) (x : Bun) : RoundTrip.Statement (.vmov ty f x) := by
  intro h ws e
  cases e
  exact (encodeV_decode h).trans (checked_ok h)

theorem RoundTrip.vpart (ty : BitVec 2) (f : SlotF) (x : Bun) : RoundTrip.Statement (.vpart ty f x) := by
  intro h ws e
  cases e
  exact (encodeV_decode h).trans (checked_ok h)

theorem RoundTrip.vbcast (ty : BitVec 2) (f : SlotF) (x : Bun) : RoundTrip.Statement (.vbcast ty f x) := by
  intro h ws e
  cases e
  exact (encodeV_decode h).trans (checked_ok h)

theorem RoundTrip.vshuf (ty : BitVec 2) (f : SlotF) (x : Bun) : RoundTrip.Statement (.vshuf ty f x) := by
  intro h ws e
  cases e
  exact (encodeV_decode h).trans (checked_ok h)

theorem RoundTrip.vrot (ty : BitVec 2) (f : SlotF) (x : Bun) : RoundTrip.Statement (.vrot ty f x) := by
  intro h ws e
  cases e
  exact (encodeV_decode h).trans (checked_ok h)

theorem RoundTrip.viota (ty : BitVec 2) (f : SlotF) (x : Bun) : RoundTrip.Statement (.viota ty f x) := by
  intro h ws e
  cases e
  exact (encodeV_decode h).trans (checked_ok h)

theorem RoundTrip.vcompr (ty : BitVec 2) (f : SlotF) (x : Bun) : RoundTrip.Statement (.vcompr ty f x) := by
  intro h ws e
  cases e
  exact (encodeV_decode h).trans (checked_ok h)

theorem RoundTrip.vcvt (ty : BitVec 2) (f : SlotF) (x : Bun) : RoundTrip.Statement (.vcvt ty f x) := by
  intro h ws e
  cases e
  exact (encodeV_decode h).trans (checked_ok h)

theorem RoundTrip.vcvto (ty : BitVec 2) (f : SlotF) (x : Bun) : RoundTrip.Statement (.vcvto ty f x) := by
  intro h ws e
  cases e
  exact (encodeV_decode h).trans (checked_ok h)

theorem RoundTrip.vcvts (ty : BitVec 2) (f : SlotF) (x : Bun) : RoundTrip.Statement (.vcvts ty f x) := by
  intro h ws e
  cases e
  exact (encodeV_decode h).trans (checked_ok h)

theorem RoundTrip.vcbdec (ty : BitVec 2) (f : SlotF) (x : Bun) : RoundTrip.Statement (.vcbdec ty f x) := by
  intro h ws e
  cases e
  exact (encodeV_decode h).trans (checked_ok h)

theorem RoundTrip.vexp2 (ty : BitVec 2) (f : SlotF) (x : Bun) : RoundTrip.Statement (.vexp2 ty f x) := by
  intro h ws e
  cases e
  exact (encodeV_decode h).trans (checked_ok h)

theorem RoundTrip.vlog2 (ty : BitVec 2) (f : SlotF) (x : Bun) : RoundTrip.Statement (.vlog2 ty f x) := by
  intro h ws e
  cases e
  exact (encodeV_decode h).trans (checked_ok h)

theorem RoundTrip.vsin (ty : BitVec 2) (f : SlotF) (x : Bun) : RoundTrip.Statement (.vsin ty f x) := by
  intro h ws e
  cases e
  exact (encodeV_decode h).trans (checked_ok h)

theorem RoundTrip.vcos (ty : BitVec 2) (f : SlotF) (x : Bun) : RoundTrip.Statement (.vcos ty f x) := by
  intro h ws e
  cases e
  exact (encodeV_decode h).trans (checked_ok h)

theorem RoundTrip.vtanh (ty : BitVec 2) (f : SlotF) (x : Bun) : RoundTrip.Statement (.vtanh ty f x) := by
  intro h ws e
  cases e
  exact (encodeV_decode h).trans (checked_ok h)

theorem RoundTrip.vrcp (ty : BitVec 2) (f : SlotF) (x : Bun) : RoundTrip.Statement (.vrcp ty f x) := by
  intro h ws e
  cases e
  exact (encodeV_decode h).trans (checked_ok h)

theorem RoundTrip.vrsqrt (ty : BitVec 2) (f : SlotF) (x : Bun) : RoundTrip.Statement (.vrsqrt ty f x) := by
  intro h ws e
  cases e
  exact (encodeV_decode h).trans (checked_ok h)

theorem RoundTrip.vsqrt (ty : BitVec 2) (f : SlotF) (x : Bun) : RoundTrip.Statement (.vsqrt ty f x) := by
  intro h ws e
  cases e
  exact (encodeV_decode h).trans (checked_ok h)

theorem RoundTrip.vdiv (ty : BitVec 2) (f : SlotF) (x : Bun) : RoundTrip.Statement (.vdiv ty f x) := by
  intro h ws e
  cases e
  exact (encodeV_decode h).trans (checked_ok h)

theorem RoundTrip.vrsum (ty : BitVec 2) (f : SlotF) (x : Bun) : RoundTrip.Statement (.vrsum ty f x) := by
  intro h ws e
  cases e
  exact (encodeV_decode h).trans (checked_ok h)

theorem RoundTrip.vrmax (ty : BitVec 2) (f : SlotF) (x : Bun) : RoundTrip.Statement (.vrmax ty f x) := by
  intro h ws e
  cases e
  exact (encodeV_decode h).trans (checked_ok h)

theorem RoundTrip.vrmin (ty : BitVec 2) (f : SlotF) (x : Bun) : RoundTrip.Statement (.vrmin ty f x) := by
  intro h ws e
  cases e
  exact (encodeV_decode h).trans (checked_ok h)

theorem RoundTrip.vrstat (ty : BitVec 2) (f : SlotF) (x : Bun) : RoundTrip.Statement (.vrstat ty f x) := by
  intro h ws e
  cases e
  exact (encodeV_decode h).trans (checked_ok h)

theorem RoundTrip.vrsoft (ty : BitVec 2) (f : SlotF) (x : Bun) : RoundTrip.Statement (.vrsoft ty f x) := by
  intro h ws e
  cases e
  exact (encodeV_decode h).trans (checked_ok h)

theorem RoundTrip.vcmul (ty : BitVec 2) (f : SlotF) (x : Bun) : RoundTrip.Statement (.vcmul ty f x) := by
  intro h ws e
  cases e
  exact (encodeV_decode h).trans (checked_ok h)

theorem RoundTrip.vcfma (ty : BitVec 2) (f : SlotF) (x : Bun) : RoundTrip.Statement (.vcfma ty f x) := by
  intro h ws e
  cases e
  exact (encodeV_decode h).trans (checked_ok h)

theorem RoundTrip.vconj (ty : BitVec 2) (f : SlotF) (x : Bun) : RoundTrip.Statement (.vconj ty f x) := by
  intro h ws e
  cases e
  exact (encodeV_decode h).trans (checked_ok h)

theorem RoundTrip.vrand (ty : BitVec 2) (f : SlotF) (x : Bun) : RoundTrip.Statement (.vrand ty f x) := by
  intro h ws e
  cases e
  exact (encodeV_decode h).trans (checked_ok h)

theorem RoundTrip.pand (ty : BitVec 2) (f : SlotF) (x : Bun) : RoundTrip.Statement (.pand ty f x) := by
  intro h ws e
  cases e
  exact (encodeV_decode h).trans (checked_ok h)

theorem RoundTrip.por (ty : BitVec 2) (f : SlotF) (x : Bun) : RoundTrip.Statement (.por ty f x) := by
  intro h ws e
  cases e
  exact (encodeV_decode h).trans (checked_ok h)

theorem RoundTrip.pxor (ty : BitVec 2) (f : SlotF) (x : Bun) : RoundTrip.Statement (.pxor ty f x) := by
  intro h ws e
  cases e
  exact (encodeV_decode h).trans (checked_ok h)

theorem RoundTrip.pnot (ty : BitVec 2) (f : SlotF) (x : Bun) : RoundTrip.Statement (.pnot ty f x) := by
  intro h ws e
  cases e
  exact (encodeV_decode h).trans (checked_ok h)

theorem RoundTrip.cbr (ty : BitVec 2) (f : SlotF) (x : Bun) : RoundTrip.Statement (.cbr ty f x) := by
  intro h ws e
  cases e
  exact (encodeV_decode h).trans (checked_ok h)

theorem RoundTrip.cbrt (ty : BitVec 2) (f : SlotF) (x : Bun) : RoundTrip.Statement (.cbrt ty f x) := by
  intro h ws e
  cases e
  exact (encodeV_decode h).trans (checked_ok h)

theorem RoundTrip.cj (ty : BitVec 2) (f : SlotF) (x : Bun) : RoundTrip.Statement (.cj ty f x) := by
  intro h ws e
  cases e
  exact (encodeV_decode h).trans (checked_ok h)

theorem RoundTrip.loopC (ty : BitVec 2) (f : SlotF) (x : Bun) : RoundTrip.Statement (.loopC ty f x) := by
  intro h ws e
  cases e
  exact (encodeV_decode h).trans (checked_ok h)

theorem RoundTrip.loopSet (ty : BitVec 2) (f : SlotF) (x : Bun) : RoundTrip.Statement (.loopSet ty f x) := by
  intro h ws e
  cases e
  exact (encodeV_decode h).trans (checked_ok h)

theorem RoundTrip.rotb (ty : BitVec 2) (f : SlotF) (x : Bun) : RoundTrip.Statement (.rotb ty f x) := by
  intro h ws e
  cases e
  exact (encodeV_decode h).trans (checked_ok h)

theorem RoundTrip.lbhdr (ty : BitVec 2) (f : SlotF) (x : Bun) : RoundTrip.Statement (.lbhdr ty f x) := by
  intro h ws e
  cases e
  exact (encodeV_decode h).trans (checked_ok h)

theorem RoundTrip.viewt (ty : BitVec 2) (f : SlotF) (x : Bun) : RoundTrip.Statement (.viewt ty f x) := by
  intro h ws e
  cases e
  exact (encodeV_decode h).trans (checked_ok h)

theorem RoundTrip.viewa (ty : BitVec 2) (f : SlotF) (x : Bun) : RoundTrip.Statement (.viewa ty f x) := by
  intro h ws e
  cases e
  exact (encodeV_decode h).trans (checked_ok h)

theorem RoundTrip.fmtset (ty : BitVec 2) (f : SlotF) (x : Bun) : RoundTrip.Statement (.fmtset ty f x) := by
  intro h ws e
  cases e
  exact (encodeV_decode h).trans (checked_ok h)

theorem RoundTrip.mdset (ty : BitVec 2) (f : SlotF) (x : Bun) : RoundTrip.Statement (.mdset ty f x) := by
  intro h ws e
  cases e
  exact (encodeV_decode h).trans (checked_ok h)

theorem RoundTrip.mdsetf (ty : BitVec 2) (f : SlotF) (x : Bun) : RoundTrip.Statement (.mdsetf ty f x) := by
  intro h ws e
  cases e
  exact (encodeV_decode h).trans (checked_ok h)

theorem RoundTrip.cbload (ty : BitVec 2) (f : SlotF) (x : Bun) : RoundTrip.Statement (.cbload ty f x) := by
  intro h ws e
  cases e
  exact (encodeV_decode h).trans (checked_ok h)

theorem RoundTrip.mxgo (m : MSlot) (k : Toks) : RoundTrip.Statement (.mxgo m k) := by
  intro h ws e
  cases e
  exact (encodeM_decode _ m k).trans (checked_ok h)

theorem RoundTrip.mxgou (m : MSlot) (k : Toks) : RoundTrip.Statement (.mxgou m k) := by
  intro h ws e
  cases e
  exact (encodeM_decode _ m k).trans (checked_ok h)

theorem RoundTrip.mxloop (m : MSlot) (k : Toks) : RoundTrip.Statement (.mxloop m k) := by
  intro h ws e
  cases e
  exact (encodeM_decode _ m k).trans (checked_ok h)

theorem RoundTrip.tokenBundle (k : Toks) : RoundTrip.Statement (.tokenBundle k) := by
  intro h ws e
  cases e
  exact (decodeC_bundle (sa := none) (b := .empty) (m := none) (by decide) (by decide)).trans (checked_ok h)

theorem RoundTrip.heldCodebookWrite (t : TileId) : RoundTrip.Statement (.heldCodebookWrite t) := RoundTrip.noWords rfl
theorem RoundTrip.heldViewWrite (t : TileId) : RoundTrip.Statement (.heldViewWrite t) := RoundTrip.noWords rfl
theorem RoundTrip.commandDecided (t : TileId) (q : Queue) : RoundTrip.Statement (.commandDecided t q) := RoundTrip.noWords rfl
theorem RoundTrip.engineCommandStart (t : TileId) (q : Queue) : RoundTrip.Statement (.engineCommandStart t q) := RoundTrip.noWords rfl
theorem RoundTrip.copySector (t : TileId) (q : Queue) : RoundTrip.Statement (.copySector t q) := RoundTrip.noWords rfl
theorem RoundTrip.copyComplete (t : TileId) (q : Queue) : RoundTrip.Statement (.copyComplete t q) := RoundTrip.noWords rfl
theorem RoundTrip.scoutLeaf (t : TileId) : RoundTrip.Statement (.scoutLeaf t) := RoundTrip.noWords rfl
theorem RoundTrip.scoutComplete (t : TileId) : RoundTrip.Statement (.scoutComplete t) := RoundTrip.noWords rfl
theorem RoundTrip.flowSendStart (t : TileId) : RoundTrip.Statement (.flowSendStart t) := RoundTrip.noWords rfl
theorem RoundTrip.flowSendComplete (t : TileId) : RoundTrip.Statement (.flowSendComplete t) := RoundTrip.noWords rfl
theorem RoundTrip.qfenceJoinComplete (t : TileId) (q : Queue) : RoundTrip.Statement (.qfenceJoinComplete t q) := RoundTrip.noWords rfl
theorem RoundTrip.matrixCommandStart (t : TileId) (q : Queue) : RoundTrip.Statement (.matrixCommandStart t q) := RoundTrip.noWords rfl
theorem RoundTrip.matrixKStep (t : TileId) : RoundTrip.Statement (.matrixKStep t) := RoundTrip.noWords rfl
theorem RoundTrip.matrixPromotion (t : TileId) : RoundTrip.Statement (.matrixPromotion t) := RoundTrip.noWords rfl
theorem RoundTrip.matrixCommandComplete (t : TileId) : RoundTrip.Statement (.matrixCommandComplete t) := RoundTrip.noWords rfl
theorem RoundTrip.taskStart (t : TileId) : RoundTrip.Statement (.taskStart t) := RoundTrip.noWords rfl
theorem RoundTrip.taskRetire (t : TileId) : RoundTrip.Statement (.taskRetire t) := RoundTrip.noWords rfl
theorem RoundTrip.tokenStall (t : TileId) (q : Sequencer) : RoundTrip.Statement (.tokenStall t q) := RoundTrip.noWords rfl
theorem RoundTrip.owlQuiescence (id : BitVec 64) : RoundTrip.Statement (.owlQuiescence id) := RoundTrip.noWords rfl
theorem RoundTrip.owlStallRule (ctx : BitVec 12) : RoundTrip.Statement (.owlStallRule ctx) := RoundTrip.noWords rfl
theorem RoundTrip.workListAppendArrival (t : TileId) : RoundTrip.Statement (.workListAppendArrival t) := RoundTrip.noWords rfl
theorem RoundTrip.workListPopArrival (t : TileId) : RoundTrip.Statement (.workListPopArrival t) := RoundTrip.noWords rfl
theorem RoundTrip.barrierUpdate (t : TileId) (us : Updates) : RoundTrip.Statement (.barrierUpdate t us) := RoundTrip.noWords rfl
theorem RoundTrip.flowPacketArrival (n : Nat) : RoundTrip.Statement (.flowPacketArrival n) := RoundTrip.noWords rfl
theorem RoundTrip.warrenFetch (n : Nat) : RoundTrip.Statement (.warrenFetch n) := RoundTrip.noWords rfl
theorem RoundTrip.flowTimeout (place : BitVec 9) (slot : BitVec 7) : RoundTrip.Statement (.flowTimeout place slot) := RoundTrip.noWords rfl
theorem RoundTrip.sequencerFlowTimeout (t : TileId) (q : Sequencer) : RoundTrip.Statement (.sequencerFlowTimeout t q) := RoundTrip.noWords rfl
theorem RoundTrip.class3Eviction (x : SourceAt) : RoundTrip.Statement (.class3Eviction x) := RoundTrip.noWords rfl
theorem RoundTrip.requestResend (x : SourceAt) : RoundTrip.Statement (.requestResend x) := RoundTrip.noWords rfl
theorem RoundTrip.channelSlotArrival (n : Nat) : RoundTrip.Statement (.channelSlotArrival n) := RoundTrip.noWords rfl
theorem RoundTrip.channelReturnArrival (n : Nat) : RoundTrip.Statement (.channelReturnArrival n) := RoundTrip.noWords rfl
theorem RoundTrip.senderAudit (t : TileId) (c : BitVec 6) : RoundTrip.Statement (.senderAudit t c) := RoundTrip.noWords rfl
theorem RoundTrip.receiverAudit (t : TileId) (c : BitVec 6) : RoundTrip.Statement (.receiverAudit t c) := RoundTrip.noWords rfl
theorem RoundTrip.auditReply (n : Nat) : RoundTrip.Statement (.auditReply n) := RoundTrip.noWords rfl
theorem RoundTrip.subscriptionBatchClose (t : TileId) : RoundTrip.Statement (.subscriptionBatchClose t) := RoundTrip.noWords rfl
theorem RoundTrip.forwardedUpdate (n : Nat) : RoundTrip.Statement (.forwardedUpdate n) := RoundTrip.noWords rfl
theorem RoundTrip.subscriptionHandshake (t : TileId) : RoundTrip.Statement (.subscriptionHandshake t) := RoundTrip.noWords rfl
theorem RoundTrip.faccRequestArrival (n : Nat) (at_ : CombAt) : RoundTrip.Statement (.faccRequestArrival n at_) := RoundTrip.noWords rfl
theorem RoundTrip.combiningWindowEnd (n : Nat) : RoundTrip.Statement (.combiningWindowEnd n) := RoundTrip.noWords rfl
theorem RoundTrip.combiningReply (n : Nat) : RoundTrip.Statement (.combiningReply n) := RoundTrip.noWords rfl
theorem RoundTrip.combiningRecordLost (n : Nat) (what : RecordLoss) : RoundTrip.Statement (.combiningRecordLost n what) := RoundTrip.noWords rfl
theorem RoundTrip.memoryRequest (t : TileId) (n : Nat) (piece : Nat) : RoundTrip.Statement (.memoryRequest t n piece) := RoundTrip.noWords rfl
theorem RoundTrip.postedWriteAck (t : TileId) (n : Nat) : RoundTrip.Statement (.postedWriteAck t n) := RoundTrip.noWords rfl
theorem RoundTrip.postedWriteRefusal (t : TileId) (n : Nat) : RoundTrip.Statement (.postedWriteRefusal t n) := RoundTrip.noWords rfl
theorem RoundTrip.requestTimeout (t : TileId) (src : Source) : RoundTrip.Statement (.requestTimeout t src) := RoundTrip.noWords rfl
theorem RoundTrip.releaseWalk (n : Nat) : RoundTrip.Statement (.releaseWalk n) := RoundTrip.noWords rfl
theorem RoundTrip.trapEntry (t : TileId) : RoundTrip.Statement (.trapEntry t) := RoundTrip.noWords rfl
theorem RoundTrip.taskKill (t : TileId) : RoundTrip.Statement (.taskKill t) := RoundTrip.noWords rfl
theorem RoundTrip.preemption (t : TileId) : RoundTrip.Statement (.preemption t) := RoundTrip.noWords rfl
theorem RoundTrip.contextImageSaved (t : TileId) : RoundTrip.Statement (.contextImageSaved t) := RoundTrip.noWords rfl
theorem RoundTrip.resume (t : TileId) : RoundTrip.Statement (.resume t) := RoundTrip.noWords rfl
theorem RoundTrip.tailWrite (q : QueueId) : RoundTrip.Statement (.tailWrite q) := RoundTrip.noWords rfl
theorem RoundTrip.commandAccept (q : QueueId) : RoundTrip.Statement (.commandAccept q) := RoundTrip.noWords rfl
theorem RoundTrip.transferCommand (id : BitVec 64) : RoundTrip.Statement (.transferCommand id) := RoundTrip.noWords rfl
theorem RoundTrip.launchStaging (id : BitVec 64) : RoundTrip.Statement (.launchStaging id) := RoundTrip.noWords rfl
theorem RoundTrip.launchReady (id : BitVec 64) : RoundTrip.Statement (.launchReady id) := RoundTrip.noWords rfl
theorem RoundTrip.taskPlacement (t : TileId) : RoundTrip.Statement (.taskPlacement t) := RoundTrip.noWords rfl
theorem RoundTrip.readySignal (id : BitVec 64) (die : DieId) : RoundTrip.Statement (.readySignal id die) := RoundTrip.noWords rfl
theorem RoundTrip.launchSealing (id : BitVec 64) : RoundTrip.Statement (.launchSealing id) := RoundTrip.noWords rfl
theorem RoundTrip.queueEnable (q : QueueId) (v : Word) : RoundTrip.Statement (.queueEnable q v) := RoundTrip.noWords rfl
theorem RoundTrip.queueDisable (q : QueueId) (v : Word) : RoundTrip.Statement (.queueDisable q v) := RoundTrip.noWords rfl
theorem RoundTrip.seedWrite (q : QueueId) (v : Word) : RoundTrip.Statement (.seedWrite q v) := RoundTrip.noWords rfl
theorem RoundTrip.ctrbaseWrite (q : QueueId) (v : Word) : RoundTrip.Statement (.ctrbaseWrite q v) := RoundTrip.noWords rfl
theorem RoundTrip.registerWrite (off : BitVec 32) (v : Word) : RoundTrip.Statement (.registerWrite off v) := RoundTrip.noWords rfl
theorem RoundTrip.shootDown (v : Word) : RoundTrip.Statement (.shootDown v) := RoundTrip.noWords rfl
theorem RoundTrip.shootDownComplete : RoundTrip.Statement (.shootDownComplete) := RoundTrip.noWords rfl
theorem RoundTrip.accessTableWrite (g : BitVec 9) (e : BitVec 10) (part : EntryPart) (v : BitVec 128) : RoundTrip.Statement (.accessTableWrite g e part v) := RoundTrip.noWords rfl
theorem RoundTrip.atsync (v : Word) : RoundTrip.Statement (.atsync v) := RoundTrip.noWords rfl
theorem RoundTrip.partitionMapWrite (t : TileId) (v : Word) : RoundTrip.Statement (.partitionMapWrite t v) := RoundTrip.noWords rfl
theorem RoundTrip.farangeWrite (i : BitVec 6) (v : BitVec 128) : RoundTrip.Statement (.farangeWrite i v) := RoundTrip.noWords rfl
theorem RoundTrip.settIndexEnable (v : Word) : RoundTrip.Statement (.settIndexEnable v) := RoundTrip.noWords rfl
theorem RoundTrip.flgapWrite (v : Word) : RoundTrip.Statement (.flgapWrite v) := RoundTrip.noWords rfl
theorem RoundTrip.flowletPathChange (key : FlowletKey) (path : Nat) : RoundTrip.Statement (.flowletPathChange key path) := RoundTrip.noWords rfl
theorem RoundTrip.hostAccess (port : Fin 2) (r : HostReq) : RoundTrip.Statement (.hostAccess port r) := RoundTrip.noWords rfl
theorem RoundTrip.linkReplay (p : LinkId) : RoundTrip.Statement (.linkReplay p) := RoundTrip.noWords rfl
theorem RoundTrip.portDown (p : LinkId) : RoundTrip.Statement (.portDown p) := RoundTrip.noWords rfl
theorem RoundTrip.pathFailure (path : Nat) : RoundTrip.Statement (.pathFailure path) := RoundTrip.noWords rfl
theorem RoundTrip.hentiaLinkDown (i : Fin 2) : RoundTrip.Statement (.hentiaLinkDown i) := RoundTrip.noWords rfl
theorem RoundTrip.patrolScrub (u : StoredUnit) (err : BitErrors) : RoundTrip.Statement (.patrolScrub u err) := RoundTrip.noWords rfl
theorem RoundTrip.warrenReload (die : DieId) (n : Nat) : RoundTrip.Statement (.warrenReload die n) := RoundTrip.noWords rfl
theorem RoundTrip.coldReset : RoundTrip.Statement (.coldReset) := RoundTrip.noWords rfl
theorem RoundTrip.warmReset : RoundTrip.Statement (.warmReset) := RoundTrip.noWords rfl
theorem RoundTrip.clockChange (mhz : Nat) : RoundTrip.Statement (.clockChange mhz) := RoundTrip.noWords rfl
theorem RoundTrip.thermalThrottle (sensor : Nat) (deg : Nat) : RoundTrip.Statement (.thermalThrottle sensor deg) := RoundTrip.noWords rfl
theorem RoundTrip.thermtrip (sensor : Nat) (deg : Nat) : RoundTrip.Statement (.thermtrip sensor deg) := RoundTrip.noWords rfl
theorem RoundTrip.mctpControl (r : MgmtReq) : RoundTrip.Statement (.mctpControl r) := RoundTrip.noWords rfl
theorem RoundTrip.unsupportedRequest (r : MgmtReq) : RoundTrip.Statement (.unsupportedRequest r) := RoundTrip.noWords rfl
theorem RoundTrip.gettid (r : MgmtReq) : RoundTrip.Statement (.gettid r) := RoundTrip.noWords rfl
theorem RoundTrip.getpldmversion (r : MgmtReq) : RoundTrip.Statement (.getpldmversion r) := RoundTrip.noWords rfl
theorem RoundTrip.getpldmtypes (r : MgmtReq) : RoundTrip.Statement (.getpldmtypes r) := RoundTrip.noWords rfl
theorem RoundTrip.getpldmcommands (r : MgmtReq) : RoundTrip.Statement (.getpldmcommands r) := RoundTrip.noWords rfl
theorem RoundTrip.getpdr (r : MgmtReq) : RoundTrip.Statement (.getpdr r) := RoundTrip.noWords rfl
theorem RoundTrip.getsensorreading (r : MgmtReq) : RoundTrip.Statement (.getsensorreading r) := RoundTrip.noWords rfl
theorem RoundTrip.powerCapSet (r : MgmtReq) : RoundTrip.Statement (.powerCapSet r) := RoundTrip.noWords rfl
theorem RoundTrip.eventLogClear (r : MgmtReq) : RoundTrip.Statement (.eventLogClear r) := RoundTrip.noWords rfl
theorem RoundTrip.getnumericeffectervalue (r : MgmtReq) : RoundTrip.Statement (.getnumericeffectervalue r) := RoundTrip.noWords rfl
theorem RoundTrip.firmwareUpdate (r : MgmtReq) : RoundTrip.Statement (.firmwareUpdate r) := RoundTrip.noWords rfl
theorem RoundTrip.getVersion (r : MgmtReq) : RoundTrip.Statement (.getVersion r) := RoundTrip.noWords rfl
theorem RoundTrip.getCapabilities (r : MgmtReq) : RoundTrip.Statement (.getCapabilities r) := RoundTrip.noWords rfl
theorem RoundTrip.negotiateAlgorithms (r : MgmtReq) : RoundTrip.Statement (.negotiateAlgorithms r) := RoundTrip.noWords rfl
theorem RoundTrip.getDigests (r : MgmtReq) : RoundTrip.Statement (.getDigests r) := RoundTrip.noWords rfl
theorem RoundTrip.getCertificate (r : MgmtReq) : RoundTrip.Statement (.getCertificate r) := RoundTrip.noWords rfl
theorem RoundTrip.challenge (r : MgmtReq) : RoundTrip.Statement (.challenge r) := RoundTrip.noWords rfl
theorem RoundTrip.getMeasurements (r : MgmtReq) : RoundTrip.Statement (.getMeasurements r) := RoundTrip.noWords rfl
theorem RoundTrip.chresyncHandshake (t : TileId) : RoundTrip.Statement (.chresyncHandshake t) := RoundTrip.noWords rfl
theorem RoundTrip.grpsetHandshake (t : TileId) : RoundTrip.Statement (.grpsetHandshake t) := RoundTrip.noWords rfl
theorem RoundTrip.flowUnmatchedRecordReturn (n : Nat) : RoundTrip.Statement (.flowUnmatchedRecordReturn n) := RoundTrip.noWords rfl
theorem RoundTrip.linkTrained (p : LinkId) : RoundTrip.Statement (.linkTrained p) := RoundTrip.noWords rfl
theorem RoundTrip.pathDrained (path : Nat) : RoundTrip.Statement (.pathDrained path) := RoundTrip.noWords rfl
theorem RoundTrip.fuseUpdate (die : DieId) (rows : List Nat) : RoundTrip.Statement (.fuseUpdate die rows) := RoundTrip.noWords rfl
theorem RoundTrip.powerRemoval : RoundTrip.Statement (.powerRemoval) := RoundTrip.noWords rfl
theorem RoundTrip.resetAsserted : RoundTrip.Statement (.resetAsserted) := RoundTrip.noWords rfl

end Sys2Proof.Laws
end

