-- ==== Sys2Proof/Tests/Slice0.lean ====
section
/-! SUPPORT. The model's own tests: ill-formed terms that are refused, words written out from the spec's encodings, single steps on small
states, and states that meet the hypotheses of the statements. -/

open Sys2Proof Sys2Proof.Machine

namespace Sys2Proof.Tests

set_option Elab.async false

/-! ### Ill-formed terms, one for each check -/

/-- The fields of an L or S word, all zero. -/
def z : LSF := ⟨0, 0, 0, 0, 0, 0, 0, 0, 0, 0⟩

/-- The fields of a vector slot with vd 1, va 2, vb 3. -/
def v : SlotF := ⟨0, false, 1, 2, 3, false, false⟩

/-- The fields of a vector slot, all zero. -/
def v0 : SlotF := ⟨0, false, 0, 0, 0, false, false⟩

/-- A bundle with nothing beside its naming slot. -/
def e : Bun := ⟨0, 0, false, false, .empty, none⟩

/-- A bundle with a literal. -/
def lit (w : BitVec 32) : Bun := ⟨0, 0, false, false, .lit w, none⟩

theorem test_wf_k : ∀ i ∈ [Instr.evpop 0, .evpop 3, .evpeek 0, .evpeek 5, .tkpush 1 0, .tkpop 1 0, .fence 0 1],
    i.wellFormed = false := by decide +kernel

theorem test_wf_k_words : decodeK 0x80500009 0 ≠ .error .nonZeroField ∧
    (([0x80100000, 0x80000400, 0x82000400, 0x84100000, 0x80008011, 0x0C008040] : List (BitVec 32)).all fun w => decide (decodeK w 0 = .error .nonZeroField)) = true ∧
    (([0x02000015, 0x80000016, 0x82000003, 0x8400000C, 0x70000010] : List (BitVec 32)).all fun w => decide (decodeK w 0 = .error .reservedFunc)) = true ∧
    (([0, 0x16000000, 0x30000000, 0x4A000000, 0x5A000000, 0x76000000, 0x86000000, 0xFE000000] : List (BitVec 32)).all fun w => decide (decodeK w 0 = .error .reservedOpcode)) = true ∧
    decodeK 0x140C0000 7 = .error .reservedValue ∧ decodeK 0x14000001 7 = .error .nonZeroField := by decide +kernel

theorem test_wf_mods : ∀ i ∈ [Instr.lds .offset .w128 { z with order := 2 }, .lds .offset .w128 { z with order := 3 },
    .lds .offset .w128 { z with scope := 1 }, .lds .offset .w128 { z with cache := 1 }, .ldm .offset .w32 { z with cache := 2 },
    .ldl .offset .w128 { z with cache := 3 }, .ldn .offset .w64 { z with order := 1 }, .ldn .offset .w64 { z with cache := 1 },
    .stf .postInc .w32 { z with order := 2 }, .aadd { z with order := 1 }, .lj { z with scope := 1 }, .atl 8 { z with order := 3 },
    .atm 8 { z with cache := 1 }, .facc { z with order := 3 }, .slook { z with cache := 1 }, .wlpop { z with order := 3 },
    .wlapp { z with order := 2 }, .chsend { z with order := 2 }, .pfh { z with order := 1 }, .cpy { z with order := 1 },
    .mdld { z with cache := 1 }, .fsend { z with cache := 1 }, .gths { z with cache := 1 }, .gthl { z with order := 2 }],
    i.wellFormed = false := by decide +kernel

theorem test_wf_ls_fields : ∀ i ∈ [Instr.gths { z with imm := 0x02000 }, .scts { z with imm := 0x1000 + 2047 },
    .aadd { z with vreg := 1 }, .asub { z with imm := 32 }, .aaddi { z with vreg := 1 }, .ashl { z with imm := 64 }, .bshl { z with vreg := 1 },
    .amov { z with imm := 1 }, .bmov { z with vreg := 1 }, .alit { z with index := 1 }, .aslt { z with vreg := 0 }, .aeq { z with vreg := 8 },
    .bslt { z with vreg := 1, base := 1 }, .beqS { z with vreg := 1, imm := 32 }, .lbr { z with vreg := 16 }, .sbr { z with base := 1 },
    .lbr { z with index := 1 }, .lj { z with vreg := 1 }, .sj { z with base := 1 }, .lj { z with index := 1 }, .loopL { z with imm := 0 },
    .loopS { z with imm := 0x80000 }, .loopL { z with vreg := 4, imm := 1 }, .loopS { z with index := 1, imm := 1 }, .cpy { z with base := 1 },
    .cpy2 { z with index := 1 }, .scout { z with imm := 1 }, .fsend2 { z with imm := 2048 }, .chsend { z with base := 1 },
    .chrecv { z with index := 1 }, .chrecv { z with imm := 64 }, .wlapp { z with vreg := 1 }, .wlapp { z with imm := 256 },
    .wlpop { z with vreg := 8 }, .wlpop { z with imm := 256 }, .slook { z with index := 1 }, .slooki { z with imm := 1 },
    .atm 0 { z with vreg := 1024 }, .atl 0 { z with vreg := 1024 }, .atf 0 { z with vreg := 1024 }], i.wellFormed = false := by decide +kernel

theorem test_wf_gather_edge : (Instr.gths { z with imm := 2047 }).wellFormed = true ∧ (Instr.gths { z with imm := 0x1000 + 2045 }).wellFormed = false ∧
    (Instr.gths { z with imm := 0x1000 + 2044 }).wellFormed = true := by decide +kernel

theorem test_wf_c_types : ∀ i ∈ [Instr.vadd 3 v e, .vcmpeq 3 { v with vd := 1 } e, .vexp2 3 { v with vb := 0 } e, .vand 1 v e, .vsel 1 v e,
    .vrsum 3 { v with vb := 0 } e, .vcvt 1 { v with vb := 0 } e], i.wellFormed = false := by decide +kernel

theorem test_wf_c_fields : ∀ i ∈ [Instr.vabs 0 v e, .vbcast 0 v e, .vcmpeq 0 { v with vd := 0 } e, .vcmplt 0 { v with vd := 8 } e, .vcompr 0 v e,
    .vpart 0 v e, .vcvt 0 { v with vb := 0x10 } e, .vrsum 0 { v with vb := 64 } e, .vrsoft 0 { v with vb := 64 } e, .pand 0 { v with vd := 0 } e,
    .por 0 { v with va := 8 } e, .pxor 0 { v with vb := 8 } e, .pnot 0 v e, .cbr 0 { v0 with vd := 3 } (lit 1), .cbr 0 { v0 with va := 1 } (lit 1),
    .cbrt 0 v0 (lit 1), .cbrt 0 { v0 with pred := 1 } { lit 1 with pop := 1 }, .cj 0 { v0 with vd := 1 } (lit 1), .cj 0 { v0 with neg := true } (lit 1),
    .loopC 0 v0 (lit 0), .loopC 0 v0 (lit 0x80000000), .loopC 0 { v0 with vd := 8 } (lit 1), .loopC 0 { v0 with vd := 4 } (lit 1),
    .loopC 0 { v0 with vd := 32 } (lit 1), .loopSet 0 { v0 with vd := 4 } (lit 1), .loopSet 0 { v0 with vd := 12 } (lit 0),
    .loopSet 0 v0 (lit 0), .rotb 0 { v0 with vb := 5 } e, .rotb 0 { v0 with vd := 2047, va := 1 } e, .lbhdr 0 { v0 with vb := 16 } e,
    .lbhdr 0 { v0 with vd := 1, va := 2047 } e, .viewt 0 { v0 with vd := 8 } e, .viewa 0 { v0 with vd := 4 } e, .viewt 0 { v0 with vb := 1 } e,
    .fmtset 0 { v0 with vd := 16 } e, .fmtset 0 { v0 with va := 1 } e, .mdset 0 { v0 with vd := 16 } e, .mdsetf 0 { v0 with vd := 128 } e,
    .mdsetf 0 { v0 with vb := 1 } e, .cbload 0 { v0 with vd := 1 } e, .cbload 0 { v0 with pred := 1 } e], i.wellFormed = false := by decide +kernel

theorem test_wf_c_bundle : ∀ i ∈ [Instr.vcmpeq 0 { v with tr := true } e, .vpart 0 { v with vb := 0, tr := true } e,
    .vrand 0 { v with va := 0, tr := true } e, .vrsoft 0 { v with vb := 1, tr := true } e, .vcvt 0 { v with vb := 0x400, tr := true } e,
    .vsel 0 v { e with zero := true }, .vrsum 0 { v with vb := 0 } { e with zero := true }, .cj 0 v0 { lit 1 with zero := true },
    .cj 0 { v0 with rot := true } (lit 1), .vabs 0 { v with vb := 0 } (lit 1), .vadd 0 v (lit 1), .cj 0 v0 e, .cbr 0 v0 e, .loopC 0 v0 e,
    .vrand 0 { v with va := 0 } { e with inB := true }, .cbload 0 v0 { e with inB := true }, .vadd 0 v { e with inB := true, b := .lit 1 },
    .vadd 0 v { e with b := .slot ⟨.vrand, 0, { v with va := 0 }⟩ }, .vadd 0 v { e with b := .slot ⟨.vadd, 3, v⟩ }, .tokenBundle ⟨0, 0, true⟩],
    i.wellFormed = false := by decide +kernel

/-- The fates of 05's example table, and the reserved encodings of 04 R78 that no term of Instr stands for. -/
theorem test_reserved_words : decodeL 0x1300000000000000 = .error .reservedOpcode ∧ decodeS 0x3400000000000000 = .error .reservedOpcode ∧
    decodeL 0x4200000000000000 = .error .reservedOpcode ∧ decodeS 0xB000000000000000 = .error .reservedOpcode ∧ decodeL 0 = .error .reservedOpcode ∧
    decodeS 0 = .error .reservedOpcode ∧ decodeC 0x800000 = .error .reservedValue ∧ decodeC 1 = .error .nonZeroField ∧ decodeC (1 <<< 24) = .error .nonZeroField ∧
    decodeC (1 <<< 72) = .error .nonZeroField ∧ decodeC (1 <<< 111) = .error .reservedOpcode ∧ decodeC (1 <<< 121) = .error .reservedValue ∧
    decodeC (1 <<< 120) = .error .reservedValue := by decide +kernel

/-! ### Words written out from the encoding tables of 04 R66 to R73, 05 R87 to R95 -/

theorem test_decode_k_integer : ∀ p ∈ ([
    (0x02321400, 0x00000000, .add 3 4 5),
    (0x02321401, 0x00000000, .sub 3 4 5),
    (0x02321402, 0x00000000, .and 3 4 5),
    (0x02321403, 0x00000000, .or 3 4 5),
    (0x02321404, 0x00000000, .xor 3 4 5),
    (0x02321405, 0x00000000, .shl 3 4 5),
    (0x02321406, 0x00000000, .shr 3 4 5),
    (0x02321407, 0x00000000, .sar 3 4 5),
    (0x02321408, 0x00000000, .mul 3 4 5),
    (0x02321409, 0x00000000, .mulh 3 4 5),
    (0x0232140A, 0x00000000, .mulhn 3 4 5),
    (0x0232140B, 0x00000000, .div 3 4 5),
    (0x0232140C, 0x00000000, .divn 3 4 5),
    (0x0232140D, 0x00000000, .rem 3 4 5),
    (0x0232140E, 0x00000000, .remn 3 4 5),
    (0x0232140F, 0x00000000, .min 3 4 5),
    (0x02321410, 0x00000000, .max 3 4 5),
    (0x02321411, 0x00000000, .minn 3 4 5),
    (0x02321412, 0x00000000, .maxn 3 4 5),
    (0x02321413, 0x00000000, .slt 3 4 5),
    (0x02321414, 0x00000000, .sltn 3 4 5)] : List (BitVec 32 × BitVec 32 × Instr)),
    decodeK p.1 p.2.1 = .ok p.2.2 := by
  decide +kernel

theorem test_decode_k_immediate : ∀ p ∈ ([
    (0x04327FFB, 0x00000000, .addi 3 4 0x7FFB),
    (0x06327FFB, 0x00000000, .andi 3 4 0x7FFB),
    (0x08327FFB, 0x00000000, .ori 3 4 0x7FFB),
    (0x0A327FFB, 0x00000000, .xori 3 4 0x7FFB),
    (0x12327FFB, 0x00000000, .slti 3 4 0x7FFB),
    (0x0C320025, 0x00000000, .shli 3 4 37),
    (0x0E320025, 0x00000000, .shri 3 4 37),
    (0x10320025, 0x00000000, .sari 3 4 37),
    (0x14600000, 0x89ABCDEF, .lit 6 0x89ABCDEF),
    (0x14640000, 0x89ABCDEF, .litZx 6 0x89ABCDEF),
    (0x14680000, 0x89ABCDEF, .litHi 6 0x89ABCDEF)] : List (BitVec 32 × BitVec 32 × Instr)),
    decodeK p.1 p.2.1 = .ok p.2.2 := by
  decide +kernel

theorem test_decode_k_branch : ∀ p ∈ ([
    (0x2042FFFE, 0x00000000, .beq 4 5 0x7FFE),
    (0x2242FFFE, 0x00000000, .bne 4 5 0x7FFE),
    (0x2442FFFE, 0x00000000, .blt 4 5 0x7FFE),
    (0x2642FFFE, 0x00000000, .bge 4 5 0x7FFE),
    (0x2842FFFE, 0x00000000, .bltn 4 5 0x7FFE),
    (0x2A42FFFE, 0x00000000, .bgen 4 5 0x7FFE),
    (0x2DFFFFFD, 0x00000000, .jal 0x1FFFFFD),
    (0x2E32000C, 0x00000000, .jalr 3 4 12)] : List (BitVec 32 × BitVec 32 × Instr)),
    decodeK p.1 p.2.1 = .ok p.2.2 := by
  decide +kernel

theorem test_decode_k_memory : ∀ p ∈ ([
    (0x40324008, 0x00000000, .klds 3 4 0x4008),
    (0x42324008, 0x00000000, .kldm 3 4 0x4008),
    (0x44324008, 0x00000000, .kldl 3 4 0x4008),
    (0x46324008, 0x00000000, .kldf 3 4 0x4008),
    (0x48324008, 0x00000000, .kldh 3 4 0x4008),
    (0x5042FFF8, 0x00000000, .ksts 4 5 0x7FF8),
    (0x5242FFF8, 0x00000000, .kstm 4 5 0x7FF8),
    (0x5442FFF8, 0x00000000, .kstl 4 5 0x7FF8),
    (0x5642FFF8, 0x00000000, .kstf 4 5 0x7FF8),
    (0x5842FFF8, 0x00000000, .ksth 4 5 0x7FF8),
    (0x7032140F, 0x00000000, .katm 3 4 5 15),
    (0x7232140E, 0x00000000, .katl 3 4 5 14),
    (0x7432140D, 0x00000000, .katf 3 4 5 13)] : List (BitVec 32 × BitVec 32 × Instr)),
    decodeK p.1 p.2.1 = .ok p.2.2 := by
  decide +kernel

theorem test_decode_k_synchronisation : ∀ p ∈ ([
    (0x80020000, 0x00000000, .smwait 4),
    (0x80020001, 0x00000000, .smsig 4),
    (0x80021402, 0x00000000, .smset 4 5),
    (0x80320003, 0x00000000, .smrd 3 4),
    (0x81E00004, 0x00000000, .evpop 30),
    (0x80200005, 0x00000000, .evpeek 2),
    (0x80021406, 0x00000000, .gres 4 5),
    (0x80021C07, 0x00000000, .tkpush 4 7),
    (0x80300408, 0x00000000, .tkpop 3 1),
    (0x80321409, 0x00000000, .barr 3 4 5),
    (0x8032000A, 0x00000000, .bard 3 4),
    (0x8002140B, 0x00000000, .barx 4 5),
    (0x8032140C, 0x00000000, .barw 3 4 5),
    (0x8002140D, 0x00000000, .flagadd 4 5),
    (0x8002140E, 0x00000000, .flagset 4 5),
    (0x8002140F, 0x00000000, .grpset 4 5),
    (0x80321410, 0x00000000, .grpq 3 4 5),
    (0x80003811, 0x00000000, .fence 3 2),
    (0x80021412, 0x00000000, .qfence 4 5),
    (0x80321413, 0x00000000, .subon 3 4 5),
    (0x80320014, 0x00000000, .suboff 3 4),
    (0x80320015, 0x00000000, .chresync 3 4)] : List (BitVec 32 × BitVec 32 × Instr)),
    decodeK p.1 p.2.1 = .ok p.2.2 := by
  decide +kernel

theorem test_decode_k_system : ∀ p ∈ ([
    (0x82320000, 0x00000000, .sinc 3 4),
    (0x82320001, 0x00000000, .srel 3 4),
    (0x82321402, 0x00000000, .sroot 3 4 5),
    (0x84000000, 0x00000000, .nop),
    (0x84321401, 0x00000000, .sqrd 3 4 5),
    (0x84020002, 0x00000000, .sqres 4),
    (0x84020003, 0x00000000, .sqskip 4),
    (0x84320004, 0x00000000, .srrd 3 4),
    (0x84021405, 0x00000000, .srwr 4 5),
    (0x84320006, 0x00000000, .rng 3 4),
    (0x84300007, 0x00000000, .clkrd 3),
    (0x84020008, 0x00000000, .trap 4),
    (0x84000009, 0x00000000, .eret),
    (0x8400000A, 0x00000000, .yield),
    (0x8400000B, 0x00000000, .exit)] : List (BitVec 32 × BitVec 32 × Instr)),
    decodeK p.1 p.2.1 = .ok p.2.2 := by
  decide +kernel

theorem test_decode_l0 : ∀ p ∈ ([
    (0x1029828194004018, .lds .offset .w128 ⟨1, 2, 3, 40, 3, 5, 256, 1, 2, 0⟩),
    (0x1529828194004018, .lds .postInc .w64 ⟨1, 2, 3, 40, 3, 5, 256, 1, 2, 0⟩),
    (0x1D29829194004018, .ldm .postInc .w64 ⟨1, 2, 3, 41, 3, 5, 256, 1, 2, 0⟩),
    (0x1A29829194004018, .ldm .offset .w32 ⟨1, 2, 3, 41, 3, 5, 256, 1, 2, 0⟩),
    (0x222982A194004019, .ldl .offset .w32 ⟨1, 2, 3, 42, 3, 5, 256, 1, 2, 1⟩),
    (0x242982A194004019, .ldl .postInc .w128 ⟨1, 2, 3, 42, 3, 5, 256, 1, 2, 1⟩),
    (0x2C2982B194004019, .ldf .postInc .w128 ⟨1, 2, 3, 43, 3, 5, 256, 1, 2, 1⟩),
    (0x292982B194004019, .ldf .offset .w64 ⟨1, 2, 3, 43, 3, 5, 256, 1, 2, 1⟩),
    (0x312982C194004000, .ldn .offset .w64 ⟨1, 2, 3, 44, 3, 5, 256, 0, 0, 0⟩),
    (0x362982C194004000, .ldn .postInc .w32 ⟨1, 2, 3, 44, 3, 5, 256, 0, 0, 0⟩),
    (0x3E2982D194004019, .ldh .postInc .w32 ⟨1, 2, 3, 45, 3, 5, 256, 1, 2, 1⟩),
    (0x382982D194004019, .ldh .offset .w128 ⟨1, 2, 3, 45, 3, 5, 256, 1, 2, 1⟩),
    (0x40977FFFF802191C, .gths ⟨4, 5, 6, 2047, 31, 30, 2148, 1, 3, 0⟩),
    (0x410000110C07FF82, .gthl ⟨0, 0, 0, 1, 2, 3, 8190, 0, 0, 2⟩)] : List (BitVec 64 × Instr)),
    decodeL p.1 = .ok p.2 := by
  decide +kernel

theorem test_decode_l1 : ∀ p ∈ ([
    (0x482980031C000200, .aadd ⟨1, 2, 3, 0, 6, 7, 8, 0, 0, 0⟩),
    (0x492980031FFFFFC0, .aaddi ⟨1, 2, 3, 0, 6, 7, 1048575, 0, 0, 0⟩),
    (0x4A2980031C0007C0, .asub ⟨1, 2, 3, 0, 6, 7, 31, 0, 0, 0⟩),
    (0x4B2980031C000240, .amul ⟨1, 2, 3, 0, 6, 7, 9, 0, 0, 0⟩),
    (0x4C2980031C000FC0, .ashl ⟨1, 2, 3, 0, 6, 7, 63, 0, 0, 0⟩),
    (0x4D2980031C000000, .amov ⟨1, 2, 3, 0, 6, 7, 0, 0, 0, 0⟩),
    (0x4E29FFF302000000, .alit ⟨1, 2, 3, 2047, 6, 0, 524288, 0, 0, 0⟩),
    (0x4F2980701C000140, .aslt ⟨1, 2, 3, 7, 0, 7, 5, 0, 0, 0⟩),
    (0x502980101C000780, .aeq ⟨1, 2, 3, 1, 0, 7, 30, 0, 0, 0⟩),
    (0x581100D003FFFF80, .lbr ⟨0, 4, 2, 13, 0, 0, 1048574, 0, 0, 0⟩),
    (0x59FF800000000140, .lj ⟨7, 7, 7, 0, 0, 0, 5, 0, 0, 0⟩),
    (0x5A00803481FFFFC0, .loopL ⟨0, 0, 1, 3, 9, 0, 524287, 0, 0, 0⟩),
    (0x602004D000000001, .cpy ⟨1, 0, 0, 77, 0, 0, 0, 0, 0, 1⟩),
    (0x612004D000000002, .cpy2 ⟨1, 0, 0, 77, 0, 0, 0, 0, 0, 2⟩)] : List (BitVec 64 × Instr)),
    decodeL p.1 = .ok p.2 := by
  decide +kernel

theorem test_decode_l2 : ∀ p ∈ ([
    (0x632004D000000000, .mdld ⟨1, 0, 0, 77, 0, 0, 0, 0, 0, 0⟩),
    (0x642004D000000000, .scout ⟨1, 0, 0, 77, 0, 0, 0, 0, 0, 0⟩),
    (0x622004D214040001, .pfh ⟨1, 0, 0, 77, 4, 5, 4096, 0, 0, 1⟩),
    (0x682004D000000FD4, .chrecv ⟨1, 0, 0, 77, 0, 0, 63, 1, 1, 0⟩),
    (0x6920005218003FEC, .wlpop ⟨1, 0, 0, 5, 4, 6, 255, 2, 3, 0⟩),
    (0x6A205A721B80022E, .facc ⟨1, 0, 0, 1447, 4, 6, 917512, 2, 3, 2⟩)] : List (BitVec 64 × Instr)),
    decodeL p.1 = .ok p.2 := by
  decide +kernel

theorem test_decode_s0 : ∀ p ∈ ([
    (0x1029828194004018, .sts .offset .w128 ⟨1, 2, 3, 40, 3, 5, 256, 1, 2, 0⟩),
    (0x1529828194004018, .sts .postInc .w64 ⟨1, 2, 3, 40, 3, 5, 256, 1, 2, 0⟩),
    (0x1D29829194004018, .stm .postInc .w64 ⟨1, 2, 3, 41, 3, 5, 256, 1, 2, 0⟩),
    (0x1A29829194004018, .stm .offset .w32 ⟨1, 2, 3, 41, 3, 5, 256, 1, 2, 0⟩),
    (0x222982A194004019, .stl .offset .w32 ⟨1, 2, 3, 42, 3, 5, 256, 1, 2, 1⟩),
    (0x242982A194004019, .stl .postInc .w128 ⟨1, 2, 3, 42, 3, 5, 256, 1, 2, 1⟩),
    (0x2C2982B194004019, .stf .postInc .w128 ⟨1, 2, 3, 43, 3, 5, 256, 1, 2, 1⟩),
    (0x292982B194004019, .stf .offset .w64 ⟨1, 2, 3, 43, 3, 5, 256, 1, 2, 1⟩),
    (0x3E2982D194004019, .sth .postInc .w32 ⟨1, 2, 3, 45, 3, 5, 256, 1, 2, 1⟩),
    (0x382982D194004019, .sth .offset .w128 ⟨1, 2, 3, 45, 3, 5, 256, 1, 2, 1⟩),
    (0x40977FFFF802191C, .scts ⟨4, 5, 6, 2047, 31, 30, 2148, 1, 3, 0⟩),
    (0x410000110C07FF82, .sctl ⟨0, 0, 0, 1, 2, 3, 8190, 0, 0, 2⟩),
    (0x482980031C000200, .badd ⟨1, 2, 3, 0, 6, 7, 8, 0, 0, 0⟩),
    (0x492980031FFFFFC0, .baddi ⟨1, 2, 3, 0, 6, 7, 1048575, 0, 0, 0⟩)] : List (BitVec 64 × Instr)),
    decodeS p.1 = .ok p.2 := by
  decide +kernel

theorem test_decode_s1 : ∀ p ∈ ([
    (0x4A2980031C0007C0, .bsub ⟨1, 2, 3, 0, 6, 7, 31, 0, 0, 0⟩),
    (0x4B2980031C000240, .bmul ⟨1, 2, 3, 0, 6, 7, 9, 0, 0, 0⟩),
    (0x4C2980031C000FC0, .bshl ⟨1, 2, 3, 0, 6, 7, 63, 0, 0, 0⟩),
    (0x4D2980031C000000, .bmov ⟨1, 2, 3, 0, 6, 7, 0, 0, 0, 0⟩),
    (0x4E29FFF302000000, .blit ⟨1, 2, 3, 2047, 6, 0, 524288, 0, 0, 0⟩),
    (0x4F2980701C000140, .bslt ⟨1, 2, 3, 7, 0, 7, 5, 0, 0, 0⟩),
    (0x502980101C000780, .beqS ⟨1, 2, 3, 1, 0, 7, 30, 0, 0, 0⟩),
    (0x581100D003FFFF80, .sbr ⟨0, 4, 2, 13, 0, 0, 1048574, 0, 0, 0⟩),
    (0x59FF800000000140, .sj ⟨7, 7, 7, 0, 0, 0, 5, 0, 0, 0⟩),
    (0x5A00803481FFFFC0, .loopS ⟨0, 0, 1, 3, 9, 0, 524287, 0, 0, 0⟩),
    (0x602004D21848D140, .fsend ⟨1, 0, 0, 77, 4, 6, 74565, 0, 0, 0⟩),
    (0x612004D21801FFC0, .fsend2 ⟨1, 0, 0, 77, 4, 6, 2047, 0, 0, 0⟩),
    (0x682004D000000F90, .chsend ⟨1, 0, 0, 77, 0, 0, 62, 1, 0, 0⟩),
    (0x6920000218003F98, .wlapp ⟨1, 0, 0, 0, 4, 6, 254, 1, 2, 0⟩)] : List (BitVec 64 × Instr)),
    decodeS p.1 = .ok p.2 := by
  decide +kernel

theorem test_decode_s2 : ∀ p ∈ ([
    (0x6A2004D200000028, .slook ⟨1, 0, 0, 77, 4, 0, 0, 2, 2, 0⟩),
    (0x6B2004D200000018, .slooki ⟨1, 0, 0, 77, 4, 0, 0, 1, 2, 0⟩),
    (0x87203E721800042C, .atm 7 ⟨1, 0, 0, 999, 4, 6, 16, 2, 3, 0⟩),
    (0x98203E721800042D, .atl 8 ⟨1, 0, 0, 999, 4, 6, 16, 2, 3, 1⟩),
    (0xA9203E721800042D, .atf 9 ⟨1, 0, 0, 999, 4, 6, 16, 2, 3, 1⟩)] : List (BitVec 64 × Instr)),
    decodeS p.1 = .ok p.2 := by
  decide +kernel

theorem test_decode_c0 : ∀ p ∈ ([
    (0x4C10280A016032000000000000000000, .vadd 0 ⟨2, true, 10, 11, 12, true, false⟩ ⟨2, 3, false, false, .empty, none⟩),
    (0x4C12A80A016032000000000000000000, .vsub 1 ⟨2, true, 10, 11, 12, true, false⟩ ⟨2, 3, false, false, .empty, none⟩),
    (0x4C15280A016032000000000000000000, .vmul 2 ⟨2, true, 10, 11, 12, true, false⟩ ⟨2, 3, false, false, .empty, none⟩),
    (0x4C16280A016032000000000000000000, .vfma 0 ⟨2, true, 10, 11, 12, true, false⟩ ⟨2, 3, false, false, .empty, none⟩),
    (0x4C18A80A016032000000000000000000, .vfms 1 ⟨2, true, 10, 11, 12, true, false⟩ ⟨2, 3, false, false, .empty, none⟩),
    (0x4C1B280A016032000000000000000000, .vmin 2 ⟨2, true, 10, 11, 12, true, false⟩ ⟨2, 3, false, false, .empty, none⟩),
    (0x4C1C280A016032000000000000000000, .vmax 0 ⟨2, true, 10, 11, 12, true, false⟩ ⟨2, 3, false, false, .empty, none⟩),
    (0x4C1EA80A016002000000000000000000, .vabs 1 ⟨2, true, 10, 11, 0, true, false⟩ ⟨2, 3, false, false, .empty, none⟩),
    (0x4C21280A016002000000000000000000, .vneg 2 ⟨2, true, 10, 11, 0, true, false⟩ ⟨2, 3, false, false, .empty, none⟩),
    (0x4C22280A016032000000000000000000, .vcpys 0 ⟨2, true, 10, 11, 12, true, false⟩ ⟨2, 3, false, false, .empty, none⟩),
    (0x4C31280A016032000000000000000000, .viadd 2 ⟨2, true, 10, 11, 12, true, false⟩ ⟨2, 3, false, false, .empty, none⟩),
    (0x4C33A80A016032000000000000000000, .visub 3 ⟨2, true, 10, 11, 12, true, false⟩ ⟨2, 3, false, false, .empty, none⟩),
    (0x4C34280A016032000000000000000000, .vimul 0 ⟨2, true, 10, 11, 12, true, false⟩ ⟨2, 3, false, false, .empty, none⟩),
    (0x4C36A80A016032000000000000000000, .vimulh 1 ⟨2, true, 10, 11, 12, true, false⟩ ⟨2, 3, false, false, .empty, none⟩)] : List (BitVec 128 × Instr)),
    decodeC p.1 = .ok p.2 := by
  decide +kernel

theorem test_decode_c1 : ∀ p ∈ ([
    (0x4C38280A016032000000000000000000, .vand 0 ⟨2, true, 10, 11, 12, true, false⟩ ⟨2, 3, false, false, .empty, none⟩),
    (0x4C3A280A016032000000000000000000, .vor 0 ⟨2, true, 10, 11, 12, true, false⟩ ⟨2, 3, false, false, .empty, none⟩),
    (0x4C3C280A016032000000000000000000, .vxor 0 ⟨2, true, 10, 11, 12, true, false⟩ ⟨2, 3, false, false, .empty, none⟩),
    (0x4C3E280A016002000000000000000000, .vnot 0 ⟨2, true, 10, 11, 0, true, false⟩ ⟨2, 3, false, false, .empty, none⟩),
    (0x4C41280A016032000000000000000000, .vshl 2 ⟨2, true, 10, 11, 12, true, false⟩ ⟨2, 3, false, false, .empty, none⟩),
    (0x4C43A80A016032000000000000000000, .vshr 3 ⟨2, true, 10, 11, 12, true, false⟩ ⟨2, 3, false, false, .empty, none⟩),
    (0x4C44280A016032000000000000000000, .vsar 0 ⟨2, true, 10, 11, 12, true, false⟩ ⟨2, 3, false, false, .empty, none⟩),
    (0x4C46A80A016032000000000000000000, .vimin 1 ⟨2, true, 10, 11, 12, true, false⟩ ⟨2, 3, false, false, .empty, none⟩),
    (0x4C49280A016032000000000000000000, .vimax 2 ⟨2, true, 10, 11, 12, true, false⟩ ⟨2, 3, false, false, .empty, none⟩),
    (0x4C4BA805016030000000000000000000, .vicmpeq 3 ⟨2, true, 5, 11, 12, false, false⟩ ⟨2, 3, false, false, .empty, none⟩),
    (0x4C4C2805016030000000000000000000, .vicmplt 0 ⟨2, true, 5, 11, 12, false, false⟩ ⟨2, 3, false, false, .empty, none⟩),
    (0x4C50A805016030000000000000000000, .vcmpeq 1 ⟨2, true, 5, 11, 12, false, false⟩ ⟨2, 3, false, false, .empty, none⟩),
    (0x4C532805016030000000000000000000, .vcmplt 2 ⟨2, true, 5, 11, 12, false, false⟩ ⟨2, 3, false, false, .empty, none⟩),
    (0x4C542805016030000000000000000000, .vcmple 0 ⟨2, true, 5, 11, 12, false, false⟩ ⟨2, 3, false, false, .empty, none⟩)] : List (BitVec 128 × Instr)),
    decodeC p.1 = .ok p.2 := by
  decide +kernel

theorem test_decode_c2 : ∀ p ∈ ([
    (0x4C56A805016030000000000000000000, .vcmpun 1 ⟨2, true, 5, 11, 12, false, false⟩ ⟨2, 3, false, false, .empty, none⟩),
    (0x4C58280A016032000000000000000000, .vsel 0 ⟨2, true, 10, 11, 12, true, false⟩ ⟨2, 3, false, false, .empty, none⟩),
    (0x4C58A80A016002000000000000000000, .vmov 0 ⟨2, true, 10, 11, 0, true, false⟩ ⟨2, 3, false, false, .empty, none⟩),
    (0x4C59280A016000000000000000000000, .vpart 0 ⟨2, true, 10, 11, 0, false, false⟩ ⟨2, 3, false, false, .empty, none⟩),
    (0x4C60280A000032000000000000000000, .vbcast 0 ⟨2, true, 10, 0, 12, true, false⟩ ⟨2, 3, false, false, .empty, none⟩),
    (0x4C62A80A016032000000000000000000, .vshuf 1 ⟨2, true, 10, 11, 12, true, false⟩ ⟨2, 3, false, false, .empty, none⟩),
    (0x4C65280A016032000000000000000000, .vrot 2 ⟨2, true, 10, 11, 12, true, false⟩ ⟨2, 3, false, false, .empty, none⟩),
    (0x4C67A80A000032000000000000000000, .viota 3 ⟨2, true, 10, 0, 12, true, false⟩ ⟨2, 3, false, false, .empty, none⟩),
    (0x4C68280A016002000000000000000000, .vcompr 0 ⟨2, true, 10, 11, 0, true, false⟩ ⟨2, 3, false, false, .empty, none⟩),
    (0x4C70280A016116000000000000000000, .vcvt 0 ⟨2, true, 10, 11, 69, true, false⟩ ⟨2, 3, false, false, .empty, none⟩),
    (0x4C70A80A016116000000000000000000, .vcvto 0 ⟨2, true, 10, 11, 69, true, false⟩ ⟨2, 3, false, false, .empty, none⟩),
    (0x4C71280A016116000000000000000000, .vcvts 0 ⟨2, true, 10, 11, 69, true, false⟩ ⟨2, 3, false, false, .empty, none⟩),
    (0x4C71A80A016032000000000000000000, .vcbdec 0 ⟨2, true, 10, 11, 12, true, false⟩ ⟨2, 3, false, false, .empty, none⟩),
    (0x4C81280A016002000000000000000000, .vexp2 2 ⟨2, true, 10, 11, 0, true, false⟩ ⟨2, 3, false, false, .empty, none⟩)] : List (BitVec 128 × Instr)),
    decodeC p.1 = .ok p.2 := by
  decide +kernel

theorem test_decode_c3 : ∀ p ∈ ([
    (0x4C82280A016002000000000000000000, .vlog2 0 ⟨2, true, 10, 11, 0, true, false⟩ ⟨2, 3, false, false, .empty, none⟩),
    (0x4C84A80A016002000000000000000000, .vsin 1 ⟨2, true, 10, 11, 0, true, false⟩ ⟨2, 3, false, false, .empty, none⟩),
    (0x4C87280A016002000000000000000000, .vcos 2 ⟨2, true, 10, 11, 0, true, false⟩ ⟨2, 3, false, false, .empty, none⟩),
    (0x4C88280A016002000000000000000000, .vtanh 0 ⟨2, true, 10, 11, 0, true, false⟩ ⟨2, 3, false, false, .empty, none⟩),
    (0x4C8AA80A016002000000000000000000, .vrcp 1 ⟨2, true, 10, 11, 0, true, false⟩ ⟨2, 3, false, false, .empty, none⟩),
    (0x4C8D280A016002000000000000000000, .vrsqrt 2 ⟨2, true, 10, 11, 0, true, false⟩ ⟨2, 3, false, false, .empty, none⟩),
    (0x4C8E280A016002000000000000000000, .vsqrt 0 ⟨2, true, 10, 11, 0, true, false⟩ ⟨2, 3, false, false, .empty, none⟩),
    (0x4C90A80A016032000000000000000000, .vdiv 1 ⟨2, true, 10, 11, 12, true, false⟩ ⟨2, 3, false, false, .empty, none⟩),
    (0x4C99280A016086000000000000000000, .vrsum 2 ⟨2, true, 10, 11, 33, true, false⟩ ⟨2, 3, false, false, .empty, none⟩),
    (0x4C9A280A016086000000000000000000, .vrmax 0 ⟨2, true, 10, 11, 33, true, false⟩ ⟨2, 3, false, false, .empty, none⟩),
    (0x4C9CA80A016086000000000000000000, .vrmin 1 ⟨2, true, 10, 11, 33, true, false⟩ ⟨2, 3, false, false, .empty, none⟩),
    (0x4C9F280A016086000000000000000000, .vrstat 2 ⟨2, true, 10, 11, 33, true, false⟩ ⟨2, 3, false, false, .empty, none⟩),
    (0x4CA0280A016C02000000000000000000, .vrsoft 0 ⟨2, true, 10, 11, 768, true, false⟩ ⟨2, 3, false, false, .empty, none⟩),
    (0x4CA8280A016032000000000000000000, .vcmul 0 ⟨2, true, 10, 11, 12, true, false⟩ ⟨2, 3, false, false, .empty, none⟩)] : List (BitVec 128 × Instr)),
    decodeC p.1 = .ok p.2 := by
  decide +kernel

theorem test_decode_c4 : ∀ p ∈ ([
    (0x4CA8A80A016032000000000000000000, .vcfma 0 ⟨2, true, 10, 11, 12, true, false⟩ ⟨2, 3, false, false, .empty, none⟩),
    (0x4CA9280A016002000000000000000000, .vconj 0 ⟨2, true, 10, 11, 0, true, false⟩ ⟨2, 3, false, false, .empty, none⟩),
    (0x4CAC280A000030000000000000000000, .vrand 0 ⟨2, true, 10, 0, 12, false, false⟩ ⟨2, 3, false, false, .empty, none⟩),
    (0x4CB0280500C01C000000000000000000, .pand 0 ⟨2, true, 5, 6, 7, false, false⟩ ⟨2, 3, false, false, .empty, none⟩),
    (0x4CB0A80500C01C000000000000000000, .por 0 ⟨2, true, 5, 6, 7, false, false⟩ ⟨2, 3, false, false, .empty, none⟩),
    (0x4CB1280500C01C000000000000000000, .pxor 0 ⟨2, true, 5, 6, 7, false, false⟩ ⟨2, 3, false, false, .empty, none⟩),
    (0x4CB1A80500C000000000000000000000, .pnot 0 ⟨2, true, 5, 6, 0, false, false⟩ ⟨2, 3, false, false, .empty, none⟩),
    (0x4EB82802000000FFFFFFFE0000000000, .cbr 0 ⟨2, true, 2, 0, 0, false, false⟩ ⟨2, 3, false, false, .lit 0xFFFFFFFE, none⟩),
    (0x4EB88001000000FFFFFFFE0000000000, .cbrt 0 ⟨0, false, 1, 0, 0, false, false⟩ ⟨2, 3, false, false, .lit 0xFFFFFFFE, none⟩),
    (0x4EB90000000000FFFFFFFE0000000000, .cj 0 ⟨0, false, 0, 0, 0, false, false⟩ ⟨2, 3, false, false, .lit 0xFFFFFFFE, none⟩),
    (0x4EB98013FA0000000000070000000000, .loopC 0 ⟨0, false, 19, 2000, 0, false, false⟩ ⟨2, 3, false, false, .lit 0x00000007, none⟩),
    (0x4EB9800E000000000000000000000000, .loopSet 0 ⟨0, false, 14, 0, 0, false, false⟩ ⟨2, 3, false, false, .lit 0x00000000, none⟩),
    (0x4CBA07D005E010000000000000000000, .rotb 0 ⟨0, false, 2000, 47, 4, false, false⟩ ⟨2, 3, false, false, .empty, none⟩),
    (0x4CBA87D005E03C000000000000000000, .lbhdr 0 ⟨0, false, 2000, 47, 15, false, false⟩ ⟨2, 3, false, false, .empty, none⟩)] : List (BitVec 128 × Instr)),
    decodeC p.1 = .ok p.2 := by
  decide +kernel

theorem test_decode_c5 : ∀ p ∈ ([
    (0x4CC00007018001000000000000000000, .viewt 0 ⟨0, false, 7, 12, 0, false, true⟩ ⟨2, 3, false, false, .empty, none⟩),
    (0x4CC08003018001000000000000000000, .viewa 0 ⟨0, false, 3, 12, 0, false, true⟩ ⟨2, 3, false, false, .empty, none⟩),
    (0x4CC1000F000030000000000000000000, .fmtset 0 ⟨0, false, 15, 0, 12, false, false⟩ ⟨2, 3, false, false, .empty, none⟩),
    (0x4CC1800F018000000000000000000000, .mdset 0 ⟨0, false, 15, 12, 0, false, false⟩ ⟨2, 3, false, false, .empty, none⟩),
    (0x4CC2007F018000000000000000000000, .mdsetf 0 ⟨0, false, 127, 12, 0, false, false⟩ ⟨2, 3, false, false, .empty, none⟩),
    (0x4CC28000018001000000000000000000, .cbload 0 ⟨0, false, 0, 12, 0, false, true⟩ ⟨2, 3, false, false, .empty, none⟩),
    (0x0100000000000032281402A059000000, .visub 0 ⟨2, true, 20, 21, 22, false, true⟩ ⟨0, 0, true, true, .empty, none⟩),
    (0xA010100A00400C32281402A0595390C9, .vadd 0 ⟨1, false, 10, 2, 3, false, false⟩ ⟨5, 0, false, false, .slot ⟨.visub, 0, ⟨2, true, 20, 21, 22, false, true⟩⟩, some ⟨.mxgou, ⟨9, 200, 100, true⟩⟩⟩),
    (0x4E10000A0040003FC00000000024080A, .vadd 0 ⟨0, false, 10, 2, 0, false, false⟩ ⟨2, 3, false, false, .lit 0x3FC00000, some ⟨.mxgo, ⟨2, 4, 5, false⟩⟩⟩),
    (0x3C0000000000000000000000003FFFFD, .mxgo ⟨15, 255, 254, true⟩ ⟨1, 7, false⟩),
    (0x3C0000000000000000000000005FFFFD, .mxgou ⟨15, 255, 254, true⟩ ⟨1, 7, false⟩),
    (0x3C0000000000000000000000007FFFFD, .mxloop ⟨15, 255, 254, true⟩ ⟨1, 7, false⟩),
    (0x80000000000000000000000000000000, .tokenBundle ⟨4, 0, false⟩)] : List (BitVec 128 × Instr)),
    decodeC p.1 = .ok p.2 := by
  decide +kernel

/-! ### Single steps on small states; expected results from the spec's examples and tables, or computed by hand from its rules -/

/-- A task with all four streams from 0 to 2^20. -/
def task1 : Task :=
  { launch := 1, index := 0, image := 0, ctx := 0, kEnt := 0, kFin := 0x100000, lEnt := 0, lFin := 0x100000, cEnt := 0, cFin := 0x100000
    sEnt := 0, sFin := 0x100000 }

/-- An access-table entry that grants every block and every access to device 0 under every tag. -/
def grant : BitVec 128 := 0xFFFFFFFF00000000F000000000FFF000

/-- That entry in the table of every target. -/
def grants : List AcctEntry := (List.range 478).map fun g => ⟨g, 0, grant⟩

/-- The launch of that task. -/
def launch1 : Launch := { (default : Launch) with id := 1, state := .running, tasks := 1, seed := 7, cbase := 100 }

/-- Reset with that task on tile 0, the tile changed by f. -/
def live (f : Tile → Tile) : State :=
  (State.reset.updDev fun d => { d with launches := [launch1], images := [{ (default : Image) with readable := true }] }).updAt 0 fun t =>
    f { t with task := some task1, live := true, pmap := 0x10 }

/-- Values in registers of K. -/
def withK (l : List (Nat × Word)) (t : Tile) : Tile := { t with k := { t.k with regs := l.foldl (fun r p => wr r p.1 p.2) t.k.regs } }

/-- Values in registers of L. -/
def withL (l : List (Nat × Word)) (t : Tile) : Tile := { t with l := { t.l with regs := l.foldl (fun r p => wr r p.1 p.2) t.l.regs } }

/-- Values in registers of S. -/
def withS (l : List (Nat × Word)) (t : Tile) : Tile := { t with s := { t.s with regs := l.foldl (fun r p => wr r p.1 p.2) t.s.regs } }

/-- Entries in the token queue from q to p. -/
def toks (q p : Sequencer) (l : List (BitVec 32)) (t : Tile) : Tile := t.setTokQ q p ⟨0, l.map fun v => ⟨v, Clk.zero⟩, []⟩

/-- What f reads in the next state; d where there is none. -/
def after {α : Type} (i : Instr) (s : State) (f : State → α) (d : α) : α :=
  match exec i s with
  | .next t => f t
  | _ => d

/-- K register 3 after an instruction with 4 and 5 in k4 and k5. -/
def k3 (i : Instr) (a b : Word) : Word := after i (live (withK [(4, a), (5, b)])) (fun t => t.tile.kget 3) 0xDEAD

theorem test_k_arithmetic : k3 (.add 3 4 5) 0xFFFFFFFFFFFFFFFF 2 = 1 ∧ k3 (.sub 3 4 5) 1 2 = 0xFFFFFFFFFFFFFFFF ∧
    k3 (.sar 3 4 5) 0x8000000000000000 68 = 0xF800000000000000 ∧ k3 (.shr 3 4 5) 0x8000000000000000 68 = 0x0800000000000000 ∧
    k3 (.shl 3 4 5) 3 63 = 0x8000000000000000 ∧ k3 (.mulh 3 4 5) 0xFFFFFFFFFFFFFFFF 2 = 0xFFFFFFFFFFFFFFFF ∧
    k3 (.mulhn 3 4 5) 0xFFFFFFFFFFFFFFFF 2 = 1 ∧ k3 (.min 3 4 5) 0xFFFFFFFFFFFFFFFF 1 = 0xFFFFFFFFFFFFFFFF ∧
    k3 (.minn 3 4 5) 0xFFFFFFFFFFFFFFFF 1 = 1 ∧ k3 (.slt 3 4 5) 0xFFFFFFFFFFFFFFFF 0 = 1 ∧ k3 (.sltn 3 4 5) 0xFFFFFFFFFFFFFFFF 0 = 0 := by
  decide +kernel

theorem test_k_division : k3 (.div 3 4 5) 0x8000000000000000 0xFFFFFFFFFFFFFFFF = 0x8000000000000000 ∧
    k3 (.rem 3 4 5) 0x8000000000000000 0xFFFFFFFFFFFFFFFF = 0 ∧ k3 (.div 3 4 5) 7 0 = 0xFFFFFFFFFFFFFFFF ∧ k3 (.remn 3 4 5) 7 0 = 7 ∧
    k3 (.div 3 4 5) (-7) 2 = -3 ∧ k3 (.rem 3 4 5) (-7) 2 = -1 ∧ k3 (.divn 3 4 5) (-7) 2 = 0x7FFFFFFFFFFFFFFC := by decide +kernel

theorem test_k_literals : k3 (.lit 3 0x80000000) 0 0 = 0xFFFFFFFF80000000 ∧ k3 (.litZx 3 0x80000000) 0 0 = 0x80000000 ∧
    after (.litHi 4 0x12345678) (live (withK [(4, 0xAAAAAAAA55555555)])) (fun t => (t.tile.kget 4, t.tile.k.pc)) (0, 0) = (0x1234567855555555, 8) := by
  decide +kernel

theorem test_k_zero_register : after (.addi 0 0 5) (live id) (fun t => (t.tile.kget 0, t.tile.k.pc)) (9, 9) = (0, 4) := by decide +kernel

theorem test_k_link_in_trap_mode :
    after (.jal 2) (live fun t => { t with k := { t.k with pc := 8, trap := true } }) (fun t => (rd t.tile.k.kt 7, rd t.tile.k.regs 31, t.tile.k.pc)) (0, 0, 0) =
      (12, 0, 16) := by decide +kernel

/-- 05's example: SQRD outside trap mode raises PRIV at K. -/
theorem test_priv : after (.sqrd 0 0 0) (live fun t => { t with tvec := 0x40, k := { t.k with pc := 4 } })
    (fun t => (t.tile.k.trap, t.tile.k.pc, rd t.tile.k.kt 0, rd t.tile.k.kt 1)) (false, 0, 0, 0) = (true, 0x40, 4, 2) := by decide +kernel

theorem test_trap : after (.trap 4) (live fun t => withK [(4, 77)] { t with tvec := 0x40, k := { t.k with pc := 4 } })
    (fun t => (t.tile.k.pc, rd t.tile.k.kt 0, rd t.tile.k.kt 1, rd t.tile.k.kt 2, rd t.tile.k.kt 3)) (0, 0, 0, 0, 0) = (0x40, 8, 0x10, 77, 4) := by
  decide +kernel

/-- L stopped with ALIGN at 0x28 as in 18's example of a misaligned load. -/
def stoppedL : State :=
  live fun t => { t with tvec := 0x100, k := { t.k with pc := 0x10 }, l := { t.l with pc := 0x28, stop := some ⟨.align, 0x28, 0x1010, 0, false⟩ } }

/-- 18's example of a misaligned load: kt0 to kt4 at entry, here with a zero word in the image. -/
theorem test_trap_entry : after (.trapEntry 0) stoppedL
    (fun t => (t.tile.k.pc, (List.range 5).map fun i => rd t.tile.k.kt i)) (0, []) = (0x100, [0x10, 0x103, 0x1010, 0x28, 0]) := by decide +kernel

/-- 18's example: SQSKIP moves L from 0x28 to 0x30 and ends its stop; ERET returns to 0x10. -/
theorem test_sqskip_eret : after (.sqskip 4) (stoppedL.upd fun t => withK [(4, 1)] { t with k := { t.k with trap := true, kt := wr t.k.kt 0 0x10 } })
    (fun t => (t.tile.l.pc, t.tile.l.stop.isSome, after .eret { t with cur := 0 } (fun u => (u.tile.k.pc, u.tile.k.trap)) (0, true))) (0, true, 0, true) =
      (0x30, false, 0x10, false) := by decide +kernel

theorem test_semaphores : after (.smset 4 5) (live (withK [(4, 0x1FF), (5, 0x100000003)])) (fun t => t.tile.smGet 255) 0 = 3 ∧
    after (.smsig 4) (live fun t => withK [(4, 7)] { t with sm := wr t.sm 7 0xFFFFFFFF }) (fun t => t.tile.smGet 7) 0 = 0xFFFFFFFF ∧
    after (.smwait 4) (live fun t => withK [(4, 7)] { t with sm := wr t.sm 7 2 }) (fun t => (t.tile.smGet 7, t.tile.k.pc)) (0, 0) = (1, 4) := by decide +kernel

theorem test_event_pop : after (.evpop 10) (live fun t => { t with evq := [0x11112222333344445555666677778888, 1] })
    (fun t => (t.tile.kget 10, t.tile.kget 11, t.tile.evq.length)) (0, 0, 0) = (0x5555666677778888, 0x1111222233334444, 1) := by decide +kernel

/-- 06's example of a guard: GRES with a zero value resolves its slot false. -/
theorem test_gres : after (.gres 4 5) (live (withK [(4, 2)])) (fun t => rd t.tile.gd 2) .free = .no ∧
    after (.gres 4 5) (live (withK [(4, 2), (5, 9)])) (fun t => rd t.tile.gd 2) .free = .yes := by decide +kernel

theorem test_tokens : after (.tkpush 4 6) (live (withK [(4, 0x1234567890)])) (fun t => ((t.tile.tokQ .k .l).items.length, (t.tile.tokQ .k .c).items.map fun x => x.pay,
    (t.tile.tokQ .k .s).items.map fun x => x.pay)) (9, [], []) = (0, [0x34567890], [0x34567890]) := by decide +kernel

/-- 06 R115: one arrival of two leaves one to come; the last turns the phase and reloads. -/
theorem test_barr : after (.barr 3 4 5) (live fun t => withK [(4, 0x100)] { t with spm := t.spm.setBar 0x100 ⟨5, 2, 2, 0⟩ })
      (fun t => (t.tile.kget 3, t.tile.spm.bar 0x100)) (0, default) = (5, ⟨5, 1, 2, 0⟩) ∧
    after (.barr 3 4 5) (live fun t => withK [(4, 0x100)] { t with spm := t.spm.setBar 0x100 ⟨4095, 1, 2, 0⟩ })
      (fun t => (t.tile.kget 3, t.tile.spm.bar 0x100)) (0, default) = (4095, ⟨0, 2, 2, 0⟩) := by decide +kernel

theorem test_system_registers : after (.srrd 3 4) (live (withK [(4, 4)])) (fun t => t.tile.kget 3) 0 = 7 ∧
    after (.srrd 3 4) (live (withK [(4, 10)])) (fun t => t.tile.kget 3) 1 = 0 ∧
    after (.srwr 4 5) (live (withK [(4, 16), (5, 4096)])) (fun t => t.tile.age) 0 = 4096 := by decide +kernel

/-- A K load misaligned by 4 traps with ALIGN and the address. -/
theorem test_k_align : after (.klds 3 4 4) (live fun t => { t with tvec := 0x40 }) (fun t => (rd t.tile.k.kt 1, rd t.tile.k.kt 2, t.tile.kget 3)) (0, 0, 1) =
    (3, 4, 0) := by decide +kernel

theorem test_k_store_load : after (.ksts 4 5 8) (live (withK [(4, 0x1000), (5, 0x0102030405060708)]))
    (fun t => (t.tile.spm.get 0x1008, t.tile.spm.get 0x100F, t.tile.spm.get 0x1010, t.tile.spm.length)) (0, 0, 0, 0) = (8, 1, 0, 8) := by decide +kernel

theorem test_atomics : atomNew 0 0xFFFFFFFF 2 0 = 1 ∧ atomNew 1 0x80000000 1 0 = 0x80000000 ∧ atomNew 15 5 9 5 = 9 ∧ atomNew 15 6 9 5 = 6 ∧
    atomNew 7 0x100000005 9 5 = 9 := by decide +kernel

/-! L and S -/

/-- The fields of a word of L or S with base, index and immediate. -/
def lf (vreg : BitVec 11) (base index : BitVec 5) (imm : BitVec 20) : LSF := ⟨0, 0, 0, vreg, base, index, imm, 0, 0, 0⟩

theorem test_l_arithmetic : after (.aadd (lf 0 3 4 5)) (live (withL [(4, 7), (5, 0xFFFFFFFFFFFFFFFF)])) (fun t => (t.tile.areg .l 3, t.tile.l.pc)) (0, 0) = (6, 8) ∧
    after (.alit (lf 2047 3 0 0xFFFFF)) (live id) (fun t => t.tile.areg .l 3) 0 = 0xFFFFFFFFFFFFFFFF ∧
    after (.alit (lf 1024 3 0 0)) (live id) (fun t => t.tile.areg .l 3) 0 = 0xFFFFFFFFC0000000 ∧
    after (.bshl (lf 0 3 4 63)) (live (withS [(4, 3)])) (fun t => t.tile.areg .s 3) 0 = 0x8000000000000000 ∧
    after (.aslt (lf 2 0 4 5)) (live (withL [(4, 0xFFFFFFFFFFFFFFFF), (5, 0)])) (fun t => t.tile.pred .l 2) false = true := by decide +kernel

/-- 04 R70: index field 0 is zero, not a0. -/
theorem test_l_index_zero : (live (withL [(0, 100), (3, 0x1000)])).tile.lsEa .l .offset (lf 0 3 0 0xFFFE0) = 0xFE0 ∧
    (live (withL [(0, 100), (3, 0x1000)])).tile.lsEa .l .offset (lf 0 0 3 0) = 100 + 0x1000 := by decide +kernel

theorem test_l_misaligned : after (.lds .offset .w128 (lf 12 3 0 16)) (live (withL [(3, 0x1000)]))
    (fun t => (t.tile.l.stop.map fun r => (r.cause, r.pc, r.addr), t.tile.l.pc)) (none, 1) = (some (.align, 0, 0x1010), 0) := by decide +kernel

/-- 07 R141: a store that S has issued is seen by a load that follows it in token order. -/
theorem test_s_store_forwards : after (.sts .offset .w32 (lf 20 1 0 0)) { live fun t => withS [(1, 0x2000)] (t.rwrite (128 * 20) 32 0x1111) with defer := true }
    (fun t => (t.tile.spm.get 0x2000, (t.tile.spmView ⟨0, 0, 0, 2⟩).readN 0x2000 2, t.tile.s.pc)) (9, 0, 0) = (0, 0x1111, 8) := by decide +kernel

/-- A branch of L on a false predicate falls through, negated it is taken. -/
theorem test_l_branch : after (.lbr (lf 2 0 0 4)) (live id) (fun t => t.tile.l.pc) 0 = 8 ∧ after (.lbr (lf 10 0 0 4)) (live id) (fun t => t.tile.l.pc) 0 = 32 := by
  decide +kernel

/-- 09 R203's example: bound 8 and step -3 give 3 trips and indices from 6. -/
theorem test_loop_trips : (startLoop (Vector.replicate 4 Loop.reset) 0 0 8 (-3) 16 4 none).map (fun p => ((rd p.1 0).count, (rd p.1 0).index, p.2.1, p.2.2)) =
    some (3, 6, 16, 3) ∧
    (startLoop (Vector.replicate 4 Loop.reset) 0 0 0 5 16 4 none).map (fun p => ((rd p.1 0).count, p.2.1)) = some (0, 80) := by decide +kernel

/-! Numbers -/

/-- 02's example of one value in every mode: 0x3F80A000 to BF16. -/
theorem test_rounding : (([Rnd.rne, .rtz, .rdn, .rup, .stoch 0x7123, .stoch 0x5FFF].map fun r => fBF16.enc r (f32 0x3F80A000)) =
    [0x3F81, 0x3F80, 0x3F80, 0x3F81, 0x3F81, 0x3F80]) := by decide +kernel

/-- 02's example of VCVTO, the values that are no outliers, and the saturated ones. -/
theorem test_e4m3 : ([0x3F800000, 0x3E99999A, 0x44160000, 0x43E60000, 0x7FC00000, 0x3A83126F].map fun w => fE4M3.enc .rne (f32 w)) =
    [0x38, 0x2A, 0x7E, 0x7E, 0x7F, 0x01] ∧ fE4M3.overflows .rne (f32 0x43FA0000) = true ∧ fE4M3.overflows .rne (f32 0x43E60000) = false := by decide +kernel

/-- 02's example of decoding one code: the eight weights as F32. -/
theorem test_codebook : ((List.range 8).map fun j => f32enc (cb2Weight (wr (Vector.replicate 256 0) 5 0x13001201) 0x0545 j (e8m0 0x7E))) =
    [0x3F400000, 0x3E800000, 0xBFA00000, 0x3F400000, 0x3E800000, 0x3E800000, 0xBFE00000, 0x3F400000] := by decide +kernel

/-- 03's example of a shifted row: var 1 and mean 2^24. -/
theorem test_row_statistics : (fun r : RowStat => (f32enc r.mean, f32enc r.var, r.ovf))
    (rowStat ([0x4B800000, 0x4B800001, 0x4B800000, 0x4B800001].map fun w => some (f32 w))) = (0x4B800000, 0x3F800000, false) := by decide +kernel

/-- A matrix command of op kind n. -/
def mx (n : Nat) : Mx := { (default : Mx) with op := n }

/-- 03's example: four terms of 2^-25 are lost by CF32 and kept by CF32K2. -/
theorem test_compensation :
    let a := [0x3F800000, 0x33000000, 0x33000000, 0x33000000, 0x33000000].map fun w => (f32 w, f32 0)
    let b := List.replicate 5 (f32 0x3F800000, f32 0)
    (mx 7).result ((mx 7).accBits ((a.zip b).foldl (fun c z => (mx 7).cplxTerm c z.1 z.2) ((mx 7).accOf 0))) = 0x3F800000 ∧
    (mx 8).result ((mx 8).accBits ((a.zip b).foldl (fun c z => (mx 8).cplxTerm c z.1 z.2) ((mx 8).accOf 0))) = 0x3F800001 := by decide +kernel

/-- 12's example of a sum whose order is fixed: inputs 1, 0, 3 give +0, inputs 0, 3, 1 give 1. -/
theorem test_combine : combineBytes 0 0 0 [leBytes 4 0x3F800000, leBytes 4 0x4CBEBC20, leBytes 4 0xCCBEBC20] = leBytes 4 0 ∧
    combineBytes 0 0 0 [leBytes 4 0x4CBEBC20, leBytes 4 0xCCBEBC20, leBytes 4 0x3F800000] = leBytes 4 0x3F800000 := by decide +kernel

/-! Tables and places -/

/-- 15's example of blocks and waves. -/
theorem test_blocks : blocks 1000 [144, 100, 40] = [507, 352, 141] := by decide +kernel

/-- 17's example of where a name lives: its bucket and the places of its metadata and lines. -/
theorem test_bucket : (let s := State.reset.updDev fun d => { d with sxk := 16, sxbase := 0 }
    (s.bucketOf 0x7E2104A9B3, s.metaAddr (256 * 43443), s.lineAddr (256 * 43443))) = (43443, 0x0A9B3000, 0x64D98000) := by decide +kernel

/-- 16's example of a far read through a large page: the leaf that the walk finds. -/
theorem test_walk : (match (State.reset.updDev fun d => { d with
      bound := [⟨0x02A, 0, 0x100000000⟩], acct := grants
      hbm := Mem.writeN (Mem.writeN (Mem.writeN [] 0x100000A58 8 0x0000000100001001) 0x100001878 8 0x0000000100002001) 0x1000029F8 8 0x1800050240000003 }).walk
        0x02A 0x000A5C3E7F210040 with | .ok l => some (l.w, l.large) | .error _ => none) = some (0x1800050240000003, true) := by decide +kernel

/-- 12's example of one record and four requesters: serial order puts N before local in cycle 12. -/
theorem test_combining_order : (([(.req 0 0, 5, 10, 1), (.req 0 1, 10, 12, 4), (.req 0 2, 1, 12, 0), (.req 0 3, 2, 20, 3)] :
      List (FaccSrc × Word × Nat × Nat)).foldl (fun l m => insertMember m l) []).map (fun m => m.2.1) = [5, 1, 10, 2] := by decide +kernel

/-! Vector slots -/

/-- A vector slot on a tile. -/
def slotIn (t : Tile) (op : VCode) (ty : BitVec 2) (f : SlotF) (lit : Option (BitVec 32)) : SlotIn := ⟨t, default, false, lit, ⟨op, ty, f⟩⟩

/-- Elements of the one register that a slot writes. -/
def elems (x : SlotIn) (w : Nat) (es : List Nat) : List Nat :=
  match x.eval with
  | .ok o => (match o.regs with | [(_, v)] => es.map fun e => elemAt w v e | _ => [])
  | .error _ => []

theorem test_viota : elems (slotIn Tile.reset .viota 0 ⟨0, false, 20, 0, 0, false, false⟩ (some 100)) 4 [0, 31] = [100, 131] ∧
    elems (slotIn Tile.reset .viota 3 ⟨0, false, 20, 0, 0, false, false⟩ (some 0xFFFFFFFF)) 8 [0, 1, 2] = [0xFFFFFFFFFFFFFFFF, 0, 1] := by decide +kernel

/-- 08's example of splitting a register of lanes: VPART of 100 to 131 with p4 true in elements 1, 4, 5 and 30. -/
theorem test_vpart :
    let t := (Tile.reset.rwrite (128 * 20) 128 (leNat ((List.range 32).flatMap fun i => leBytes 4 (100 + i))))
    let m : Mask := BitVec.ofNat 128 (0xF * (2 ^ 4 + 2 ^ 16 + 2 ^ 20 + 2 ^ 120))
    let x := slotIn { t with c := { t.c with p := wr t.c.p 4 m } } .vpart 0 ⟨4, false, 30, 20, 0, false, false⟩ none
    (match x.eval with
      | .ok o => o.regs.map fun r => (r.1, [0, 1, 2, 3, 4].map fun e => elemAt 4 r.2 e)
      | .error _ => []) = [(30, [101, 104, 105, 130, 0xFFFFFFFF]), (31, [100, 102, 103, 106, 107]), (32, [4, 28, 0, 0, 0])] := by decide +kernel

theorem test_vector_arithmetic :
    let t := Tile.reset.rwrite 128 128 (leNat ((List.range 32).flatMap fun _ => leBytes 4 0x3F800000))
    elems (slotIn t .vadd 0 ⟨0, false, 3, 1, 1, false, false⟩ none) 4 [0, 31] = [0x40000000, 0x40000000] ∧
    elems (slotIn t .vmul 0 ⟨0, false, 3, 1, 0, false, false⟩ (some 0xC0000000)) 4 [7] = [0xC0000000] ∧
    elems (slotIn t .viadd 3 ⟨0, false, 3, 1, 0, false, false⟩ (some 0xFFFFFFFF)) 8 [0] = [0x3F8000003F7FFFFF] ∧
    elems (slotIn t .vsub 0 ⟨0, true, 3, 1, 1, false, false⟩ none) 4 [0] = [0] := by decide +kernel

/-- A token-only bundle pops from L and pushes to S, and C goes on by 16. -/
theorem test_token_bundle : after (.tokenBundle ⟨2, 3, false⟩) (live (toks .l .c [5]))
    (fun t => (t.tile.c.pc, (t.tile.tokQ .l .c).items.length, (t.tile.tokQ .c .s).items.map fun x => x.pay)) (0, 9, []) = (16, 0, [0]) := by decide +kernel

/-! Events -/

/-- A command that copies nothing yet, with its guard resolved true, is decided; it takes a unit of its semaphore and starts. -/
def copyCmd : Cmd :=
  newCmd (.copy ⟨0x40000000, 0x100, 64, 2, 0, none, 1, 0, 0⟩) 0x40 (some 2) 3 7 true Clk.zero

theorem test_command_decided : after (.commandDecided 0 .copy) (live fun t => { t with q := wr t.q (qIdx .copy) [copyCmd], gd := wr t.gd 2 .yes })
      (fun t => ((t.tile.cmds .copy).map fun c => c.decided)) [] = [true] ∧
    after (.commandDecided 0 .copy) (live fun t => { t with q := wr t.q (qIdx .copy) [copyCmd], gd := wr t.gd 2 .no })
      (fun t => (t.tile.cmds .copy).length) 9 = 0 := by decide +kernel

theorem test_engine_start : after (.engineCommandStart 0 .copy) (live fun t => { t with
      q := wr t.q (qIdx .copy) [{ copyCmd with decided := true }], sm := wr t.sm 3 2 })
    (fun t => ((t.tile.cmds .copy).map fun c => c.started, t.tile.smGet 3)) ([], 0) = ([true], 1) := by decide +kernel

theorem test_time : (match State.reset.takeTurn (.elapse 54) with | .next s => (s.dev.now, s.dev.clk) | _ => (0, 0)) = (54, 3) := by decide +kernel

theorem test_barrier_update : after (.barrierUpdate 0 ⟨[1], false⟩) ((live fun t => { t with spm := t.spm.setBar 0x100 ⟨0, 3, 3, 0⟩ }).updDev fun d => { d with
      net := [{ hdr := 0, ctx := 0, launch := 1, body := .flagadd 0x100 2, at_ := .spoke 0, orig := 1, own := none, task := none, miss := false, lcopy := false, stamp := 1, clk := Clk.zero }] })
    (fun t => (t.tile.spm.bar 0x100, t.dev.net.length)) (default, 9) = (⟨0, 1, 3, 0⟩, 0) := by decide +kernel

theorem test_thermal : after (.thermalThrottle 2 105) State.reset (fun t => (t.dev.mgmt.mhz, t.dev.mgmt.thermtrip)) (0, true) = (600, false) ∧
    after (.thermtrip 2 115) State.reset (fun t => t.dev.mgmt.thermtrip) false = true := by decide +kernel

theorem test_power_cap : after (.powerCapSet ⟨0, 0, 0, [0, 0, 0] ++ leBytes 4 1199⟩) State.reset (fun t => (t.dev.mgmt.cap, t.dev.mgmt.answers)) (0, []) = (2800, [.outOfRange]) ∧
    after (.powerCapSet ⟨0, 0, 0, [0, 0, 0] ++ leBytes 4 1200⟩) (State.reset.updMgmt fun m => { m with state := 5 }) (fun t => t.dev.mgmt.cap) 0 = 1200 := by decide +kernel

/-- An instruction placed for the fetch is what the next step runs. -/
theorem test_step_runs : (match step (State.reset.withFetchWord 32 0x0430FFFB) with | .next s => (s.tile.kget 3, s.tile.k.pc) | _ => (0, 0)) =
    (0xFFFFFFFFFFFFFFFB, 4) := by decide +kernel

/-! ### States that meet the hypotheses of the statements about K -/


/-- A task whose tile translates 0x2000000 to HBM 0x40000000 and 0x4000000 to host memory 0, with a carve-out of 4 KiB and every access
granted. -/
def mapped (f : Tile → Tile) : State :=
  (live fun t => f { t with
    tlb := [⟨0, 1, true, 0x1800000040000003⟩, ⟨0, 2, true, 0x9800000000000003⟩], carves := [⟨1, 0x1000, []⟩] }).updDev fun d =>
      { d with acct := grants }

/-- K with a handler at 0x40. -/
def handled (f : Tile → Tile) : State := live fun t => f { t with tvec := 0x40 }

/-- The answer of a fallible operation, if it has one. -/
def okOf {α : Type} (r : Except Cause α) : Option α := match r with | .ok a => some a | .error _ => none

theorem witness_KBranchesAndJumps :
    let s := handled (withK [(4, 6), (5, 7)])
    KHandles s ∧ s.tile.kget 4 ≠ s.tile.kget 5 ∧ s.tile.kIn (s.tile.k.pc + 4 * BitVec.ofInt 64 (2 : BitVec 15).toInt) = true ∧
    s.tile.kIn (s.tile.k.pc + 4 * BitVec.ofInt 64 (0x7FFF : BitVec 15).toInt) = false ∧
    s.tile.kIn (s.tile.k.pc + 4 * BitVec.ofInt 64 (0x1FFFFFF : BitVec 25).toInt) = false ∧
    (s.tile.kget 0 + BitVec.ofInt 64 (0x40 : BitVec 15).toInt).toNat % 4 = 0 ∧ s.tile.kIn (s.tile.kget 0 + BitVec.ofInt 64 (0x40 : BitVec 15).toInt) = true ∧
    s.tile.kIn (s.tile.kget 0 + BitVec.ofInt 64 (0x7FFC : BitVec 15).toInt) = false ∧
    (s.tile.kget 4 + BitVec.ofInt 64 (0 : BitVec 15).toInt).toNat % 4 ≠ 0 := by unfold KHandles; decide +kernel

theorem witness_KScratchpadAccess :
    let s := handled (withK [(4, 0x2FFFF8)])
    KHandles s ∧ ((0x2FFFF8 : Word).toNat % 8 = 0 ∧ 0x2FFFF8 + 8 ≤ 0x300000 ∧ s.isLost 1 s.cur.val 0x2FFFF8 8 = false ∧ s.tile.kOrdered = false) ∧
    (s.tile.kget 4 + BitVec.ofInt 64 (0 : BitVec 15).toInt = 0x2FFFF8) ∧ (s.tile.kget 4 + BitVec.ofInt 64 (4 : BitVec 15).toInt).toNat % 8 ≠ 0 ∧
    0x300000 < (s.tile.kget 4 + BitVec.ofInt 64 (8 : BitVec 15).toInt).toNat + 8 := by unfold KHandles; decide +kernel

/-- Loads, stores and atomics of the four spaces find their place, and can be read and written there. -/
theorem witness_KMemoryAndAtomics :
    let s := mapped id
    s.tile.kOrdered = false ∧
    ∀ p ∈ [(Space.commons, (0xFF8 : Word)), (.loc, 0x3FFFFF8), (.far, 0x2000000), (.host, 0x4000008)], p.2.toNat % 8 = 0 ∧
      (∀ k ∈ [Acc.read, .write, .rmw], (match s.resolve s.cur p.1 k p.2 8 false with
        | .ok (w, s1) => s1.linkReady w.tgt w.addr && (okOf (s1.readAt s.cur s.tile.k.clk w.tgt w.addr 8)).isSome && (okOf (s1.writeAt s.cur w.tgt w.addr 8 5)).isSome
        | .error _ => false) = true) := by decide +kernel

theorem witness_WriteChangesItsBytesOnly :
    let s := mapped id
    ∀ p ∈ [(Target.spm, 0x2FFFFF), (.hbm, 575999999999), (.host, 0), (.commons 0 1, 0xFFF)], (okOf (s.writeAt 0 p.1 p.2 1 5)).isSome = true := by decide +kernel

theorem witness_KSemaphoresEventsTokens :
    let s := live fun t => withK [(4, 255), (5, 6), (6, 0x100)] { t with
      sm := wr t.sm 255 1, evq := [1, 2], evWait := [], tok := (toks .l .k [9] t).tok }
    let n : BitVec 8 := (s.tile.kget 4).setWidth 8
    n ≠ 0 ∧ s.tile.engineAhead n (s.tile.k.since.getD s.dev.now) < (rd s.tile.sm n.toNat).toNat ∧ rd s.tile.sm 6 = 0 ∧
    (s.tile.kget 6).setWidth 8 = (0 : BitVec 8) ∧ s.tile.evq = 1 :: [2] ∧ (live id).tile.evq = [] ∧
    (live fun t => { t with evq := [3], evWait := [4] }).tile.evWait = 4 :: [] ∧
    s.tile.tokenStalled .k [] (peersOf .k 6) false = false ∧ s.tile.canPush .k (peersOf .k 6) = true ∧
    s.tile.tokenStalled .k (peersOf .k 1) [] false = false ∧ s.tile.canPop .k (peersOf .k 1) = true ∧ (s.tile.heads .k (peersOf .k 1)).length = 1 ∧
    (let t := live fun t => { t with l := { t.l with pc := 0x100000 } }
     t.tile.tokenStalled .k (peersOf .k 1) [] false = true) ∧
    (let t := live fun t => { t with
       l := { t.l with pc := 0x100000 }
       tok := (toks .k .l (List.replicate 16 7) t).tok }
     t.tile.tokenStalled .k [] (peersOf .k 1) false = true) := by decide +kernel

theorem witness_TokenQueuesAndStalls :
    Sequencer.l ≠ .c ∧ ((Tile.reset.clkOf .l).tick .l).at .l = (Tile.reset.clkOf .l).at .l + 1 ∧ (Tile.reset.tokQ .l .c).wait = [] ∧
    (let t := { Tile.reset with l := { Tile.reset.l with clk := ⟨0, 7, 0, 0⟩ }, tok := (Tile.reset.setTokQ .l .c ⟨0, [], [(7, none)]⟩).tok }
     (t.tokQ .l .c).wait = (7, none) :: [] ∧ ((t.clkOf .l).tick .l).at .l = 8 ∧ ∀ e ∈ (t.tokQ .l .c).wait, e.1 < ((t.clkOf .l).tick .l).at .l) ∧
    (let s := live fun t => { t with
       k := { t.k with ended := true }
       c := { t.c with pc := 0 }
       tok := (toks .l .c [9] t).tok }
     s.executes 0 .k = false) ∧
    (let s := handled id
     s.executes 0 .l = true ∧ s.executes 0 .k = true ∧ s.tile.k.pend = none ∧ s.cur = 0 ∧ KHandles s) ∧
    (let s := (live fun t => { t with k := { t.k with ended := true }, l := { t.l with pc := 0 } }).updDev fun d =>
       { d with images := [{ (default : Image) with lcode := Mem.writeN [] 0 8 0x4820000000000000 }] }
     s.executes 0 .l = true ∧ (s.tokensAt 0 .l).1 = 1 ∧ (s.tile.tokQ .k .l).items = [] ∧ s.tile.endedOf .k = true ∧ (s.tile.tokQ .k .l).resv = 0) ∧
    (let s := (handled fun t => { t with l := { t.l with pc := 0x100000 } }).updDev fun d =>
       { d with images := [{ (default : Image) with kcode := Mem.writeN [] 0 4 0x80300408 }] }
     s.executes 0 .k = true ∧ (s.tokensAt 0 .k).1 = 1 ∧ (s.tile.tokQ .l .k).items = [] ∧ s.tile.endedOf .l = true ∧ (s.tile.tokQ .l .k).resv = 0) := by
  unfold KHandles; decide +kernel

/-- An acquiring load of L before K in token order that has not performed. -/
def ordering : State := live fun t => { t with k := { t.k with clk := ⟨0, 1, 0, 0⟩ }, reqs := [
  { (default : Req) with q := .l, kind := .load 0, clk := ⟨0, 1, 0, 0⟩, order := 1, scope := 1, pieces := [⟨.hbm, 0, 32, 0, 0x2000000, .rc, false, false, 0⟩] }] }

theorem witness_KBarriersAndFences :
    let s := live fun t => withK [(4, 0x2FFFF0), (5, 4094), (6, 1), (7, 0x80)] { t with spm := t.spm.setBar 0x2FFFF0 ⟨4095, 1, 1, 0⟩ }
    s.tile.kOrdered = false ∧ s.tile.barDue = [] ∧ (ordering.tile.kOrdered = true) ∧
    (s.tile.kget 4).toNat % 16 = 0 ∧ (s.tile.kget 4).toNat < 0x300000 ∧ s.isLost 1 s.cur.val (s.tile.kget 4).toNat 16 = false ∧
    s.tile.kOpen false false = false ∧ s.tile.kOpen true false = false ∧ s.tile.kOpen false true = false ∧
    0 < (s.tile.spm.bar (s.tile.kget 4).toNat).pending ∧ 0 < (s.tile.spm.bar (s.tile.kget 4).toNat).reload ∧
    (s.tile.spm.bar 0).pending = 0 ∧ (s.tile.spm.bar (s.tile.kget 4).toNat).phase ≠ (s.tile.kget 5).toNat % 4096 ∧
    (s.tile.spm.bar 0).phase = (s.tile.kget 0).toNat % 4096 ∧
    (live fun t => { t with k := { t.k with clk := ⟨0, 1, 0, 0⟩ }, reqs := [{ (default : Req) with q := .l, kind := .load 0, pieces := [default] }] }).tile.kOpen true false = true ∧
    (s.tile.kget 7).toNat % 128 = 0 ∧ (s.tile.kget 6).toNat % 128 ≠ 0 ∧ (∀ x, x < 7 → (s.tile.kget 6).getLsbD x = true → (rd s.tile.q x).length < 16) := by
  decide +kernel

/-- Tiles 0, 1 and 431 in partition 0, which tag 0 is bound to. -/
def partitioned (s : State) : State :=
  [0, 1, 431].foldl (fun (x : State) t => x.updAt t fun y => { y with pmap := 16 }) (s.updDev fun d => { d with bound := [⟨0, 0, 0⟩] })

/-- A launch of one task with a group 3 of that task alone, as its image declares it. -/
def grouped : State :=
  (live fun t => withK [(4, 3), (5, 0x1000), (6, 0x00000001_00000100), (7, 1)] { t with
      tvec := 0x40, spm := ((t.spm.writeN 0x1000 4 1).writeN 0x1008 4 0).setBar 0x2FF030 ⟨0, 1, 1, 0⟩ }).updDev fun d => { d with launches := [{ launch1 with
        groups := Vector.replicate 3 [⟨3, [0], 0⟩], at_ := [(0, .running 0)], taskMap := [0] }] }

theorem witness_KFlagsAndGroups :
    let s := partitioned grouped
    let ms := (s.tile.spmView s.tile.k.clk).taskList 0x1008 1
    (s.tile.kget 0).toNat % 2 ^ 20 = 0 ∧ s.tile.kget 7 ≠ 0 ∧ (0x100 % 16 = 0 ∧ 0x100 < 0x300000 ∧ s.tile.kOpen false false = false) ∧
    s.inPartition s.tile.ctx 1 = true ∧ s.inPartition s.tile.ctx 431 = true ∧ (s.tile.kget 7).toNat % 2 ^ 20 ≠ 0 ∧
    ((List.range 64).filter fun i => (s.tile.kget 7).getLsbD i) = [0] ∧ (s.tile.kget 4).toNat % 2 ^ 22 % 16 ≠ 0 ∧
    (s.launch? s.tile.launch).isSome = true ∧ s.tile.task.isSome = true ∧
    (s.tile.kget 4).toNat % 8 ≠ 0 ∧ (s.tile.kget 5).toNat % 8 = 0 ∧ 0x1000 + 8 + 4 * 1 ≤ 0x300000 ∧
    (s.tile.spmView s.tile.k.clk).readN 0x1000 3 = 1 ∧ (s.tile.spmView s.tile.k.clk).readN 0x1003 1 = 0 ∧ (s.tile.spmView s.tile.k.clk).readN 0x1007 1 = 0 ∧
    (match s.launch? s.tile.launch with
      | some l => (l.group 0 3).members == [0] && (l.group 0 3).master == 0 && grpListOk l 0 3 1 0 ms
      | none => false) = true ∧ ms = [0] ∧ (s.tile.spm.bar 0x2FF030).pending = (s.tile.spm.bar 0x2FF030).reload ∧ (s.tile.spm.bar 0x2FF030).bytes = 0 ∧
    s.defer = false ∧ ({ s with defer := true } : State).defer = true := by decide +kernel

/-- A group whose second member's tile is being saved. -/
theorem witness_GroupHeld :
    let s := (grouped.updAt 1 fun t => { t with task := some { task1 with index := 1 }, live := true, pmap := 0x10, preempt := .stopping 0 2 })
    GrpTarget.tile 1 ∈ [GrpTarget.tile 0, .tile 1] ∧ (1 : TileId) ≠ s.cur ∧ s.taskHome 1 s.tile.launch = .held := by decide +kernel

/-- K waits in a GRPSET that has one member's object still to write: the hypotheses of its handshake. -/
theorem witness_GroupHandshake :
    let s := grouped.upd fun t => { t with k := { t.k with pend := some (.grpset 3 1 0 [0] [.tile 0]) } }
    (s.tileAt 0).k.pend = some (.grpset 3 1 0 [0] (GrpTarget.tile 0 :: [])) ∧ ∀ u : TileId, GrpTarget.tile 0 = .tile u → u ≠ 0 → False := by
  refine ⟨by decide +kernel, ?_⟩
  intro u h g
  cases h
  exact g rfl

/-- A task on tile 0 with a subscription descriptor at 0x1000 that names its own tile's window, and one on tile 1 beside it. -/
def subscribing : State :=
  ((live fun t => withK [(4, 2), (5, 0x1000)] { t with tvec := 0x40, spm := t.spm.writeN 0x1000 16 (1 * 2 ^ 96 + 0x100 * 2 ^ 64 + 0x2000 * 2 ^ 32 + 0x3000) }).updAt 1
    fun t => { t with task := some { task1 with index := 1 }, live := true, pmap := 0x10 }).updDev fun d => { d with
      launches := [{ launch1 with tasks := 2, at_ := [(0, .running 0), (1, .running 1)] }] }

theorem witness_KSubscriptionsAndResync :
    let s := partitioned subscribing
    let w := (s.tile.spmView s.tile.k.clk).readN 0x1000 16
    (s.tile.kget 4).toNat % 16 ≠ 0 ∧ (0x1000 % 16 = 0 ∧ 0x1000 + 16 ≤ 0x300000 ∧ s.isLost 1 s.cur.val 0x1000 16 = false) ∧
    (rd s.tile.subs 2).opened = false ∧ subDescOk w = true ∧ subDescOk 1 = false ∧ s.defer = false ∧
    ((s.subOpen s.cur 2 (nbits w 96 16) (nbits w 64 32) (nbits w 32 32) (nbits w 0 32)).map fun p => p.1) = some 0 ∧
    (let t := s.upd fun t => { t with subs := wr t.subs 2 { SubEntry.closed with opened := true, peer := 1 } }
     (rd t.tile.subs 2).opened = true ∧ ({ t with defer := true } : State).defer = true) ∧
    (let t := s.upd fun t => { t with k := { t.k with pend := some (.suboff 3 2 (some 0)) }, subs := wr t.subs 2 { SubEntry.closed with opened := true, peer := 1 } }
     (t.tileAt 0).k.pend = some (.suboff 3 2 (some 0)) ∧ t.updatesInFlight (tileOf (rd (t.tileAt 0).subs 2).peer) 0 0 = false) ∧
    (rd s.tile.chans 63).sender = false ∧ subscribing.inPartition subscribing.tile.ctx 2 = false := by decide +kernel

/-- The publisher's answers: its tile runs no task of the launch, is being saved, has every entry open, and has its lowest free entry, with a batch open there; and a
SUBOFF whose publisher has no batch. -/
theorem witness_KSubscriptionAnswers :
    let s := partitioned subscribing
    let full := s.updAt 1 fun t => { t with pubs := Vector.replicate 16 { SubEntry.closed with opened := true } }
    let some_ := s.updAt 1 fun t => { t with pubs := wr t.pubs 0 { SubEntry.closed with opened := true }, batch := some ⟨0x100, 1, 7, 0, []⟩ }
    (s.inPartition s.tile.ctx 431 = true ∧ s.taskHome 431 s.tile.launch = .absent) ∧
    (s.inPartition s.tile.ctx 1 = true ∧ (s.updAt 1 fun t => { t with preempt := .stopping 0 2 }).taskHome 1 s.tile.launch = .held) ∧
    (full.inPartition full.tile.ctx 1 = true ∧ full.taskHome 1 full.tile.launch = .live ∧ ∀ i, i < 16 → (rd (full.tileAt 1).pubs i).opened = true) ∧
    (some_.taskHome 1 some_.tile.launch = .live ∧ (rd (some_.tileAt 1).pubs 1).opened = false ∧ (∀ j, j < 1 → (rd (some_.tileAt 1).pubs j).opened = true) ∧
      (some_.tileAt 1).batch.isSome = true) ∧
    (let t := s.upd fun t => { t with subs := wr t.subs 2 { SubEntry.closed with opened := true, peer := 1 } }
     (rd t.tile.subs 2).opened = true ∧ t.defer = false ∧ t.taskHome (tileOf (rd t.tile.subs 2).peer) t.tile.launch = .live ∧ (t.tileAt 1).batch = none ∧
     t.updatesInFlight (tileOf (rd t.tile.subs 2).peer) t.cur t.dev.nextId = false) := by decide +kernel

/-- Channel 5 from task 0 on tile 0 to task 1 on tile 1. -/
def channelled : State :=
  ((live fun t => withK [(4, 5)] { t with
      spmLaunch := 1, chans := wr t.chans 5 { Chan.unused with free := 2, sent := 3, sender := true }, k := { t.k with pend := some (.chresync 3 5) } }).updAt 1
    fun t => { t with task := some { task1 with index := 1 }, live := true, pmap := 0x10, spmLaunch := 1, chans := wr t.chans 5 { Chan.unused with received := 3, consumed := 1, receiver := true } }).updDev
      fun d => { d with
        images := [{ (default : Image) with readable := true, chans := [⟨5, 0, 1, 4, 128, 0x2000⟩] }]
        launches := [{ launch1 with tasks := 2, at_ := [(0, .running 0), (1, .running 1)], taskMap := [0, 1] }] }

theorem witness_ChannelResync :
    let s := channelled
    (rd s.tile.chans 5).sender = true ∧ s.defer = false ∧ ({ s with defer := true } : State).defer = true ∧ (s.tileAt 0).k.pend = some (.chresync 3 5) ∧
    (s.resync 0 5).isSome = true ∧
    (match s.chanDecl (s.tileAt 0).launch 5 with
      | some (l, k) => l.tileOfTask k.dst == some 1
      | none => false) = true ∧ s.chanHome 1 (s.tileAt 0).launch = .live ∧ s.slotsInFlight (s.tileAt 0).launch 5 = false := by decide +kernel

/-- A mapped task whose device has a Sett index of 16 buckets with the leaf 0x200 live in slot 512 under tag 0. -/
def setts (f : Tile → Tile) : State := (mapped f).updDev fun d => { d with
  sxk := 4, sxen := true, sxbase := 0x10000000, sxlive := 1
  hbm := (d.hbm.writeN (0x10000000 + 16 * 512) 8 0x200).writeN (0x10000000 + 16 * 512 + 8) 8 (2 ^ 32 + 2 ^ 30) }

theorem witness_KSettReferences :
    let s := setts (withK [(4, 0x200), (5, 0x2000000), (6, 7)])
    ordering.tile.kOrdered = true ∧ s.bucketLost (s.bucketOf (0x200 / 256)) = false ∧ s.tile.kget 0 = 0 ∧ s.tile.kget 4 ≠ 0 ∧ okOf (s.needName s.tile.ctx 0x200) = some 512 ∧ (okOf (s.needName s.tile.ctx 0x9900)).isNone = true ∧
    s.tile.kOpen false false = false ∧ (s.tile.kget 5).toNat % 8 = 0 ∧ s.tile.kOrdered = false ∧
    (match s.resolve s.cur .loc .rmw (s.tile.kget 5) 8 false with
      | .ok (w, s1) => s1.linkReady w.tgt w.addr && (okOf (s1.readAt s.cur s.tile.k.clk w.tgt w.addr 8)) == some 0 && (s.tile.kget 0 == 0) && (s.tile.kget 6 != 0) &&
          okOf (s1.needName s.tile.ctx 0x200) == some 512 && (okOf ((s1.incSlot 512).writeAt s.cur w.tgt w.addr 8 0x200)).isSome &&
          (okOf (s1.writeAt s.cur w.tgt w.addr 8 0)).isSome
      | .error _ => false) = true := by decide +kernel

theorem witness_KSystemRegisters :
    let s := live fun t => withK [(4, 17), (5, 0xFFFFC), (6, 16), (7, 0x100000), (8, 4)] { t with k := { t.k with trap := true } }
    s.tile.task = some task1 ∧ s.launch? task1.launch = some launch1 ∧ s.tile.k.trap = true ∧ (0xFFFFC : Word).toNat % 4 = 0 ∧ task1.kEnt ≤ 0xFFFFC ∧
    (0xFFFFC : Word) < task1.kFin ∧ ¬ (0x100000 : Word) < task1.kFin ∧ (live id).tile.k.trap = false := by decide +kernel

theorem witness_KTrapsAndReturns :
    KHandles (handled id) ∧ ¬ KHandles (live id) ∧ ((handled id).tile.k.trap = false ∧ (handled id).tile.tvec ≠ 0) ∧
    (let s := live fun t => { t with k := { t.k with trap := true, kt := wr t.k.kt 0 0x100000 } }
     s.tile.k.trap = true ∧ s.tile.kAddrOk (rd s.tile.k.kt 0) = false) ∧
    (let s := live fun t => { t with k := { t.k with trap := true, kt := wr t.k.kt 0 0xFFFFC } }
     s.tile.k.trap = true ∧ s.tile.kAddrOk (rd s.tile.k.kt 0) = true ∧ s.tile.l.stop = none ∧ s.tile.c.stop = none ∧ s.tile.s.stop = none) ∧
    (let s := stoppedL.upd fun t => { t with k := { t.k with trap := true } }
     s.tile.kAddrOk (rd s.tile.k.kt 0) = true ∧ s.tile.tvec ≠ 0 ∧ (s.tile.firstStop.map fun p => p.1) = some .l) ∧
    ((stoppedL.tile.task.isSome = true ∧ stoppedL.tile.live = true ∧ stoppedL.tile.preempt = .none ∧ stoppedL.tile.kill = none ∧ stoppedL.tile.k.trap = false) ∧
      stoppedL.tile.endedOf .k = false ∧ stoppedL.tile.k.pend = none ∧ stoppedL.tile.firstStop.isSome = true) ∧
    (let s := live id
     (s.runs s.cur).isSome = true ∧ s.dev.launches.all (fun w => !s.waitsFor w s.cur) = true) := by unfold KHandles; decide +kernel

theorem witness_KHandlerInstructions :
    let s := stoppedL.upd fun t => withK [(4, 1), (5, 2), (6, 3), (7, 0x300)] { t with
      k := { t.k with trap := true }, s := { t.s with stop := some ⟨.illegal, 0, 0, 0, false⟩ }, c := { t.c with stop := some ⟨.illegal, 0, 0, 0, false⟩ }
      q := wr t.q 2 [{ copyCmd with fault := some (.xlate, 0) }] }
    s.tile.k.trap = true ∧ s.tile.tvec ≠ 0 ∧ seqOf ((s.tile.kget 4).toNat % 4) = some .l ∧ (s.tile.stopOf .l).isSome = true ∧
    (s.tile.kget 5).toNat % 4 = 2 ∧ s.tile.c.stop.isSome = true ∧ (s.tile.kget 6).toNat % 4 = 3 ∧ (s.tile.stopOf .s).isSome = true ∧
    stoppedL.tile.stopOf .c = none ∧ bits (s.tile.kget 4) 15 8 = 0 ∧
    (s.tile.kget 7).toNat % 4 = 0 ∧ queueOf 3 = some .copy ∧ bits (s.tile.kget 7) 10 8 = 3 ∧ (s.tile.cmds .copy).length = 1 ∧
    ((s.tile.cmds .copy).all fun c => c.fault != none) = true := by decide +kernel


/-- Both Hentia links in training. -/
def hostDown (s : State) : State := s.updDev fun d => { d with hentia := d.hentia.map fun l => { l with up := false, training := some 100000 } }

/-- K's loads, stores and atomics that perform, and those whose turn or link leaves them in the network. -/
theorem witness_KMemoryWaits :
    let s := mapped id
    let away : State := { s with defer := true }
    s.defer = false ∧ away.defer = true ∧ away.tile.kOrdered = false ∧ (hostDown s).tile.kOrdered = false ∧
    (∀ p ∈ [(Space.commons, (0xFF8 : Word)), (.loc, 0x3FFFFF8), (.far, 0x2000000), (.host, 0x4000008)], ∀ k ∈ [Acc.read, .write, .rmw],
      (okOf (away.resolve s.cur p.1 k p.2 8 false)).isSome = true) ∧
    (∀ k ∈ [Acc.read, .write], (match (hostDown s).resolve s.cur .host k 0x4000008 8 false with
      | .ok (w, s1) => !s1.linkReady w.tgt w.addr
      | .error _ => false) = true) ∧ bit (8 : BitVec 4) 3 = true ∧ bit (7 : BitVec 4) 3 = false := by decide +kernel

/-- Barriers that an arrival or a drop overruns: nothing pending, and pending with nothing to reload. -/
theorem witness_BarrierOverrun :
    let s := live fun t => withK [(4, 0x100), (5, 0x200)] { t with spm := t.spm.setBar 0x200 ⟨0, 2, 0, 0⟩ }
    s.tile.barDue = [] ∧ s.tile.barOpen = none ∧ s.tile.kOrdered = false ∧ s.tile.kOpen false false = false ∧
    (s.tile.spm.bar (s.tile.kget 4).toNat).pending = 0 ∧ (s.tile.kget 4).toNat % 16 = 0 ∧ s.isLost 1 s.cur.val 0x100 16 = false ∧
    0 < (s.tile.spm.bar (s.tile.kget 5).toNat).pending ∧ (s.tile.spm.bar (s.tile.kget 5).toNat).reload = 0 ∧
    s.isLost 1 s.cur.val 0x200 16 = false := by decide +kernel

/-- A QFENCE that names the copy queue and finds it full. -/
theorem witness_QfenceFull :
    let s := live fun t => withK [(4, 4)] { t with q := wr t.q 2 (List.replicate 16 copyCmd) }
    (2 < 7 ∧ (s.tile.kget 4).getLsbD 2 = true ∧ 16 ≤ (rd s.tile.q 2).length) ∧ (s.tile.kget 4).toNat % 128 ≠ 0 := by decide +kernel

/-- SINC and SREL whose turn leaves them in the network, and an SROOT that does; one on an ordered page behind a store of S, one on an unordered
page behind it, and one whose root word holds another name than expected. -/
theorem witness_KSettWaits :
    let s := setts (withK [(4, 0x200), (5, 0x2000000), (6, 7)])
    let behind := fun (x : State) => x.upd fun t => { t with k := { t.k with clk := ⟨0, 0, 0, 1⟩ }, reqs := [{ (default : Req) with
      q := .s, kind := .store, clk := ⟨0, 0, 0, 0⟩, pieces := [⟨.hbm, 0, 32, 0, 0x2000000, .rc, false, false, 0⟩] }] }
    let free := s.upd fun t => { t with tlb := [⟨0, 1, true, 0x1880000040000003⟩] }
    let page := fun (x : State) => match x.resolve x.cur .loc .rmw (x.tile.kget 5) 8 false with
      | .ok (w, s1) => some (w.ord == Machine.Ord.unordered, s1.linkReady w.tgt w.addr)
      | .error _ => none
    ({ s with defer := true } : State).defer = true ∧ page { s with defer := true } = some (false, true) ∧
    page (behind s) = some (false, true) ∧ (behind s).tile.kOpen false false = true ∧ (behind s).tile.kOrdered = false ∧
    page (behind free) = some (true, true) ∧ (behind free).tile.kOpen false false = true ∧
    (okOf (s.readAt s.cur s.tile.k.clk .hbm 0x40000000 8)) = some 0 ∧ s.tile.kget 6 ≠ BitVec.ofNat 64 0 := by decide +kernel

/-- SQRD in trap mode: items 5 to 7 of a stopped sequencer, items above, items of one that runs, and no sequencer. -/
theorem witness_SqrdItems :
    let s := stoppedL.upd fun t => withK [(4, 1 + 256 * 5), (5, 1 + 256 * 7), (6, 1 + 256 * 8), (7, 3 + 256 * 1), (8, 0x100), (9, 2)] { t with
      k := { t.k with trap := true } }
    s.tile.k.trap = true ∧ seqOf ((s.tile.kget 4).toNat % 4) = some .l ∧ (s.tile.stopOf .l).isSome = true ∧
    (5 ≤ bits (s.tile.kget 4) 15 8 ∧ bits (s.tile.kget 5) 15 8 < 8) ∧ 8 ≤ bits (s.tile.kget 6) 15 8 ∧
    (seqOf ((s.tile.kget 7).toNat % 4) = some .s ∧ s.tile.stopOf .s = none ∧ bits (s.tile.kget 7) 15 8 ≠ 0) ∧ (s.tile.kget 8).toNat % 4 = 0 ∧
    (seqOf ((s.tile.kget 9).toNat % 4) = some .c ∧ s.tile.stopOf .c = none ∧ bits (s.tile.kget 9) 15 8 = 0) := by decide +kernel
/-! ### States that meet the hypotheses of the statements about L and S -/

theorem witness_LsArithmetic :
    let s := live (withL [(4, 7), (5, 1)])
    LsReady s .l (lf 2 3 4 5) [3, 4, 5] [] ∧ LsReady s .s (lf 2 3 4 5) [3, 4, 5] [] ∧ LsReady s .l (lf 2 0 4 5) [4, 5] [2] ∧
    LsReady s .s (lf 2 0 4 5) [4, 5] [2] := by unfold LsReady; decide +kernel

theorem witness_LsBranchesAndLoops :
    let s := live fun t => withS [(3, 0x100000008), (4, 0x1000000000000)] (withL [(3, 0x100000008), (4, 0x1000000000000)] t)
    (∀ q ∈ [Sequencer.l, .s], LsReady s q (lf 10 3 0 4) [3] [2] ∧ LsReady s q (lf 10 3 0 4) [] [2] ∧ s.tile.pred q 2 ≠ (10 : BitVec 11).getLsbD 3 ∧
      ¬ ((2 : BitVec 3) = 0 ∨ s.tile.pred q 2 ≠ (2 : BitVec 11).getLsbD 3) ∧ LsReady s q (lf 2 0 0 4) [] [2] ∧
      s.tile.inStream q ((s.tile.ls q).pc + 8 * BitVec.ofInt 64 (4 : BitVec 20).toInt) = true ∧
      s.tile.inStream q ((s.tile.ls q).pc + 8 * BitVec.ofInt 64 (0xFFFFF : BitVec 20).toInt) = false ∧ LsReady s q (lf 0 0 0 0xFFFFF) [] [] ∧
      LsReady s q (lf 1 3 0 4) [3] [] ∧ (s.tile.areg q 3).toNat / 2 ^ 48 = 0 ∧ (s.tile.areg q 3).toNat / 2 ^ 24 % 256 = 0 ∧
      (match startLoop (s.tile.ls q).lc (s.tile.ls q).pc (1 % 4) ((s.tile.areg q 3).toNat % 2 ^ 24) ((s.tile.areg q 3).extractLsb' 32 16).toInt 8 4 none with
        | some (_, pc, n) => s.tile.inStream q pc && n == 8
        | none => false) = true ∧
      LsReady s q (lf 1 4 0 4) [4] [] ∧ (s.tile.areg q 4).toNat / 2 ^ 48 ≠ 0) := by unfold LsReady; decide +kernel

theorem witness_LsWaitsAndFrame :
    let s := live id
    let f : LSF := { lf 0 3 4 5 with pop := 1, push := 0 }
    let g : LSF := { lf 0 3 4 5 with pop := 0, push := 2 }
    let h : LSF := { lf 0 3 4 5 with pred := 2 }
    let full := live fun t => { t with tok := (toks .l .c (List.replicate 16 7) t).tok }
    loopsAt s.tile.l.lc s.tile.l.pc = [] ∧ (s.tile.lsBusy .l [] [f.pred] = false ∧ s.tile.lsBusy .l [3, 4, 5] [] = false ∧ s.tile.pred .l f.pred = true) ∧
    s.tile.pred .l h.pred = false ∧ s.tile.lsBusy .l [] [h.pred] = false ∧
    (s.tile.tokenStalled .l (peersOf .l f.pop) (peersOf .l f.push) s.tile.l.resv = false ∧ s.tile.canPop .l (peersOf .l f.pop) = false) ∧
    (full.tile.tokenStalled .l (peersOf .l g.pop) (peersOf .l g.push) full.tile.l.resv = false ∧ full.tile.l.resv = false ∧
      full.tile.canPush .l (peersOf .l g.push) = false) ∧
    (let t := live fun t => { t with k := { t.k with ended := true } }
     t.tile.tokenStalled .l (peersOf .l f.pop) (peersOf .l f.push) t.tile.l.resv = true) := by decide +kernel

/-- The number of pieces of a plan that passes. -/
def planned (p : Plan) : Option Nat := match p with | .ok ps _ => some ps.length | _ => none

/-- A load of 128 bytes at the last place of the scratchpad and of a carve-out, and in local, far and host memory, and of 32 bytes of a line. -/
theorem witness_LsLoads :
    let s := mapped (withL [(1, 0x2FFF80), (2, 0xF80), (3, 0x2000000), (4, 0x4000000), (5, 0x20)])
    (∀ p ∈ [(Space.spm, (1 : Reg)), (.commons, 2), (.loc, 3), (.far, 3), (.host, 4)],
      let f := lf 7 p.2 0 0
      LsReady s .l f (addrRegsOf f) [] ∧ s.tile.outstanding .l < 64 ∧ (s.tile.lsEa .l .offset f).toNat % 32 = 0 ∧
      p.1.checkSpm (s.tile.lsEa .l .offset f) 128 = true ∧
      planned ((s.lsIssue .l f).planSectors s.cur p.1 .read (s.tile.lsEa .l .offset f) 128 0 false) = some 4 ∧
      (s.tile.lsEa .l .offset (lf 7 p.2 0 16)).toNat % 32 ≠ 0) ∧
    (let t := setts (withL [(1, 0x200), (2, 96)])
     let f := lf 7 1 2 0
     LsReady t .l f (addrRegsOf f) [] ∧ t.tile.outstanding .l < 64 ∧ (t.tile.indexOf .l f + dispOf f).toNat % 32 = 0 ∧
     (t.tile.indexOf .l f + dispOf f).toNat + 32 ≤ 128 ∧ (okOf ((t.lsIssue .l f).readLine t.tile.ctx (t.tile.areg .l f.base) 96 32)).isSome = true) := by
  unfold LsReady; decide +kernel

/-- A gather of 32 elements at one place and one with every element absent; an atomic of 8 bytes in three spaces. -/
theorem witness_LsGathersAtomics :
    let absent := leNat (List.replicate 128 0xFF)
    let s := mapped fun t => withS [(2, 0xFF8), (3, 0x2000008), (6, 5)] (withL [(1, 0x2000), (3, 0x2000000)] (t.rwrite (128 * 9) 128 absent))
    (∀ p ∈ [(Space.spm, (1 : Reg)), (.loc, 3)],
      let f := lf 7 p.2 0 8
      let g := lf 7 p.2 0 9
      (LsReady s .l f (addrRegsOf f) [] ∧ s.tile.outstanding .l < 64 ∧ s.tile.gatherRoom = true ∧ (s.lsIssue .l f).tile.loadOver (128 * 8) 128 = false ∧
        (s.regLost (128 * 8) 128).isNone = true ∧ planned ((s.lsIssue .l f).planElems .l p.1 .read f 0) = some (128 / gatherSize f)) ∧
      LsReady s .l g (addrRegsOf g) [] ∧ (s.lsIssue .l g).tile.loadOver (128 * 9) 128 = false ∧ (s.regLost (128 * 9) 128).isNone = true ∧
      planned ((s.lsIssue .l g).planElems .l p.1 .read g 0) = some 0) ∧
    (∀ p ∈ [(Space.commons, (2 : Reg)), (.loc, 3), (.far, 3)],
      let f := lf (5 + 32 * 6) p.2 0 0
      LsReady s .s f (5 :: 6 :: addrRegsOf f) [] ∧ (s.sysRelease f true).isNone = true ∧ (s.tile.lsEa .s .offset f).toNat % 8 = 0 ∧
      planned ((Plan.ok [] (s.lsIssue .s f)).add s.cur p.1 .rmw (s.tile.lsEa .s .offset f) 8 0 0 false) = some 1) := by unfold LsReady; decide +kernel

theorem witness_LsStoresAndScatters :
    let s := mapped fun t => withS [(1, 0x2FFF80), (2, 0xF80), (3, 0x2000000), (4, 0x4000000)] t
    (∀ p ∈ [(Space.spm, (1 : Reg)), (.commons, 2), (.loc, 3), (.far, 3), (.host, 4)],
      let f := lf 7 p.2 0 0
      LsReady s .s f (addrRegsOf f) [] ∧ (s.sysRelease f true).isNone = true ∧ s.tile.storeRoom p.1 = true ∧ (s.regLost (128 * 7) 128).isNone = true ∧
      (s.tile.lsEa .s .offset f).toNat % 32 = 0 ∧ p.1.checkSpm (s.tile.lsEa .s .offset f) 128 = true ∧
      planned ((s.lsIssue .s f).planSectors s.cur p.1 .write (s.tile.lsEa .s .offset f) 128 (s.tile.rread (128 * 7) 128) (decide (p.1 = .far))) = some 4 ∧
      (s.tile.lsEa .s .offset (lf 7 p.2 0 1)).toNat % 32 ≠ 0) ∧
    (∀ p ∈ [(Space.spm, (1 : Reg)), (.loc, 3)],
      let f := lf 7 p.2 0 8
      LsReady s .s f (addrRegsOf f) [] ∧ s.tile.storeRoom p.1 = true ∧ s.tile.gatherRoom = true ∧ s.tile.mayStop .s = true ∧ (s.regLost (128 * 8) (4 * (128 / gatherSize f))).isNone = true ∧
      (s.regLost (128 * 7) 128).isNone = true ∧
      planned ((s.lsIssue .s f).planElems .s p.1 .write f (s.tile.rread (128 * 7) 128)) = some (128 / gatherSize f)) := by unfold LsReady; decide +kernel

/-- Descriptors in v7 (a plain copy of 64 bytes), v8 (one of reserved flags) and a send word in b3; v2046 as its source, and v2047 that runs out. -/
theorem witness_LsEngineCommands :
    let d := 0x1000 + 0x2000 * 2 ^ 64 + 64 * 2 ^ 128
    let s := live fun t => withS [(3, 0)] ((t.rwrite (128 * 7) 64 (d + 1 * 2 ^ 256)).rwrite (128 * 8) 64 (d + 2 ^ 200))
    let f := lf 7 3 0 0
    let good := fun (r : DescRes) => match r with | .ok _ => true | .error _ => false
    LsReady s .l f [] [] ∧ s.tile.queueSpace .copy = true ∧ s.tile.queueSpace .metadata = true ∧ s.tile.queueSpace .copyOut = true ∧
    (s.lsIssue .l f).tile.loadOver (128 * 7) 64 = false ∧ (s.regLost (128 * 7) 64).isNone = true ∧ good (copyDesc (s.tile.rread (128 * 7) 32) false) = true ∧
    good (copyDesc (s.tile.rread (128 * 7) 64) true) = true ∧ good (mdldDesc (s.tile.rread (128 * 7) 32 - 0x1000 * 2 ^ 64)) = true ∧
    good (scoutDesc (0x2000 * 2 ^ 64 + 128 * 2 ^ 128 + 2 * 2 ^ 168)) = true ∧ good (copyDesc (s.tile.rread (128 * 8) 32) false) = false ∧
    good (copyDesc (s.tile.rread (128 * 8) 64) true) = false ∧ good (mdldDesc (s.tile.rread (128 * 8) 32)) = false ∧
    good (scoutDesc (s.tile.rread (128 * 8) 32)) = false ∧
    LsReady s .l f (addrRegsOf f) [] ∧ LsReady s .s f (addrRegsOf f) [] ∧ (s.sysRelease f true).isNone = true ∧ s.tile.queueSpace .send = true ∧
    sendOk (s.tile.areg .s 3) 2046 none = true ∧ sendOk (s.tile.areg .s 3) 2047 none = false ∧ sendOk 0x10000 2046 (some 0) = true ∧
    sendOk 0x10000 2047 (some 0) = false := by unfold LsReady; decide +kernel

/-- Channel 5 between tasks 0 and 1, both on tile 0 and its neighbour; here the stepping tile is sender of 5 and receiver of 6. -/
def chans56 (h g : Chan → Chan) : State :=
  (channelled.upd fun t => { t with
      chans := wr (wr t.chans 5 (h { Chan.unused with free := 2, sent := 3, sender := true })) 6 (g { Chan.unused with received := 0xFFFFFFFF, consumed := 0xFFFFFFFE, receiver := true })
      k := { t.k with pend := none } }).updDev fun d => { d with
    images := [{ (default : Image) with readable := true, chans := [⟨5, 0, 1, 4, 128, 0x2000⟩, ⟨6, 1, 0, 4, 128, 0x3000⟩] }] }

theorem witness_ChannelInstructions :
    let s := chans56 id id
    let f := lf 7 0 0 5
    let g := lf 7 0 0 6
    LsReady s .s f [] [] ∧ (s.sysRelease f true).isNone = true ∧ LsReady s .l f [] [] ∧ (rd s.tile.chans 7).sender = false ∧ (rd s.tile.chans 5).receiver = false ∧
    ((rd s.tile.chans 5).sender = true ∧ (rd s.tile.chans 5).free ≠ 0 ∧ (rd s.tile.chans 5).fault = false ∧ (s.regLost (128 * 7) 128).isNone = true) ∧
    (match s.chanDecl s.tile.launch 5 with | some (l, k) => k.bytes == 128 && l.tileOfTask k.dst == some 1 | none => false) = true ∧
    (let t := chans56 (fun h => { h with free := 0 }) (fun h => { h with received := h.consumed })
     (rd t.tile.chans 5).sender = true ∧ (rd t.tile.chans 5).free = 0 ∧ (rd t.tile.chans 6).receiver = true ∧ (rd t.tile.chans 6).received = (rd t.tile.chans 6).consumed) ∧
    (LsReady s .l g [] [] ∧ (rd s.tile.chans 6).receiver = true ∧ (rd s.tile.chans 6).received ≠ (rd s.tile.chans 6).consumed ∧
      (s.lsIssue .l g).tile.loadOver (128 * 7) 128 = false ∧ s.isLost 1 s.cur.val (0x3000 + 128 * (0xFFFFFFFE % 4)) 128 = false ∧
      (match s.chanDecl s.tile.launch 6 with | some (l, k) => l.tileOfTask k.src == some 1 | none => false) = true) := by unfold LsReady; decide +kernel

/-- Work list 255 of the launch on die 0 with items. -/
def listed (items : List Word) (q : Bool) : State :=
  (live fun t => withS [(3, 9), (4, 255)] (withL [(3, 9), (4, 255)] t)).updDev fun d => { d with
    launches := [{ launch1 with quiescent := q, lists := [255] }], dies := d.dies.set 0 { d.dies[0] with lists := [⟨1, 255, 0x40000000, 2, items⟩] } }

theorem witness_ListsFaccAndLookups :
    let f := lf 2 3 4 0
    (let s := listed [5] false
     LsReady s .s f (addrRegsOf f) [] ∧ (s.sysRelease f true).isNone = true ∧ LsReady s .l f (addrRegsOf f) [2] ∧
     (s.tile.indexOf .s f + dispOf f).toNat % 256 = 255 ∧
     (match s.workList (dieOf s.cur) s.tile.launch 255 with
       | some w => decide (w.items.length + (s.lsIssue .s f).listReqs (dieOf s.cur) s.tile.launch 255 true < w.cap) &&
           decide ((s.lsIssue .l f).listReqs (dieOf s.cur) s.tile.launch 255 false < w.items.length)
       | none => false) = true ∧ ((s.launch? s.tile.launch).map fun l => l.quiescent) = some false) ∧
    (let s := listed [] true
     (s.workList (dieOf s.cur) s.tile.launch 255).isSome = true ∧ ((s.launch? s.tile.launch).map fun l => l.quiescent) = some true) ∧
    (let s := mapped (withL [(3, 0x2000008), (6, 1)])
     let g := lf (5 + 32 * 6 + 1024) 3 0 (2 * 2 ^ 17)
     LsReady s .l g (5 :: 6 :: addrRegsOf g) [2] ∧ (s.tile.areg .l 3).toNat % 8 = 0 ∧
     planned ((Plan.ok [] (s.lsIssue .l g)).add s.cur .far .rmw 0x2000008 8 0 0 false) = some 1) ∧
    (let s := setts id
     let g := lf 7 3 0 0
     LsReady s .s g [g.base] [] ∧ (s.sysRelease g true).isNone = true ∧ (s.lsIssue .s g).tile.acquireBefore .s = false ∧ (s.regLost (128 * 7) 128).isNone = true ∧
     (match (s.lsIssue .s g).lookup s.tile.ctx (s.tile.vreg 7) false with | .ok n _ => n == 0 | _ => false) = true) := by unfold LsReady; decide +kernel

/-- A taken branch to a word before the stream, a trip word of bits [31:24] alone, and a word of L with tokens behind a FACC. -/
theorem witness_LsBranches_outside :
    let s := live fun t => withS [(5, 0x1000000)] (withL [(5, 0x1000000)] t)
    (∀ q ∈ [Sequencer.l, .s], LsReady s q (lf 10 3 0 0xFFFFF) [] [2] ∧ s.tile.pred q 2 ≠ (10 : BitVec 11).getLsbD 3 ∧ s.tile.mayStop q = true ∧
      s.tile.inStream q ((s.tile.ls q).pc + 8 * BitVec.ofInt 64 (0xFFFFF : BitVec 20).toInt) = false ∧
      LsReady s q (lf 1 5 0 4) [5] [] ∧ (s.tile.areg q 5).toNat / 2 ^ 48 = 0 ∧ (s.tile.areg q 5).toNat / 2 ^ 24 % 256 ≠ 0) ∧
    (let f : LSF := { lf 0 3 4 5 with pop := 1, push := 0 }
     let t := live fun t => { t with reqs := [{ (default : Req) with kind := .facc 3 true 1 0 }] }
     t.tile.lsBusy .l [] [f.pred] = false ∧ t.tile.pred .l f.pred = true ∧ t.tile.faccHolds .l f = true ∧
       (live id).tile.faccHolds .l f = false ∧ (live id).tile.faccOpen = false) := by unfold LsReady; decide +kernel

/-- A gather that covers no lost register unit, at one place of the scratchpad, and a lookup of S in a turn that defers it. -/
theorem witness_LsLoads_landing :
    (let s := mapped (withL [(1, 0x2000)])
     let f := lf 7 1 0 8
     (match (s.lsIssue .l f).planElems .l .spm .read f 0 with | .ok ps z => (z.regPart (landsAt 7 ps)).isNone | _ => false) = true) ∧
    (let s := { setts id with defer := true }
     let g := lf 7 3 0 0
     LsReady s .s g [g.base] [] ∧ (s.sysRelease g true).isNone = true ∧ g.order = 0 ∧ (s.lsIssue .s g).tile.acquireBefore .s = false) := by
  unfold LsReady; decide +kernel

/-- An accepted send on channel 5 that nothing holds, with room for it alone. -/
theorem witness_ChannelSend :
    let r : Req := { (default : Req) with q := .s, kind := .chsend 5 [] }
    let s := (chans56 id id).upd fun t => { t with reqs := [r] }
    s.tile.sends 5 = r :: [] ∧ s.tile.listHeld r = false ∧ (rd s.tile.chans 5).free ≠ 0 ∧ ((s.lsIssue .s (lf 7 0 0 5)).tile.sends 5).length < (rd s.tile.chans 5).free.toNat ∧
    (chans56 id id).tile.faccOpen = false := by decide +kernel
/-! ### States that meet the hypotheses of the statements about C -/

/-- A bundle of VADD alone, one of a conversion with an illegal selector and one of C's own tokens; reserved ones: destinations that pass v2047, and LBHDR
outside loop-buffer mode. -/
theorem witness_CBundlesIssue :
    let s := live id
    let add : Slot := ⟨.vadd, 0, ⟨0, false, 2047, 1, 2, false, false⟩⟩
    let out : Slot := ⟨.vpart, 0, ⟨0, false, 2046, 1, 0, false, false⟩⟩
    let b := s.renamedBundle ⟨some add, none, none, none, ⟨0, 0, false⟩⟩
    let c := s.renamedBundle ⟨some out, none, none, none, ⟨0, 0, false⟩⟩
    let e := s.renamedBundle ⟨some ⟨.vcvt, 0, ⟨0, false, 30, 20, 0x10, false, false⟩⟩, none, none, none, ⟨0, 0, false⟩⟩
    let d := s.renamedBundle ⟨none, none, none, none, ⟨0, 3, false⟩⟩
    let issues := fun (b : Bundle) => match s.tile.bundleOut (s.rngKey s.cur) b (s.cPay b) with | .ok o => o.ctl.jump.isNone | .error _ => false
    let l := s.renamedBundle ⟨some ⟨.lbhdr, 0, ⟨0, false, 0, 0, 0, false, false⟩⟩, none, none, none, ⟨0, 0, false⟩⟩
    CReady s b ∧ CReady s d ∧ CReady s e ∧ issues e = false ∧ [c, l].all s.tile.bundleReserved = true ∧
    (s.tile.c.held = none ∧ s.tile.tokenStalled .c [] [] s.tile.c.resv = false ∧ s.tile.canPop .c [] = true ∧ s.tile.canPush .c (peersOf .c 3) = true) ∧
    ((s.tile.bundleReads b).all fun r => (s.regLost (128 * r) 128).isNone) = true ∧ s.tile.queueSpace .normal = true ∧ s.tile.queueSpace .urgent = true ∧
    s.tile.controlWaits add = false ∧ s.tile.controlWaits out = false ∧ issues b = true ∧ issues d = true ∧
    loopsAt s.tile.c.lc s.tile.c.pc = [] := by unfold CReady; decide +kernel

/-- VIEWT to view 7, CBLOAD and FMTSET find nothing that keeps them back. -/
theorem witness_CControlInstructions :
    let t := (live fun t => { t with loopmode := true, c := { t.c with lc := wr t.c.lc 3 { Loop.reset with count := 5 } } }).tile
    (rd t.c.lc 3).count ≠ 0 ∧ (rd t.c.lc 0).count = 0 ∧ t.loopmode = true ∧ Tile.reset.loopmode = false ∧
    (startLoop Tile.reset.c.lc Tile.reset.c.pc 3 8 1 16 2 none).isSome = true ∧
    (∀ i, i < 8 → i ≠ 5 → (rd t.c.rings i).v = true → (rd t.c.rings i).q + (rd t.c.rings i).len ≤ 2047 ∨ 2047 + 0 + 1 ≤ (rd t.c.rings i).q) ∧
    (let u := { Tile.reset with c := { Tile.reset.c with rot := ⟨64, 12, 4, 3⟩ } }
     u.loopmode = false ∧ 0 < u.c.rot.stages ∧ ((startLoop u.c.lc u.c.pc 1 8 1 16 2 (some 3)).map fun p => p.2.2) = some 8 ∧
     ((startLoop u.c.lc u.c.pc 1 0 1 16 2 (some 3)).map fun p => p.2.2) = some 0) ∧
    (let u := { t with c := { t.c with rings := wr t.c.rings 2 ⟨100, 10, true⟩ } }
     (rd u.c.rings 2).v = true ∧ (rd u.c.rings 2).q < 109 + 0 + 1 ∧ 109 < (rd u.c.rings 2).q + (rd u.c.rings 2).len ∧
     (rd u.c.rings 2).q + (rd u.c.rings 2).len ≤ 110) := by decide +kernel

/-- CJ two bundles ahead, CJ out of the stream, and FMTSET of a word that is no format, each a bundle of its own that finds nothing to wait for. -/
theorem witness_CControlBundles :
    let s := live id
    let x := fun (b : SlotB) => (⟨0, 0, false, false, b, none⟩ : Bun)
    let f : SlotF := ⟨0, false, 0, 0, 0, false, false⟩
    let j := fun (w : BitVec 32) => s.renamedBundle (bundleOf (x (.lit w)) .cj 0 f)
    let h := s.renamedBundle (bundleOf (x (.lit 0xFFFFFFFF)) .fmtset 0 f)
    let jump := fun (b : Bundle) => (b.a.bind fun y => s.tile.control y b.lit (s.cPay b)).map fun o => o.jump.map fun j => s.tile.inStream .c j.1
    CReady s (j 2) ∧ CReady s (j (-1)) ∧ CReady s h ∧ jump (j 2) = some (some true) ∧ jump (j (-1)) = some (some false) ∧ jump h = none ∧
    ∀ w z, SlotB.lit w ≠ .slot z :=
  ⟨by unfold CReady; decide +kernel, by unfold CReady; decide +kernel, by unfold CReady; decide +kernel, by decide +kernel, by decide +kernel, by decide +kernel, by simp⟩

theorem witness_HardwareLoops :
    (∀ i, i < 4 → (rd (Vector.replicate 4 Loop.reset) i).count = 0) ∧ 3 < 4 ∧ 2 ^ 24 - 1 < 2 ^ 24 ∧ 16 < 2 ^ 5 ∧ 0 < 2 ^ 19 - 1 ∧ 2 ^ 19 - 1 < 2 ^ 19 ∧ 2 ^ 24 - 8 + 7 < 2 ^ 24 ∧
    (-2 ^ 15 : Int) ≤ -2 ^ 15 ∧ (-2 ^ 15 : Int) < 2 ^ 15 ∧
    1 < (2 ^ 24 - 1 + (-2 ^ 15 : Int).natAbs - 1) / (-2 ^ 15 : Int).natAbs ∧ (1 + (1 : Int).natAbs - 1) / (1 : Int).natAbs = 1 := by decide +kernel

/-- A rotating region v64 to v75 with four stages, a ring v100 to v109 and two running loops, the one in counter 2 the later started; counter 2 is a
loop with P = 1 that has gone back as often as it has trips. -/
theorem witness_RenamingAndStages :
    let c : CState := { CState.start 0 with rot := ⟨64, 12, 4, 3⟩, rings := wr (CState.start 0).rings 2 ⟨100, 10, true⟩ }
    let d : CState := { c with lc := wr (wr c.lc 0 ⟨5, 0, 1, 0, 32, 3, 0, 1⟩) 2 ⟨4, 0, 1, 16, 32, 8, 8, 7⟩ }
    c.rot.r ≠ 0 ∧ c.rot.q ≤ 75 ∧ 75 < c.rot.q + c.rot.r ∧ c.rot.q + c.rot.r ≤ 76 ∧ 63 < c.rot.q ∧ (CState.start 0).rot.r = 0 ∧
    (rd c.rings 2).v = true ∧ (rd c.rings 2).q ≤ 109 ∧ 109 < (rd c.rings 2).q + (rd c.rings 2).len ∧
    (∀ k, k < 8 → k ≠ 2 → (rd c.rings k).v = true → 109 < (rd c.rings k).q ∨ (rd c.rings k).q + (rd c.rings k).len ≤ 109) ∧
    (∀ k, k < 8 → (rd c.rings k).v = true → 110 < (rd c.rings k).q ∨ (rd c.rings k).q + (rd c.rings k).len ≤ 110) ∧
    (∀ k, k < 4 → (rd c.lc k).count = 0) ∧ (rd d.lc 2).count ≠ 0 ∧ (∀ m, m < 4 → m ≠ 2 → (rd d.lc m).count ≠ 0 → (rd d.lc m).born < (rd d.lc 2).born) ∧
    (rd d.lc 2).pipe ≠ 0 ∧ d.rot.stages ≠ 0 ∧ ¬ (rd d.lc 2).backs < (rd d.lc 2).pipe ∧ (rd d.lc 0).pipe = 0 := by decide +kernel

/-- A conversion of F32 to E4M3 through entry 0, part 3; one of an illegal selector; a list at 0x3FFF8 with room for one outlier, and a misaligned one. -/
theorem witness_Conversions :
    let t := (Tile.reset.rwrite (128 * 31) 20 (0x3FFF8 + 2 ^ 32))
    let t := { t with c := { t.c with ft := wr t.c.ft 0 0x00300000 } }
    let x := fun (vb : BitVec 11) (op : VCode) => slotIn t op 0 ⟨0, false, 30, 20, vb, false, false⟩ none
    let list := (t.cread 31).toNat
    let bad := fun (l : Nat) => decide (nbits l 0 32 % 8 ≠ 0) || decide (0x40000 < nbits l 0 32 + 8 * nbits l 32 32) || decide (2 ≤ nbits l 128 32)
    ((x 0x180 .vcvt).cvtPlan.isSome = true ∧ (x 0x180 .vcvts).cvtPlan.isSome = true ∧ ((x 0x180 .vcvto).cvtPlan.map fun p => p.dst) = some (.float fE4M3) ∧
      (x 0x10 .vcvt).cvtPlan = none ∧ (x 0x200 .vcvt).cvtPlan = none) ∧
    bad list = false ∧ bad (list + 1) = true := by decide +kernel

/-- Counter 0 runs to 0x100: a loop in counter 1 inside it, to its end and to 0x80; one that reaches beyond it, one that stands at its end, and counter 0 started
anew to beyond its old end. A branch to 0x40 leaves the one to 0x20. -/
theorem witness_NestedLoops :
    let lc : Vector Loop 4 := wr (Vector.replicate 4 Loop.reset) 0 { Loop.reset with count := 5, fin := 0x100, start := 0x10, born := 1 }
    let clash := fun (pc : Word) (j off : Nat) => [0, 1, 2, 3].any fun i => (rd lc i).count != 0 && ((rd lc i).fin == pc || (i != j && decide ((rd lc i).fin < pc + BitVec.ofNat 64 (16 * off))))
    (rd lc 0).count ≠ 0 ∧ clash 0x40 1 12 = false ∧ clash 0x40 1 4 = false ∧ clash 0x40 1 13 = true ∧ clash 0x100 1 4 = true ∧ clash 0x40 0 20 = false ∧
    (∀ i, i < 4 → (rd lc i).count ≠ 0 → i ≠ 1 → (rd lc i).fin ≠ 0x80) ∧ 8 + (2 ^ 24 - 9) < 2 ^ 24 ∧
    ((rd lc 0).start ≤ 0x40 ∧ (0x40 : Word) ≤ (rd lc 0).fin) ∧ ¬ ((rd lc 0).start ≤ 0 ∧ (0 : Word) ≤ (rd lc 0).fin) := by decide +kernel
/-! ### States that meet the hypotheses of the statements about the engines -/

/-- A tile whose queue q holds commands. -/
def queued (q : Queue) (l : List Cmd) (t : Tile) : Tile := { t with q := wr t.q (qIdx q) l }

/-- A join of copy and gather queues, signalling sm7. -/
def joinCmd : Cmd := newCmd (.join 5 0b1100 7) 0 none 0 7 false Clk.zero

theorem witness_EngineQueues :
    (let s := live fun t => queued .copy [copyCmd] { t with gd := wr t.gd 2 .yes }
     s.enginesRun 0 = true ∧ copyCmd.guard = some 2 ∧ copyCmd.decided = false ∧ copyCmd.started = false ∧ copyCmd.fault = none ∧
     rd s.tile.gd 2 = .yes ∧ rd (live fun t => { t with gd := wr t.gd 2 .no }).tile.gd 2 = .no ∧ rd (live id).tile.gd 2 = .free) ∧
    (let h := { copyCmd with decided := true }
     let s := live fun t => queued .copy [h] { t with sm := wr t.sm 3 1 }
     h.copy?.isSome = true ∧ h.startable = true ∧ h.wait ≠ 0 ∧ { h with wait := 0 }.startable = true ∧
     s.tile.waitersAhead (qIdx .copy) h.wait (h.waitFrom.getD s.dev.now) (s.tile.kWaits h.wait (s.smwaitOf 0)) < (rd s.tile.sm h.wait.toNat).toNat ∧
     rd (live id).tile.sm h.wait.toNat = 0 ∧ h.waitFrom = none) ∧
    (let s := live fun t => queued .gather [joinCmd] (queued .copy [joinCmd, copyCmd] t)
     (∀ e, e < 7 → (0b1100 : BitVec 7).getLsbD e = true → joinAt (rd s.tile.q e) 5 = true) ∧ s.tile.gathersBefore 5 = false) ∧
    (let x := (live fun t => { t with c := { t.c with held := some (.tile 7 0) } }).tile
     x.live = true ∧ x.c.held = some (.tile 7 0) ∧ x.heldBack (.tile 7 0) = false ∧
     (queued .normal [newCmd (.matrix (7 * 2 ^ 20) 0 0 false) 0 none 0 0 false Clk.zero] x).heldBack (.tile 7 0) = true) := by decide +kernel

/-- A copy of two rows of 32 bytes from local memory to the scratchpad, started; one of metadata; a copy-out of one leaf to local memory. -/
def rowCopy : Cmd := { newCmd (.copy2 ⟨0x2000000, 0x2FFFE0, 32, 2, 0, some 0x100, 2, -32, 32⟩) 0 none 0 7 true Clk.zero with started := true }
def sideCopy : Cmd := { newCmd (.mdld ⟨0x2FFFE0, 0x3FE0, 32, 0, 0, none, 1, 0, 0⟩) 0 none 0 0 false Clk.zero with started := true }
def outCopy : Cmd := { newCmd (.scout 0x200 0x2000000 128 0 2) 0 none 0 7 true Clk.zero with started := true }

theorem witness_Copies :
    (let s := mapped (queued .copy [rowCopy])
     s.enginesRun 0 = true ∧ rowCopy.started = true ∧ rowCopy.fault = none ∧ rowCopy.evicted = none ∧ s.tile.barDue = [] ∧ s.tile.cmds .copy = rowCopy :: [] ∧ rowCopy.posts = [] ∧
     (match s.resolve 0 .loc .read 0x2000000 32 false with
       | .ok (w, s1) => s1.linkReady w.tgt w.addr && (okOf (s1.readAt 0 rowCopy.clk w.tgt w.addr 32)).isSome &&
           (match s1.resolve 0 .spm .write 0x2FFFE0 32 true with
             | .ok (w2, s2) => s2.linkReady w2.tgt w2.addr && w2.tgt == .spm && !(s1.tileAt 0).storePending rowCopy.clk w2.addr 32 && (okOf (s2.writeAt 0 w2.tgt w2.addr 32 7)).isSome
             | .error _ => false)
       | .error _ => false) = true ∧
     (match s.resolve 0 .loc .read 0x40000000 32 false with | .error c => c != .eccUncorrected | .ok _ => false) = true ∧
     s.isLost 1 0 0x100 16 = false ∧ s.tile.storePending rowCopy.clk 0x100 16 = false ∧ s.tile.evq.length < 64 ∧ s.tile.evWait = []) ∧
    (let s := mapped (queued .metadata [sideCopy])
     s.tile.cmds .metadata = sideCopy :: [] ∧ (sideCopy.copy?.map fun p => p.2) = some true ∧
     (match s.resolve 0 .spm .read 0x2FFFE0 32 false with
       | .ok (w, s1) => s1.linkReady w.tgt w.addr && (okOf (s1.readAt 0 sideCopy.clk w.tgt w.addr 32)).isSome
       | .error _ => false) = true) ∧
    (let s := setts (queued .copyOut [outCopy])
     s.tile.cmds .copyOut = outCopy :: [] ∧ 0 < min (128 / 128) (16 ^ 0) ∧ (okOf (s.leafLine s.tile.ctx 0x200 0 0)).isSome = true ∧
     (match s.resolve 0 .loc .write 0x2000000 128 true with
       | .ok (w, s1) => s1.linkReady w.tgt w.addr && w.tgt == .hbm && (okOf (s1.writeAt 0 w.tgt w.addr 128 7)).isSome
       | .error _ => false) = true) := by decide +kernel

/-- A send of one flit pair from v2046, waiting on sm3. -/
def sendCmd : Cmd := newCmd (.send 0x00300005 9 2046 none) 0x40 none 3 7 true Clk.zero

theorem witness_Sends :
    (let s := live fun t => queued .send [sendCmd] { t with sm := wr t.sm 3 1 }
     s.enginesRun 0 = true ∧ s.tile.cmds .send = sendCmd :: [] ∧ sendCmd.startable = true ∧ sendCmd.injected = false ∧
     s.tile.headReady .send s.dev.now (s.smwaitOf 0) = true ∧ s.dev.lost = []) ∧
    (let h := { sendCmd with started := true, injected := true }
     let s := live (queued .send [h])
     s.tile.cmds .send = h :: [] ∧ h.injected = true ∧ (∀ p ∈ s.dev.net, p.orig = (0 : TileId).val → p.own = none) ∧ s.tile.evq.length < 64 ∧ s.tile.evWait = []) := by
  decide +kernel

/-- MMA.F32 with M = 16, N = 16 and K = 4, pitches 32, 32 and 64; C at offset 0 of view 0, A and B in views 1 and 2. -/
def mxBody (w0 : Nat) : CmdBody :=
  .matrix (BitVec.ofNat 512 (w0 + 1 * 2 ^ 17 + 2 * 2 ^ 20 + 2 ^ 64 * (16 + 16 * 2 ^ 16 + 4 * 2 ^ 32) + 2 ^ 128 * (32 * 2 ^ 18) + 2 ^ 192 * (32 * 2 ^ 18) +
    2 ^ 256 * (64 * 2 ^ 18))) 0 0 false

/-- A command of it, in any state of its run. -/
def mxCmd (w0 : Nat) : Cmd := newCmd (mxBody w0) 0 none 3 7 true Clk.zero
def mxGoing (w0 : Nat) : Cmd := { mxCmd w0 with started := true, part := List.replicate 256 0 }

theorem witness_MatrixStarts :
    (let s := live fun t => queued .normal [mxCmd 0] { t with sm := wr t.sm 3 1, age := 4096 }
     let y := s.tile
     s.enginesRun 0 = true ∧ s.dev.lost = [] ∧ (mxCmd 0).mx?.isSome = true ∧ y.cmds .normal = mxCmd 0 :: [] ∧ y.mxRunning = none ∧
     y.headReady .normal s.dev.now (s.smwaitOf 0) = true ∧ y.urgentMay s.dev.now (s.smwaitOf 0) = false) ∧
    (let s := live fun t => queued .urgent [mxCmd 0] { t with sm := wr t.sm 3 1, age := 4096 }
     let y := s.tile
     y.cmds .urgent = mxCmd 0 :: [] ∧ y.urgentRuns = false ∧ y.headReady .urgent s.dev.now (s.smwaitOf 0) = true ∧
     y.normalPromoted = false ∧ y.mxRunning = none) ∧
    (let s := live fun t => queued .normal [mxGoing 0] (queued .urgent [mxCmd 0] { t with sm := wr t.sm 3 1, age := 4096 })
     let y := s.tile
     y.urgentRuns = false ∧ y.headReady .urgent s.dev.now (s.smwaitOf 0) = true ∧ y.normalPromoted = false ∧
     y.cmds .normal = mxGoing 0 :: [] ∧ (mxGoing 0).started = true ∧ (mxGoing 0).fault = none ∧ (mxGoing 0).suspended = false) ∧
    (let s := live fun t => queued .normal [mxCmd 0] { t with sm := wr t.sm 3 1, age := 0 }
     s.tile.normalPromoted = true) := by decide +kernel

theorem witness_MatrixCompletes :
    let h := { mxGoing 0 with group := 1, rows := 0xFFFF }
    let s := live (queued .normal [h])
    s.enginesRun 0 = true ∧ s.tile.mxRunning = some .normal ∧ s.tile.cmds .normal = h :: [] ∧
    (match h.mx? with
      | some m => decide (h.group = m.groups) && decide (0 < m.n) && decide (0 ≤ m.oc) && decide (m.n * m.cw ≤ m.pc) && h.part.length == m.m * m.n &&
          (List.range m.m).all fun r => decide (viewBase (rd s.tile.c.av m.ac) + (m.oc + r * m.pc).toNat + m.n * m.cw ≤ 0x40000)
      | none => false) = true ∧ h.record = true ∧ s.tile.evq.length < 64 ∧ s.tile.evWait = [] ∧ ¬ (List.replicate 64 (0 : BitVec 128)).length < 64 := by decide +kernel

/-- A k-step of a whole command; of a ragged one whose semaphore 9 allows 16 rows, and of one that allows none. -/
theorem witness_MatrixSteps :
    let ragged := 2 ^ 15 + 9 * 2 ^ 32
    let at_ := fun (h : Cmd) (s : State) => match h.mx? with
      | some m => decide (0 < m.m) && decide (0 < m.n) && decide (m.m ≤ 256) && m.m % 16 == 0 && h.part.length == m.m * m.n && decide (h.group < m.groups) &&
          s.enginesRun 0 && s.dev.lost.isEmpty && s.tile.mxRunning == some .normal && !s.tile.urgentMay s.dev.now (s.smwaitOf 0) && h.unit == 0
      | none => false
    at_ (mxGoing 0) (live (queued .normal [mxGoing 0])) = true ∧ at_ (mxGoing ragged) (live (queued .normal [mxGoing ragged])) = true ∧
    ((mxGoing ragged).mx?.map fun m => (m.g, min m.m ((Tile.reset.smGet m.rsem).toNat * m.gran),
      min m.m (({ Tile.reset with sm := wr Tile.reset.sm 9 20 } : Tile).smGet m.rsem).toNat * m.gran)) = some (true, 0, 16) := by decide +kernel

/-- A prefetch at the head; a copy-out and a copy that have moved every sector; a held codebook and a held accumulator view. -/
theorem witness_EngineEnds :
    (let h := newCmd (.prefetch 0x2000000 256) 0 none 0 0 false Clk.zero
     let s := live (queued .copy [h])
     s.enginesRun 0 = true ∧ s.tile.cmds .copy = h :: [] ∧ h.body = .prefetch 0x2000000 256) ∧
    (let h := { rowCopy with row := 2 }
     let s := mapped (queued .copy [h])
     s.enginesRun 0 = true ∧ s.tile.barDue = [] ∧ s.tile.barOpen = none ∧ s.tile.cmds .copy = h :: [] ∧ 2 ≤ h.row ∧ h.posts = [] ∧ h.fault = none ∧
     h.evicted = none ∧ (h.copy?.map fun p => (p.1.rows, p.1.bar)) = some (2, some 0x100)) ∧
    (let h := { outCopy with unit := 1 }
     let s := setts (queued .copyOut [h])
     s.enginesRun 0 = true ∧ s.tile.barOpen = none ∧ s.tile.cmds .copyOut = h :: [] ∧ min (128 / 128) (16 ^ 0) ≤ h.unit ∧ h.posts = [] ∧ h.record = true) ∧
    (let h := { newCmd (.scout 0x200 0x2000000 128 0 2) 0 none 0 7 true Clk.zero with decided := true }
     h.startable = true ∧ h.wait = 0) ∧
    (let x := fun (w : Held) => (live fun t => { t with c := { t.c with held := some w, heldPush := 4 } }).tile
     (x (.codebook default)).heldBack (.codebook default) = false ∧ (x (.acc 3 0)).heldBack (.acc 3 0) = false) := by decide +kernel

/-- A matrix command at its end whose record finds the event queue full, and a normal command promoted behind a join. -/
theorem witness_MatrixWaits :
    (let h := { mxGoing 0 with group := 1, rows := 0xFFFF }
     let s := live fun t => queued .normal [h] { t with evq := List.replicate 64 0 }
     s.enginesRun 0 = true ∧ s.tile.mxRunning = some .normal ∧ ¬ (h.record = true → s.tile.evq.length < 64 ∧ s.tile.evWait = [])) ∧
    (let s := live fun t => queued .normal [newCmd (.join 5 1 7) 0 none 0 7 false Clk.zero, mxCmd 0] { t with sm := wr t.sm 3 1, age := 0 }
     s.tile.normalPromoted = true ∧ s.tile.urgentMay s.dev.now (s.smwaitOf 0) = false) := by decide +kernel
/-! ### States that meet the hypotheses of the statements about tasks, Owls and work lists -/

/-- The bytes of an instruction at address 0 of a section. -/
def coded (i : Instr) : Mem := match encode i with | some w => Mem.writeN [] 0 w.bytes.length (leNat w.bytes) | none => []

/-- A placed task that has not started, of a launch that has group 3 of the task alone. -/
def placed (spmLaunch : Word) : State :=
  (live fun t => { t with live := false, spmLaunch := spmLaunch }).updDev fun d => { d with launches := [{ launch1 with groups := Vector.replicate 3 [⟨3, [0], 0⟩] }] }

theorem witness_TaskStarts :
    (∀ s ∈ [placed 1, placed 2],
      s.tile.task = some task1 ∧ s.tile.live = false ∧ (s.launch? task1.launch).isSome = true ∧
      (match s.launch? task1.launch with
        | some l => l.id == task1.launch && !l.cores && l.mode != 1 && (l.groups[dieOf 0] == [⟨3, [0], 0⟩])
        | none => false) = true ∧ (s.dev.images[task1.image]?).isSome = true ∧ (s.tile.kept.all fun m => m.launch != 1) = true) ∧
    ((placed 1).tile.spmLaunch = 1 ∧ (placed 2).tile.spmLaunch ≠ 1) := by decide +kernel

/-- A task whose four sequencers have ended. -/
def ended (f : Tile → Tile) : State := live fun t => f { t with
  k := { t.k with ended := true }, l := { t.l with pc := 0x100000 }, c := { t.c with pc := 0x100000 }, s := { t.s with pc := 0x100000 } }

theorem witness_TaskRetires :
    let ok := fun (s : State) => s.enginesRun 0 && s.tile.task == some task1 && ([Sequencer.k, .l, .c, .s].all fun q => s.tile.endedOf q) && s.tile.c.held.isNone &&
      (match s.launch? task1.launch with | some l => l.mode != 1 && l.byCore != l.tasks | none => false)
    (let s := ended (queued .copy [{ copyCmd with fault := some (.xlate, 0) }])
     ok s = true ∧ s.tile.halted .copy = true) ∧
    (let s := ended (queued .copy [copyCmd])
     ok s = true ∧ s.tile.halted .copy = false ∧ 0 < s.tile.undecided) ∧
    (let s := ended fun t => { t with batch := some ⟨0, 1, 0, 0, []⟩ }
     ok s = true ∧ s.tile.undecided = 0 ∧ s.tile.batch.isSome = true) ∧
    (let s := ended fun t => { t with refused := [(.xlate, 0)] }
     ok s = true ∧ s.tile.undecided = 0 ∧ s.tile.batch = none ∧ (queues.all fun q => (s.tile.cmds q).isEmpty) = true ∧ s.tile.refused = [(.xlate, 0)]) ∧
    (let s := ended id
     ok s = true ∧ (queues.all fun q => (s.tile.cmds q).isEmpty && !s.tile.halted q) = true ∧ s.tile.refused = [] ∧ s.tile.reqs = [] ∧ s.tile.orphans = [] ∧
     (∀ p ∈ s.dev.net, p.orig ≠ (0 : TileId).val) ∧ ∀ i, i < 16 → (rd s.tile.subs i).opened = false ∧ (rd s.tile.pubs i).opened = false) := by decide +kernel

/-- A task of a launch of two, to be killed by its handler; with L stopped and no handler; with nothing due. -/
theorem witness_TaskKills :
    let two := fun (s : State) => s.updDev fun d => { d with launches := [{ launch1 with tasks := 2 }] }
    let ok := fun (s : State) => s.tile.task == some task1 && s.tile.live && s.tile.preempt == .none &&
      (match s.launch? task1.launch with | some l => l.mode != 1 && decide (l.byCore + 1 < l.tasks) | none => false)
    let still := fun (s : State) => s.tile.reqs.isEmpty && s.tile.orphans.isEmpty && (queues.all fun q => (s.tile.cmds q).all fun c => c.posts.isEmpty) && s.tile.batch.isNone &&
      (List.range 16).all fun i => !(rd s.tile.subs i).opened && !(rd s.tile.pubs i).opened
    (let s := two (live fun t => { t with kill := some ⟨true, .swtrap, .k, 0⟩ })
     ok s = true ∧ still s = true ∧ s.tile.kill = some ⟨true, .swtrap, .k, 0⟩) ∧
    (let s := two (stoppedL.upd fun t => { t with tvec := 0 })
     ok s = true ∧ still s = true ∧ s.tile.kill = none ∧ (s.tile.killDue.map fun d => d.byHandler) = some false) ∧
    (let s := two (live id)
     ok s = true ∧ s.tile.killDue = none) := by decide +kernel

/-- A request of S for list 255 and one of L, in a list that is full or empty or neither. -/
def listReq (q : Sequencer) (k : ReqKind) : Req := { (default : Req) with id := 3, q := q, kind := k }

theorem witness_WorkListUnits :
    let a := listReq .s (.wlapp 0 255 9)
    let p := listReq .l (.wlpop 3 0 255 2)
    let s := fun (items : List Word) => (listed items false).upd fun t => { t with reqs := [a, p] }
    (∀ items ∈ [([] : List Word), [5], [5, 6]], ((s items).workList 0 1 255).isSome = true ∧ (s items).tile.launch = 1 ∧ (s items).tile.listHeld a = false ∧
      (s items).tile.listHeld p = false ∧ ((s items).tile.reqs.find? fun r => match r.kind with | .wlapp _ _ _ => true | _ => false) = some a ∧
      ((s items).tile.reqs.find? fun r => match r.kind with | .wlpop _ _ _ _ => true | _ => false) = some p) ∧
    (((s [5, 6]).workList 0 1 255).map fun w => decide (w.cap ≤ w.items.length)) = some true ∧
    (((s [5]).workList 0 1 255).map fun w => decide (w.items.length < w.cap)) = some true := by decide +kernel

/-- A launch whose one task has retired and whose lists are empty may become quiescent. -/
theorem witness_OwlQuiescence :
    let s := (listed [] false).updDev fun d => { d with launches := [{ launch1 with
      lists := [255], at_ := [(0, .retired)], packet := leBytes 256 0x2000 }] }
    (match s.launch? 1 with
      | some l => l.state == .running && !l.lists.isEmpty && !l.quiescent && s.listsEmpty 1 && !s.appending 1 && l.owlSet == [0] &&
          (l.at_.find? fun a => a.1 == 0) == some (0, .retired)
      | none => false) = true := by decide +kernel

/-- K waits for an event and L for a token of K: nothing can move. -/
def stuck (stall : List (BitVec 12 × Nat)) (now : Nat) : State :=
  (live fun t => { t with tvec := 0x40, c := { t.c with pc := 0x100000 }, s := { t.s with pc := 0x100000 } }).updDev fun d => { d with
    images := [{ (default : Image) with readable := true, kcode := coded (.evpop 2), lcode := coded (.lj { lf 0 0 0 0 with pop := 1 }) }]
    stall := stall, now := now }

theorem witness_OwlStallRule : (stuck [] 0).stalled 0 = true ∧ (stuck [] 0).dev.stall = [] := by decide +kernel

theorem witness_OwlStallRuleFires : (stuck [(0, 7)] 4103).stalled 0 = true ∧ (stuck [(0, 7)] 4103).dev.stall.find? (fun p => p.1 == 0) = some (0, 7) ∧
    7 + 4096 ≤ (stuck [(0, 7)] 4103).dev.now := by decide +kernel

theorem witness_OwlStallRuleWaits : (live id).stalled 0 = false ∧ ((stuck [] 0).waitOf 0 .l).isSome = true ∧ (stuck [] 0).inWlpop 0 = false ∧
    ((stuck [] 0).waitOf 0 .k).isSome = true ∧ (stuck [] 0).tile.k.trap = false ∧ (stuck [] 0).tile.tvec ≠ 0 := by decide +kernel

/-- An update for a subscriber's entry from tile 1. -/
def updateOf (e : Nat) : Pkt :=
  { hdr := 0, ctx := 0, launch := 1, body := .update e 0 1 0, at_ := .spoke 0, orig := 1, own := none, task := none, miss := false, lcopy := false, stamp := 1, clk := Clk.zero }

/-- Ends of a task that retires: in trap mode; with barrier updates of the cycle still to be made; with a subscription open at a peer that runs, or is being
stopped; and with an update on its way here. -/
theorem witness_TaskRetireSteps :
    (let s := ended fun t => { t with k := { t.k with ended := true, trap := true } }
     s.enginesRun 0 = true ∧ (∀ q ∈ [Sequencer.k, .l, .c, .s], s.tile.endedOf q = true) ∧ s.tile.kill = none ∧ s.tile.killDue.isSome = true) ∧
    (let s := ended fun t => { t with barOpen := some false, barDue := [(0x100, .arrive 1, 0)] }
     s.enginesRun 0 = true ∧ s.tile.killDue = none ∧ s.tile.undecided = 0 ∧ s.tile.batch = none ∧ s.tile.barOpen ≠ none ∧ s.tile.barDue ≠ []) ∧
    (let e : SubEntry := ⟨true, false, 1, 0x100, 0x2000, 0x3000, 0⟩
     let mine := (ended fun t => { t with subs := wr t.subs 2 e })
     let s := (mine.updAt 1 fun t => { t with task := some { task1 with index := 1 }, live := true, pmap := 0x10, pubs := wr t.pubs 5 { e with peer := 0 } }).updDev
       fun d => { d with launches := [{ launch1 with tasks := 2, at_ := [(0, .running 0), (1, .running 1)] }] }
     let gone := mine.updDev fun d => { d with nextId := 2, net := [updateOf 2] }
     s.enginesRun 0 = true ∧ s.openPeers 0 = [1] ∧ s.taskHome 1 s.tile.launch = .live ∧
     (s.updAt 1 fun t => { t with preempt := .stopping 0 2 }).openPeers 0 = [1] ∧
     (s.updAt 1 fun t => { t with preempt := .stopping 0 2 }).taskHome 1 s.tile.launch = .held ∧
     gone.openPeers 0 = [] ∧ gone.updatesComing 0 = true) := by decide +kernel
/-! ### States that meet the hypotheses of the statements about the flow plane -/

/-- A flow entry of fields (word, high bit, low bit, value). -/
def entry (l : List (Nat × Nat × Nat × Nat)) : FlowEntry := ⟨1, l.foldl (fun e f => fePut e f.1 f.2.1 f.2.2.1 f.2.2.2) 0⟩

/-- A packet of flow 5 from tile src of this device, of one flit, with sequence number 9. -/
def flowPkt (at_ : Place) (src stamp : Nat) : Pkt :=
  { hdr := mkHeader 5 (BitVec.ofNat 9 src) 0 9 1 0 0, ctx := 0, launch := 1, body := .flow (List.replicate 256 1), at_ := at_, orig := src, own := none
    task := none, miss := false, lcopy := false, stamp := stamp, clk := Clk.zero }

/-- The network with packets, on a live task of tile 0 with entries in its match table and in the Warren of its die. -/
def flowing (net : List Pkt) (tab war : List FlowEntry) (f : Tile → Tile) : State :=
  (live fun t => f { t with matchT := tab }).updDev fun d => { d with net := net, dies := d.dies.set 0 { d.dies[0] with warren := war }, remote := [⟨3, true, [], [], [], []⟩] }

def forwards : FlowEntry := entry [(0, 63, 48, 5), (4, 57, 49, 431)]
def delivers : FlowEntry := entry [(0, 63, 48, 5), (0, 24, 23, 2), (5, 49, 49, 1), (5, 48, 27, 0x100), (5, 61, 58, 1), (6, 63, 0, 0x2FFE00), (7, 63, 32, 256)]

theorem witness_FlowPackets :
    let p := flowPkt (.spoke 0) 1 4
    let all := fun (s : State) => (s.packet 4 == some p) && s.dev.lost.isEmpty
    (let s := flowing [flowPkt (.spoke 0) 1 3, p] [] [] id
     all s = true ∧ s.behind p = true) ∧
    (let s := flowing [p] [] [forwards] id
     all s = true ∧ (∀ m ∈ s.tile.matchT, m.matches p 0 = false) ∧ s.warrenFind p 0 = some (forwards, 0)) ∧
    (let s := flowing [p] [forwards] [] id
     all s = true ∧ s.behind p = false ∧ s.tile.matchT.find? (fun m => m.matches p 0) = some forwards ∧ feGate forwards.w = 0 ∧ feOut forwards.w = 0 ∧
     fe forwards.w 4 63 62 = 0) ∧
    (let s := flowing [p] [delivers] [] id
     all s = true ∧ s.tile.matchT.find? (fun m => m.matches p 0) = some delivers ∧ feGate delivers.w = 0 ∧ feOut delivers.w = 2 ∧ fe delivers.w 5 63 62 = 0 ∧
     s.taskHome 0 delivers.launch = .live ∧ fe delivers.w 6 63 0 + bits p.hdr 26 11 % 2 ^ fe delivers.w 5 61 58 * fe delivers.w 7 63 32 + 256 * 1 = 0x300000) ∧
    (let q := flowPkt (.spoke 0) 0 4
     let s := flowing [q] [] [] id
     s.packet 4 = some q ∧ q.own = none ∧ s.behind q = false ∧ s.warrenFind q 0 = none ∧ hdrDev q.hdr = s.devNum ∧ (0 : TileId).val = hdrTile q.hdr ∧
     s.taskHome 0 q.launch = .live) ∧
    (let q := flowPkt (.port 31 (some (3, 7))) 0 4
     let s := flowing [q] [] [] id
     s.packet 4 = some q ∧ s.behind q = false ∧ s.dev.portT = [] ∧ s.warrenFind q (432 + 31) = none) ∧
    (let q := flowPkt (.away 3 7 (some 31)) 0 4
     let s := flowing [q] [] [] id
     s.packet 4 = some q ∧ s.behind q = false ∧ (s.dev.ports[(31 : Fin 32)]).up = true ∧ (s.remote? 3).isSome = true ∧ s.remote? 4 = none ∧
     ((s.updDev fun d => { d with ports := wr d.ports 31 ⟨false, none, []⟩ }).dev.ports[(31 : Fin 32)]).up = false) := by decide +kernel

/-- An entry that copies north, to the fabric by port 31 and to the Spoke's own tile. -/
def copies : FlowEntry := entry [(0, 63, 48, 5), (0, 24, 23, 1), (4, 36, 31, 0b100011), (4, 30, 26, 31), (5, 49, 49, 1), (5, 48, 27, 0x100), (5, 61, 58, 1), (6, 63, 0, 0x2FFE00), (7, 63, 32, 256)]

theorem witness_FlowCopies :
    let p := flowPkt (.spoke 0) 1 4
    (let s := (flowing [p] [copies] [] id).updDev fun d => { d with nextId := 5 }
     s.packet 4 = some p ∧ s.behind p = false ∧ s.tile.matchT.find? (fun m => m.matches p 0) = some copies ∧ p.lcopy = false ∧ feGate copies.w = 0 ∧ feOut copies.w = 1 ∧
     p.own = none ∧ 4 < s.dev.nextId ∧ nbits (fe copies.w 4 36 31) 0 1 = 1 ∧ nbits (fe copies.w 4 36 31) 1 1 = 1 ∧ nbits (fe copies.w 4 36 31) 5 1 = 1) ∧
    (let q := { p with lcopy := true }
     let s := flowing [q] [copies] [] id
     s.packet 4 = some q ∧ s.behind q = false ∧ s.tile.matchT.find? (fun m => m.matches q 0) = some copies ∧ fe copies.w 5 63 62 = 0 ∧ s.taskHome 0 copies.launch = .live ∧
     s.tile.barDue = [] ∧ fe copies.w 6 63 0 + bits q.hdr 26 11 % 2 ^ fe copies.w 5 61 58 * fe copies.w 7 63 32 + 256 * 1 = 0x300000) ∧
    (let q := { flowPkt (.spoke 0) 0 4 with own := some (7, 0x40) }
     let s := fun (n : Nat) => flowing [q] [] [] fun t => { t with evq := List.replicate n 1 }
     (s 63).packet 4 = some q ∧ (s 63).behind q = false ∧ (s 63).warrenFind q 0 = none ∧ q.orig = (0 : TileId).val ∧ hdrDev q.hdr = (s 63).devNum ∧ hdrTile q.hdr = (0 : TileId).val ∧
     (s 63).taskHome 0 q.launch = .live ∧ (s 63).tile.evq.length < 64 ∧ (s 63).tile.evWait = [] ∧ 64 ≤ (s 64).tile.evq.length) := by decide +kernel

/-- A packet that has missed stands before one of the same input and class. -/
theorem witness_FlowMisses :
    let y := { flowPkt (.spoke 0) 1 3 with miss := true }
    let p := flowPkt (.spoke 0) 1 4
    y.miss = true ∧ p.miss = false ∧ y.at_ = p.at_ ∧ y.stamp ≠ p.stamp ∧ y.input = p.input ∧ (hdrClass p.hdr).toNat ≤ (hdrClass y.hdr).toNat :=
  ⟨rfl, rfl, rfl, by decide, rfl, by decide⟩

/-- A combine gate of two inputs, tiles 1 and 2, and a hold that releases at two packets; eight slots from 120. -/
def combines : FlowEntry := entry [(0, 63, 48, 5), (0, 26, 25, 1), (0, 22, 16, 120), (0, 15, 8, 8), (1, 56, 54, 2), (2, 20, 0, 1), (2, 41, 21, 2), (4, 57, 49, 7)]
def holds : FlowEntry := entry [(0, 63, 48, 5), (0, 26, 25, 2), (0, 22, 16, 120), (0, 15, 8, 8), (1, 53, 48, 2), (4, 57, 49, 7)]

theorem witness_FlowGates :
    let p := flowPkt (.spoke 0) 2 4
    let first : Wave := ⟨1, 5, 9, false, 121, 1, 1, [⟨0, (flowPkt (.spoke 0) 1 3).hdr, List.replicate 256 1, 1, Clk.zero, none, 0⟩], 0⟩
    let held : Wave := ⟨1, 5, 9, true, 120, 1, 1, [⟨0, (flowPkt (.spoke 0) 1 3).hdr, List.replicate 256 1, 1, Clk.zero, none, 0⟩], 0⟩
    (let s := flowing [p] [combines] [] id
     s.packet 4 = some p ∧ s.behind p = false ∧ s.tile.matchT.find? (fun m => m.matches p 0) = some combines ∧ feGate combines.w = 1 ∧
     inputOf combines.w p.hdr = some 1 ∧ noWave combines.w 1 = false ∧ s.tile.waves = [] ∧ 0 < feN combines.w ∧ (0 : Nat) ≠ 1 ∧ feStand combines.w 0 = false) ∧
    (let s := flowing [p] [combines] [] fun t => { t with waves := [first] }
     s.tile.waves.find? (fun w => !w.hold && w.launch == 1 && w.flow == feFlow combines.w && w.seq == hdrSeq p.hdr) = some first ∧ first.flits = 1 ∧
     (∀ a ∈ first.arrived, a.input ≠ 1) ∧ feOut combines.w = 0 ∧ (∀ j, j < feN combines.w → feStand combines.w j = true ∨ j = 1 ∨ ∃ a ∈ first.arrived, a.input = j)) ∧
    (let s := flowing [p] [holds] [] fun t => { t with waves := [held] }
     s.tile.matchT.find? (fun m => m.matches p 0) = some holds ∧ feGate holds.w = 2 ∧ held.flits + 1 ≤ feCount holds.w ∧ fe holds.w 1 53 48 = 2 ∧
     s.tile.waves.filter (fun w => !(w.hold && w.launch == 1 && w.flow == feFlow holds.w)) = [] ∧ feOut holds.w = 0) := by decide +kernel

/-- Two barrier packets for one object of tile 0, and one for a tile that runs no task. -/
def barPkt (t : TileId) (body : PktBody) (stamp : Nat) : Pkt :=
  { hdr := 0, ctx := 0, launch := 1, body := body, at_ := .spoke t, orig := 0, own := none, task := none, miss := false, lcopy := false, stamp := stamp, clk := Clk.zero }

theorem witness_BarrierUpdates :
    (let s := flowing [barPkt 0 (.flagadd 0x100 1) 4, { barPkt 0 (.flagset 0x100) 5 with orig := 1 }] [] [] id
     let ps := s.dev.net.filter fun p => [4, 5].contains p.stamp && p.at_ == .spoke 0 && p.barUpd.isSome && !s.inputHeld p && s.barrierClear p
     s.dev.lost = [] ∧ ps.length = 2 ∧ (ps.all fun p => p.launch == 1 && (p.barUpd.map fun u => u.1) == some 0x100) = true ∧ s.taskHome 0 1 = .live) ∧
    (let s := flowing [barPkt 431 (.flagadd 0x100 1) 4] [] [] id
     (s.dev.net.filter fun p => [4].contains p.stamp && p.at_ == .spoke 431 && p.barUpd.isSome && !s.inputHeld p && s.barrierClear p) = [barPkt 431 (.flagadd 0x100 1) 4] ∧
     s.taskHome 431 1 = .absent ∧ (0 : TileId).val = 0 ∧ s.taskHome 0 1 = .live) := by decide +kernel

/-- A small request of the gather unit, and the same once it has been dropped. -/
def gatherReq (e : Option Nat) : Req :=
  { (default : Req) with id := 3, q := .l, kind := .load 7, pieces := [⟨.hbm, 0x40000000, 4, 0, 0x2000000, .rc, false, false, 0⟩], evicted := e }

theorem witness_FlowTimeoutsAndEviction :
    (let w : Wave := ⟨1, 5, 9, false, 121, 1, 1, [], 0⟩
     let s := (live fun t => { t with waves := [w] }).updDev fun d => { d with now := 200000000 }
     s.tile.waves.find? (fun w => w.base == (121 : BitVec 7).toNat && s.timeoutOf w.launch < s.dev.now - w.since) = some w ∧ s.taskHome 0 w.launch = .live ∧
     ∀ v ∈ s.tile.waves, v.base ≠ (0 : BitVec 7).toNat ∨ s.dev.now - v.since ≤ s.timeoutOf v.launch) ∧
    (let reaching := fun (now : Nat) (bits_ : Nat) => (stuck [] now).updDev fun d => { d with
       launches := [{ launch1 with packet := leBytes 256 bits_ }], tiles := d.tiles.set 0 { d.tiles[0] with l := { d.tiles[0].l with since := some 0 } } }
     ((reaching 200000000 (2 ^ 22)).waitOf 0 .l).isSome = true ∧ (reaching 200000000 (2 ^ 22)).tile.sinceOf .l = some 0 ∧ (reaching 200000000 (2 ^ 22)).tile.mayStop .l = true ∧
     (reaching 200000000 (2 ^ 22)).fabricReaching 0 = true ∧ (reaching 200000000 (2 ^ 22)).timeoutOf 1 < 200000000 - 0 ∧
     (reaching 200000000 0).fabricReaching 0 = false ∧ (reaching 5 (2 ^ 22)).dev.now - 0 ≤ (reaching 5 (2 ^ 22)).timeoutOf 1) ∧
    (let s := live fun t => { t with reqs := [gatherReq none] }
     s.tile.req? 3 = some (gatherReq none) ∧ (gatherReq none).kind = .load 7 ∧ (∀ v ∈ s.tile.reqs, v.id = 3 → v = gatherReq none) ∧
     (∀ p ∈ (gatherReq none).pieces, p.done = false ∧ p.size < 32 ∧ p.tgt ≠ .spm) ∧ (gatherReq (some 10)).evicted = some 10) ∧
    (let h := { rowCopy with evicted := some 10 }
     (live (queued .copy [rowCopy])).tile.cmds .copy = rowCopy :: [] ∧ rowCopy.started = true ∧ rowCopy.fault = none ∧ rowCopy.evicted = none ∧
     (live (queued .copy [h])).tile.cmds .copy = h :: [] ∧ h.evicted = some 10) ∧
    (let p := { barPkt 0 (.record 7) 4 with hdr := 1 }
     let s := flowing [p] [] [] id
     s.packet 4 = some p ∧ s.inputHeld p = false ∧ s.taskHome 0 p.launch = .live) := by decide +kernel

/-- No other tile has a request of the number. -/
theorem witness_EvictionOfOne (u : TileId) (h : u ≠ 0) : ∀ v ∈ ((live fun t => { t with reqs := [gatherReq none] }).tileAt u).reqs, v.id ≠ 3 := by
  have : ((live fun t => { t with reqs := [gatherReq none] }).tileAt u).reqs = [] := by
    unfold live
    rw [tileAt_updAt_ne _ _ _ _ (Ne.symm h)]
    simp [State.tileAt, State.updDev, State.reset, Device.reset, Tile.reset]
  simp [this]

/-- All ports of a device in training. -/
def portsDown (s : State) : State := s.updDev fun d => { d with ports := Vector.replicate 32 ⟨false, some 100000, []⟩ }

/-- An unmatched packet of another device, its Spoke's egress port up or down; a record that waits at an egress port; a record whose own buffer is sound. -/
theorem witness_FlowRecords :
    let q : Pkt := { flowPkt (.spoke 0) 0 4 with hdr := mkHeader 5 9 3 9 1 0 0 }
    let r : Pkt := { barPkt 0 (.record 7) 4 with at_ := .away 3 7 (some 31) }
    let s := flowing [q] [] [] id
    let z := flowing [r] [] [] id
    (s.packet 4 = some q ∧ s.behind q = false ∧ q.own = none ∧ s.warrenFind q 0 = none ∧ s.devNum = 0 ∧ hdrDev q.hdr = 3 ∧
      (s.dev.ports[egressPort 0]).up = true ∧ ((portsDown s).dev.ports[egressPort 0]).up = false ∧ (portsDown s).behind q = false) ∧
    (z.packet 4 = some r ∧ (z.dev.ports[(31 : Fin 32)]).up = true ∧ (z.remote? 3).isSome = true ∧ z.remote? 4 = none ∧
      ((portsDown z).dev.ports[(31 : Fin 32)]).up = false) ∧ s.isLost 7 4 0 (2 ^ 16) = false := by decide +kernel

/-- A hold whose count field is 0, with its first packet come. -/
theorem witness_HoldOfSixtyFour :
    let zero := entry [(0, 63, 48, 5), (0, 26, 25, 2), (0, 22, 16, 0), (0, 15, 8, 64), (4, 57, 49, 7)]
    let p := flowPkt (.spoke 0) 2 4
    let s := flowing [p] [zero] [] id
    s.tile.matchT.find? (fun m => m.matches p 0) = some zero ∧ feGate zero.w = 2 ∧ fe zero.w 1 53 48 = 0 ∧ 0 + 1 ≤ feCount zero.w ∧ s.tile.waves = [] ∧
    s.behind p = false := by decide +kernel

/-- A barrier packet whose object has an update of the cycle waiting. -/
theorem witness_BarrierUpdatesWait :
    let s := flowing [barPkt 0 (.flagadd 0x100 1) 4] [] [] fun t => { t with barOpen := some true, barDue := [(0x100, .bytes 256, 0)] }
    let ps := s.dev.net.filter fun p => [4].contains p.stamp && p.at_ == .spoke 0 && p.barUpd.isSome && !s.inputHeld p && s.barrierClear p
    ps = [barPkt 0 (.flagadd 0x100 1) 4] ∧ s.taskHome 0 1 = .live ∧ (∀ u ∈ s.tile.barDue, u.1 = 0x100) ∧ (flowing [] [] [] id).tile.barOpen = none := by decide +kernel
/-! ### States that meet the hypotheses of the statements about channels, subscriptions, combining and requests -/

/-- Channel 5 from tile 0 to tile 1 and packets of it in the network, bound for a tile. -/
def chanNet (net : List Pkt) (f g : Chan → Chan) : State :=
  ((channelled.upd fun t => { t with k := { t.k with pend := none }, chans := wr t.chans 5 (f (rd t.chans 5)) }).updAt 1 fun t =>
    { t with chans := wr t.chans 5 (g (rd t.chans 5)) }).updDev fun d => { d with net := net }

def chanPkt (at_ : TileId) (src : Nat) (body : PktBody) : Pkt := { barPkt at_ body 4 with orig := src }

theorem witness_ChannelArrivals :
    let ok := fun (s : State) (p : Pkt) (t : TileId) => s.packet 4 == some p && s.dev.lost.isEmpty && !s.behindKind p && s.chanHome t 1 == .live && s.taskHome t 1 == .live &&
      (match s.chanDecl p.launch 5 with | some (_, k) => k.id == 5 && k.slots == 4 | none => false)
    (let p := chanPkt 1 0 (.slot 5 3 (List.replicate 128 7))
     ok (chanNet [p] id id) p 1 = true) ∧
    (let p := chanPkt 0 1 (.ret 5 1)
     let s := chanNet [p] id id
     ok s p 0 = true ∧ 0 < ((1 : BitVec 32) - (rd s.tile.chans 5).last).toNat ∧ ((1 : BitVec 32) - (rd s.tile.chans 5).last).toNat < 2 ^ 31 ∧
     ((4 : BitVec 32) - ((rd s.tile.chans 5).sent - 1)).toNat ≤ 4) ∧
    (let p := chanPkt 0 1 (.ret 5 9)
     let s := chanNet [p] id id
     ok s p 0 = true ∧ ((9 : BitVec 32) - (rd s.tile.chans 5).last).toNat < 2 ^ 31 ∧ 4 < ((4 : BitVec 32) - ((rd s.tile.chans 5).sent - 9)).toNat ∧
     (rd s.tile.chans 5).fault = false) ∧
    (let p := chanPkt 0 1 (.ret 5 0x80000000)
     let s := chanNet [p] id id
     ok s p 0 = true ∧ 2 ^ 31 ≤ ((0x80000000 : BitVec 32) - (rd s.tile.chans 5).last).toNat) := by decide +kernel

theorem witness_ChannelAudits :
    (let s := (chanNet [] (fun h => { h with free := 0, stallS := some 7 }) id).updDev fun d => { d with now := 4103 }
     (s.chanDecl s.tile.launch 5).isSome = true ∧ s.enginesRun 0 = true ∧ 7 + 4096 ≤ s.dev.now ∧ (rd s.tile.chans 5).sender = true ∧ (rd s.tile.chans 5).free = 0 ∧
     (match s.chanDecl s.tile.launch 5 with | some (l, k) => l.tileOfTask k.dst == some 1 | none => false) = true) ∧
    (let s := (chanNet [] id fun h => { h with consumed := 3, stallR := some 7 }).updDev fun d => { d with now := 4103 }
     s.enginesRun 1 = true ∧ (rd (s.tileAt 1).chans 5).receiver = true ∧ (rd (s.tileAt 1).chans 5).received = (rd (s.tileAt 1).chans 5).consumed ∧
     (rd (s.tileAt 1).chans 5).stallR = some 7 ∧ (match s.chanDecl (s.tileAt 1).launch 5 with | some (l, k) => l.tileOfTask k.src == some 0 | none => false) = true) ∧
    (let p := chanPkt 1 0 (.auditSender 5)
     let s := chanNet [p] id id
     s.packet 4 = some p ∧ s.behindKind p = false ∧ s.inputHeld p = false ∧ (s.chanDecl p.launch 5).isSome = true ∧ s.chanHome 1 1 = .live ∧ s.taskHome 1 1 = .live ∧
     (0 : TileId).val = p.orig) ∧
    (let p := chanPkt 1 0 (.auditReplyR 5 9)
     let s := chanNet [p] id id
     s.packet 4 = some p ∧ s.chanHome 0 1 = .live ∧ s.taskHome 0 1 = .live ∧ (s.dev.net.filter fun y => y.stamp != 4) = [] ∧
     (rd (s.tileAt 0).chans 5).sent = (rd (s.tileAt 1).chans 5).received ∧ (match s.chanDecl p.launch 5 with
       | some (l, k) => l.id == p.launch && l.tileOfTask k.src == some 0 && l.tileOfTask k.dst == some 1 | none => false) = true ∧
     (let z := chanNet [p] (fun h => { h with sent := 8 }) id
      (rd (z.tileAt 0).chans 5).sent ≠ (rd (z.tileAt 1).chans 5).received ∧ (rd (z.tileAt 0).chans 5).fault = false)) := by decide +kernel

/-- A reply to the sender with a consumed count v, where sent and received agree and where they do not. -/
theorem witness_ChannelAuditReplies :
    let p := fun (v : BitVec 32) => chanPkt 0 1 (.auditReplyS 5 v 3)
    let d := fun (s : State) (v : BitVec 32) => (v - (rd s.tile.chans 5).last).toNat
    let free := fun (s : State) (v : BitVec 32) => ((4 : BitVec 32) - ((rd s.tile.chans 5).sent - v)).toNat
    ((chanNet [p 1] id id).packet 4 = some (p 1) ∧ (chanNet [p 1] id id).behindKind (p 1) = false ∧ (chanNet [p 1] id id).inputHeld (p 1) = false) ∧
    (let s := chanNet [p 1] id id
     s.chanHome 1 1 = .live ∧ s.chanHome 0 1 = .live ∧ s.taskHome 0 1 = .live ∧ (rd s.tile.chans 5).sent = (rd (s.tileAt 1).chans 5).received ∧ d s 0 = 0 ∧ 2 ^ 31 ≤ d s 0x80000000 ∧ (0 < d s 1 ∧ d s 1 < 2 ^ 31 ∧ free s 1 ≤ 4) ∧
       (0 < d s 9 ∧ d s 9 < 2 ^ 31 ∧ 4 < free s 9) ∧ (rd s.tile.chans 5).fault = false) ∧
    (let s := chanNet [p 4] (fun h => { h with sent := 8 }) id
     (rd s.tile.chans 5).sent ≠ (rd (s.tileAt 1).chans 5).received ∧ (s.dev.net.filter fun y => y.stamp != 4) = [] ∧ (rd s.tile.chans 5).fault = false ∧
       0 < d s 4 ∧ d s 4 < 2 ^ 31 ∧ free s 4 ≤ 4) := by decide +kernel

theorem witness_SubscriptionUpdates :
    let b : Batch := ⟨0x100, 3, 7, 5, [(2, 1)]⟩
    let t := fun (x : Option Batch) => live fun t => { t with batch := x, pubs := wr t.pubs 15 ⟨true, false, 1, 32, 0x100, 0x2000, 0⟩ }
    (let s := (t (some b)).updDev fun d => { d with now := 21 }
     s.tile.batch = some b ∧ 5 + 16 ≤ s.dev.now ∧ (s.updDev fun d => { d with now := 20 }).dev.now < 5 + 16) ∧
    (0x11C % 32 + 4 ≤ 32 ∧ (t none).dev.lost = [] ∧ (t none).tile.published 0x11C = true ∧ (t none).tile.batch = none ∧ (t (some b)).tile.published 0x11C = true ∧
      b.sector = 0x11C / 32 * 32) ∧
    (let p := { barPkt 0 (.update 15 0x2000 3 0x1234) 4 with orig := 1 }
     let s := flowing [p] [] [] fun t => { t with subs := wr t.subs 2 ⟨true, false, 1, 32, 0x100, 0x2000, 0⟩ }
     s.packet 4 = some p ∧ s.dev.lost = [] ∧ s.behindKind p = false ∧ s.inputHeld p = false ∧ s.taskHome 0 p.launch = .live ∧ s.tile.subscribes p.orig 0x2000 = true ∧
     (flowing [p] [] [] id).tile.subscribes p.orig 0x2000 = false) := by decide +kernel

/-- A fetch-and-add of L into a4 of a far-atomic word, and the record that has taken it. -/
def faccReq (pd : BitVec 3) : Req :=
  { (default : Req) with id := 3, q := .l, kind := .facc 4 true 5 pd, pieces := [⟨.hbm, 0x40000000, 8, 0, 0x2000000, .rc, true, false, 0⟩] }
def faccRec (sent : Bool) (members : List (FaccSrc × Word × Nat × Nat)) : CombRec := ⟨9, 7, .hbm, 0x40000000, true, 5, members, 0, sent, false, false⟩

/-- Tasks on tiles 0, 1 and 2, each with that request, and combining records. -/
def adding (pd : BitVec 3) (combs : List CombRec) : State :=
  ([1, 2].foldl (fun (s : State) t => s.updAt t fun x => { x with task := some { task1 with index := t.val }, live := true, pmap := 0x10, reqs := [{ faccReq pd with joined := true }] })
    (live fun t => { t with reqs := [{ faccReq pd with joined := true }] })).updDev fun d => { d with combs := combs }

theorem witness_CombiningRecords :
    (let s := live fun t => { t with reqs := [faccReq 2] }
     (s.faccOf 3).isSome = true ∧ ((s.faccOf 3).map fun f => f.tgt) = some .hbm ∧ s.dev.combs = []) ∧
    (let full := (List.range 32).map fun i => { faccRec true [] with id := 50 + i, place := 7 }
     let s := (live fun t => { t with reqs := [faccReq 2] }).updDev fun d => { d with combs := full }
     ((s.dev.combs.filter fun c => c.place == 7).length = 32) ∧ (s.dev.combs.filter fun c => c.place == 7).find? (fun c => !c.sent && c.wide) = none) ∧
    (let c := { faccRec false [(.req 1 8, 1, 0, 1)] with id := 60 }
     let s := (live fun t => { t with reqs := [faccReq 2] }).updDev fun d => { d with combs := [c], now := 63 }
     (s.dev.combs.filter fun c => c.place == 7).find? (fun c => !c.sent && c.tgt == .hbm && c.addr == 0x40000000 && c.wide == true && decide (c.members.length < 16) &&
       decide (s.dev.now < c.opened + 64)) = some c ∧ (s.dev.combs.any fun c => c.id == 60 && !c.sent && (decide (c.opened + 64 ≤ s.dev.now + 1) || decide (16 ≤ c.members.length))) = true) ∧
    (let ms : List (FaccSrc × Word × Nat × Nat) := [(.req 0 3, 5, 0, 1), (.req 1 3, 5, 0, 2), (.req 2 3, 5, 9, 0)]
     let s := adding 2 [faccRec false ms]
     (s.dev.combs.find? fun c => c.id == 9) = some (faccRec false ms) ∧ (∀ t : Fin 3, (s.tileAt (tileOf t.val)).reqs = [{ faccReq 2 with joined := true }]) ∧
       (faccReq 2).finished = false) := by decide +kernel

/-- A record of two requesters and one that has joined it with a third, sent, of whole and of lost requester list; and one of a requester of another device. -/
theorem witness_CombiningReplies :
    let inner := { faccRec true [(.req 2 3, 5, 9, 0)] with id := 10, joined := true }
    let c := fun (lost : Bool) => { faccRec true [(.req 0 3, 5, 0, 1), (.req 1 3, 5, 0, 2), (.rec_ 10, 5, 9, 4)] with lost := lost }
    (∀ lost ∈ [false, true], ∀ pd ∈ [(0 : BitVec 3), 2],
      let s := adding pd [c lost, inner]
      s.dev.combs.find? (fun c => c.id == 9 && c.sent && !c.joined) = some (c lost) ∧ s.dev.combs.find? (fun c => c.id == 10) = some inner ∧ inner.lost = false ∧
      inner.wide = (c lost).wide ∧ (∀ t : Fin 3, (s.tileAt (tileOf t.val)).reqs = [{ faccReq pd with joined := true }]) ∧
      s.linkReady .hbm 0x40000000 = true ∧ okOf (s.readAt (s.combTile (c lost)) Clk.zero .hbm 0x40000000 8) = some 0 ∧
      (okOf (s.writeAt (s.combTile (c lost)) .hbm 0x40000000 8 (atomNew 8 0 5 0))).isSome = true) ∧
    (let f := faccRec true [(.far 3 7, 5, 0, 1)]
     let s := adding 2 [f]
     s.dev.combs.find? (fun c => c.id == 9 && c.sent && !c.joined) = some f ∧ s.linkReady f.tgt f.addr = true ∧
       okOf (s.readAt (s.combTile f) Clk.zero f.tgt f.addr 8) = some 0 ∧ (okOf (s.writeAt (s.combTile f) f.tgt f.addr 8 (atomNew 8 0 5 0))).isSome = true) := by decide +kernel

/-- A piece that stores 32 bytes at device 3, and requests of S that hold it or another. -/
def farPiece : Piece := ⟨.remote 3, 0, 32, 0, 0x2000000, .rc, false, false, 7⟩
def storeReq (p : Piece) (fin : Bool) : Req := { (default : Req) with id := 3, q := .s, kind := .store, finished := fin, pieces := [p] }

/-- Device 3 beside a task on tile 0, with every access granted or none, at cycle 2^25. -/
def beside (granted : Bool) (f : Tile → Tile) : State := (live f).updDev fun d => { d with
  remote := [⟨3, true, [], if granted then grants else [], [], []⟩], now := 2 ^ 25 }

/-- One request of each kind that the network acts on. -/
theorem witness_NetworkRequests :
    let st := storeReq ⟨.hbm, 0x40000000, 32, 0, 0x2000000, .rc, false, false, 7⟩ false
    let host := storeReq ⟨.host, 0x40000000, 32, 0, 0x2000000, .rc, false, false, 7⟩ false
    (let s := live fun t => { t with reqs := [st] }
     s.tile.req? 3 = some st ∧ s.tile.blocked st [0] 0 = false ∧ s.linkReady .hbm 0x40000000 = true ∧ s.hentiaDead 0x40000000 = false ∧ st.posts st.pieces[0]! = false ∧
     s.dev.lost = [] ∧ (okOf (s.perform 0 st 0)).isSome = true ∧ s.tile.mayFail st = true ∧ st.since + 2 ^ 25 ≤ (s.updDev fun d => { d with now := 2 ^ 25 }).dev.now ∧
     st.failed = none ∧ st.joined = false ∧ st.evicted = none) ∧
    (let s := (live fun t => { t with reqs := [host] }).updDev fun d => { d with hentia := Vector.replicate 2 ⟨false, none, []⟩ }
     s.tile.req? 3 = some host ∧ s.hentiaDead 0x40000000 = true ∧ host.posts host.pieces[0]! = false ∧ host.finished = false ∧ s.tile.mayFail host = true) ∧
    (let old := { st with id := 2 }
     let s := live fun t => { t with reqs := [old, st] }
     s.tile.req? 3 = some st ∧ s.tile.blocked st [0] 0 = true ∧ s.tile.mayFail st = false) ∧
    (let r := storeReq farPiece true
     let s := beside true fun t => { t with reqs := [r] }
     s.tile.req? 3 = some r ∧ r.posts farPiece = true ∧ s.tile.blocked r [0] 0 = false ∧ s.postedOk 0 farPiece = true ∧ s.linkReady (.remote 3) 0 = true ∧
     (okOf (s.writeAt 0 (.remote 3) 0 32 7)).isSome = true ∧ r.since + 2 ^ 25 ≤ s.dev.now) ∧
    (beside false fun t => { t with reqs := [storeReq farPiece true] }).postedOk 0 farPiece = false := by decide +kernel

/-- K and a copy that wait at a link since cycle 0, a copy and an orphan with a posted write, and release walks at the end of a line and before it. -/
theorem witness_NetworkTimeouts :
    (let s := beside true fun t => { t with tvec := 0x40, k := { t.k with pend := some (.access 0x2000000), since := some 0 } }
     s.tile.k.pend = some (.access 0x2000000) ∧ s.tile.k.since = some 0 ∧ 0 + 2 ^ 25 ≤ s.dev.now ∧ s.tile.kill = none ∧ s.tile.k.trap = false ∧ s.tile.tvec ≠ 0) ∧
    (let h := { rowCopy with net := some (0, 0x2000000) }
     (beside true (queued .copy [h])).tile.cmds .copy = h :: [] ∧ h.net = some (0, 0x2000000)) ∧
    (let h := { rowCopy with posts := [⟨5, 0, farPiece⟩] }
     let s := beside true (queued .copy [h])
     s.tile.req? 5 = none ∧ s.tile.posterOf 5 = some (some .copy, ⟨5, 0, farPiece⟩) ∧ s.tile.cmds .copy = h :: [] ∧ s.tile.postBehind 5 farPiece = false) ∧
    (let s := beside true fun t => { t with orphans := [⟨5, 0, farPiece⟩] }
     s.tile.req? 5 = none ∧ s.tile.posterOf 5 = some (none, ⟨5, 0, farPiece⟩) ∧ s.tile.postBehind 5 farPiece = false ∧ s.postedOk 0 farPiece = true) ∧
    (let s := (setts id).updDev fun d => { d with walks := [(0, [(512, 16)]), (0, [(512, 15)])], hbm := d.hbm.writeN ((setts id).lineAddr 512 + 8 * 14) 8 0x200 }
     s.dev.walks[0]? = some (0, (512, 16) :: []) ∧ s.dev.walks[1]? = some (0, (512, 15) :: []) ∧ okOf (s.lineRead 512 (8 * 15) 8) = some 0 ∧
     okOf (s.lineRead 512 (8 * 14) 8) = some 0x200 ∧ s.bucketLost (s.bucketOf (0x200 / 256)) = false ∧ s.bucketCheck (s.bucketOf (0x200 / 256)) = none ∧
     s.findName 0 0x200 = some 512 ∧ s.findName 0 0x9900 = none) ∧
    (let s := (setts id).updDev fun d => { d with lost := [⟨6, 0, (setts id).lineAddr 512⟩] }
     (okOf (s.lineRead 512 0 8)).isNone = true ∧ ((setts id).updDev fun d => { d with lost := [⟨6, 0, (setts id).metaAddr 512⟩] }).bucketLost ((setts id).bucketOf 2) = true) := by
  decide +kernel

/-- A CHSEND whose request reaches its Spoke; a store that no longer fails, in time and past its time; a posted write that its owner refuses for lost data. -/
theorem witness_RequestsThatStand :
    let st := storeReq ⟨.hbm, 0x40000000, 32, 0, 0x2000000, .rc, false, false, 7⟩ false
    (let r := { (default : Req) with id := 3, q := .s, kind := .chsend 5 (List.replicate 128 7), pieces := [default] }
     let s := live fun t => { t with reqs := [r] }
     s.tile.req? 3 = some r) ∧
    (let s := (live fun t => { t with reqs := [st], outS := 1 }).updDev fun d => { d with now := 2 ^ 25 }
     s.tile.sure st = true ∧ st.finished = false ∧ st.since + 2 ^ 25 ≤ s.dev.now ∧ s.tile.blocked st [0] 0 = false ∧ (okOf (s.unlost.perform 0 st 0)).isSome = true ∧
     (live fun t => { t with reqs := [st] }).tile.sure st = false) ∧
    (let r := storeReq { farPiece with size := 4 } true
     let s := (beside true fun t => { t with reqs := [r] }).updDev fun d => { d with remote := d.remote.map fun x => { x with lost := [(0, 32)] } }
     s.tile.req? 3 = some r ∧ s.postedOk 0 { farPiece with size := 4 } = true ∧ r.posts { farPiece with size := 4 } = true ∧ (okOf (s.writeAt 0 (.remote 3) 0 4 7)).isNone = true) ∧
    (let h := { rowCopy with posts := [⟨5, 0, farPiece⟩] }
     let s := beside false (queued .copy [h])
     s.tile.req? 5 = none ∧ s.tile.posterOf 5 = some (some .copy, ⟨5, 0, farPiece⟩) ∧ s.tile.postBehind 5 farPiece = false ∧ s.postedOk 0 farPiece = false ∧
     s.linkReady (.remote 3) 0 = true) := by decide +kernel

/-- A fetch-and-add of another device's word that reaches a panel port, the ports up or in training, and one that only a Spoke takes; a sent record whose one
member is another device's, with the ports up or in training. -/
theorem witness_CombiningAtPorts :
    let r := { faccReq 2 with pieces := [⟨.remote 3, 0x40000000, 8, 0, 0x2000000, .rc, true, false, 0⟩] }
    let s := live fun t => { t with reqs := [r] }
    let f := faccRec true [(.far 3 7, 5, 0, 1)]
    let up := fun (s : State) => s.dev.ports.toList.any fun l => l.up
    (s.faccOf 3).map (fun f => f.tgt) = some (.remote 3) ∧ up s = true ∧ up (portsDown s) = false ∧ ((portsDown s).faccOf 3).isSome = true ∧
    ((live fun t => { t with reqs := [faccReq 2] }).faccOf 3).map (fun f => f.tgt) = some .hbm ∧
    (let z := portsDown (adding 2 [f])
     z.dev.combs.find? (fun c => c.id == 9 && c.sent && !c.joined) = some f ∧ (∀ l ∈ z.dev.ports.toList, l.up = false) ∧ z.linkReady f.tgt f.addr = true ∧
       okOf (z.readAt (z.combTile f) Clk.zero f.tgt f.addr 8) = some 0 ∧
       (match z.writeAt (z.combTile f) f.tgt f.addr 8 (atomNew 8 0 5 0) with | .ok s1 => s1.dev.ports.toList.all fun l => !l.up | .error _ => false) = true) := by decide +kernel
/-! ### States that meet the hypotheses of the statements about context switches, commands, staging and placing -/

/-- Partition 1 holds the first two tiles; context 5 is bound to it. -/
def parted (f : Device → Device) : State :=
  (State.reset.updDev fun d => f { d with
    bound := [⟨5, 1, 0x100000000⟩], tiles := (d.tiles.set 0 { Tile.reset with pmap := 0x11 }).set 1 { Tile.reset with pmap := 0x11 } })

/-- A launch packet of one word. -/
def pkt (w : Nat) : List Byte := leBytes 256 w

/-- A running launch of priority 0 in replay mode, and a ready one of priority 3 that replays task 0 on tile 0. -/
def rivals : List Launch :=
  [{ launch1 with packet := pkt 0x401, tag := 5 },
   { launch1 with id := 2, packet := pkt 0x401, tag := 5, prio := 3, state := .ready, replay := [(0, 0)] }]

/-- The running launch's task on tile 0, with n save slots. -/
def contended (n : Word) : State :=
  (parted fun d => { d with launches := rivals, saveslots := n }).updAt 0 fun t => { t with task := some task1, live := true }

theorem witness_ContextSwitches_none : ((scoreboard (live id).dev.launches).find? fun w => (live id).victim w 0 && (live id).lacksTile w (dieOf 0)) = none := by
  decide +kernel

theorem witness_ContextSwitches_victim :
    let s := contended 2
    (((scoreboard s.dev.launches).find? fun w => s.victim w 0 && s.lacksTile w (dieOf 0)).map fun w => w.id) = some 2 ∧ s.stopSet 0 = [0] ∧
      s.freeSlots.head? = some 0 := by decide +kernel

theorem witness_ContextSwitches_full : (contended 0).freeSlots.length < ((contended 0).stopSet 0).length := by decide +kernel

/-- The grants of mapped pass every check of the device's own accesses. -/
theorem granted_entry (b0 b1 : Nat) (k : Acc) (h : b1 < 2 ^ 32) : acctEntryOk grant 0 0 b0 b1 k = true := by
  have e : bit grant 63 = true ∧ bits grant 11 0 = 0 ∧ bits grant 23 12 = 0xFFF ∧ bits grant 95 64 = 0 ∧ bits grant 127 96 = 0xFFFFFFFF ∧ bit grant 62 = true ∧
    bit grant 61 = true ∧ bit grant 60 = true := by decide
  have : b1 ≤ 0xFFFFFFFF := by omega
  cases k <;> simp [acctEntryOk, e, this]

theorem granted_ownOk (s : State) (p n : Nat) (k : Acc) (ha : s.dev.acct = (List.range 478).map fun g => ⟨g, 0, grant⟩) (hd : s.devNum = 0) (hn : p + n ≤ 2 ^ 40)
    (h0 : 0 < n) : s.ownOk p n k = true := by
  have row : ∀ g a, g < 478 → a < 2 ^ 40 → acctOk s.dev.acct g 0 0 a 1 k = true := by
    intro g a hg hx
    rw [acctOk, ha, List.any_eq_true]
    exact ⟨⟨g, 0, grant⟩, List.mem_map.2 ⟨g, List.mem_range.2 hg, rfl⟩, by rw [granted_entry _ _ _ (by omega)]; simp⟩
  rw [State.ownOk, List.all_eq_true]
  intro i hi
  have hi := List.mem_range.1 hi
  have hx : max p ((p / 128 + i) * 128) < 2 ^ 40 := by omega
  rw [State.localOk, hd, ownerOk]
  have h1 := row (homeOf (max p ((p / 128 + i) * 128))) _ (by unfold homeOf; omega) hx
  have h2 := row (432 + stackOf (max p ((p / 128 + i) * 128))) _ (by unfold stackOf; omega) hx
  split
  · rename_i hf
    rw [hf, h2]; rfl
  · exact h1

theorem witness_ContextSwitches_save :
    let s := fun (r : List Req) => live fun t => { t with preempt := .stopping 0 2, reqs := r }
    ((s []).tile.preempt = .stopping 0 2 ∧ (s []).tile.task = some task1 ∧ (s []).partsStopped 0 = true ∧ (∀ u ∈ (s []).dev.lost, u.place ≠ (0 : TileId).val)) ∧
    (s [default]).partsStopped 0 = false ∧ (s []).poolOk 0 (0x360000 + (s []).tile.asSaved.spillLen) .write = false := by
  decide +kernel

theorem witness_ContextSwitches_granted :
    let s := (live fun t => { t with preempt := .stopping 0 2 }).updDev fun d => { d with acct := grants }
    s.poolOk 0 (0x360000 + s.tile.asSaved.spillLen) .write = true :=
  granted_ownOk _ _ _ _ rfl (by decide +kernel) (by decide +kernel) (by decide +kernel)

/-- Task 0 of launch 1 saved in slot 0, its image's version in place. -/
def aside : State :=
  State.reset.updDev fun d => { d with
    launches := [{ launch1 with at_ := [(0, .saved 0)] }], saves := [⟨0, 1, 0, 0, { Tile.reset with task := some task1 }⟩]
    hbm := Mem.writeN (Mem.writeN [] 0x344400 2 1) 0x344518 8 77, acct := grants
    tiles := d.tiles.set 0 { Tile.reset with pmap := 0x10 } }

theorem witness_ContextSwitches_resume :
    let s := aside
    let v : Save := ⟨0, 1, 0, 0, { Tile.reset with task := some task1 }⟩
    s.savesAt 0 = [v] ∧ (s.launch? v.launch).isSome = true ∧
    (s.dev.launches.all fun w => !w.cores && s.mayResume v &&
      ((scoreboard s.dev.launches).find? (fun l => !(s.resumesWith l 0).isEmpty && !l.stillRuns && (s.resumesWith l 0).all s.mayResume) == some w) &&
      (s.dev.saves.filter (fun u => u.launch == w.id && (w.cores || u.tile == 0)) == [v])) = true ∧
    s.dev.lost = [] ∧ imageOk s.dev.hbm (s.slotBase v.slot) = true ∧ v.tile = 0 := by decide +kernel

theorem witness_ContextSwitches_readable : aside.poolOk 0 (0x360000 + ({ Tile.reset with task := some task1 } : Tile).spillLen) .read = true :=
  granted_ownOk _ _ _ _ rfl (by decide +kernel) (by decide +kernel) (by decide +kernel)

/-! Commands -/

/-- The page tables of 16's example of a far read, with a leaf. -/
def tables (leaf : Nat) : Mem :=
  Mem.writeN (Mem.writeN (Mem.writeN [] 0x100000A58 8 0x0000000100001001) 0x100001878 8 0x0000000100002001) 0x1000029F8 8 leaf

/-- Queue 3 of context 5 with a ring of four packets at host address 0 and its tail line at 0x1000. -/
def queued3 (tail : Nat) (packet : Nat) : State :=
  let q : CmdQueue := { (rd Device.reset.queues 3) with en := true, ctx := 5, base := 0x8000000000000000, cap := 4, tailA := 0x8000000000001000,
                                                        recBase := 0x8000000000002000, prio := 2, seed := 9, ctrBase := 50 }
  parted fun d => { d with
    queues := wr d.queues 3 q, host := Mem.writeN (Mem.writeN [] 0x1000 8 tail) 0 256 packet, hbm := tables 0x1800000240000003, acct := grants
    images := [{ (default : Image) with readable := true, tag := 5, va := 0x000A5C3E7F210040, kernels := [default] }] }

/-- A launch packet of one task of the image there; with another type byte it is refused. -/
def launchPacket (type : Nat) : Nat := type + 1 * 2 ^ 64 + 0x000A5C3E7F210040 * 2 ^ 192 + 8 * 2 ^ 320

/-- A transfer of 64 bytes from host memory at 0x000A5C3E7F210000 to local memory. -/
def transferPacket (space : Nat) : Nat :=
  2 + (0x000A5C3E7F210000 + 0x000A5C3E7F210100 * 2 ^ 64 + 64 * 2 ^ 128 + space * 2 ^ 160 + 2 * 2 ^ 168) * 2 ^ 256

theorem witness_CommandAcceptance_tails :
    let z := fun (s : State) => rd s.dev.queues 3
    (let s := queued3 5 0
     (z s).en = true ∧ (z s).head.toNat + (z s).cap.toNat < s.tailOf (z s) ∧ s.mayAccept 3 = false) ∧
    (let s := queued3 4 0
     (z s).head.toNat ≤ s.tailOf (z s) ∧ s.tailOf (z s) ≤ (z s).head.toNat + (z s).cap.toNat ∧ s.mayAccept 3 = true ∧ s.dev.launches = [] ∧ (s.dev.served + 1 + 3) % 64 = 3 ∧ s.nextQueue = some 3 ∧ (queued3 5 0).nextQueue ≠ some 3) ∧
    (rd (queued3 4 0).dev.queues 3).baseWas = none ∧ (State.reset.updQueue 3 fun z => { z with baseWas := some (0, 7) }).dev.now = 0 := by decide +kernel

theorem witness_CommandAcceptance_transfer :
    let ok := fun (s : State) => let l := s.nextCommand 3; (s.mayAccept 3, l.transfer, (s.bindTag l.tag).checkTransfer l)
    ok (queued3 1 (transferPacket 5)) = (true, true, 0) ∧ ok (queued3 1 (transferPacket 1)) = (true, true, 1) := by decide +kernel

theorem witness_CommandAcceptance_launch :
    let ok := fun (s : State) => let l := s.nextCommand 3; (s.mayAccept 3, l.transfer, (s.bindTag l.tag).checkLaunch l |>.1, (s.bindTag l.tag).checkLaunch l |>.2.isSome, l.mode)
    ok (queued3 1 (launchPacket 1)) = (true, false, 0, true, 0) := by decide +kernel

theorem witness_CommandAcceptance_refused :
    let s := queued3 1 (launchPacket 3)
    let l := s.nextCommand 3
    s.mayAccept 3 = true ∧ l.transfer = false ∧ (s.bindTag l.tag).checkLaunch l = (1, none) := by decide +kernel

/-! Staging -/

/-- A transfer command with its packet, in a state and with n sectors done. -/
def transfer1 (st : LState) (n : Nat) (space : Nat) : Launch :=
  { (default : Launch) with id := 3, queue := 0, transfer := true, packet := pkt (transferPacket space), tag := 5, state := st, copied := n }

/-- Its state of the machine; the leaf is one of host memory or of local memory. -/
def staged (l : Launch) (leaf : Nat) : State :=
  parted fun d => { d with launches := [l], hbm := tables leaf, acct := grants }

theorem witness_StagingAndTransfers_transfer :
    (let l := transfer1 .accepted 0 2
     (staged l 0x1800000240000003).launch? l.id = some l ∧ l.transfer = true ∧ l.state = .accepted ∧ (staged l 0x1800000240000003).predsDone l = true) ∧
    (let l := { transfer1 .accepted 0 2 with packet := pkt (transferPacket 2 + 9 * 2 ^ (8 * 136)) }
     (staged l 0).predsDone l = false) ∧
    (let l := transfer1 .staging 2 2
     nextInput l.copies l.copied = none) := by decide +kernel

theorem witness_StagingAndTransfers_sector :
    let l := transfer1 .staging 1 2
    let s := staged l 0x1800000240000003
    (match nextInput l.copies l.copied with
      | some (d, i) => i == 1 && (match s.inputSector l d i with
        | some (s1, true) => s1.dev.launches == s.dev.launches
        | _ => false)
      | none => false) = true := by decide +kernel

theorem witness_StagingAndTransfers_waits :
    let l := transfer1 .staging 1 5
    let s := (staged l 0x9800000240000003).updDev fun d => { d with hentia := Vector.replicate 2 ⟨false, some 5, []⟩ }
    (match nextInput l.copies l.copied with
      | some (d, i) => (s.inputSector l d i).isNone
      | none => false) = true := by decide +kernel

/-- A launch that is not a transfer, with one input from local to local memory. -/
def staging1 (st : LState) (n : Nat) : Launch :=
  { (default : Launch) with id := 3, packet := pkt (launchPacket 1), tag := 5, state := st, copied := n, tasks := 1, carves := [(0, 256)]
                            inputs := [transferPacket 2 / 2 ^ 256] }

theorem witness_StagingAndTransfers_launch :
    (let l := staging1 .accepted 0
     let s := staged l 0x1800000240000003
     s.launch? l.id = some l ∧ l.transfer = false ∧ (scoreboard s.dev.launches).find? s.stageable = some l) ∧
    (let l := staging1 .accepted 0
     let s := (staged l 0).updAt 0 fun x => { x with carves := [⟨9, 0x40000, []⟩] }
     ((scoreboard s.dev.launches).find? s.stageable).isNone = true) ∧
    (let l := staging1 .staging 1
     let s := staged l 0x1800000240000003
     (match nextInput l.copies l.copied with
       | some (d, i) => (match s.inputSector l d i with
         | some (s1, true) => s1.dev.launches == s.dev.launches
         | _ => false)
       | none => false) = true ∧ nextInput l.copies l.copied ≠ none) ∧
    nextInput (staging1 .staging 2).copies (staging1 .staging 2).copied = none := by decide +kernel

/-! Placing and sealing -/

/-- A launch ready in replay mode with task 0 for tile 0. -/
def replays (word0 : Nat) (st : LState) : Launch :=
  { (default : Launch) with id := 1, packet := pkt word0, tag := 5, state := st, tasks := 1, replay := [(0, 0)] }

/-- That launch in the scoreboard. -/
def placing (l : Launch) : State := parted fun d => { d with launches := [l] }

theorem witness_PlacingAndSealing_placed :
    let l := replays 0x401 .running
    let s := placing l
    s.takerOf 0 = some l ∧ s.launch? l.id = some l ∧ s.tile.task = none ∧ s.lowestFree l 0 = true ∧ l.cores = false ∧ s.nextTask l 0 = some 0 ∧
      l.state = .running ∧ s.takerOf 1 = none := by decide +kernel

theorem witness_PlacingAndSealing_reserved :
    let l := replays 0x501 .ready
    let s := placing l
    s.takerOf 0 = some l ∧ s.tile.task = none ∧ s.lowestFree l 0 = true ∧ l.cores = true ∧ s.reserver (dieOf 0) = some l := by decide +kernel

theorem witness_PlacingAndSealing_ready :
    let l := { replays 0x501 .ready with reserved := [0] }
    let s := placing l
    s.launch? l.id = some l ∧ l.transfer = false ∧ l.cores = true ∧ l.state = .ready ∧ l.mapped = false ∧ l.ready.contains 0 = false ∧ s.lacking l 0 = 0 ∧
      l.ready.length < 2 := by decide +kernel

theorem witness_PlacingAndSealing_mapped :
    let l := { replays 0x501 .ready with reserved := [0], ready := [1, 2], packet := pkt (0x501 + 0x000A5C3E7F210000 * 2 ^ (8 * 112)) }
    let s := staged l 0x1800000240000003
    let marked := s.updLaunch l.id fun m => { m with ready := 0 :: m.ready }
    s.lacking l 0 = 0 ∧ 2 ≤ l.ready.length ∧ (marked.writeMap l (marked.placements l)).2 = true ∧
      ((marked.placements l).map fun p => p.2) = [0] := by decide +kernel

theorem witness_PlacingAndSealing_sealed :
    let l := fun (st : LState) (n : Nat) => { launch1 with state := st, retired := n }
    ((placing (l .running 1)).launch? (l .running 1).id = some (l .running 1) ∧ (l .running 1).transfer = false ∧ (l .running 1).mode ≠ 1 ∧
      (l .running 1).retired = (l .running 1).tasks) ∧ (l .running 0).retired ≠ (l .running 0).tasks ∧
    (placing (l .sealing 1)).hasWaves 1 = false ∧ (match (placing (l .sealing 1)).digestOf (l .sealing 1) with | .ok v => v | .error _ => 1) = 0 := by decide +kernel

theorem witness_PlacingAndSealing_waves :
    ((placing { launch1 with state := .sealing }).updAt 0 fun x => { x with waves := [{ (default : Wave) with launch := 1 }] }).hasWaves 1 = true := by
  decide +kernel

/-- A task being stopped that is due to be killed: K has ended in its handler, or L has stopped and there is none. -/
theorem witness_ContextSwitches_killed :
    (let s := live fun t => { t with preempt := .stopping 0 2, k := { t.k with ended := true, trap := true } }
     s.tile.live = true ∧ s.tile.killDue = some ⟨true, .swtrap, .k, 0⟩) ∧
    (let s := stoppedL.upd fun t => { t with preempt := .stopping 0 2, tvec := 0 }
     s.tile.live = true ∧ (s.tile.killDue.map fun d => d.cause) = some .align) ∧
    (let s := live fun t => { t with preempt := .stopping 0 2 }
     s.tile.killDue = none ∧ s.partsStopped 0 = true ∧ (s.updDev fun d => { d with lost := [⟨1, 0, 0x100⟩] }).dev.lost.all (fun u => u.place == 0 && u.code == 1) = true) := by
  decide +kernel

/-- Command cores that may not read a tail line or a packet: no entry of the access table grants it. -/
theorem witness_CommandAcceptance_barred :
    let s := (queued3 1 (launchPacket 1)).updDev fun d => { d with
      acct := [], queues := wr d.queues 3 { (rd d.queues 3) with base := 0x40000000, tailA := 0x40001000 } }
    let z := rd s.dev.queues 3
    s.physOk z.tailA 8 .read = false ∧ s.physOk z.headAt 256 .read = false ∧ s.tailOf z = z.head.toNat ∧ s.mayAccept 3 = false ∧
    (queued3 1 (launchPacket 1)).physOk (rd (queued3 1 (launchPacket 1)).dev.queues 3).tailA 8 .read = true := by decide +kernel
/-! ### States that meet the hypotheses of the statements about the control window, links, scrubbing and the management plane -/

/-- Reset with the management plane changed. -/
def managed (f : Mgmt → Mgmt) : State := State.reset.updDev fun d => { d with mgmt := f d.mgmt }

theorem witness_ControlWindowRegisters :
    State.reset.isReady = true ∧ (managed fun m => { m with state := 0 }).isReady = false ∧ bit (5 : Word) 0 = true ∧ bit (4 : Word) 0 = false ∧
    (21 : Word).toNat / 16 ≠ 0 ∧ (5 : Word).toNat / 16 = 0 ∧
    (let z := fun (u : Bool) => State.reset.updQueue 3 fun z => { z with ringUsed := u, recBase := 0x1000 }
     (rd (z true).dev.queues 3).ringUsed = true ∧ (rd (z false).dev.queues 3).ringUsed = false ∧ (rd (z false).dev.queues 3).en = false ∧ (z false).isReady = true ∧
       bit (rd (z false).dev.queues 3).recBase 63 = false ∧ (z false).physOk 0x1000 32768 .write = false) ∧ 2 ^ 9 ≤ (0x200 : Word).toNat ∧ (0x114 : Word).toNat < 2 ^ 9 ∧ 2 ^ 16 ≤ (0x10000 : Word).toNat ∧
    2 ^ 12 ≤ (0x1000 : Word).toNat ∧ (0xFFF : Word).toNat < 2 ^ 12 ∧ (0xFFFFFFFF : Word).toNat < 2 ^ 32 ∧ (4096 : Word).toNat ≤ 4096 ∧
    (let z := fun (b : Bool) => (State.reset.updQueue 3 fun z => { z with en := b })
     (z false).isReady = true ∧ (rd (z false).dev.queues 3).en = false ∧ (z true).isReady = true ∧ (rd (z true).dev.queues 3).en = true) ∧
    (let s := fun (b : Bool) => State.reset.updDev fun d => { d with sxen := b }
     (s false).isReady = true ∧ (s false).dev.sxen = false ∧ (s true).dev.sxen = true ∧ bits (0x114 : Word) 4 0 ≤ 20 ∧ bit (0x114 : Word) 8 = true ∧
       bit (0x14 : Word) 8 = false) ∧
    ((0x10001 : BitVec 32).toNat % 8 ≠ 0 ∧ (0xFFF8 : BitVec 32).toNat < 0x10000) := by decide +kernel

/-- A record ring that tag 0x000 may write. -/
theorem witness_ControlWindowRegisters_ring :
    let s := (State.reset.updQueue 3 fun z => { z with recBase := 0x1000 }).updDev fun d => { d with acct := grants }
    (rd s.dev.queues 3).recBase = 0x1000 ∧ s.physOk 0x1000 32768 .write = true := by
  intro s
  have h : s.physOk 0x1000 32768 .write = s.ownOk 0x1000 32768 .write := if_neg (by decide)
  exact ⟨by decide +kernel, h.trans (granted_ownOk _ _ _ _ rfl (by decide +kernel) (by decide +kernel) (by decide +kernel))⟩

theorem witness_ProtectionRegisters :
    let shot := fun (a : Bool) => (live fun t => { t with tlb := [⟨0, 1, true, 3⟩] }).updDev fun d => { d with shoot := some ⟨0, a, 0x2000000, 0x10000⟩ }
    (State.reset.isReady = true ∧ State.reset.dev.shoot = none ∧ bit (0x2005 : Word) 13 = true ∧ bit (5 : Word) 13 = false) ∧
    ((shot false).isReady = true ∧ (shot false).dev.shoot = some ⟨0, false, 0x2000000, 0x10000⟩ ∧ (shot false).shootBusy ⟨0, false, 0x2000000, 0x10000⟩ = false) ∧
    (State.reset.partitionHeld 0 = false ∧ (parted id).isReady = true ∧ (parted id).partitionHeld 0 = true) ∧
    (2 ^ 15 ≤ (0x8000 : Word).toNat ∧ (0x3005 : Word).toNat < 2 ^ 15 ∧ grant &&& 0x0FFFFFFFFF000000 = 0 ∧ (1 <<< 24 : BitVec 128) &&& 0x0FFFFFFFFF000000 ≠ 0 ∧
      (0x80000000000000010000000000000001 : BitVec 128) &&& 0x80000000FFFFFFFF00000000FFFFFFFF = 0x80000000000000010000000000000001 ∧
      (2 ^ 32 : BitVec 128) &&& 0x80000000FFFFFFFF00000000FFFFFFFF ≠ 2 ^ 32) ∧
    ((478 : BitVec 9).toNat = 478 ∧ (477 : BitVec 9).toNat < 478) := by decide +kernel

/-- An access of L translated before the shoot-down has not performed. -/
theorem witness_ProtectionRegisters_busy :
    ((live fun t => { t with reqs := [{ (default : Req) with pieces := [{ (default : Piece) with tgt := .hbm, va := 0x2000040, done := false }] }] }).shootBusy
      ⟨0, false, 0x2000000, 0x10000⟩) = true := by decide +kernel

theorem witness_LinksHostAndRepair_links :
    let k : FlowletKey := .request 0 0 1
    let s := fun (last : Nat) => State.reset.updDev fun d => { d with paths := [⟨k, 3, last⟩], failed := [7], clk := 100041 }
    ((∀ f ∈ (s 100000).dev.paths, f.key = k → f.path ∉ (s 100000).dev.failed ∧ f.last + ((s 100000).dev.flgap.toNat + 9) / 10 < (s 100000).dev.clk) ∧
      5 ∉ (s 100000).dev.failed ∧ 7 ∈ (s 100000).dev.failed) ∧
    (∀ f ∈ (s 100001).dev.paths, (s 100001).dev.clk ≤ f.last + ((s 100001).dev.flgap.toNat + 9) / 10) ∧
    (let l := fun (x : Link) => State.reset.updDev fun d => { d with ports := wr d.ports 4 x, hentia := Vector.replicate 2 x, clk := 100000 }
     ((l ⟨true, none, []⟩).link (.fabric 4)).up = true ∧ ((l ⟨true, none, []⟩).link (.fabric 4)).crc.length < 16 ∧ (l ⟨true, none, []⟩).isReady = true ∧
     ((l ⟨true, none, []⟩).dev.hentia[(1 : Fin 2)]).up = true ∧
     ((l ⟨true, none, List.replicate 15 0⟩).link (.fabric 4)).up = true ∧
     16 ≤ ((l ⟨true, none, List.replicate 15 0⟩).dev.now :: ((l ⟨true, none, List.replicate 15 0⟩).link (.fabric 4)).crc.filter
        fun c => (l ⟨true, none, List.replicate 15 0⟩).dev.now < c + 2 ^ 20).length ∧
     ((l ⟨false, some 0, []⟩).link (.hentia 1)).training = some 0 ∧ 0 + 100000 ≤ (l ⟨false, some 0, []⟩).dev.clk ∧
     ((l ⟨false, some 1, []⟩).link (.hentia 1)).training = some 1 ∧ (l ⟨false, some 1, []⟩).dev.clk < 1 + 100000 ∧
     ((l ⟨false, none, []⟩).link (.fabric 4)).up = false ∧ ((l ⟨false, none, []⟩).dev.hentia[(1 : Fin 2)]).up = false) := by decide +kernel

theorem witness_LinksHostAndRepair_host :
    let s := State.reset.updDev fun d => { d with acct := grants }
    s.isReady = true ∧ (s.dev.hentia[(0 : Fin 2)]).up = true ∧ s.dev.lost = [] ∧
    (∀ r ∈ lineRuns (3 + 1) 0x7F 3, s.hostOk 0 (0x7F + r.1) r.2 .read = true) ∧ (∀ r ∈ lineRuns (3 + 1) 0x7F 3, s.hostOk 0 (0x7F + r.1) r.2 .write = true) ∧
    (lineRuns (3 + 1) 0x7F 3).length = 2 ∧ (∀ r ∈ lineRuns (3 + 1) 0x7F 3, State.reset.hostOk 0 (0x7F + r.1) r.2 .write = false) ∧
    (lineRuns (3 + 1) 0x7F 3).any (fun r => !State.reset.hostOk 0 (0x7F + r.1) r.2 .read) = true := by decide +kernel

/-- The host holds line 5 alone; line 6 may be granted to it, nothing may where no access is granted, and a far-atomic line never. -/
theorem witness_LinksHostAndRepair_copies :
    let s := State.reset.updDev fun d => { d with acct := grants, hostCopies := [(5, true), (7, false)] }
    let far := s.updDev fun d => { d with farange := wr d.farange 0 0x80000000000000000000000000000000 }
    (s.farLine 6 = false ∧ s.hostOk 0 (128 * 6) 128 .read = true ∧ s.hostOk 0 (128 * 6) 128 .write = true ∧ s.dev.lost = []) ∧ far.farLine 6 = true ∧
    State.reset.hostOk 0 (128 * 6) 128 .read = false ∧ s.dev.hostCopies.contains (0x2FC / 128, true) = true ∧ 0x2FC % 128 + 4 ≤ 128 ∧
    s.dev.hostCopies.contains (0x380 / 128, true) = false := by decide +kernel

/-- Another device of this one's number at a link that is down, and none. -/
theorem witness_LinksHostAndRepair_sites :
    let s := fun (n : BitVec 12) => State.reset.updDev fun d => { d with remote := [⟨n, true, [], [], [], []⟩], ports := wr d.ports 4 ⟨false, none, []⟩ }
    (∃ r ∈ (s 0).dev.remote, r.present = true ∧ r.num = (s 0).devNum) ∧ (∀ r ∈ (s 9).dev.remote, r.present = true → r.num ≠ (s 9).devNum) ∧
    ((s 9).link (.fabric 4)).up = false ∧ (s 9).isReady = true := by decide +kernel

theorem witness_LinksHostAndRepair_far :
    let s := State.reset.updDev fun d => { d with acct := [⟨444 + 3, 0, grant ||| 5⟩, ⟨homeOf 0x1000, 0, grant ||| 5⟩] }
    let x := fun (r : FarReq) => (⟨3, 5, 7, 0, false, r⟩ : FarAccess)
    s.isReady = true ∧ (s.dev.ports[(3 : Fin 32)]).up = true ∧ (5 : BitVec 12) ≠ s.devNum ∧ s.dev.lost = [] ∧
    (∀ r ∈ [FarReq.read 0x1000 8, .write 0x1000 [1, 2], .atomic 0x1000 8 1 0], farReqOk r = true ∧ s.farOk (x r) = true ∧ State.reset.farOk (x r) = false) ∧
    ((State.reset.updDev fun d => { d with ports := Vector.replicate 32 ⟨false, none, []⟩ }).dev.ports[(3 : Fin 32)]).up = false := by decide +kernel

theorem witness_LinksHostAndRepair_soft :
    (let s := State.reset.updDev fun d => { d with hub := [0x1000 / 128] }
     let u : BitVec 8 → StoredUnit := fun c => ⟨c, 0, 0x1008⟩
     ((u 4).code.toNat = 4 ∧ (u 4).off < 2 ^ 40 ∧ (u 4).off / 128 ∈ s.dev.hub) ∧ ((u 5).code.toNat = 5 ∧ (u 5).off / 128 ∈ s.dev.hub) ∧ (u 6).code.toNat = 6 ∧
       ¬ ((u 3).code.toNat = 4 ∨ (u 3).code.toNat = 5 ∨ (u 3).code.toNat = 6) ∧ 1 ≤ (u 3).code.toNat ∧ (u 3).code.toNat ≤ 10) ∧
    ((live id).tileAt 0).valid 0x1008 = false ∧ ((live fun t => t.rwrite 0x1000 32 7).tileAt 0).valid 0x1008 = true ∧
    (let p : Pkt := { (default : Pkt) with stamp := 4 }
     (State.reset.updDev fun d => { d with net := [p] }).packet 4 = some p) ∧
    (live id).isReady = true ∧ ((live id).tileAt 0).task ≠ none ∧ ((live id).tileAt 0).live = true := by decide +kernel

theorem witness_LinksHostAndRepair_units :
    let e : FlowEntry := ⟨1, 0⟩
    let s := fun (r : Bool) (l : List StoredUnit) => State.reset.updDev fun d => { d with
      dies := Vector.replicate 3 { Die.reset with warren := [e] }, launches := [launch1], images := [{ (default : Image) with readable := r }], lost := l }
    ((s true []).dev.dies[(0 : DieId)]).warren[0]? = some e ∧ (s true []).launch? e.launch = some launch1 ∧ (s true []).warrenLost 0 0 = false ∧
    (s true [⟨10, 0, 8⟩]).warrenLost 0 0 = true ∧ ((s true [⟨10, 0, 8⟩]).dev.images[launch1.image]?).map (fun i => i.readable) = some true ∧
    (s false [⟨10, 0, 8⟩]).warrenLost 0 0 = true ∧ ((s false [⟨10, 0, 8⟩]).dev.images[launch1.image]?).map (fun i => i.readable) = some false := by decide +kernel

theorem witness_ResetsAndClocks :
    State.reset.dev.mgmt.powered = true ∧ State.reset.dev.mgmt.coldLow = false ∧ State.reset.isReady = true ∧ (managed fun m => { m with powered := false }).dev.mgmt.powered = false ∧
    (∀ n ∈ [0, 1, 2, 3, 4, 5, 15], (managed fun m => { m with state := n }).dev.mgmt.state = n) ∧ (managed fun m => { m with coldLow := true }).dev.mgmt.coldLow = true ∧
    (managed fun m => { m with cold := false }).dev.mgmt.cold = false ∧ State.reset.dev.mgmt.cold = true ∧
    (∀ u ∈ State.reset.dev.lost, u.code ≠ 16) ∧ (∃ u ∈ (State.reset.updDev fun d => { d with lost := [⟨16, 0, 0⟩] }).dev.lost, u.code = 16) ∧
    (∀ d : DieId, rowsOk (State.reset.dev.dies[d]).nextRows = true) ∧ rowsOk [0, 0] = false ∧
    ((managed fun m => { m with throttled := true }).dev.mgmt.maxMhz 0 = 600) ∧ (∀ i, i < 15 → rd (Vector.replicate 15 99) i < 100) := by decide +kernel

/-- The greatest frequency lies between 600 and 1,800 MHz, so that 600 can be taken and 1,900 cannot. -/
theorem witness_ClockLimits (c : Nat) : 600 ≤ State.reset.dev.mgmt.maxMhz c ∧ State.reset.dev.mgmt.maxMhz c < 1900 := by
  have h : State.reset.dev.mgmt.maxMhz c = max 600 (min (min 1800 (1800 / 100 * 100)) (Config.capMhz 2800 c / 100 * 100)) := rfl
  omega

/-- A firmware image verifies or does not, memory and links train or do not: one case of each pair is met. -/
theorem witness_BringUpOutcomes (n : Nat) : (Config.verifies [] = true ∨ Config.verifies [] = false) ∧ (Config.hbmTrains n = true ∨ Config.hbmTrains n = false) ∧
    ((∀ i : Fin 2, Config.linkTrains (.hentia i) n = true) ∨ ∃ i : Fin 2, Config.linkTrains (.hentia i) n = false) := by
  refine ⟨by cases Config.verifies [] <;> simp, by cases Config.hbmTrains n <;> simp, ?_⟩
  by_cases h : ∃ i : Fin 2, Config.linkTrains (.hentia i) n = false
  · exact .inr h
  · exact .inl fun i => by simpa using fun e => h ⟨i, e⟩

theorem witness_ManagementAnswers :
    let v := fun (n : Nat) => leNat (((leBytes 3 1 ++ leBytes 4 n).drop 3).take 4)
    State.reset.dev.mgmt.state ≠ 0 ∧ v 1200 = 1200 ∧ v 2800 = 2800 ∧ v 2801 = 2801 ∧ v 1 = 1 ∧ (leBytes 2 17).headD 0 ≠ 0 ∧ leNat ((leBytes 2 17).take 2) = 17 ∧
    leNat ((leBytes 2 2).take 2) = 2 ∧ (leBytes 1 0).headD 0 = 0 ∧ (leBytes 1 2).headD 0 = 2 ∧ (leBytes 1 3).headD 0 ≠ 2 ∧
    (let t := managed fun m => { m with throttled := true }
     t.isReady = true ∧ ({ t.dev.mgmt with cap := 1200 } : Mgmt).maxMhz 0 < t.dev.mgmt.mhz ∧
       (managed fun m => { m with throttled := true, mhz := 600 }).dev.mgmt.mhz ≤ ({ t.dev.mgmt with cap := 1200 } : Mgmt).maxMhz 0) ∧
    (State.reset.updDev fun d => { d with now := 1 }).dev.mgmt.logAt ≠ 1 ∧ State.reset.dev.mgmt.logAt = State.reset.dev.now := by decide +kernel
/-! ### States that meet the hypotheses of the statements about the whole machine -/

theorem witness_DecodeEncode : (Instr.sub 3 4 5).wellFormed = true ∧ (encode (.sub 3 4 5)).isSome = true ∧ (encode (.chrecv (lf 0 0 0 0))).isSome = true := by decide +kernel

/-- A turn of L first in the agenda, with code there. -/
def turning (code : Mem) (fin : Word) : State :=
  { (live fun t => { t with task := some { task1 with lFin := fin } }) with
    agenda := [.seq 0 .l false] }.updDev fun d => { d with images := [{ (default : Image) with readable := true, lcode := code }] }

theorem witness_StepRunsDecoded :
    let ok := fun (s : State) => decide (s.agenda = [.seq 0 .l false]) && s.tile.task.isSome && s.tile.live && decide (s.tile.preempt = .none) &&
      s.tile.mapped && s.tile.killDue.isNone && !s.tile.endedOf .l && (s.tile.stopOf .l).isNone
    (let s := turning (coded (.aadd (lf 0 3 4 5))) 0x100000
     ok s = true ∧ decodeBytes .l (s.fetchBytes 0 .l) = .ok (.aadd (lf 0 3 4 5), []) ∧ instrLen .l (s.fetchBytes 0 .l) = 8) ∧
    (let s := turning [] 0x100000
     ok s = true ∧ (match decodeBytes .l (s.fetchBytes 0 .l) with | .ok _ => false | .error _ => true) = true) ∧
    (let s := turning (coded (.aadd (lf 0 3 4 5))) 4
     ok s = true ∧ (s.tile.task.map fun k => k.fin .l) = some 4) ∧
    (let s : State := { (live fun t => { t with k := { t.k with pend := some (.access 0x2000000) } }) with agenda := [.seq 0 .k false] }
     s.tile.task = some task1 ∧ s.tile.live = true ∧ s.tile.mapped = true ∧ s.tile.killDue = none ∧ s.tile.endedOf .k = false ∧ s.tile.stopOf .k = none ∧
     s.tile.k.pend = some (.access 0x2000000)) ∧ bit Tile.reset.pmap 4 = false ∧
    encode (.taskStart 0) = none ∧ ({ State.reset with agenda := [.event .coldReset] }).agenda = [.event .coldReset] := by decide +kernel

theorem reset_tiles (t : TileId) : State.reset.tileAt t = Tile.reset := Vector.getElem_replicate ..

theorem memOk_tile : Tile.reset.memOk :=
  have h : Tile.reset.carves = [] ∧ Tile.reset.kept = [] := ⟨rfl, rfl⟩
  ⟨rfl, rfl, rfl, by rw [h.1]; simp, by rw [h.2]; simp⟩

theorem memOk_reset : State.reset.memOk :=
  have h : State.reset.dev.remote = [] ∧ State.reset.dev.saves = [] := ⟨rfl, rfl⟩
  ⟨rfl, rfl, by rw [h.1]; simp, fun t => by rw [reset_tiles]; exact memOk_tile, by rw [h.2]; simp⟩

theorem witness_MemoryStaysCanonical : ∃ t, State.reset.memOk ∧ step { State.reset with agenda := [.event .resetAsserted] } = .next t :=
  ⟨_, memOk_reset, rfl⟩

theorem witness_StallCountsHold : ∃ t, step { State.reset with agenda := [.event .resetAsserted] } = .next t := ⟨_, rfl⟩

/-- 04 R85, the example of a refused image: 655,360 words are more than 524,287. -/
theorem test_reloc_refused : relocValue .lspc20 (0x500000 + 0x40) 0x40 = some 655360 ∧
    relocStore ⟨9, .l, 0x40, some ⟨some .l, 0x500000 + 0x40⟩, 0⟩ = none := by decide

/-- 04 R85: LSPC20 of a label 24 bytes back stores −3 in imm20. -/
theorem test_reloc_word : (applyReloc { (default : Object) with lcode := List.replicate 8 0 } ⟨9, .l, 0, some ⟨some .l, -24⟩, 0⟩).map (fun o => leNat o.lcode) =
    some (0xFFFFD * 64) := by decide +kernel

theorem witness_RelocationsFit :
    let y : Symbol := ⟨some .c, 32⟩
    let o : Object := { (default : Object) with ccode := List.replicate 32 0, relocs := [⟨11, .c, 16, some y, 0⟩] }
    (applyReloc o ⟨11, .c, 16, some y, 0⟩).isSome = true ∧ relocStore ⟨11, .c, 16, some y, 0⟩ = some (.cpc32, 1) ∧ relocStore ⟨14, .c, 16, some y, 0⟩ = none ∧
    (match relocateAll o o.relocs with | .ok _ => true | .error _ => false) = true ∧ State.reset.isReady = true ∧
    (let far := { o with dataAt := hbmSize, data := [1] }
     (match relocateAll far far.relocs with | .ok x => x.data != [] && decide (hbmSize < x.dataAt + x.data.length) | .error _ => false) = true) ∧
    relocStore ⟨2, .k, 0, some y, 0⟩ = none ∧ relocStore ⟨1, .k, 0, some y, -16416⟩ = some (.ki15, -16384) ∧ relocStore ⟨1, .k, 0, some y, -16417⟩ = none ∧
    relocStore ⟨10, .c, 0, some y, 4294967263⟩ = some (.clit32, 4294967295) ∧ relocStore ⟨10, .c, 0, some y, 4294967264⟩ = none ∧
    relocStore ⟨8, .s, 0, some y, 524255⟩ = some (.ls20, 524287) ∧ relocStore ⟨8, .s, 0, some y, 524256⟩ = none ∧
    relocStore ⟨3, .k, 0, none, 0⟩ = none ∧ relocStore ⟨13, .data, 0, some y, -40⟩ = some (.abs64, -8) ∧ relocStore ⟨12, .data, 0, some y, -40⟩ = none := by decide +kernel

/-- Tiles on which a task may run: one of no bound context, one of the partition of its context, one of another partition, one that is not mapped; and K words
that find barrier updates of the cycle waiting. -/
theorem witness_StepRunsOn :
    (turning [] 0x100000).runsOn 0 (turning [] 0x100000).tile.ctx = true ∧
    (parted id).runsOn 0 5 = true ∧ ((parted id).updAt 0 fun t => { t with pmap := 0x12 }).runsOn 0 5 = false ∧ bit ((parted id).updAt 0 fun t => { t with pmap := 1 }).tile.pmap 4 = false ∧
    (∀ b ∈ [false, true], (live fun t => { t with barOpen := some b, barDue := [(0x100, .arrive 1, 0)] }).tile.barOpen = some b) ∧
    updatesBar (.barr 3 4 5) = true ∧ updatesBar (.add 3 4 5) = false := by decide +kernel

end Sys2Proof.Tests
end

section
/-! SUPPORT. What reset leaves (01 R14). -/

namespace Sys2Proof.Machine

theorem rd_replicate {α : Type} {n : Nat} [Inhabited α] (x : α) (i : Nat) (h : i < n) : rd (Vector.replicate n x) i = x := by
  simp [rd, h]

/-! ### A tile at session start -/

theorem tileAt_reset (t : TileId) : State.reset.tileAt t = Tile.reset := Vector.getElem_replicate ..

theorem memOk_tileReset : Tile.reset.memOk :=
  ⟨rfl, rfl, rfl, List.forall_mem_nil _, List.forall_mem_nil _⟩

theorem kget_tileReset (r : Reg) : Tile.reset.kget r = 0 := by
  unfold Tile.kget
  split
  · rfl
  · exact rd_replicate 0 r.toNat r.isLt

theorem areg_tileReset (q : Sequencer) (r : Reg) : Tile.reset.areg q r = 0 := by
  cases q <;> exact rd_replicate 0 r.toNat r.isLt

theorem smGet_tileReset (n : BitVec 8) : Tile.reset.smGet n = 0 := by
  unfold Tile.smGet
  split
  · rfl
  · exact rd_replicate 0 n.toNat n.isLt

theorem rbyte_tileReset (a : Nat) : Tile.reset.rbyte a = 0 := by
  unfold Tile.rbyte
  split <;> rfl

/-- Of the scalar predicates only lp0 and sp0 are true at the start. -/
theorem preds_start (pc : Word) (p : Nat) (h : p ≠ 0) : (LSState.start pc).preds.getLsbD p = false := by
  simp [LSState.start, h]

theorem pget_start_zero (pc : Word) : (CState.start pc).pget 0 = BitVec.allOnes 128 := rfl

theorem pget_start (pc : Word) (p : Nat) (h0 : 0 < p) (h8 : p < 8) : (CState.start pc).pget p = 0 := by
  have hp : p ≠ 0 := by omega
  simp [CState.pget, CState.start, rd, Nat.mod_eq_of_lt h8, hp, h8, Vector.getElem_set_ne, Ne.symm hp]

theorem cmds_tileReset (q : Queue) : Tile.reset.cmds q = [] := by
  cases q <;> rfl

/-- No pair of sequencers has a token between them; a pair of one sequencer has no queue. -/
theorem tokQ_tileReset (a b : Sequencer) : (Tile.reset.tokQ a b).items = [] := by
  cases a <;> cases b <;> rfl

/-! ### The device at session start -/

theorem memOk_stateReset : State.reset.memOk :=
  ⟨rfl, rfl, List.forall_mem_nil _, fun t => (tileAt_reset t).symm ▸ memOk_tileReset, List.forall_mem_nil _⟩

theorem dies_reset (d : DieId) : State.reset.dev.dies[d] = Die.reset := Vector.getElem_replicate ..

/-- Settles O60, field by field of the reset state. -/
theorem resetState : Obligations.ResetState := by
  unfold Obligations.ResetState
  refine ⟨memOk_stateReset, rfl, fun _ => rfl, rfl, rfl, rfl, rfl, rfl, rfl, rfl, rfl, rfl, rfl, rfl,
    fun q h => rd_replicate _ q h, fun d => ?dies, fun t => ?tiles⟩
  case dies =>
    rw [dies_reset]
    exact ⟨rfl, rfl, rfl, rfl⟩
  case tiles =>
    rw [tileAt_reset]
    exact ⟨rfl, fun r => ⟨kget_tileReset r, areg_tileReset .l r, areg_tileReset .s r⟩, fun i h => rd_replicate 0 i h, smGet_tileReset,
      fun g h => rd_replicate _ g h, fun a => ⟨rbyte_tileReset a, rfl, rfl⟩, rfl, rfl,
      fun p h => ⟨preds_start 0 p h, preds_start 0 p h⟩, pget_start_zero 0, fun p h0 h8 => pget_start 0 p h0 h8, rfl, rfl, rfl, rfl, rfl,
      cmds_tileReset, fun a b _ => tokQ_tileReset a b⟩

end Sys2Proof.Machine
end

section
/-! SUPPORT. Reset and bring-up, clock and temperature, and Badger's answers (01 R18, 19 R377, 24 R422 to R428). -/

namespace Sys2Proof.Machine

/-! ### Vectors by number and dies -/

theorem all_toList_iff {α : Type} {n : Nat} (v : Vector α n) (f : α → Bool) :
    v.toList.all f = true ↔ ∀ i : Fin n, f v[i] = true := by
  simp [Fin.forall_iff]

theorem rd_eq_getElem {α : Type} {n : Nat} [Inhabited α] (v : Vector α n) (i : Fin n) : rd v i = v[i] := by
  simp [rd]

/-- What holds of every element by number holds of the list. -/
theorem all_toList_of_rd {α : Type} {n : Nat} [Inhabited α] {v : Vector α n} {f : α → Bool} (h : ∀ i, i < n → f (rd v i) = true) :
    v.toList.all f = true :=
  (all_toList_iff v f).2 fun i => rd_eq_getElem v i ▸ h i i.isLt

theorem any_toList_wr {α : Type} {n : Nat} {v : Vector α n} {f : α → Bool} {i : Nat} {x : α} (hi : i < n) (hx : f x = true) :
    (wr v i x).toList.any f = true :=
  have mem : x ∈ wr v i x := Vector.mem_iff_getElem.2 ⟨i, hi, by simp [wr]⟩
  List.any_eq_true.2 ⟨x, Vector.mem_toList_iff.2 mem, hx⟩

theorem die_updDie (s : State) (d e : DieId) (f : Die → Die) :
    (s.updDie d f).dev.dies[e] = if d = e then f s.dev.dies[d] else s.dev.dies[e] := by
  by_cases h : d = e
  · subst h; simp [State.updDie]
  · have : d.val ≠ e.val := fun hv => h (Fin.ext hv)
    simp [State.updDie, Vector.getElem_set_ne, h, this]

/-! ### An entry logged, and the management plane changed -/

@[simp] theorem dev_updMgmt (s : State) (f : Mgmt → Mgmt) : (s.updMgmt f).dev = { s.dev with mgmt := f s.dev.mgmt } := rfl

@[simp] theorem tiles_logOn (s : State) (d : DieId) (e : LogEntry) : (s.logOn d e).dev.tiles = s.dev.tiles := rfl
@[simp] theorem launches_logOn (s : State) (d : DieId) (e : LogEntry) : (s.logOn d e).dev.launches = s.dev.launches := rfl
@[simp] theorem devid_logOn (s : State) (d : DieId) (e : LogEntry) : (s.logOn d e).dev.devid = s.dev.devid := rfl
@[simp] theorem answers_logOn (s : State) (d : DieId) (e : LogEntry) : (s.logOn d e).dev.mgmt.answers = s.dev.mgmt.answers := rfl
@[simp] theorem state_logOn (s : State) (d : DieId) (e : LogEntry) : (s.logOn d e).dev.mgmt.state = s.dev.mgmt.state := rfl

theorem die_logOn (s : State) (d x : DieId) (e : LogEntry) :
    (s.logOn d e).dev.dies[x] = if d = x then { s.dev.dies[d] with log := logWrite (s.dev.dies[d]).log e } else s.dev.dies[x] :=
  die_updDie s d x fun y => { y with log := logWrite y.log e }

@[simp] theorem rows_logOn (s : State) (d x : DieId) (e : LogEntry) : ((s.logOn d e).dev.dies[x]).rows = (s.dev.dies[x]).rows := by
  rw [die_logOn]; split <;> simp_all

@[simp] theorem nextRows_logOn (s : State) (d x : DieId) (e : LogEntry) : ((s.logOn d e).dev.dies[x]).nextRows = (s.dev.dies[x]).nextRows := by
  rw [die_logOn]; split <;> simp_all

theorem log_logOn (s : State) (d x : DieId) (e : LogEntry) :
    ((s.logOn d e).dev.dies[x]).log = if d = x then logWrite (s.dev.dies[x]).log e else (s.dev.dies[x]).log := by
  rw [die_logOn]; split <;> simp_all

/-- An entry logged only adds to what Badger has sent to the bus owner. -/
theorem events_prefix_logOn (s : State) (d : DieId) (e : LogEntry) : s.dev.mgmt.events <+: (s.logOn d e).dev.mgmt.events :=
  List.prefix_append ..

/-! ### Resets (01 R18, 24 R423, R424) -/

/-- Nothing of task, launch, context or session lifetime is left. -/
def State.Fresh (z : State) : Prop :=
  z.dev.tiles = Device.reset.tiles ∧ z.dev.queues = Device.reset.queues ∧ z.dev.launches = [] ∧ z.dev.saves = [] ∧
  z.dev.net = [] ∧ z.dev.bound = [] ∧ z.dev.acct = [] ∧ z.dev.combs = [] ∧ z.dev.walks = [] ∧ z.dev.sxen = false ∧
  ∀ d, (z.dev.dies[(d : DieId)]).warren = [] ∧ (z.dev.dies[(d : DieId)]).lists = [] ∧ (z.dev.dies[(d : DieId)]).stray = []

theorem fresh_endSession (s : State) : s.endSession.Fresh :=
  ⟨rfl, rfl, rfl, rfl, rfl, rfl, rfl, rfl, rfl, rfl, fun d => by simp [State.endSession, Die.reset]⟩

theorem State.Fresh.updMgmt {z : State} (h : z.Fresh) (f : Mgmt → Mgmt) : (z.updMgmt f).Fresh := h

theorem State.Fresh.clearLogs {z : State} (h : z.Fresh) : z.clearLogs.Fresh := by
  obtain ⟨tiles, queues, launches, saves, net, bound, acct, combs, walks, sxen, dies⟩ := h
  exact ⟨tiles, queues, launches, saves, net, bound, acct, combs, walks, sxen, fun d => by simpa [State.clearLogs] using dies d⟩

theorem log_endSession (s : State) (d : DieId) : (s.endSession.dev.dies[d]).log = (s.dev.dies[d]).log := by
  simp [State.endSession]

theorem log_clearLogs (s : State) (d : DieId) : (s.clearLogs.dev.dies[d]).log = [] := by simp [State.clearLogs]

theorem fresh_holdReset (s : State) (cold : Bool) : (s.holdReset cold).Fresh := (fresh_endSession s).updMgmt _

/-- A cold reset ends the session and begins bring-up at FUSES, with empty logs. -/
theorem exec_coldReset (s : State) :
    ∃ z, exec .coldReset s = .next z ∧ z.Fresh ∧ z.dev.mgmt.state = 1 ∧ z.dev.mgmt.cold = true ∧ z.dev.mgmt.ready = false ∧
      (∀ d : DieId, (z.dev.dies[d]).log = []) ∧ z.dev.mgmt.resets = (if s.dev.mgmt.powered then s.dev.mgmt.resets + 1 else 0) :=
  ⟨_, rfl, (((fresh_endSession s).updMgmt _).clearLogs).updMgmt _, rfl, rfl, rfl, log_clearLogs _, rfl⟩

/-- Without power, or while COLD_RST_N is low, WARM_RST_N does nothing. -/
theorem warmReset_ignored {s : State} (h : s.dev.mgmt.powered = false ∨ s.dev.mgmt.coldLow = true) :
    exec .warmReset s = .next s ∧ s.takeTurn (.outside .warmLow) = .next s := by
  have ignored : (!s.dev.mgmt.powered || s.dev.mgmt.coldLow) = true := by simpa using h
  exact ⟨if_pos ignored, congrArg _ (if_pos ignored)⟩

theorem warmReset_heeded {s : State} (hp : s.dev.mgmt.powered = true) (hc : s.dev.mgmt.coldLow = false) :
    exec .warmReset s = .next (s.endSession.countReset.beginUp s.dev.mgmt.coldRunning) := if_neg (by simp [hp, hc])

theorem coldRunning_iff (m : Mgmt) : m.coldRunning = true ↔ m.cold = true ∧ m.state ≤ 5 := by simp [Mgmt.coldRunning]

/-- A warm reset ends the session, keeps HBM, the logs and the clock, and begins bring-up at FIRMWARE, or at FUSES again where a cold bring-up ran. -/
theorem exec_warmReset {s : State} (hp : s.dev.mgmt.powered = true) (hc : s.dev.mgmt.coldLow = false) :
    ∃ z, exec .warmReset s = .next z ∧ z.Fresh ∧ z.dev.hbm = s.dev.hbm ∧ (∀ d : DieId, (z.dev.dies[d]).log = (s.dev.dies[d]).log) ∧
      z.dev.mgmt.state = (if s.dev.mgmt.cold = true ∧ s.dev.mgmt.state ≤ 5 then 1 else 2) ∧ z.dev.mgmt.resets = s.dev.mgmt.resets + 1 ∧
      z.dev.mgmt.mhz = s.dev.mgmt.mhz ∧ z.dev.mgmt.ready = false :=
  ⟨_, warmReset_heeded hp hc, ((fresh_endSession s).updMgmt _).updMgmt _, rfl, log_endSession s, if_congr (coldRunning_iff _) rfl rfl,
    if_pos hp, rfl, rfl⟩

theorem takeTurn_warmLow {s : State} (hp : s.dev.mgmt.powered = true) (hc : s.dev.mgmt.coldLow = false) :
    ∃ z, s.takeTurn (.outside .warmLow) = .next z ∧ z.Fresh ∧ z.dev.mgmt.state = 0 :=
  ⟨s.holdReset false, congrArg _ (if_neg (by simp [hp, hc])), fresh_holdReset s false, rfl⟩

/-- Power removal loses every state but the fuses. -/
theorem exec_powerRemoval (s : State) :
    ∃ z, exec .powerRemoval s = .next z ∧ z.Fresh ∧ z.dev.hbm = [] ∧ z.dev.mgmt.powered = false ∧ z.dev.images = [] ∧
      ∀ d, (z.dev.dies[(d : DieId)]).rows = (s.dev.dies[(d : DieId)]).rows ∧ (z.dev.dies[(d : DieId)]).log = [] :=
  ⟨_, rfl, ⟨rfl, rfl, rfl, rfl, rfl, rfl, rfl, rfl, rfl, rfl, fun d => by simp [State.updDev, Die.reset]⟩, rfl, rfl, rfl,
    fun d => by simp [State.updDev, Die.reset]⟩

/-! ### Bring-up (24 R423) -/

/-- The present state of bring-up ends; tiles and launches stay as they are, and the state it leaves is as p says. -/
def State.Rises (s : State) (p : State → Prop) : Prop :=
  ∃ z, s.takeTurn (.outside .bringUp) = .next z ∧ z.dev.tiles = s.dev.tiles ∧ z.dev.launches = s.dev.launches ∧ p z

theorem State.Rises.of_bringUp {s z : State} {p : State → Prop} (h : s.bringUp = z) (ht : z.dev.tiles = s.dev.tiles)
    (hl : z.dev.launches = s.dev.launches) (hp : p z) : s.Rises p :=
  ⟨z, congrArg _ h, ht, hl, hp⟩

/-- Bring-up has failed with a reason. -/
def State.FailedUp (z : State) (r : Nat) : Prop := z.dev.mgmt.state = 15 ∧ z.dev.mgmt.reason = r ∧ z.dev.mgmt.ready = false

theorem rises_failUp {s z : State} {r : Nat} (h : s.bringUp = z.failUp r) (ht : z.dev.tiles = s.dev.tiles)
    (hl : z.dev.launches = s.dev.launches) : s.Rises fun z => z.FailedUp r :=
  .of_bringUp h ht hl ⟨rfl, rfl, rfl⟩

section
variable {s : State}

theorem bringUp_fuses (h : s.dev.mgmt.state = 1) : s.bringUp = s.upFuses := by simp only [State.bringUp, h]
theorem bringUp_firmware (h : s.dev.mgmt.state = 2) : s.bringUp = s.upFirmware := by simp only [State.bringUp, h]
theorem bringUp_clocks (h : s.dev.mgmt.state = 3) : s.bringUp = s.upClocks := by simp only [State.bringUp, h]
theorem bringUp_memory (h : s.dev.mgmt.state = 4) : s.bringUp = s.upMemory := by simp only [State.bringUp, h]
theorem bringUp_links (h : s.dev.mgmt.state = 5) : s.bringUp = s.upLinks := by simp only [State.bringUp, h]

theorem bringUp_idle (h : s.dev.mgmt.state = 0 ∨ 6 ≤ s.dev.mgmt.state) : s.bringUp = s := by
  unfold State.bringUp
  split <;> [omega; omega; omega; omega; omega; rfl]

end

/-! #### FUSES -/

theorem die_applyRepair (s : State) (d e : DieId) :
    ((s.applyRepair d).dev.dies[e]).nextRows = (s.dev.dies[e]).nextRows ∧
    ((s.applyRepair d).dev.dies[e]).rows = if d = e then (s.dev.dies[e]).nextRows else (s.dev.dies[e]).rows := by
  unfold State.applyRepair
  split
  · next same =>
    refine ⟨rfl, ?_⟩
    split
    · next h => exact h ▸ same
    · rfl
  · rw [rows_logOn, nextRows_logOn, die_updDie]
    split <;> simp_all

@[simp] theorem tiles_applyRepair (s : State) (d : DieId) : (s.applyRepair d).dev.tiles = s.dev.tiles := by
  unfold State.applyRepair; split <;> rfl

@[simp] theorem launches_applyRepair (s : State) (d : DieId) : (s.applyRepair d).dev.launches = s.dev.launches := by
  unfold State.applyRepair; split <;> rfl

/-- The repair maps of all dies applied. -/
def State.repaired (s : State) : State := ((s.applyRepair 0).applyRepair 1).applyRepair 2

theorem rows_repaired (s : State) (d : DieId) : (s.repaired.dev.dies[d]).rows = (s.dev.dies[d]).nextRows := by
  simp only [State.repaired, die_applyRepair]
  match d with
  | 0 => rfl
  | 1 => rfl
  | 2 => rfl

section
variable {s : State}

theorem upFuses_lost (h : ∃ u ∈ s.dev.lost, u.code = 16) : s.upFuses = s.failUp 1 :=
  if_pos (by simpa using h)

theorem upFuses_kept (h : ∀ u ∈ s.dev.lost, u.code ≠ 16) :
    s.upFuses = if !s.dev.dies.toList.all fun x => rowsOk x.nextRows then s.failUp 3 else s.repaired.upTo 2 :=
  if_neg (by simpa using h)

theorem upFuses_badRows (h : ∀ u ∈ s.dev.lost, u.code ≠ 16) (hr : ∃ d : DieId, rowsOk (s.dev.dies[d]).nextRows = false) :
    s.upFuses = s.failUp 3 := by
  have bad : ¬ (s.dev.dies.toList.all fun x => rowsOk x.nextRows) = true := by
    rw [all_toList_iff]
    obtain ⟨d, hd⟩ := hr
    exact fun hall => Bool.false_ne_true (hd.symm.trans (hall d))
  rw [upFuses_kept h, if_pos (by simpa using bad)]

theorem upFuses_repaired (h : ∀ u ∈ s.dev.lost, u.code ≠ 16) (hr : ∀ d : DieId, rowsOk (s.dev.dies[d]).nextRows = true) :
    s.upFuses = s.repaired.upTo 2 := by
  rw [upFuses_kept h, (all_toList_iff s.dev.dies fun x => rowsOk x.nextRows).2 hr]
  rfl

theorem rises_fuses (h : s.dev.mgmt.state = 1) :
    ((∃ u ∈ s.dev.lost, u.code = 16) → s.Rises fun z => z.FailedUp 1) ∧
    ((∀ u ∈ s.dev.lost, u.code ≠ 16) → (∃ d : DieId, rowsOk (s.dev.dies[d]).nextRows = false) → s.Rises fun z => z.FailedUp 3) ∧
    ((∀ u ∈ s.dev.lost, u.code ≠ 16) → (∀ d : DieId, rowsOk (s.dev.dies[d]).nextRows = true) →
      s.Rises fun z => z.dev.mgmt.state = 2 ∧ ∀ d : DieId, (z.dev.dies[d]).rows = (s.dev.dies[d]).nextRows) := by
  refine ⟨fun hl => ?_, fun hl hr => ?_, fun hl hr => ?_⟩
  · exact rises_failUp ((bringUp_fuses h).trans (upFuses_lost hl)) rfl rfl
  · exact rises_failUp ((bringUp_fuses h).trans (upFuses_badRows hl hr)) rfl rfl
  · exact .of_bringUp ((bringUp_fuses h).trans (upFuses_repaired hl hr)) (by simp [State.upTo, State.repaired])
      (by simp [State.upTo, State.repaired]) ⟨rfl, rows_repaired s⟩

/-! #### FIRMWARE -/

/-- The image that an update left has become the active one. -/
def State.flashed (s : State) : State := s.updMgmt fun m => { m with flashActive := m.flashNext.getD m.flashActive, flashNext := none }

theorem upFirmware_eq (s : State) :
    s.upFirmware = if Config.verifies (s.dev.mgmt.flashNext.getD s.dev.mgmt.flashActive) then
      (s.flashed.updMgmt fun m => { m with measured := sha384 m.flashActive }).upTo 3 else s.flashed.failUp 2 := rfl

theorem rises_firmware (h : s.dev.mgmt.state = 2) :
    let image := s.dev.mgmt.flashNext.getD s.dev.mgmt.flashActive
    (Config.verifies image = true → s.Rises fun z => z.dev.mgmt.state = 3 ∧ z.dev.mgmt.flashActive = image ∧ z.dev.mgmt.measured = sha384 image) ∧
    (Config.verifies image = false → s.Rises fun z => z.FailedUp 2) := by
  have up := (bringUp_firmware h).trans (upFirmware_eq s)
  refine ⟨fun hv => ?_, fun hv => ?_⟩
  · refine .of_bringUp (up.trans (if_pos hv)) ?_ ?_ ?_ <;> simp [State.upTo, State.flashed]
  · exact rises_failUp (up.trans (if_neg (Bool.eq_false_iff.1 hv))) rfl rfl

/-! #### CLOCKS -/

theorem rises_clocks (h : s.dev.mgmt.state = 3) :
    s.Rises fun z => z.dev.mgmt.state = 4 ∧ (s.dev.mgmt.cold = false → z.dev.mgmt.mhz = s.dev.mgmt.mhz ∧ z.dev.mgmt.cap = s.dev.mgmt.cap) ∧
      (s.dev.mgmt.cold = true → z.dev.mgmt.cap = 2800) := by
  refine .of_bringUp (bringUp_clocks h) ?_ ?_ ⟨rfl, ?_, ?_⟩ <;> cases hc : s.dev.mgmt.cold <;> simp [State.upClocks, State.upTo, hc]

/-! #### MEMORY -/

theorem rises_memory (h : s.dev.mgmt.state = 4) :
    (Config.hbmTrains s.dev.mgmt.resets = false → s.Rises fun z => z.FailedUp 4) ∧
    (Config.hbmTrains s.dev.mgmt.resets = true → s.Rises fun z => z.dev.mgmt.state = 5 ∧
      (s.dev.mgmt.cold = true → z.dev.hbm = [] ∧ z.dev.lost = []) ∧
      (s.dev.mgmt.cold = false → z.dev.hbm = s.dev.hbm ∧ z.dev.lost = s.dev.lost)) := by
  refine ⟨fun ht => ?_, fun ht => ?_⟩
  · exact rises_failUp ((bringUp_memory h).trans (if_pos (by simp [ht]))) rfl rfl
  · refine .of_bringUp ((bringUp_memory h).trans (if_neg (by simp [ht]))) ?_ ?_ ⟨rfl, ?_, ?_⟩ <;>
      cases hc : s.dev.mgmt.cold <;> simp [State.upTo]

end

/-! #### LINKS -/

/-- The device number is read and the Hentia links have been trained. -/
def State.hentiaTrained (s : State) : State :=
  s.readNumber.updDev fun d => { d with hentia := Vector.ofFn fun i => s.readNumber.trains (.hentia i) }

theorem upLinks_eq (s : State) :
    s.upLinks = if s.hentiaTrained.dev.hentia.toList.all fun l => l.up then s.hentiaTrained.trainPorts.upReady else s.hentiaTrained.failUp 5 := rfl

theorem hentiaTrained_up_iff (s : State) :
    (s.hentiaTrained.dev.hentia.toList.all fun l => l.up) = true ↔ ∀ i : Fin 2, Config.linkTrains (.hentia i) s.dev.mgmt.resets = true := by
  rw [all_toList_iff]
  simp [State.hentiaTrained, State.trains, State.readNumber]

/-- Training the fabric ports leaves tiles, launches and the device number. -/
theorem trainPorts_frame (s : State) :
    s.trainPorts.dev.tiles = s.dev.tiles ∧ s.trainPorts.dev.launches = s.dev.launches ∧ s.trainPorts.devNum = s.devNum := by
  unfold State.trainPorts
  split <;> simp [State.logLink, State.devNum]

theorem devNum_hentiaTrained (s : State) :
    s.hentiaTrained.devNum = if s.dev.mgmt.siteAnswers then s.dev.mgmt.site else s.dev.mgmt.strap :=
  (extract_append_low _ _ 0 (by decide)).trans BitVec.extractLsb'_eq_self

theorem rises_links {s : State} (h : s.dev.mgmt.state = 5) :
    ((∀ i : Fin 2, Config.linkTrains (.hentia i) s.dev.mgmt.resets = true) →
      s.Rises fun z => z.dev.mgmt.state = 6 ∧ z.dev.mgmt.reason = 0 ∧ z.dev.mgmt.ready = true ∧
        z.devNum = if s.dev.mgmt.siteAnswers then s.dev.mgmt.site else s.dev.mgmt.strap) ∧
    ((∃ i : Fin 2, Config.linkTrains (.hentia i) s.dev.mgmt.resets = false) → s.Rises fun z => z.FailedUp 5) := by
  have up := (bringUp_links h).trans (upLinks_eq s)
  refine ⟨fun ht => ?_, fun ⟨i, hi⟩ => ?_⟩
  · obtain ⟨tiles, launches, number⟩ := trainPorts_frame s.hentiaTrained
    exact .of_bringUp (up.trans (if_pos ((hentiaTrained_up_iff s).2 ht))) tiles launches
      ⟨rfl, rfl, rfl, number.trans (devNum_hentiaTrained s)⟩
  · have down : ¬ (s.hentiaTrained.dev.hentia.toList.all fun l => l.up) = true := by
      rw [hentiaTrained_up_iff]
      exact fun hall => Bool.false_ne_true (hi.symm.trans (hall i))
    exact rises_failUp (up.trans (if_neg down)) rfl rfl

/-! ### Clock and temperature (24 R425) -/

theorem mhzOk_iff (m : Mgmt) (clk mhz : Nat) : m.mhzOk clk mhz = true ↔ 600 ≤ mhz ∧ mhz % 100 = 0 ∧ mhz ≤ m.maxMhz clk := by
  simp [Mgmt.mhzOk, and_assoc]

theorem exec_clockChange {s : State} (hr : s.isReady = true) (mhz : Nat) :
    (600 ≤ mhz → mhz % 100 = 0 → mhz ≤ s.dev.mgmt.maxMhz s.dev.clk →
      ∃ z, exec (.clockChange mhz) s = .next z ∧ z.dev.mgmt.mhz = mhz ∧ z.dev.tiles = s.dev.tiles) ∧
    (mhz < 600 ∨ mhz % 100 ≠ 0 ∨ s.dev.mgmt.maxMhz s.dev.clk < mhz → exec (.clockChange mhz) s = .next s) := by
  have changes : exec (.clockChange mhz) s = .next (if s.dev.mgmt.mhzOk s.dev.clk mhz then s.setMhz mhz else s) := by
    show Host.Outcome.next (if s.isReady && _ then _ else _) = _
    rw [hr, Bool.true_and]
  refine ⟨fun h6 h1 hm => ⟨s.setMhz mhz, ?_, rfl, rfl⟩, fun h => ?_⟩
  · rw [changes, if_pos ((mhzOk_iff ..).2 ⟨h6, h1, hm⟩)]
  · rw [changes, if_neg fun ok => ?_]
    have := (mhzOk_iff ..).1 ok
    omega

/-- The greatest frequency is a step of 100 MHz from 600 to 1,800 MHz within the thermal, fused and power limits. -/
theorem maxMhz_limits (m : Mgmt) (clk : Nat) :
    m.maxMhz clk % 100 = 0 ∧ 600 ≤ m.maxMhz clk ∧ m.maxMhz clk ≤ 1800 ∧ (m.throttled = true → m.maxMhz clk = 600) ∧
      m.maxMhz clk ≤ max 600 m.fusedMax ∧ m.maxMhz clk ≤ max 600 (Config.capMhz m.cap clk) := by
  unfold Mgmt.maxMhz
  split
  · omega
  · next h => refine ⟨?_, ?_, ?_, fun ht => absurd ht h, ?_, ?_⟩ <;> omega

/-- What a sensor's reading leaves in the management plane. -/
theorem mgmt_readTemp (s : State) (sensor deg : Nat) :
    let temps := wr s.dev.mgmt.temps sensor deg
    let hot := temps.toList.any fun t => decide (105 ≤ t)
    (s.readTemp sensor deg).dev.mgmt = { s.dev.mgmt with
      temps := temps, throttled := hot || (s.dev.mgmt.throttled && !temps.toList.all fun t => decide (t < 100))
      thermtrip := s.dev.mgmt.thermtrip || temps.toList.any (fun t => decide (115 ≤ t)), mhz := if hot then 600 else s.dev.mgmt.mhz } := by
  intro temps hot
  simp only [State.readTemp]
  split <;> simp_all [State.setMhz, temps, hot]

@[simp] theorem tiles_readTemp (s : State) (sensor deg : Nat) : (s.readTemp sensor deg).dev.tiles = s.dev.tiles := by
  simp only [State.readTemp]
  split <;> rfl

theorem readTemp_hot (s : State) {sensor deg : Nat} (hs : sensor < 15) (hd : 105 ≤ deg) :
    (s.readTemp sensor deg).dev.mgmt.mhz = 600 ∧ (s.readTemp sensor deg).dev.mgmt.throttled = true := by
  have hot := any_toList_wr (v := s.dev.mgmt.temps) (f := fun t => decide (105 ≤ t)) hs (decide_eq_true hd)
  simp [mgmt_readTemp, hot]

/-- Throttling ends when every sensor reads below 100 °C. -/
theorem readTemp_cool (s : State) (sensor deg : Nat) (h : ∀ i, i < 15 → rd (s.readTemp sensor deg).dev.mgmt.temps i < 100) :
    (s.readTemp sensor deg).dev.mgmt.throttled = false := by
  simp only [mgmt_readTemp] at h ⊢
  have cool : (wr s.dev.mgmt.temps sensor deg).toList.all (fun t => decide (t < 100)) = true :=
    all_toList_of_rd fun i hi => decide_eq_true (h i hi)
  have hot : (wr s.dev.mgmt.temps sensor deg).toList.any (fun t => decide (105 ≤ t)) = false := by
    simp only [List.all_eq_true, List.any_eq_false, decide_eq_true_eq] at cool ⊢
    exact fun t ht => by have := cool t ht; omega
  simp [cool, hot]

theorem readTemp_trips (s : State) {sensor deg : Nat} (hs : sensor < 15) (hd : 115 ≤ deg) :
    (s.readTemp sensor deg).dev.mgmt.thermtrip = true := by
  have trip := any_toList_wr (v := s.dev.mgmt.temps) (f := fun t => decide (115 ≤ t)) hs (decide_eq_true hd)
  simp [mgmt_readTemp, trip]

theorem exec_thermalThrottle {s : State} {sensor : Nat} (deg : Nat) (hp : s.dev.mgmt.powered = true) (hs : sensor < 15) :
    ∃ z, exec (.thermalThrottle sensor deg) s = .next z ∧ rd z.dev.mgmt.temps sensor = deg ∧ z.dev.tiles = s.dev.tiles ∧
      (105 ≤ deg → z.dev.mgmt.mhz = 600 ∧ z.dev.mgmt.throttled = true) ∧
      ((∀ i, i < 15 → rd z.dev.mgmt.temps i < 100) → z.dev.mgmt.throttled = false) ∧
      (115 ≤ deg → z.dev.mgmt.thermtrip = true ∧ exec (.thermtrip sensor deg) s = .next z) := by
  refine ⟨s.readTemp sensor deg, congrArg _ (if_pos hp), ?_, tiles_readTemp .., readTemp_hot s hs, readTemp_cool s sensor deg,
    fun hd => ⟨readTemp_trips s hs hd, congrArg _ (if_pos (by simp [hp, hd]))⟩⟩
  simp [mgmt_readTemp, hs]

theorem exec_thermtrip_below (s : State) (sensor : Nat) {deg : Nat} (h : deg < 115) : exec (.thermtrip sensor deg) s = .next s :=
  congrArg _ (if_neg (by simp [h]))

end Sys2Proof.Machine
end

section
/-! SUPPORT. Badger's answers and the launch chains (24 R425 to R428). -/

namespace Sys2Proof.Machine

/-! ### One request, one answer (24 R426) -/

/-- Badger has sent one answer more. -/
def State.answered (s : State) (a : Answer) : State := s.updMgmt fun m => { m with answers := m.answers ++ [a] }

section
variable {s : State} (on : s.dev.mgmt.state ≠ 0) (r : MgmtReq)
include on

/-- In every state of the device but reset, the answer is sent. -/
theorem answer_of_on (a : Answer) : s.answer a = s.answered a := if_neg on

theorem next_answer (a : Answer) : (.next (s.answer a) : EOut) = .next (s.answered a) := congrArg _ (answer_of_on on a)

theorem exec_answeredOpen :
    ∀ i ∈ [Instr.mctpControl r, .gettid r, .getpldmversion r, .getpdr r, .getCapabilities r],
      exec i s = .next (s.answered (.ok (Config.mgmtPayload r))) := by
  intro i hi
  simp only [List.mem_cons, List.not_mem_nil, or_false] at hi
  obtain rfl | rfl | rfl | rfl | rfl := hi <;> exact next_answer on _

theorem exec_getpldmtypes : exec (.getpldmtypes r) s = .next (s.answered (.ok (leBytes 8 (2 ^ 0 + 2 ^ 2 + 2 ^ 5)))) := next_answer on _

theorem exec_getpldmcommands_control (h : r.data.headD 0 = 0) :
    exec (.getpldmcommands r) s = .next (s.answered (.ok (leBytes 32 (2 ^ 2 + 2 ^ 3 + 2 ^ 4 + 2 ^ 5)))) := by
  show execGetpldmcommands r s = _
  rw [execGetpldmcommands, h]
  exact next_answer on _

theorem exec_getpldmcommands_platform (h : r.data.headD 0 = 2) :
    exec (.getpldmcommands r) s = .next (s.answered (.ok (leBytes 32 (2 ^ 0x0A + 2 ^ 0x11 + 2 ^ 0x31 + 2 ^ 0x32 + 2 ^ 0x51)))) := by
  show execGetpldmcommands r s = _
  rw [execGetpldmcommands, h]
  exact next_answer on _

theorem exec_getpldmcommands_other (h0 : r.data.headD 0 ≠ 0) (h2 : r.data.headD 0 ≠ 2) :
    exec (.getpldmcommands r) s = .next (s.answered (.ok (Config.mgmtPayload r))) := by
  show execGetpldmcommands r s = _
  unfold execGetpldmcommands
  split
  · next h => exact absurd (BitVec.eq_of_toNat_eq h) h0
  · next h => exact absurd (BitVec.eq_of_toNat_eq h) h2
  · exact next_answer on _

/-! ### Telemetry -/

theorem exec_getsensorreading {v : Nat} (h : s.sensor (reqPoint r) = some v) :
    exec (.getsensorreading r) s = .next (s.answered (.ok (leBytes 4 v))) := by
  show execGetsensorreading r s = _
  rw [execGetsensorreading, h]
  exact next_answer on _

end

theorem sensor_temp (s : State) {id : Nat} (h2 : 2 ≤ id) (h16 : id ≤ 16) : s.sensor id = some (rd s.dev.mgmt.temps (id - 2)) := by
  have h1 : id ≠ 1 := by omega
  simp [State.sensor, h1, h2, h16]

theorem sensor_devstat (s : State) : s.sensor 18 = some (s.dev.mgmt.state % 16 + s.dev.mgmt.reason % 256 * 2 ^ 8) := by
  simp only [State.sensor, State.devstat, BitVec.toNat_ofNat]
  norm_num
  omega

/-! ### The power cap (24 R425, R426) -/

/-- The greatest frequency under a power cap. -/
def State.mostUnder (s : State) (w : Nat) : Nat := ({ s.dev.mgmt with cap := w } : Mgmt).maxMhz s.dev.clk

theorem setCap_kept {s : State} {w : Nat} (h : s.isReady = false ∨ s.dev.mgmt.mhz ≤ s.mostUnder w) :
    s.setCap w = s.updMgmt fun m => { m with cap := w } := by
  refine if_neg fun hc => ?_
  obtain ⟨ready, lower⟩ := Bool.and_eq_true_iff.1 hc
  cases h with
  | inl off => exact Bool.false_ne_true (off.symm.trans ready)
  | inr le => exact absurd (of_decide_eq_true lower) (Nat.not_lt.2 le)

theorem setCap_lowered {s : State} {w : Nat} (hr : s.isReady = true) (h : s.mostUnder w < s.dev.mgmt.mhz) :
    s.setCap w = (s.updMgmt fun m => { m with cap := w }).setMhz (s.mostUnder w) :=
  if_pos (Bool.and_eq_true_iff.2 ⟨hr, decide_eq_true h⟩)

theorem state_setCap (s : State) (w : Nat) : (s.setCap w).dev.mgmt.state = s.dev.mgmt.state := by
  simp only [State.setCap]
  split <;> rfl

section
variable {s : State} (on : s.dev.mgmt.state ≠ 0) (r : MgmtReq)
include on

theorem exec_powerCapSet (h : 1200 ≤ reqValue r ∧ reqValue r ≤ 2800) :
    exec (.powerCapSet r) s = .next ((s.setCap (reqValue r)).answered (.ok [])) := by
  show execPowerCapSet r s = _
  rw [execPowerCapSet, if_neg on, if_pos h]
  exact next_answer (by rwa [state_setCap]) _

theorem exec_powerCapSet_outOfRange (h : reqValue r < 1200 ∨ 2800 < reqValue r) :
    exec (.powerCapSet r) s = .next (s.answered .outOfRange) := by
  show execPowerCapSet r s = _
  rw [execPowerCapSet, if_neg on, if_neg (by omega)]
  exact next_answer on _

/-- A cap in range is set; f falls to the greatest frequency it allows where it lies above, and else stays. -/
theorem exec_powerCapSet_inRange (h1 : 1200 ≤ reqValue r) (h2 : reqValue r ≤ 2800) :
    (s.isReady = false ∨ s.dev.mgmt.mhz ≤ s.mostUnder (reqValue r) →
      exec (.powerCapSet r) s = .next ((s.updMgmt fun m => { m with cap := reqValue r }).answered (.ok []))) ∧
    (s.isReady = true → s.mostUnder (reqValue r) < s.dev.mgmt.mhz → ∃ t : State, exec (.powerCapSet r) s = .next (t.answered (.ok [])) ∧
      t.dev.mgmt = { s.dev.mgmt with cap := reqValue r, mhz := s.mostUnder (reqValue r) } ∧ t.dev.tiles = s.dev.tiles) := by
  have set := exec_powerCapSet on r ⟨h1, h2⟩
  refine ⟨fun h => by rw [set, setCap_kept h], fun hr h => ⟨_, set, ?_⟩⟩
  rw [setCap_lowered hr h]
  exact ⟨rfl, rfl⟩

theorem exec_firmwareUpdate :
    exec (.firmwareUpdate r) s = .next ((s.updMgmt fun m => { m with flashNext := some r.data }).answered (.ok [])) := by
  show execFirmwareUpdate r s = _
  rw [execFirmwareUpdate, if_neg on]
  exact next_answer (s := s.updMgmt fun m => { m with flashNext := some r.data }) on _

theorem exec_getCertificate (h : r.data.headD 0 = 0) : exec (.getCertificate r) s = .next (s.answered (.ok Config.certChain)) :=
  (next_answer on _).trans (by rw [if_pos h])

end

/-! ### The logs cleared (24 R426, log 131) -/

/-- Entries logged one after the other. -/
def State.logAll (s : State) (es : List (DieId × LogEntry)) : State := es.foldl (fun s x => s.logOn x.1 x.2) s

theorem logAll_frame (s : State) (es : List (DieId × LogEntry)) :
    (s.logAll es).dev.tiles = s.dev.tiles ∧ (s.logAll es).dev.mgmt.answers = s.dev.mgmt.answers ∧
      (s.logAll es).dev.mgmt.state = s.dev.mgmt.state ∧ s.dev.mgmt.events <+: (s.logAll es).dev.mgmt.events := by
  induction es generalizing s with
  | nil => exact ⟨rfl, rfl, rfl, List.prefix_rfl⟩
  | cons x es ih =>
    obtain ⟨tiles, answers, state, events⟩ := ih (s.logOn x.1 x.2)
    exact ⟨tiles, answers, state, (events_prefix_logOn s x.1 x.2).trans events⟩

/-- A die's log takes in its own entries, in order. -/
theorem log_logAll (s : State) (es : List (DieId × LogEntry)) (d : DieId) :
    ((s.logAll es).dev.dies[d]).log = ((es.filter fun e => e.1 == d).map fun e => e.2).foldl logWrite (s.dev.dies[d]).log := by
  induction es generalizing s with
  | nil => rfl
  | cons x es ih =>
    rw [State.logAll, List.foldl_cons, ← State.logAll, ih, log_logOn]
    by_cases h : x.1 = d <;> simp [h]

/-- The logs emptied, with the events up to a count kept. -/
def State.logsEmptied (s : State) (kept : Nat) : State :=
  s.updDev fun d => { d with
    dies := d.dies.map fun x => { x with log := [] }
    mgmt := { d.mgmt with logAt := d.now, logNow := [], events := d.mgmt.events.take kept, heard := kept } }

theorem log_logsEmptied (s : State) (kept : Nat) (d : DieId) : ((s.logsEmptied kept).dev.dies[d]).log = [] := by
  simp [State.logsEmptied]

theorem clearAllLogs_eq (s : State) :
    s.clearAllLogs = (s.logsEmptied (if s.dev.mgmt.logAt = s.dev.now then s.dev.mgmt.heard else s.dev.mgmt.events.length)).logAll
      (if s.dev.mgmt.logAt = s.dev.now then s.dev.mgmt.logNow else []) := rfl

theorem clearAllLogs_earlier {s : State} (h : s.dev.mgmt.logAt ≠ s.dev.now) :
    s.clearAllLogs = s.logsEmptied s.dev.mgmt.events.length := by
  rw [clearAllLogs_eq, if_neg h, if_neg h]
  rfl

theorem clearAllLogs_now {s : State} (h : s.dev.mgmt.logAt = s.dev.now) :
    s.clearAllLogs = (s.logsEmptied s.dev.mgmt.heard).logAll s.dev.mgmt.logNow := by
  rw [clearAllLogs_eq, if_pos h, if_pos h]

/-- The clear empties every log; entries of its own cycle are logged again. -/
theorem exec_eventLogClear {s : State} (on : s.dev.mgmt.state ≠ 0) (r : MgmtReq) (h : reqValue r = 1) :
    ∃ t, exec (.eventLogClear r) s = .next t ∧ t.dev.mgmt.answers = s.dev.mgmt.answers ++ [.ok []] ∧ t.dev.tiles = s.dev.tiles ∧
      (s.dev.mgmt.logAt ≠ s.dev.now → t.dev.mgmt.events = s.dev.mgmt.events ∧ ∀ d : DieId, (t.dev.dies[d]).log = []) ∧
      (s.dev.mgmt.logAt = s.dev.now → s.dev.mgmt.events.take s.dev.mgmt.heard <+: t.dev.mgmt.events ∧
        ∀ d : DieId, (t.dev.dies[d]).log = ((s.dev.mgmt.logNow.filter fun e => e.1 == d).map fun e => e.2).foldl logWrite []) := by
  obtain ⟨tiles, answers, state, -⟩ := logAll_frame
    (s.logsEmptied (if s.dev.mgmt.logAt = s.dev.now then s.dev.mgmt.heard else s.dev.mgmt.events.length))
    (if s.dev.mgmt.logAt = s.dev.now then s.dev.mgmt.logNow else [])
  rw [← clearAllLogs_eq] at tiles answers state
  refine ⟨s.clearAllLogs.answered (.ok []), ?_, congrArg (· ++ [Answer.ok []]) answers, tiles, fun earlier => ?_, fun now => ?_⟩
  · show execEventLogClear r s = _
    rw [execEventLogClear, if_neg on, if_pos h]
    exact next_answer (state.trans_ne on) _
  · rw [clearAllLogs_earlier earlier]
    exact ⟨List.take_length, log_logsEmptied s s.dev.mgmt.events.length⟩
  · rw [clearAllLogs_now now]
    obtain ⟨-, -, -, events⟩ := logAll_frame (s.logsEmptied s.dev.mgmt.heard) s.dev.mgmt.logNow
    exact ⟨events, fun d => (log_logAll ..).trans (by rw [log_logsEmptied])⟩

/-! ### Measurements and the launch chains (24 R427, R428) -/

theorem block_chain (s : State) {q : Nat} (h : q < 64) :
    s.block (16 + q) = leBytes 48 (rd s.dev.mgmt.chains q).1.toNat ++ leBytes 8 (rd s.dev.mgmt.chains q).2 := by
  have above : ∀ n < 16, 16 + q ≠ n := by omega
  have below : 16 + q < 80 := by omega
  simp [State.block, digestBytes, above, below]

theorem insertFold_eq (f : Word × Nat × Nat) (l : List (Word × Nat × Nat)) :
    insertFold f l = l.orderedInsert (fun a b => a.1 ≤ b.1) f := by
  induction l with
  | nil => rfl
  | cons g l ih => simp only [insertFold, List.orderedInsert_cons, ih]

theorem insertFold_perm (f : Word × Nat × Nat) (l : List (Word × Nat × Nat)) : (insertFold f l).Perm (f :: l) :=
  insertFold_eq f l ▸ List.perm_orderedInsert _ f l

theorem insertFold_pairwise (f : Word × Nat × Nat) {l : List (Word × Nat × Nat)} (h : l.Pairwise fun a b => a.1 ≤ b.1) :
    (insertFold f l).Pairwise fun a b => a.1 ≤ b.1 := by
  have total : Std.Total fun a b : Word × Nat × Nat => a.1 ≤ b.1 := ⟨fun a b => BitVec.le_total a.1 b.1⟩
  have trans : IsTrans (Word × Nat × Nat) fun a b => a.1 ≤ b.1 := ⟨fun _ _ _ => BitVec.le_trans⟩
  rw [insertFold_eq]
  exact h.orderedInsert f l

theorem foldAll_single {m : Mgmt} {f : Word × Nat × Nat} (h : m.folds = [f]) : m.foldAll.chains = (m.fold f.2.1 f.2.2).chains := by
  rw [Mgmt.foldAll, h]
  rfl

/-- Settles O52: one lemma for each way a reset, a state of bring-up, the clock or a request goes. -/
theorem managementPlane : Obligations.ManagementPlane := by
  unfold Obligations.ManagementPlane
  refine ⟨fun s mhz sensor deg => ?device, fun s r => ?badger⟩
  case device =>
    exact ⟨exec_coldReset s, exec_warmReset, warmReset_ignored, takeTurn_warmLow, rises_fuses, rises_firmware, rises_clocks, rises_memory,
      rises_links, fun h => congrArg _ (bringUp_idle h), ⟨_, rfl, fresh_holdReset s true, rfl, rfl⟩, exec_powerRemoval s,
      fun hr => exec_clockChange hr mhz, maxMhz_limits s.dev.mgmt s.dev.clk, exec_thermalThrottle deg, exec_thermtrip_below s sensor⟩
  case badger =>
    intro z value point answered on
    refine ⟨exec_answeredOpen on r, exec_getpldmtypes on r, exec_getpldmcommands_control on r, exec_getpldmcommands_platform on r,
      exec_getpldmcommands_other on r, next_answer on _, next_answer on _, next_answer on _, fun h => ?power, fun h => ?devstat,
      fun h2 h16 => ?temp, fun h => ?clock, exec_powerCapSet_inRange on r, exec_powerCapSet_outOfRange on r, exec_eventLogClear on r,
      fun h => ?cap, exec_firmwareUpdate on r, next_answer on _, exec_getCertificate on r, next_answer on _, next_answer on _, rfl, rfl, rfl,
      fun f => ⟨insertFold_perm f z.folds, insertFold_pairwise f⟩, fun q rec _ => rfl, ⟨rfl, fun f => foldAll_single⟩, fun q => block_chain s⟩
    case power => exact ⟨_, Nat.min_le_right .., exec_getsensorreading on r (congrArg s.sensor h)⟩
    case devstat => exact exec_getsensorreading on r ((congrArg s.sensor h).trans (sensor_devstat s))
    case temp => exact exec_getsensorreading on r (sensor_temp s h2 h16)
    case clock => exact exec_getsensorreading on r (congrArg s.sensor h)
    case cap => exact (if_pos h).trans (next_answer on _)

end Sys2Proof.Machine
end

section
/-! SUPPORT. Every operation on a tile keeps its memories in canonical form (02 R19, log 7). A rule has the name of its operation, so that a proof
is read as the operation's own definition is. -/

namespace Sys2Proof.Machine

/-! ### Memories moved and overlaid -/

/-- Cells moved together keep their order. -/
theorem Mem.wfAbove_move {m : Mem} {a b i j : Nat} (w : Mem.wfAbove i m = true) (low : ∀ c ∈ m, a ≤ c.1) (hj : j ≤ i - a + b) :
    Mem.wfAbove j (m.map fun c => (c.1 - a + b, c.2)) = true := by
  induction m generalizing i j with
  | nil => rfl
  | cons c m ih =>
    obtain ⟨d, v⟩ := c
    simp only [Mem.wfAbove, Bool.and_eq_true, decide_eq_true_eq, List.forall_mem_cons, List.map_cons] at w low ⊢
    exact ⟨⟨by omega, w.1.2⟩, ih w.2 low.2 (by omega)⟩

theorem Mem.wf_filter {m : Mem} (p : Host.Cell → Bool) (w : m.wf = true) : Mem.wf (m.filter p) = true := Mem.wfAbove_filter p w

theorem Mem.wf_moved {m : Mem} (a n b : Nat) (w : m.wf = true) : (m.moved a n b).wf = true :=
  Mem.wfAbove_move (Mem.wf_filter _ w) (fun c hc => by
    have h := (List.mem_filter.1 hc).2
    simp only [Bool.and_eq_true, decide_eq_true_eq] at h
    exact h.1) (Nat.zero_le _)

theorem Mem.wf_foldl {α : Type} {f : Mem → α → Mem} {m : Mem} (w : m.wf = true) (l : List α)
    (step : ∀ m a, m.wf = true → (f m a).wf = true) : Mem.wf (l.foldl f m) = true :=
  List.foldlRecOn (motive := fun m => Mem.wf m = true) l f w fun m w a _ => step m a w

theorem Mem.wf_overlay {m : Mem} (a n : Nat) (x : Mem) (w : m.wf = true) : (m.overlay a n x).wf = true :=
  Mem.wf_foldl (Mem.wf_clear _ _ w) _ fun m c w => by
    split
    · exact Mem.wf_set _ _ w
    · exact w

/-! ### The memories of a tile -/

section
variable {t : Tile} (h : t.memOk)
include h

theorem Tile.memOk.spm : t.spm.wf = true := h.1

theorem Tile.memOk.regspace : t.regspace.wf = true := h.2.1

theorem Tile.memOk.side : t.side.wf = true := h.2.2.1

theorem Tile.memOk.carves : ∀ c ∈ t.carves, c.mem.wf = true := h.2.2.2.1

theorem Tile.memOk.kept : ∀ k ∈ t.kept, k.spm.wf = true := h.2.2.2.2

/-- The memories of a tile. -/
abbrev Tile.mems (t : Tile) : Mem × Mem × Mem × List Carve × List Kept := (t.spm, t.regspace, t.side, t.carves, t.kept)

/-- A change of the other fields leaves the memories as they were. Its uses prove e by `by rfl`: so it is proved last, when y is known. -/
theorem Tile.memOk.same {y : Tile} (e : y.mems = t.mems) : y.memOk := by
  obtain ⟨spm, regspace, side, carves, kept⟩ : y.spm = t.spm ∧ y.regspace = t.regspace ∧ y.side = t.side ∧
      y.carves = t.carves ∧ y.kept = t.kept := by
    simpa only [Prod.mk.injEq] using e
  exact ⟨spm ▸ h.spm, regspace ▸ h.regspace, side ▸ h.side, carves ▸ h.carves, kept ▸ h.kept⟩

theorem Tile.memOk.setSpm {m : Mem} (w : m.wf = true) : Tile.memOk { t with spm := m } := ⟨w, h.regspace, h.side, h.carves, h.kept⟩

theorem Tile.memOk.setRegspace {m : Mem} (w : m.wf = true) : Tile.memOk { t with regspace := m } := ⟨h.spm, w, h.side, h.carves, h.kept⟩

theorem Tile.memOk.setSide {m : Mem} (w : m.wf = true) : Tile.memOk { t with side := m } := ⟨h.spm, h.regspace, w, h.carves, h.kept⟩

theorem Tile.memOk.setCarves {cs : List Carve} (w : ∀ c ∈ cs, c.mem.wf = true) : Tile.memOk { t with carves := cs } :=
  ⟨h.spm, h.regspace, h.side, w, h.kept⟩

theorem Tile.memOk.setKept {ks : List Kept} (w : ∀ k ∈ ks, k.spm.wf = true) : Tile.memOk { t with kept := ks } :=
  ⟨h.spm, h.regspace, h.side, h.carves, w⟩

theorem Tile.memOk.foldl {α : Type} {f : Tile → α → Tile} (step : ∀ t a, t.memOk → (f t a).memOk) (l : List α) : (l.foldl f t).memOk :=
  List.foldlRecOn l f h fun t ht a _ => step t a ht

/-! ### K -/

theorem Tile.memOk.kset {r : Reg} {v : Word} : (t.kset r v).memOk := by
  unfold Tile.kset
  split
  · exact h
  · split <;> exact h.same (by rfl)

theorem Tile.memOk.putRecord {d : Reg} {r : BitVec 128} : (t.putRecord d r).memOk := h.kset.kset

theorem Tile.memOk.kGo {pc : Word} : (t.kGo pc).memOk := h.same (by rfl)

theorem Tile.memOk.kNext : t.kNext.memOk := h.same (by rfl)

theorem Tile.memOk.enterTrap {ret : Word} {c : Cause} {q : Sequencer} {b : Bool} {v pc w : Word} : (t.enterTrap ret c q b v pc w).memOk :=
  (h.same (by rfl))

theorem Tile.memOk.enterFor {ret : Word} {q : Sequencer} {r : StopRec} : (t.enterFor ret q r).memOk := h.enterTrap

theorem Tile.memOk.kRaise {c : Cause} {v ret w : Word} : (t.kRaise c v ret w).memOk := by
  dsimp only [Tile.kRaise]
  split
  · exact h.same (by rfl)
  · exact (h.same (by rfl)).enterTrap

theorem Tile.memOk.setStop {q : Sequencer} {r : StopRec} {b : Bool} : (t.setStop q r b).memOk := by cases q <;> exact h.same (by rfl)

theorem Tile.memOk.unstop {q : Sequencer} : (t.unstop q).memOk := by cases q <;> exact h.same (by rfl)

/-! ### Records, semaphores and tokens -/

theorem Tile.memOk.post {r : BitVec 128} : (t.post r).memOk := by
  unfold Tile.post
  split <;> exact h.same (by rfl)

theorem Tile.memOk.popRecord : t.popRecord.memOk := by
  unfold Tile.popRecord
  split <;> exact h.same (by rfl)

theorem Tile.memOk.smSet {n : BitVec 8} {v : BitVec 32} : (t.smSet n v).memOk := by
  unfold Tile.smSet
  split
  · exact h
  · exact h.same (by rfl)

theorem Tile.memOk.smSignal {n : BitVec 8} : (t.smSignal n).memOk := by
  unfold Tile.smSignal
  split
  · exact h
  · exact h.smSet

theorem Tile.memOk.smTake {n : BitVec 8} : (t.smTake n).memOk := h.smSet

theorem Tile.memOk.mark {q : Sequencer} {n : Nat} : (t.mark q n).memOk := by cases q <;> exact h.same (by rfl)

theorem Tile.memOk.reserve {q : Sequencer} {ps : List Sequencer} : (t.reserve q ps).memOk :=
  h.foldl (fun _ _ h => by exact (h.same (by rfl)).mark) ps

theorem Tile.memOk.pushReserved {q : Sequencer} {ps : List Sequencer} {pay : BitVec 32} {clk : Clk} : (t.pushReserved q ps pay clk).memOk :=
  h.foldl (fun _ _ h => by exact h.same (by rfl)) ps

theorem Tile.memOk.setClk {q : Sequencer} {c : Clk} : (t.setClk q c).memOk := by cases q <;> exact h.same (by rfl)

theorem Tile.memOk.popToks {q : Sequencer} {ps : List Sequencer} : (t.popToks q ps).memOk := by
  dsimp only [Tile.popToks]
  refine (h.foldl (fun t p h => ?_) ps).setClk
  split
  · exact h
  · exact (h.same (by rfl)).mark

/-! ### The register space -/

theorem Tile.memOk.openSectors {a n : Nat} : (t.openSectors a n).memOk :=
  Tile.memOk.same (h.setRegspace (Mem.wf_foldl h.regspace _ fun _ _ w => Mem.wf_clear _ _ w)) (by rfl)

theorem Tile.memOk.rwrite {a n v : Nat} : (t.rwrite a n v).memOk := by
  dsimp only [Tile.rwrite]
  split
  · exact h
  · have ho := h.openSectors (a := a) (n := n)
    exact (ho.setRegspace (Mem.wf_writeN _ _ _ ho.regspace)).same (by rfl)

end

end Sys2Proof.Machine
end

section
/-! SUPPORT. The operations on a tile that its sequencers, its requests and its engines share keep its memories in canonical form. -/

namespace Sys2Proof.Machine

section
variable {t : Tile} (h : t.memOk)
include h

/-! ### Commons and state of launch lifetime -/

theorem Tile.memOk.carveWrite {l : Word} {a n v : Nat} : (t.carveWrite l a n v).memOk := by
  refine h.setCarves fun c hc => ?_
  obtain ⟨d, hd, rfl⟩ := List.mem_map.1 hc
  split
  · exact Mem.wf_writeN _ _ _ (h.carves d hd)
  · exact h.carves d hd

theorem Tile.memOk.asKept {l : Word} : (t.asKept l).memOk := by
  unfold Tile.asKept
  split
  · next k hk => exact (h.setSpm (h.kept k (List.mem_of_find?_eq_some hk))).same (by rfl)
  · exact h

theorem Tile.memOk.updKept {l : Word} {f : Tile → Tile} (hf : ∀ x, x.memOk → (f x).memOk) : (t.updKept l f).memOk := by
  refine h.setKept fun k hk => ?_
  obtain ⟨j, hj, rfl⟩ := List.mem_map.1 hk
  split
  · exact (hf _ h.asKept).spm
  · exact h.kept j hj

/-- What stays on a tile that nothing runs on. -/
theorem Tile.memOk.emptied : t.emptied.memOk := ⟨rfl, rfl, rfl, h.carves, h.kept⟩

theorem Tile.memOk.leave : t.leave.memOk := ⟨h.spm, rfl, rfl, h.carves, h.kept⟩

theorem Tile.memOk.asSaved : t.asSaved.memOk := h.same (by rfl)

/-! ### L and S -/

theorem Tile.memOk.setLsState {q : Sequencer} {x : LSState} : (t.setLsState q x).memOk := by cases q <;> exact h.same (by rfl)

theorem Tile.memOk.setLs {q : Sequencer} {r : Reg} {v : Word} : (t.setLs q r v).memOk := by cases q <;> exact h.same (by rfl)

theorem Tile.memOk.setPred {q : Sequencer} {n : BitVec 3} {v : Bool} : (t.setPred q n v).memOk := by cases q <;> exact h.same (by rfl)

theorem Tile.memOk.postInc {q : Sequencer} {m : AMode} {f : LSF} : (t.postInc q m f).memOk := by
  cases m
  · exact h
  · exact h.setLs

theorem Tile.memOk.lsGo {q : Sequencer} {lc : Vector Loop 4} {pc : Word} : (t.lsGo q lc pc).memOk := h.setLsState

theorem Tile.memOk.lsNext {q : Sequencer} : (t.lsNext q).memOk := h.lsGo

theorem Tile.memOk.lsHold {q : Sequencer} {now : Nat} : (t.lsHold q now).memOk := h.setLsState

theorem Tile.memOk.popFor {q : Sequencer} {ps : List Sequencer} : (t.popFor q ps).memOk := h.setLsState.popToks

theorem Tile.memOk.skipLs {q : Sequencer} {r : StopRec} : (t.skipLs q r).memOk := by
  dsimp only [Tile.skipLs]
  split
  · exact h.unstop.lsNext
  · refine Tile.memOk.lsNext ?_
    split <;> split
    · exact h.unstop.popToks.postInc.pushReserved
    · exact h.unstop.popToks.pushReserved
    · exact h.unstop.popToks.postInc
    · exact h.unstop.popToks

/-! ### Requests -/

theorem Tile.memOk.setResult {r : Req} {d : Reg} {v : Word} {pd : BitVec 3} {b : Bool} : (t.setResult r d v pd b).memOk :=
  h.setLs.setPred.same (by rfl)

theorem Tile.memOk.landLoad {vd : Nat} {ps : List Piece} : (t.landLoad vd ps).memOk := h.foldl (fun _ _ h => by exact h.rwrite) ps

theorem Tile.memOk.finish {r : Req} : (t.finish r).memOk := by
  unfold Tile.finish
  extract_lets t1 old push
  have h1 : t1.memOk := h.same (by rfl)
  have hpush : ∀ t pay, t.memOk → (push t pay).memOk := fun t pay h => by
    unfold push
    split
    · exact h
    · exact h.pushReserved
  split
  · exact hpush _ _ h1.landLoad
  · exact hpush _ _ h1
  · exact hpush _ _ h1.setResult
  · exact hpush _ _ h1.setResult
  · exact hpush _ _ h1
  · exact h1
  · exact hpush _ _ h1

theorem Tile.memOk.finishAll : t.finishAll.memOk :=
  h.foldl (fun t r h => by
    split
    · exact h.finish
    · exact h) _

theorem Tile.memOk.closePiece {r : Req} {i : Nat} : (t.closePiece r i).memOk := (h.same (by rfl)).finishAll

theorem Tile.memOk.endReq {r : Req} {pay : BitVec 32} : (t.endReq r pay).memOk := (h.same (by rfl)).mark.pushReserved

theorem Tile.memOk.undo {q : Sequencer} {u : Popped} : (t.undo q u).memOk := h.same (by rfl)

theorem Tile.memOk.unpush {q : Sequencer} {n : Nat} : (t.unpush q n).memOk := h.foldl (fun _ _ h => by exact h.same (by rfl)) _

theorem Tile.memOk.uncommand {q : Sequencer} {n : Nat} : (t.uncommand q n).memOk := h.same (by rfl)

theorem Tile.memOk.unmark {q : Sequencer} {n : Nat} : (t.unmark q n).memOk := by cases q <;> exact h.same (by rfl)

theorem Tile.memOk.takeBack {r : Req} : (t.takeBack r).memOk := by
  dsimp only [Tile.takeBack]
  refine Tile.memOk.setLsState (Tile.memOk.same (Tile.memOk.unmark (Tile.memOk.uncommand (Tile.memOk.unpush ?_))) (by rfl))
  exact h.foldl (fun _ _ h => by exact h.undo) _

theorem Tile.memOk.unpost {q : Option Queue} {n : Nat} : (t.unpost q n).memOk := by
  unfold Tile.unpost
  split
  · exact h.same (by rfl)
  · split
    · exact h.same (by rfl)
    · exact h

/-! ### Engine queues -/

theorem Tile.memOk.pushCmd {q : Queue} {c : Cmd} : (t.pushCmd q c).memOk := h.same (by rfl)

theorem Tile.memOk.popCmd {q : Queue} : (t.popCmd q).memOk := h.same (by rfl)

theorem Tile.memOk.setHead {q : Queue} {c : Cmd} : (t.setHead q c).memOk := h.same (by rfl)

theorem Tile.memOk.engineFault {q : Queue} {c : Cause} {a : Word} : (t.engineFault q c a).memOk := by
  unfold Tile.engineFault
  split
  · exact h
  · exact h.setHead.post

theorem Tile.memOk.completeCmd {q : Queue} {d : Word} : (t.completeCmd q d).memOk := by
  unfold Tile.completeCmd
  split
  · exact h
  · refine Tile.memOk.popCmd (Tile.memOk.smSignal ?_)
    split
    · exact h.post
    · exact h

theorem Tile.memOk.acts {q : Queue} {c : Cmd} : (t.acts q c).memOk := by
  unfold Tile.acts
  split
  · exact h
  · exact h.mark
  · exact h.mark
  · exact h.mark
  · exact h.mark
  · exact h

theorem Tile.memOk.ageBy {n now : Nat} {w : Option (BitVec 8)} : (t.ageBy n now w).memOk := by
  unfold Tile.ageBy
  split
  · exact h
  · split
    · exact h.setHead
    · exact h

theorem Tile.memOk.noteWait {q : Queue} {now : Nat} : (t.noteWait q now).memOk := by
  unfold Tile.noteWait
  split
  · split
    · exact h.setHead
    · exact h
  · exact h

theorem Tile.memOk.startHead {q : Queue} : (t.startHead q).memOk := by
  unfold Tile.startHead
  split
  · exact h.acts.smTake.setHead
  · exact h

theorem Tile.memOk.postFailed {q : Option Queue} {n : Nat} {c : Cause} {va : Word} : (t.postFailed q n c va).memOk := by
  cases q
  · exact h.unpost
  · exact h.unpost.engineFault

theorem Tile.memOk.mxWrite {x : Mx} {c : Cmd} : (x.write t c).memOk := h.foldl (fun _ _ h => by exact h.rwrite) _

/-! ### C -/

theorem Tile.memOk.cGo {lc : Vector Loop 4} {pc : Word} : (t.cGo lc pc).memOk := h.same (by rfl)

theorem Tile.memOk.cNext : t.cNext.memOk := by
  unfold Tile.cNext
  extract_lets r t1
  have h1 : t1.memOk := h.cGo
  split
  · exact h1
  · exact h1.same (by rfl)

theorem Tile.memOk.cHold {now : Nat} : (t.cHold now).memOk := h.same (by rfl)

theorem Tile.memOk.cAdvance {j : Option (Word × Bool)} : (t.cAdvance j).memOk := by
  unfold Tile.cAdvance
  split
  · exact h.cNext
  · exact h.cGo

theorem Tile.memOk.skipC {r : StopRec} : (t.skipC r).memOk := by
  dsimp only [Tile.skipC]
  split
  · exact h.unstop.cNext
  · refine Tile.memOk.cNext ?_
    split
    · exact h.unstop.popToks.pushReserved
    · exact h.unstop.popToks

theorem Tile.memOk.cWrite {o : SlotOut} {tr : Bool} : (t.cWrite o tr).memOk := by
  unfold Tile.cWrite
  extract_lets t1 t2
  have h1 : t1.memOk := by
    unfold t1
    split
    · refine h.foldl (fun t r h => ?_) _
      extract_lets _ u1 u2
      split
      · exact h.same (by rfl)
      · have h2 : u2.memOk := Tile.memOk.openSectors (h.same (by rfl))
        exact h2.setRegspace (Mem.wf_writeN _ _ _ h2.regspace)
    · exact h.foldl (fun _ _ h => by exact h.rwrite) _
  have h2 : t2.memOk := h1.foldl (fun _ _ h => by exact h.rwrite) _
  split
  · split
    · exact h2
    · exact h2.same (by rfl)
  · exact h2

theorem Tile.memOk.cIssue {pushes : BitVec 3} {o : BundleOut} : (t.cIssue pushes o).memOk := by
  unfold Tile.cIssue
  extract_lets clk t1 c1 _ t2 t3 t4 push _ t5
  have h1 : t1.memOk := by
    unfold t1
    split
    · exact h.pushCmd
    · exact h
  have h2 : t2.memOk := h1.same (by rfl)
  have h3 : t3.memOk := by
    unfold t3
    split
    · exact h2.cWrite
    · exact h2
  have h4 : t4.memOk := by
    unfold t4
    split
    · exact h3.cWrite
    · exact h3
  have h5 : t5.memOk := by
    unfold t5
    split
    · exact h4.pushReserved
    · split
      · exact h4.same (by rfl)
      · exact Tile.memOk.pushReserved (h4.same (by rfl))
  exact h5.cAdvance

end

end Sys2Proof.Machine
end

section
/-! SUPPORT. How the memories of the whole machine stay in canonical form (02 R19, log 7): one rule for each place of the device that holds memories,
what it means of an outcome that carries a state, and the operations that every instruction and event shares. -/

namespace Sys2Proof.Machine

/-! ### Outcomes that carry a state -/

/-- The next state, where there is one, has its memories in canonical form. -/
def NextOk : Host.Outcome State Fault Refusal → Prop
  | .next s => s.memOk
  | _ => True

/-- What is answered, where an answer is given, has a property. -/
def AnswerOk {ε α : Type} (P : α → Prop) : Except ε α → Prop
  | .ok a => P a
  | .error _ => True

theorem AnswerOk.ok {ε α : Type} {P : α → Prop} {x : Except ε α} {a : α} (h : AnswerOk P x) (e : x = .ok a) : P a := by
  subst e
  exact h

/-- What is given, where something is given, has a property. -/
def GivenOk {α : Type} (P : α → Prop) : Option α → Prop
  | some a => P a
  | none => True

theorem GivenOk.some {α : Type} {P : α → Prop} {x : Option α} {a : α} (h : GivenOk P x) (e : x = .some a) : P a := by
  subst e
  exact h

/-! ### The places of the device that hold memories -/

theorem State.memOk.fst {α : Type} {x : State × α} {s : State} {a : α} (h : x.1.memOk) (e : x = (s, a)) : s.memOk := by
  subst e
  exact h

theorem State.memOk.snd {α : Type} {x : α × State} {s : State} {a : α} (h : x.2.memOk) (e : x = (a, s)) : s.memOk := by
  subst e
  exact h

section
variable {s : State} (h : s.memOk)
include h

theorem State.memOk.hbm : s.dev.hbm.wf = true := h.1

theorem State.memOk.host : s.dev.host.wf = true := h.2.1

theorem State.memOk.remote : ∀ r ∈ s.dev.remote, r.hbm.wf = true := h.2.2.1

theorem State.memOk.tileAt (t : TileId) : (s.tileAt t).memOk := h.2.2.2.1 t

theorem State.memOk.tile : s.tile.memOk := h.tileAt s.cur

theorem State.memOk.saves : ∀ v ∈ s.dev.saves, v.img.memOk := h.2.2.2.2

/-- Where the memories of a machine stand. -/
abbrev State.mems (s : State) : Mem × Mem × List Remote × Vector Tile 432 × List Save :=
  (s.dev.hbm, s.dev.host, s.dev.remote, s.dev.tiles, s.dev.saves)

/-- A change of other fields leaves the memories as they were. -/
theorem State.memOk.same {z : State} (e : z.mems = s.mems) : z.memOk := by
  obtain ⟨hbm, host, remote, tiles, saves⟩ : z.dev.hbm = s.dev.hbm ∧ z.dev.host = s.dev.host ∧ z.dev.remote = s.dev.remote ∧
      z.dev.tiles = s.dev.tiles ∧ z.dev.saves = s.dev.saves := by
    simpa only [Prod.mk.injEq] using e
  have tileAt : ∀ t, z.tileAt t = s.tileAt t := fun t => congrArg (fun v : Vector Tile 432 => v[t]) tiles
  exact ⟨hbm ▸ h.hbm, host ▸ h.host, remote ▸ h.remote, fun t => tileAt t ▸ h.tileAt t, saves ▸ h.saves⟩

/-- Where the memories of a device stand. -/
abbrev Device.mems (d : Device) : Mem × Mem × List Remote × Vector Tile 432 × List Save := (d.hbm, d.host, d.remote, d.tiles, d.saves)

theorem State.memOk.updDev {f : Device → Device} (e : (f s.dev).mems = s.dev.mems) : (s.updDev f).memOk := h.same e

theorem State.memOk.setHbm {m : Mem} (w : m.wf = true) : State.memOk { s with dev := { s.dev with hbm := m } } :=
  ⟨w, h.host, h.remote, h.tileAt, h.saves⟩

theorem State.memOk.setHost {m : Mem} (w : m.wf = true) : State.memOk { s with dev := { s.dev with host := m } } :=
  ⟨h.hbm, w, h.remote, h.tileAt, h.saves⟩

theorem State.memOk.setRemote {rs : List Remote} (w : ∀ r ∈ rs, r.hbm.wf = true) : State.memOk { s with dev := { s.dev with remote := rs } } :=
  ⟨h.hbm, h.host, w, h.tileAt, h.saves⟩

theorem State.memOk.setTiles {ts : Vector Tile 432} (w : ∀ t : TileId, (ts[t]).memOk) : State.memOk { s with dev := { s.dev with tiles := ts } } :=
  ⟨h.hbm, h.host, h.remote, w, h.saves⟩

theorem State.memOk.setSaves {vs : List Save} (w : ∀ v ∈ vs, v.img.memOk) : State.memOk { s with dev := { s.dev with saves := vs } } :=
  ⟨h.hbm, h.host, h.remote, h.tileAt, w⟩

/-- A change made to each of the other devices that keeps its HBM canonical. -/
theorem State.memOk.mapRemote {f : Remote → Remote} (hf : ∀ r : Remote, r.hbm.wf = true → (f r).hbm.wf = true) :
    State.memOk { s with dev := { s.dev with remote := s.dev.remote.map f } } :=
  h.setRemote fun r hr => by
    obtain ⟨y, hy, rfl⟩ := List.mem_map.1 hr
    exact hf y (h.remote y hy)

theorem State.memOk.mapTiles {f : Tile → Tile} (hf : ∀ x, x.memOk → (f x).memOk) :
    State.memOk { s with dev := { s.dev with tiles := s.dev.tiles.map f } } :=
  h.setTiles fun t => by
    have e : (s.dev.tiles.map f)[t] = f (s.tileAt t) := Vector.getElem_map ..
    exact e ▸ hf _ (h.tileAt t)

theorem State.memOk.filterSaves {p : Save → Bool} : State.memOk { s with dev := { s.dev with saves := s.dev.saves.filter p } } :=
  h.setSaves fun v hv => h.saves v (List.mem_of_mem_filter hv)

theorem State.memOk.setTileAt {t : TileId} {x : Tile} (hx : x.memOk) : (s.setTileAt t x).memOk :=
  h.setTiles fun u => by
    have e : (s.setTileAt t x).tileAt u = if t = u then x else s.tileAt u := tileAt_setTileAt s t u x
    have hu : ((s.setTileAt t x).tileAt u).memOk := by
      rw [e]
      split
      · exact hx
      · exact h.tileAt u
    exact hu

theorem State.memOk.updAt {t : TileId} {f : Tile → Tile} (hf : ∀ x, x.memOk → (f x).memOk) : (s.updAt t f).memOk :=
  h.setTileAt (hf _ (h.tileAt t))

theorem State.memOk.upd {f : Tile → Tile} (hf : ∀ x, x.memOk → (f x).memOk) : (s.upd f).memOk := h.updAt hf

theorem State.memOk.foldl {α : Type} {f : State → α → State} (step : ∀ s a, s.memOk → (f s a).memOk) (l : List α) : (l.foldl f s).memOk :=
  List.foldlRecOn l f h fun s hs a _ => step s a hs

/-! ### Lost units, logs and packets -/

theorem State.memOk.heal {code : BitVec 8} {place a n : Nat} : (s.heal code place a n).memOk := by
  unfold State.heal
  split
  · exact h
  · exact h.same (by rfl)

theorem State.memOk.forget {code : BitVec 8} {place a n : Nat} : (s.forget code place a n).memOk := h.same (by rfl)

theorem State.memOk.logOn {d : DieId} {e : LogEntry} : (s.logOn d e).memOk := h.same (by rfl)

theorem State.memOk.logLost {t : TileId} {launch : Word} {ctx : BitVec 12} {code a : Nat} : (s.logLost t launch ctx code a).memOk := h.logOn

theorem State.memOk.tileError {t : TileId} {q : Sequencer} : (s.tileError t q).memOk := h.updAt fun _ h => h.same (by rfl)

theorem State.memOk.fresh : s.fresh.2.memOk := h.same (by rfl)

theorem State.memOk.inject {p : Pkt} : (s.inject p).memOk := h.same (by rfl)

theorem State.memOk.sendTo {src dst : TileId} {kind : BitVec 3} {seq : BitVec 16} {cls : BitVec 2} {body : PktBody} {clk : Clk} :
    (s.sendTo src dst kind seq cls body clk).memOk := h.inject

theorem State.memOk.updLaunch {id : Word} {f : Launch → Launch} : (s.updLaunch id f).memOk := h.same (by rfl)

/-! ### K -/

theorem State.memOk.kFault {c : Cause} {v : Word} : (s.kFault c v).memOk := h.upd fun _ h => h.kRaise

theorem State.memOk.kJump {pc : Word} {f : Tile → Tile} (hf : ∀ x, x.memOk → (f x).memOk) : (s.kJump pc f).memOk := by
  unfold State.kJump
  split
  · exact h.upd fun x h => (hf x h).kGo
  · exact h.kFault

theorem State.memOk.kDone {d : Reg} {v : Word} : (s.kDone d v).memOk := h.upd fun _ h => h.kset.kNext

theorem State.memOk.kSkip : s.kSkip.memOk := h.upd fun _ h => h.kNext

theorem State.memOk.kWait : s.kWait.memOk := h.upd fun _ h => h.same (by rfl)

theorem State.memOk.stopSeq {t : TileId} {q : Sequencer} {c : Cause} {a : Word} {b r : Bool} : (s.stopSeq t q c a b r).memOk :=
  h.updAt fun _ h => h.setStop

/-! ### Published windows and the scratchpad (12 R291, R292) -/

theorem State.memOk.closeBatch {t : TileId} : (s.closeBatch t).memOk := by
  unfold State.closeBatch
  extract_lets x
  split
  · exact h
  · refine State.memOk.foldl (h.updAt fun _ h => h.same (by rfl)) (fun s i h => ?_) _
    extract_lets p mask
    split
    · split
      · exact h
      · exact h.sendTo.updAt fun _ h => h.same (by rfl)
    · exact h

theorem State.memOk.spmWrite {t : TileId} {a n v : Nat} : (s.updAt t fun x => { x with spm := x.spm.writeN a n v }).memOk :=
  h.updAt fun _ h => h.setSpm (Mem.wf_writeN _ _ _ h.spm)

theorem State.memOk.spmStore {t : TileId} {a n v : Nat} : (s.spmStore t a n v).memOk := by
  unfold State.spmStore
  extract_lets x sector s1 s2 s3
  have h1 : s1.memOk := by
    unfold s1
    split
    · split
      · split
        · exact h
        · exact h.closeBatch
      · exact h
    · exact h
  have h3 : s3.memOk := h1.spmWrite.heal
  split
  · exact h3.updAt fun _ h => h.same (by rfl)
  · exact h3

theorem State.memOk.spmStores {t : TileId} {a n v : Nat} : (s.spmStores t a n v).memOk := by
  unfold State.spmStores
  split
  · exact h.spmStore
  · exact h.foldl (fun _ _ h => h.spmStore) _

/-! ### HBM (11 R247, 16 R342, 19 R389) -/

theorem State.memOk.fitHub {n : Nat} : (s.fitHub n).memOk := by
  unfold State.fitHub
  extract_lets slice out
  split
  · exact h
  · exact h.same (by rfl)

theorem State.memOk.markDirty {a : Nat} : (s.markDirty a).memOk := by
  unfold State.markDirty
  split
  · exact h
  · exact State.memOk.fitHub (h.same (by rfl))

theorem State.memOk.recall {a n : Nat} : (s.recall a n).memOk := by
  unfold State.recall
  split
  · exact h
  · exact h.same (by rfl)

theorem State.memOk.writeHbm {a n v : Nat} : (s.writeHbm a n v).memOk :=
  (h.setHbm (Mem.wf_writeN a n v h.hbm)).heal.heal.recall.markDirty

/-! ### Translation (16 R328 to R342) -/

theorem State.memOk.bindTag {tag : BitVec 12} : (s.bindTag tag).memOk := by
  unfold State.bindTag
  split
  · exact h
  · split
    · exact h.same (by rfl)
    · exact h

theorem State.memOk.leafAt {t : TileId} {tag : BitVec 12} {va : Word} : AnswerOk (fun r => r.2.memOk) (s.leafAt t tag va) := by
  unfold State.leafAt
  split
  · split
    · trivial
    · exact h.updAt fun _ h => h.same (by rfl)
  · split
    · trivial
    · exact h.bindTag.updAt fun _ h => h.same (by rfl)

theorem State.memOk.noteSent {k : FlowletKey} : (s.noteSent k).memOk := by
  unfold State.noteSent
  split <;> exact h.same (by rfl)

theorem State.memOk.noteRequest {t : TileId} {tgt : Target} : (s.noteRequest t tgt).memOk := by
  unfold State.noteRequest
  split
  · exact h.noteSent
  · exact h

theorem State.memOk.resolve {t : TileId} {sp : Space} {k : Acc} {va : Word} {n : Nat} {post : Bool} :
    AnswerOk (fun r => r.2.memOk) (s.resolve t sp k va n post) := by
  unfold State.resolve
  extract_lets x
  split
  · split
    · exact h
    · trivial
  · split
    · exact h
    · trivial
  · split
    · trivial
    · next e =>
      have h1 := h.leafAt.ok e
      split
      · trivial
      · split
        · trivial
        · exact State.memOk.noteRequest h1

theorem State.memOk.bindFor {t : TileId} {sp : Space} : (s.bindFor t sp).memOk := by
  unfold State.bindFor
  split
  · exact h
  · exact h
  · exact h.bindTag

end

end Sys2Proof.Machine
end

section
/-! SUPPORT. Setts keep every memory in canonical form (17 R343 to R358). -/

namespace Sys2Proof.Machine

/-! ### What the outcomes of a Sett operation, of the pieces of an access and of a word leave -/

/-- The state that a Sett operation leaves, where it is done, has its memories in canonical form. -/
def SettRes.memOk {α : Type} : SettRes α → Prop
  | .ok _ s => s.memOk
  | _ => True

theorem SettRes.memOk.ok {α : Type} {r : SettRes α} {a : α} {s : State} (h : r.memOk) (e : r = .ok a s) : s.memOk := by
  subst e
  exact h

/-- The state that a store to a Sett-mapped window leaves has its memories in canonical form. -/
def SettStore.memOk : SettStore → Prop
  | .done s => s.memOk
  | _ => True

theorem SettStore.memOk.done {r : SettStore} {s : State} (h : r.memOk) (e : r = .done s) : s.memOk := by
  subst e
  exact h

/-- The state that the building of an access's pieces leaves has its memories in canonical form. -/
def Plan.memOk : Plan → Prop
  | .ok _ s => s.memOk
  | _ => True

theorem Plan.memOk.ok {p : Plan} {ps : List Piece} {s : State} (h : p.memOk) (e : p = .ok ps s) : s.memOk := by
  subst e
  exact h

section
variable {s : State} (h : s.memOk)
include h

/-! ### Slots and names (17 R344 to R352) -/

theorem State.memOk.setSlot {g : Nat} {x : SxSlot} : (s.setSlot g x).memOk := h.writeHbm.writeHbm

theorem State.memOk.freeSlot {g : Nat} : (s.freeSlot g).memOk := h.setSlot

theorem State.memOk.addLive {up : Bool} : (s.addLive up).memOk := h.same (by rfl)

theorem State.memOk.incSlot {g : Nat} : (s.incSlot g).memOk := h.setSlot

theorem State.memOk.decSlot {g : Nat} : (s.decSlot g).1.memOk := by
  unfold State.decSlot
  extract_lets x
  split
  · exact h
  · split
    · exact h.setSlot
    · split
      · exact h.setSlot.addLive
      · exact h.freeSlot.addLive

theorem State.memOk.skipBucket {tag : BitVec 12} {b : Nat} : (s.skipBucket tag b).memOk := h.logOn

theorem State.memOk.release {tag : BitVec 12} {name : Word} : (s.release tag name).memOk := by
  unfold State.release
  extract_lets b
  split
  · exact h.skipBucket
  · split
    · exact h
    · split
      · exact h
      · split
        · next e => exact h.decSlot.fst e
        · next e => exact (h.decSlot.fst e).same (by rfl)

theorem State.memOk.walkStep {tag : BitVec 12} {st : List (Nat × Nat)} : (s.walkStep tag st).1.memOk := by
  unfold State.walkStep
  split
  · exact h
  · split
    · exact h.freeSlot
    · split
      · exact h.logOn
      · exact h
      · extract_lets n b
        split
        · exact h
        · split
          · exact h.skipBucket
          · split
            · exact h
            · split
              · exact h
              · exact h.decSlot

theorem State.memOk.lookup {tag : BitVec 12} {line : Vec} {interior : Bool} : (s.lookup tag line interior).memOk := by
  fun_cases State.lookup
  case case1 => exact h
  case case6 => exact h.incSlot
  case case9 step s1 e _ _ s2 =>
    have h1 : s1.memOk := by
      refine AnswerOk.ok ?_ e
      split
      · refine List.foldlRecOn (motive := AnswerOk State.memOk) _ step h fun r hr n _ => ?_
        unfold step
        split
        · trivial
        · split
          · exact hr
          · split
            · exact State.memOk.incSlot hr
            · trivial
      · exact h
    exact h1.writeHbm.setSlot.addLive
  all_goals trivial

theorem State.memOk.buildLines {tag : BitVec 12} {r : Word} {a n v : Nat} : (s.buildLines tag r a n v).memOk := by
  fun_cases State.buildLines
  case case6 one y names s1 e r' s2 e2 =>
    have h1 : s1.memOk := by
      refine SettRes.memOk.ok (List.foldlRecOn (motive := SettRes.memOk) _ (fun acc k => one acc (_ + k)) (by exact h) fun acc hacc k _ => ?_) e
      unfold one
      split
      · trivial
      · trivial
      · extract_lets +onlyGivenNames kid
        split
        · trivial
        · extract_lets
          split
          · trivial
          · trivial
          · next e => exact SettRes.memOk.ok (State.memOk.lookup hacc) e
    refine State.memOk.foldl (h1.lookup.ok e2) (fun s n h => ?_) _
    split
    · exact h
    · exact h.release
  all_goals trivial

theorem State.memOk.settStore {t : TileId} {q : Sequencer} {l : Leaf} {va : Word} {n v : Nat} {plain : Bool} :
    (s.settStore t q l va n v plain).memOk := by
  have hput : ∀ (s : State) (w : Nat), s.memOk →
      (SettStore.done ((s.updAt t fun x => { x with spm := x.spm.writeN (settRecordAt q) 64 w }).heal 1 t.val (settRecordAt q) 64)).memOk :=
    fun s w h => State.memOk.heal h.spmWrite
  fun_cases State.settStore
  case case8 e => exact hput _ _ (h.buildLines.ok e)
  case case3 | case5 | case6 => trivial
  all_goals exact hput _ _ h

end

end Sys2Proof.Machine
end

section
/-! SUPPORT. The pieces of an access, their requests and what a failed access leaves keep every memory in canonical form (07 R137 to R147, 11 R254
to R267). -/

namespace Sys2Proof.Machine

section
variable {s : State} (h : s.memOk)
include h

/-! ### Writes at a resolved place -/

theorem State.memOk.writeAt {t : TileId} {tgt : Target} {a n v : Nat} : AnswerOk State.memOk (s.writeAt t tgt a n v) := by
  fun_cases State.writeAt
  case case2 => exact h.spmStores
  case case4 => exact State.memOk.heal (h.updAt fun _ h => h.carveWrite)
  case case6 => exact h.writeHbm
  case case8 =>
    refine State.memOk.mapRemote h fun r w => ?_
    split
    · exact Mem.wf_writeN _ _ _ w
    · exact w
  case case11 => exact (h.setHost (Mem.wf_writeN _ _ _ h.host)).same (by rfl)
  all_goals trivial

/-! ### Lost data that an access meets -/

theorem State.memOk.logMet {t : TileId} {tag : BitVec 12} {launch : Word} {m : Met} : (s.logMet t tag launch m).memOk := by
  fun_cases State.logMet
  all_goals exact h.same (by rfl)

theorem State.memOk.failed {t : TileId} {tag : BitVec 12} {launch : Word} {c : Cause} {m : Met} : (s.failed t tag launch c m).memOk := by
  unfold State.failed
  split
  · exact h.logMet
  · exact h

theorem State.memOk.consumed {t : TileId} {c : Cause} {m : Met} : (s.consumed t c m).memOk := by
  unfold State.consumed
  extract_lets x s1
  refine State.memOk.failed ?_
  unfold s1
  split
  · exact h
  · exact h
  · exact h
  · exact h.bindTag

/-! ### Pieces performed -/

theorem State.memOk.perform {t : TileId} {r : Req} {i : Nat} : AnswerOk (fun x => x.2.memOk) (s.perform t r i) := by
  fun_cases State.perform
  case case1 | case2 | case12 => exact h
  case case4 e => exact h.writeAt.ok e
  case case7 e => exact h.writeAt.ok e
  case case10 e => exact h.writeAt.ok e
  all_goals trivial

theorem State.memOk.unlost : s.unlost.memOk := (h.mapRemote (f := fun r => { r with lost := [], present := true }) fun _ w => w).same (by rfl)

theorem State.memOk.relost {z : State} : (s.relost z).memOk := by
  refine State.memOk.same (h.mapRemote (f := fun r => match z.dev.remote.find? fun y => y.num == r.num with
      | some y => { r with lost := y.lost, present := y.present }
      | none => r) fun r w => ?_) (by rfl)
  split
  · exact w
  · exact w

theorem State.memOk.performs {t : TileId} {r : Req} {is : List Nat} : AnswerOk (fun x => x.2.memOk) (s.performs t r is) := by
  induction is generalizing s r with
  | nil => exact h
  | cons i is ih =>
    unfold State.performs
    split
    · trivial
    · next e => exact ih (h.perform.ok e)

theorem State.memOk.performNow {t : TileId} {r : Req} {is : List Nat} : AnswerOk (fun x => x.2.memOk) (s.performNow t r is) := by
  unfold State.performNow
  extract_lets x
  have hx : AnswerOk (fun x => x.2.memOk) x := by
    unfold x
    split
    · split
      · next e => exact State.memOk.relost (h.unlost.performs.ok e)
      · trivial
    · exact h.performs
  clear_value x
  split
  · next y =>
    have h1 : y.memOk := hx
    change State.memOk (if _ then _ else _)
    split
    · exact h1.updAt fun _ h => h.mark
    · exact h1
  · trivial

theorem State.memOk.healRegs {t : TileId} {rs : List (Nat × Nat)} : (s.healRegs t rs).memOk := h.same (by rfl)

theorem State.memOk.healLanded {t : TileId} {l : List Req} : (s.healLanded t l).memOk := by
  unfold State.healLanded
  split
  · exact h
  · refine h.foldl (fun s r h => ?_) _
    split
    · split
      · exact h
      · exact h.healRegs
    · exact h

/-! ### Pieces that fail -/

theorem State.memOk.rewind {t : TileId} {r : Req} {c : Cause} {a : Word} : (s.rewind t r c a).memOk :=
  (h.updAt fun _ h => h.takeBack).stopSeq

theorem State.memOk.failNow {t : TileId} {r : Req} {c : Cause} {a : Word} : (s.failNow t r c a).memOk := by
  unfold State.failNow
  split
  · exact h.rewind
  · exact h.updAt fun _ h => h.same (by rfl)

theorem State.memOk.failReq {t : TileId} {r : Req} {i : Nat} {c : Cause} {p : Piece} : (s.failReq t r i c p).memOk := by
  unfold State.failReq
  extract_lets s1
  have h1 : s1.memOk := h.consumed
  split
  · exact h1.updAt fun _ h => h.closePiece
  · exact h1.failNow

theorem State.memOk.tryPiece {t : TileId} {id i : Nat} : (s.tryPiece t id i).memOk := by
  fun_cases State.tryPiece
  case case2 => exact h.failNow
  case case4 => exact h.failReq
  case case6 => exact h.failReq
  case case7 s1 e =>
    have h1 : s1.memOk := h.performNow.ok e
    exact State.memOk.healLanded (h1.updAt fun _ h => Tile.memOk.finishAll (h.same (by rfl)))
  all_goals exact h

theorem State.memOk.tryAll {t : TileId} {id n : Nat} : (s.tryAll t id n).memOk := h.foldl (fun _ _ h => h.tryPiece) _

end

/-! ### The plan of an access -/

theorem Plan.memOk.add {p : Plan} (h : p.memOk) {t : TileId} {sp : Space} {k : Acc} {va : Word} {n off v : Nat} {post : Bool} :
    (p.add t sp k va n off v post).memOk := by
  fun_cases Plan.add
  case case4 e _ _ _ => exact State.memOk.resolve (s := _) h |>.ok e
  case case5 => exact h
  all_goals trivial

theorem State.memOk.planSectors {s : State} (h : s.memOk) {t : TileId} {sp : Space} {k : Acc} {ea : Word} {w v : Nat} {post : Bool} :
    (s.planSectors t sp k ea w v post).memOk :=
  List.foldlRecOn (motive := Plan.memOk) _ _ h fun _ h _ _ => h.add

end Sys2Proof.Machine
end

section
/-! SUPPORT. Saved tiles, the task that an arriving change is for, and its barriers and windows keep every memory in canonical form
(18 R371 to R375, 06 R117, 12 R292). -/

namespace Sys2Proof.Machine

theorem Tile.memOk.fromImage {x : Tile} (h : x.memOk) {m : Mem} {b : Nat} (w : m.wf = true) : (x.fromImage m b).memOk := by
  have moved : Tile.memOk { x with
      spm := m.moved b spmSize 0, regspace := m.moved (b + 0x300000) 0x40000 0, side := m.moved (b + 0x340000) 0x4000 0 } :=
    ⟨Mem.wf_moved _ _ _ w, Mem.wf_moved _ _ _ w, Mem.wf_moved _ _ _ w, h.carves, h.kept⟩
  exact moved.same (by simp only [Tile.mems, Tile.fromImage])

section
variable {s : State} (h : s.memOk)
include h

/-! ### Saved images -/

theorem State.memOk.storeImage {slot : Nat} {t : TileId} {x : Tile} : (s.storeImage slot t x).memOk := by
  unfold State.storeImage
  extract_lets b n
  have h1 : (((s.heal 6 0 b n).heal 14 0 b n).recall b n).memOk := h.heal.heal.recall
  exact h1.setHbm (Mem.wf_foldl (Mem.wf_overlay _ _ _ (Mem.wf_overlay _ _ _ (Mem.wf_overlay _ _ _ (Mem.wf_clear _ _ h1.hbm)))) _
    fun m f w => Mem.wf_writeN _ _ _ w)

theorem State.memOk.imagePut {slot : Nat} {cs : List Host.Cell} : (s.imagePut slot cs).memOk :=
  h.foldl (fun s c h => by
    split
    · exact h.writeHbm
    · exact h) _

theorem State.memOk.imageWrite {slot a n v : Nat} : (s.imageWrite slot a n v).memOk := by
  unfold State.imageWrite
  split
  · exact h.writeHbm
  · exact h

/-! ### The task that a change is for -/

theorem State.memOk.taskTile {t : TileId} {p : Home} : (s.taskTile t p).memOk := by
  unfold State.taskTile
  split
  · split
    · next e => exact h.saves _ (List.mem_of_find?_eq_some e)
    · exact h.tileAt t
  · exact (h.tileAt t).asKept
  · exact h.tileAt t

theorem State.memOk.updSave {slot : Nat} {f : Tile → Tile} (hf : ∀ x, x.memOk → (f x).memOk) : (s.updSave slot f).memOk := by
  unfold State.updSave
  split
  · exact h
  · next v e =>
    have hv : v.img.memOk := h.saves v (List.mem_of_find?_eq_some e)
    refine State.memOk.imagePut (h.setSaves fun w hw => ?_)
    obtain ⟨u, hu, rfl⟩ := List.mem_map.1 hw
    split
    · exact hf _ hv
    · exact h.saves u hu

theorem State.memOk.updTask {t : TileId} {p : Home} {f : Tile → Tile} (hf : ∀ x, x.memOk → (f x).memOk) : (s.updTask t p f).memOk := by
  unfold State.updTask
  split
  · exact h.updAt hf
  · exact h.updSave hf
  · exact h.updAt fun _ h => h.updKept hf
  · exact h

theorem State.memOk.spmArrive {t : TileId} {p : Home} {a n v : Nat} : (s.spmArrive t p a n v).memOk := by
  unfold State.spmArrive
  extract_lets s1
  have h1 : s1.memOk := h.updTask fun _ h => h.setSpm (Mem.wf_writeN _ _ _ h.spm)
  split
  · exact h1.heal
  · exact h1.imageWrite
  · exact h1

theorem State.memOk.logSpm {t : TileId} {launch : Word} {ctx : BitVec 12} {p : Home} {a : Nat} : (s.logSpm t launch ctx p a).memOk := by
  unfold State.logSpm
  split <;> exact h.logLost

theorem State.memOk.postTask {t : TileId} {launch : Word} {i : Option Nat} {r : BitVec 128} : (s.postTask t launch i r).memOk := by
  unfold State.postTask
  extract_lets p
  split
  · exact h
  · clear_value p
    split
    · exact h
    · split
      · exact h.updAt fun _ h => h.post
      · exact h
    · exact h.updTask fun _ h => h.post

/-! ### Barriers and published windows -/

theorem State.memOk.barApply {t : TileId} {launch : Word} {p : Home} {a : Nat} {us : List (BarUpd × Nat)} :
    (s.barApply t launch p a us).memOk := by
  unfold State.barApply
  extract_lets x us s1 b bs s2
  have h1 : s1.memOk := by
    unfold s1
    split
    · exact h.updAt fun _ h => h.same (by rfl)
    · exact h
  split
  · exact h1.logSpm
  · have h2 : s2.memOk := by
      unfold s2
      split
      · exact h1
      · exact h1.updTask fun _ h => h.setSpm (Mem.wf_setBar _ _ h.spm)
    exact h2.foldl (fun _ _ h => h.postTask) _

theorem State.memOk.barFlush {t : TileId} : (s.barFlush t).memOk :=
  State.memOk.foldl (h.updAt fun _ h => h.same (by rfl)) (fun _ _ h => h.barApply) _

theorem State.memOk.barMeet {t : TileId} {launch : Word} {p : Home} {a : Nat} {us : List (BarUpd × Nat)} : (s.barMeet t launch p a us).memOk := by
  unfold State.barMeet
  split
  · exact h.updAt fun _ h => h.same (by rfl)
  · exact h.barApply

theorem State.memOk.closeBatchOf {t : TileId} {p : Home} : (s.closeBatchOf t p).memOk := by
  unfold State.closeBatchOf
  split
  · exact h.closeBatch
  · exact h

theorem State.memOk.dropPubAt {p : Home} {pub sub : TileId} {e : SubEntry} : (s.dropPubAt p pub sub e).memOk := by
  unfold State.dropPubAt
  split
  · exact h
  · exact h.closeBatchOf.updTask fun _ h => h.same (by rfl)

theorem State.memOk.dropPub {pub sub : TileId} {launch : Word} {e : SubEntry} : (s.dropPub pub sub launch e).memOk := h.dropPubAt

theorem State.memOk.preempt {ts : List TileId} {w : Word} : (s.preempt ts w).memOk := by
  unfold State.preempt
  extract_lets slots
  split
  · exact h
  · exact h.foldl (fun _ _ h => h.closeBatch.updAt fun _ h => h.same (by rfl)) _

end

end Sys2Proof.Machine
end

section
/-! SUPPORT. The engines keep every memory in canonical form: command queues, matrix commands, flow sends, copies and scouts (07 R154 to R162,
09 R220 to R224). -/

namespace Sys2Proof.Machine

section
variable {s : State} (h : s.memOk)
include h

/-! ### Command queues -/

theorem State.memOk.execCommandDecided {t : TileId} {q : Queue} : NextOk (execCommandDecided t q s) := by
  fun_cases Sys2Proof.Machine.execCommandDecided
  case case6 => exact h.updAt fun _ h => h.setHead
  case case7 => exact h.updAt fun _ h => h.acts.popCmd
  all_goals exact h

theorem State.memOk.engineLost {t : TileId} {q : Queue} {u : StoredUnit} : (s.engineLost t q u).memOk :=
  h.logOn.updAt fun _ h => h.engineFault

theorem State.memOk.engineStop {t : TileId} {q : Queue} {c : Cause} {a : Word} {m : Met} : (s.engineStop t q c a m).memOk :=
  h.consumed.updAt fun _ h => h.engineFault

theorem State.memOk.engineWaits {t : TileId} {q : Queue} {c : Cmd} {va : Word} : (s.engineWaits t q c va).memOk :=
  h.bindTag.updAt fun _ h => h.setHead

/-! ### Matrix commands -/

theorem State.memOk.mxStart {t : TileId} {q : Queue} {c : Cmd} {x : Mx} : (s.mxStart t q c x).memOk := by
  unfold State.mxStart
  extract_lets y y1 y2
  have h1 : y1.memOk := by
    unfold y1
    split
    · split
      · exact (h.tileAt t).setHead
      · exact h.tileAt t
    · exact h.tileAt t
  have h2 : y2.memOk := h1.smTake
  split
  · exact (h.setTileAt h2.setHead).engineLost
  · exact h.setTileAt h2.setHead

theorem State.memOk.execMatrixCommandStart {t : TileId} {q : Queue} : NextOk (execMatrixCommandStart t q s) := by
  fun_cases Sys2Proof.Machine.execMatrixCommandStart
  case case4 => exact h.mxStart
  case case5 => exact h.updAt fun _ h => h.noteWait
  all_goals exact h

theorem State.memOk.mxStep {t : TileId} {q : Queue} {c : Cmd} {x : Mx} : (s.mxStep t q c x).memOk := by
  fun_cases State.mxStep
  case case1 => exact h
  case case2 => exact h.setTileAt (h.tileAt t).setHead
  case case3 => exact (h.setTileAt (h.tileAt t).setHead).engineLost
  case case4 => exact h.setTileAt (h.tileAt t).setHead

theorem State.memOk.mxRun {t : TileId} {q : Queue} : (s.mxRun t q).memOk := by
  fun_cases State.mxRun
  case case3 => exact h.engineLost
  case case4 => exact h.mxStep
  case case5 => exact h.mxStep
  all_goals exact h

theorem State.memOk.execMatrixKStep {t : TileId} : NextOk (execMatrixKStep t s) := by
  fun_cases Sys2Proof.Machine.execMatrixKStep
  case case2 => exact h.mxStart
  case case5 => exact h.mxRun
  case case6 => exact State.memOk.mxRun (h.updAt fun _ h => h.setHead)
  all_goals exact h

theorem State.memOk.execMatrixPromotion {t : TileId} : NextOk (execMatrixPromotion t s) := by
  fun_cases Sys2Proof.Machine.execMatrixPromotion
  case case2 => exact h.updAt fun _ h => h.setHead
  all_goals exact h

theorem State.memOk.mxWrite {t : TileId} {q : Queue} {c : Cmd} {x : Mx} : (s.mxWrite t q c x).memOk :=
  State.memOk.foldl (h.setTileAt (h.tileAt t).mxWrite.setHead) (fun s r h => by
    split
    · exact h.heal
    · exact h) _

theorem State.memOk.execMatrixCommandComplete {t : TileId} : NextOk (execMatrixCommandComplete t s) := by
  unfold Sys2Proof.Machine.execMatrixCommandComplete
  extract_lets y
  split
  · exact h
  · split
    · exact h
    · split
      · exact h
      · split
        · exact h
        · split
          · exact h
          · extract_lets s1
            have h1 : s1.memOk := by
              unfold s1
              split
              · exact h.mxWrite
              · exact h
            split
            · exact h1.updAt fun _ h => h.completeCmd
            · exact h1

/-! ### Flow sends -/

theorem State.memOk.sendInject {t : TileId} : (s.sendInject t).memOk := by
  fun_cases State.sendInject
  case case2 => exact h.engineLost
  case case3 => exact h.inject.updAt fun _ h => h.setHead
  all_goals exact h

theorem State.memOk.sendStart {t : TileId} : (s.sendStart t).memOk := by
  fun_cases State.sendStart
  case case3 => exact h.sendInject
  case case4 => exact State.memOk.sendInject (h.updAt fun _ h => h.startHead)
  case case5 => exact h.updAt fun _ h => h.noteWait
  all_goals exact h

theorem State.memOk.execFlowSendStart {t : TileId} : NextOk (execFlowSendStart t s) := h.sendStart

theorem State.memOk.execFlowSendComplete {t : TileId} : NextOk (execFlowSendComplete t s) := by
  fun_cases Sys2Proof.Machine.execFlowSendComplete
  case case2 => exact h.updAt fun _ h => h.completeCmd
  all_goals exact h

theorem State.memOk.execEngineCommandStart {t : TileId} {q : Queue} : NextOk (execEngineCommandStart t q s) := by
  fun_cases Sys2Proof.Machine.execEngineCommandStart
  case case5 => exact h.sendStart
  case case6 => exact h.updAt fun _ h => h.acts.popCmd
  case case7 => exact h.updAt fun _ h => h.startHead
  case case8 => exact h.updAt fun _ h => h.noteWait
  all_goals exact h

/-! ### Copies and scouts -/

theorem State.memOk.engineWrite {t : TileId} {q : Queue} {c d : Cmd} {sp : Space} {va : Word} {n v : Nat} :
    (s.engineWrite t q c d sp va n v).memOk := by
  unfold State.engineWrite
  extract_lets tag
  split
  · exact h.engineStop
  · next s1 e =>
    have h1 : s1.memOk := h.resolve.ok e
    split
    · exact h.engineWaits
    · split
      · exact h
      · split
        · exact State.memOk.updAt h1.fresh fun _ h => h.setHead
        · split
          · exact h.engineStop
          · next s2 e =>
            have h2 : s2.memOk := h1.writeAt.ok e
            exact h2.updAt fun _ h => h.setHead

theorem State.memOk.copySector {t : TileId} {q : Queue} {c : Cmd} {d : CopyDesc} {side : Bool} : (s.copySector t q c d side).memOk := by
  unfold State.copySector
  extract_lets x src dst
  split
  · exact h.engineStop
  · next s1 e =>
    have h1 : s1.memOk := h.resolve.ok e
    split
    · exact h.engineWaits
    · split
      · exact h
      · split
        · exact h.engineStop
        · split
          · exact State.memOk.heal (h1.updAt fun _ h => (h.setSide (Mem.wf_writeN _ _ _ h.side)).setHead)
          · exact h1.engineWrite

theorem State.memOk.execCopySector {t : TileId} {q : Queue} : NextOk (execCopySector t q s) := by
  fun_cases Sys2Proof.Machine.execCopySector
  case case3 => exact h.copySector
  all_goals exact h

theorem State.memOk.execCopyComplete {t : TileId} {q : Queue} : NextOk (execCopyComplete t q s) := by
  fun_cases Sys2Proof.Machine.execCopyComplete
  case case4 => exact h.updAt fun _ h => h.completeCmd
  case case5 => exact h.engineStop
  case case7 => exact h.barMeet.updAt fun _ h => h.completeCmd
  all_goals exact h

theorem State.memOk.execScoutLeaf {t : TileId} : NextOk (execScoutLeaf t s) := by
  fun_cases Sys2Proof.Machine.execScoutLeaf
  case case3 => exact h.engineStop
  case case4 => exact h.engineWrite
  all_goals exact h

theorem State.memOk.execScoutComplete {t : TileId} : NextOk (execScoutComplete t s) := by
  fun_cases Sys2Proof.Machine.execScoutComplete
  case case2 => exact h.updAt fun _ h => h.completeCmd
  all_goals exact h

theorem State.memOk.execQfenceJoinComplete {t : TileId} {q : Queue} : NextOk (execQfenceJoinComplete t q s) := by
  fun_cases Sys2Proof.Machine.execQfenceJoinComplete
  case case2 =>
    refine h.updAt fun x h => Tile.memOk.smSignal (h.foldl (fun x q h => ?_) _)
    split
    · exact h.popCmd
    · exact h
  all_goals exact h

end

end Sys2Proof.Machine
end

section
/-! SUPPORT. Core C and core K keep every memory in canonical form (08 R172 to R200, 09 R200 to R218, 06 R100 to R136). -/

namespace Sys2Proof.Machine

section
variable {s : State} (h : s.memOk)
include h

/-! ### Lost register data -/

theorem State.memOk.regLost {a n : Nat} : GivenOk State.memOk (s.regLost a n) := by
  fun_cases State.regLost
  · trivial
  · exact h.logLost

theorem State.memOk.regPart {rs : List (Nat × Nat)} : GivenOk State.memOk (s.regPart rs) := by
  unfold State.regPart
  cases s.dev.lost.find? fun u => u.code == 2 && u.place == s.cur.val && s.tile.valid u.off && inRanges rs u.off 8 && !coversUnit rs u
  · trivial
  · exact h.logLost

/-! ### Core C -/

theorem State.memOk.healSlot {o : SlotOut} {tr : Bool} : (s.healSlot o tr).memOk := by
  unfold State.healSlot
  split
  · exact h
  · exact State.memOk.foldl (h.foldl (fun _ _ h => h.heal) _) (fun _ _ h => h.heal) _

theorem State.memOk.cStop {ps : List Sequencer} {c : Cause} {a : Word} : (s.cStop ps c a).memOk := by
  refine State.memOk.stopSeq ?_
  split
  · exact h
  · exact h.upd fun _ h => h.reserve

theorem State.memOk.cRun {b : Bundle} : (s.cRun b).memOk := by
  have hIssue : ∀ (ps qs : List Sequencer) (k : BitVec 3) (o : BundleOut),
      (s.upd fun t => (if t.c.resv then t.popToks .c ps else (t.popToks .c ps).reserve .c qs).cIssue k o).memOk := fun ps qs k o =>
    h.upd fun x h => by
      refine Tile.memOk.cIssue ?_
      split
      · exact h.popToks
      · exact h.popToks.reserve
  have hHeal : ∀ (x : Option (SlotOut × Bool)) (z : State), z.memOk →
      (match x with | some r => z.healSlot r.1 r.2 | none => z).memOk := fun x z hz => by
    split
    · exact hz.healSlot
    · exact hz
  fun_cases State.cRun
  · exact h.upd fun _ h => h.cHold
  · exact h.stopSeq
  · exact h.stopSeq
  · exact h.upd fun _ h => h.cHold
  · exact h.upd fun _ h => h.cHold
  · next e =>
    obtain ⟨r, _, hr⟩ := List.exists_of_findSome?_eq_some e
    exact State.memOk.tileError (h.regLost.some hr)
  · exact h.cStop
  · exact State.memOk.healSlot (hHeal _ _ (hIssue ..))
  · exact hHeal _ _ (hIssue ..)

theorem State.memOk.releaseHeld {t : TileId} {book : Bool} : (s.releaseHeld t book).memOk := by
  unfold State.releaseHeld
  extract_lets x
  split
  · exact h
  · extract_lets isBook
    split
    · exact h
    · exact h.updAt fun _ h => Tile.memOk.pushReserved (h.same (by rfl))

/-! ### Accesses and atomics of K -/

theorem State.memOk.kLink {ea : Word} : (s.kLink ea).memOk :=
  h.upd fun _ h => by
    split
    · exact h
    · exact h.same (by rfl)

theorem State.memOk.kAccess {sp : Space} {k : Acc} {ea : Word} {n : Nat} {plain : Bool} {v : Nat} {go : State → Where → State}
    (hgo : ∀ s1 w, s1.memOk → (go s1 w).memOk) : (s.kAccess sp k ea n plain v go).memOk := by
  unfold State.kAccess
  split
  · exact h.kFault
  · split
    · split
      · exact h.kFault
      · next e =>
        split
        · exact h.kWait
        · split
          · exact h.bindFor.kLink
          · exact h.consumed.kFault
          · next e2 => exact State.memOk.kFault ((State.memOk.settStore (h.leafAt.ok e)).done e2)
    · exact h.consumed.kFault
    · next e =>
      split
      · exact h.kWait
      · split
        · exact h.bindFor.kLink
        · exact hgo _ _ (h.resolve.ok e)

theorem State.memOk.kLoad {sp : Space} {d a : Reg} {imm : BitVec 15} : (s.kLoad sp d a imm).memOk :=
  h.kAccess fun s1 w h1 => by
    split
    · exact h.consumed.kFault
    · exact h1.kDone

theorem State.memOk.kStore {sp : Space} {a b : Reg} {imm : BitVec 15} : (s.kStore sp a b imm).memOk :=
  h.kAccess fun s1 w h1 => by
    split
    · exact h.consumed.kFault
    · next e => exact State.memOk.kSkip (h1.writeAt.ok e)

theorem State.memOk.kAtomic {sp : Space} {d a b : Reg} {op : BitVec 4} : (s.kAtomic sp d a b op).memOk :=
  h.kAccess fun s1 w h1 => by
    split
    · exact h.consumed.kFault
    · split
      · exact h.consumed.kFault
      · next e => exact State.memOk.kDone (h1.writeAt.ok e)

theorem State.memOk.kBranch {a b : Reg} {off : BitVec 15} {c : Word → Word → Bool} : (s.kBranch a b off c).memOk := by
  unfold State.kBranch
  split
  · exact h.kJump fun _ h => h
  · exact h.kSkip

theorem State.memOk.kReg {d a b : Reg} {f : Word → Word → Word} : (s.kReg d a b f).memOk := h.kDone

theorem State.memOk.kImm {d a : Reg} {imm : BitVec 15} {f : Word → Word → Word} : (s.kImm d a imm f).memOk := h.kDone

theorem State.memOk.kLit {d : Reg} {v : Word} : (s.kLit d v).memOk := h.upd fun _ h => h.kset.kGo

theorem State.memOk.execJal {off : BitVec 25} : NextOk (execJal off s) := h.kJump fun _ h => h.kset

theorem State.memOk.execJalr {d a : Reg} {imm : BitVec 15} : NextOk (execJalr d a imm s) := by
  fun_cases Sys2Proof.Machine.execJalr
  · exact h.kFault
  · exact h.kJump fun _ h => h.kset

/-! ### Semaphores, records, tokens and fences of K -/

theorem State.memOk.execSmwait {a : Reg} : NextOk (execSmwait a s) := by
  fun_cases Sys2Proof.Machine.execSmwait
  · exact h.kSkip
  · exact h.upd fun _ h => h.smTake.kNext
  · exact h.kWait

theorem State.memOk.execSmsig {a : Reg} : NextOk (execSmsig a s) := h.upd fun _ h => h.smSignal.kNext

theorem State.memOk.execSmset {a b : Reg} : NextOk (execSmset a b s) := h.upd fun _ h => h.smSet.kNext

theorem State.memOk.execEvpop {d : Reg} : NextOk (execEvpop d s) := by
  fun_cases Sys2Proof.Machine.execEvpop
  · exact h.kWait
  · exact h.upd fun _ h => h.popRecord.putRecord.kNext

theorem State.memOk.execEvpeek {d : Reg} : NextOk (execEvpeek d s) := h.upd fun _ h => h.putRecord.kNext

theorem State.memOk.execGres {a b : Reg} : NextOk (execGres a b s) := h.upd fun _ h => (h.same (by rfl)).kNext

theorem State.memOk.execTkpush {a : Reg} {c : BitVec 3} : NextOk (execTkpush a c s) := by
  fun_cases Sys2Proof.Machine.execTkpush
  · exact h.kFault
  · exact h.kWait
  · exact h.upd fun _ h => h.reserve.pushReserved.kNext

theorem State.memOk.execTkpop {d : Reg} {c : BitVec 3} : NextOk (execTkpop d c s) := by
  fun_cases Sys2Proof.Machine.execTkpop
  · exact h.kFault
  · exact h.kWait
  · exact h.upd fun _ h => h.popToks.kset.kNext

theorem State.memOk.execFence {kind scope : BitVec 2} : NextOk (execFence kind scope s) := by
  fun_cases Sys2Proof.Machine.execFence
  · exact h.kWait
  · exact h.kSkip

theorem State.memOk.execQfence {a b : Reg} : NextOk (execQfence a b s) := by
  unfold Sys2Proof.Machine.execQfence
  extract_lets t mask sem
  split
  · exact h.upd fun _ h => h.smSignal.kNext
  · split
    · exact h.kWait
    · exact State.memOk.upd h.fresh fun _ h => (h.same (by rfl)).kNext

/-! ### Barriers and flags of K -/

theorem State.memOk.kBar {a : Reg} {release : Bool} {us : List BarUpd} {d : Reg} : (s.kBar a release us d).memOk := by
  unfold State.kBar
  extract_lets t ea o due
  split
  · exact h.kFault
  split
  · exact h.kFault
  split
  · exact h.kWait
  split
  · exact h.consumed.kFault
  · split
    · exact h.kFault
    · exact State.memOk.kDone (h.barMeet.upd fun _ h => h.same (by rfl))

theorem State.memOk.execBarr {d a b : Reg} : NextOk (execBarr d a b s) := by
  refine State.memOk.kBar ?_
  split
  · exact h
  · exact h.closeBatch

theorem State.memOk.execBard {d a : Reg} : NextOk (execBard d a s) := h.kBar

theorem State.memOk.execBarx {a b : Reg} : NextOk (execBarx a b s) := h.kBar

theorem State.memOk.execBarw {d a b : Reg} : NextOk (execBarw d a b s) := by
  fun_cases Sys2Proof.Machine.execBarw
  · exact h.kFault
  · exact h.kFault
  · exact h.kWait
  · exact h.consumed.kFault
  · exact h.kWait
  · exact h.kDone

theorem State.memOk.kFlag {a : Reg} {tiles : List Nat} {body : Nat → PktBody} : (s.kFlag a tiles body).memOk := by
  unfold State.kFlag
  extract_lets t addr ea
  split
  · exact h.kFault
  split
  · exact h.kFault
  split
  · exact h.kWait
  · exact State.memOk.kSkip (h.closeBatch.foldl (fun _ _ h => h.sendTo) _)

theorem State.memOk.execFlagadd {a b : Reg} : NextOk (execFlagadd a b s) := by
  fun_cases Sys2Proof.Machine.execFlagadd
  · exact h.kSkip
  · exact h.kFlag

theorem State.memOk.execFlagset {a b : Reg} : NextOk (execFlagset a b s) := by
  fun_cases Sys2Proof.Machine.execFlagset
  · exact h.kSkip
  · exact h.kFlag

/-! ### Groups, subscriptions and channels of K -/

theorem State.memOk.grpWrite {self : TileId} {launch : Word} {g n master : Nat} {members : List Nat} {x : GrpTarget} :
    (s.grpWrite self launch g n master members x).memOk := by
  unfold State.grpWrite
  split
  · exact h.updLaunch
  · extract_lets p k c
    split
    · exact h.logSpm
    · exact h.updTask fun _ h => h.setSpm (Mem.wf_setBar _ _ h.spm)

theorem State.memOk.execGrpset {a b : Reg} : NextOk (execGrpset a b s) := by
  fun_cases Sys2Proof.Machine.execGrpset
  · exact h.kFault
  · exact h.kFault
  · exact h.consumed.kFault
  · exact h.kFault
  · exact h.kFault
  · exact h.upd fun _ h => h.same (by rfl)
  · exact State.memOk.kSkip (h.foldl (fun _ _ h => h.grpWrite) _)

theorem State.memOk.subOpen {sub : TileId} {e pubTile size pubBase subBase : Nat} :
    GivenOk (fun r => r.2.memOk) (s.subOpen sub e pubTile size pubBase subBase) := by
  fun_cases State.subOpen
  case case3 => trivial
  case case5 => exact State.memOk.updAt (h.updTask fun _ h => h.same (by rfl)) fun _ h => h.same (by rfl)
  all_goals exact h

theorem State.memOk.subClose {sub : TileId} {d : Reg} {e : Nat} {removed : Option Nat} : (s.subClose sub d e removed).memOk := by
  unfold State.subClose
  extract_lets x ent p s1
  split
  · exact h
  · split
    next stamp s2 q =>
    have h2 : s2.memOk := by
      split at q
      · cases q
        exact h
      · cases q
        exact h.dropPub
    split
    · exact h2.updAt fun _ h => h.same (by rfl)
    · exact h2.updAt fun _ h => Tile.memOk.kNext (Tile.memOk.kset (h.same (by rfl)))

theorem State.memOk.zeroRing {u : TileId} {p : Home} {n : Nat} {as : List Nat} : (s.zeroRing u p n as).memOk := by
  unfold State.zeroRing
  extract_lets s1
  have h1 : s1.memOk := h.updTask fun _ h => h.setSpm (Mem.wf_foldl h.spm _ fun _ _ w => Mem.wf_clear _ _ w)
  split
  · exact h1.foldl (fun _ _ h => h.heal) _
  · exact h1.foldl (fun _ _ h => h.imageWrite) _
  · exact h1

theorem State.memOk.resync {t : TileId} {c : Nat} : GivenOk (fun r => r.2.memOk) (s.resync t c) := by
  fun_cases State.resync
  case case4 => exact State.memOk.updAt (State.memOk.updLaunch (h.zeroRing.updTask fun _ h => h.same (by rfl))) fun _ h => h.same (by rfl)
  all_goals trivial

theorem State.memOk.kAnswer {t : TileId} {d : Reg} {v : Word} : (s.kAnswer t d v).memOk :=
  h.updAt fun _ h => Tile.memOk.kNext (Tile.memOk.kset (h.same (by rfl)))

theorem State.memOk.execSubon {d a b : Reg} : NextOk (execSubon d a b s) := by
  fun_cases Sys2Proof.Machine.execSubon
  · exact h.kFault
  · exact h.kFault
  · exact h.consumed.kFault
  · exact h.kDone
  · exact h.kDone
  · exact h.upd fun _ h => h.same (by rfl)
  · exact h.upd fun _ h => h.same (by rfl)
  · next e => exact State.memOk.kDone (h.subOpen.some e)

theorem State.memOk.execSuboff {d a : Reg} : NextOk (execSuboff d a s) := by
  fun_cases Sys2Proof.Machine.execSuboff
  · exact h.kDone
  · exact h.upd fun _ h => h.same (by rfl)
  · exact State.memOk.subClose (h.upd fun _ h => h.same (by rfl))

theorem State.memOk.execChresync {d a : Reg} : NextOk (execChresync d a s) := by
  fun_cases Sys2Proof.Machine.execChresync
  · exact h.kFault
  · exact h.upd fun _ h => h.same (by rfl)
  · exact h.upd fun _ h => h.same (by rfl)
  · next e => exact State.memOk.kDone (h.resync.some e)

theorem State.memOk.execSubscriptionHandshake {t : TileId} : NextOk (execSubscriptionHandshake t s) := by
  fun_cases Sys2Proof.Machine.execSubscriptionHandshake
  · next e => exact State.memOk.kAnswer (h.subOpen.some e)
  · exact h
  · exact h.subClose
  · exact h

theorem State.memOk.execChresyncHandshake {t : TileId} : NextOk (execChresyncHandshake t s) := by
  fun_cases Sys2Proof.Machine.execChresyncHandshake
  · next e => exact State.memOk.kAnswer (h.resync.some e)
  · exact h
  · exact h

theorem State.memOk.execGrpsetHandshake {t : TileId} : NextOk (execGrpsetHandshake t s) := by
  fun_cases Sys2Proof.Machine.execGrpsetHandshake
  · exact h.updAt fun _ h => Tile.memOk.kNext (h.same (by rfl))
  · exact h
  · exact h.grpWrite.updAt fun _ h => Tile.memOk.kNext (h.same (by rfl))
  · exact h.grpWrite.updAt fun _ h => h.same (by rfl)
  · exact h

/-! ### Setts of K -/

theorem State.memOk.execSinc {d a : Reg} : NextOk (execSinc d a s) := by
  fun_cases Sys2Proof.Machine.execSinc
  · exact h.kDone
  · exact h.kWait
  · exact h.kLink
  · exact h.consumed.kFault
  · exact h.incSlot.kDone

theorem State.memOk.execSrel {d a : Reg} : NextOk (execSrel d a s) := by
  fun_cases Sys2Proof.Machine.execSrel
  · exact h.kDone
  · exact h.kWait
  · exact h.kLink
  · exact h.consumed.kFault
  · exact h.release.kDone

theorem State.memOk.execSroot {d a b : Reg} : NextOk (execSroot d a b s) := by
  refine h.kAccess fun s1 w h1 => ?_
  split
  · exact h.kWait
  · split
    · exact h.consumed.kFault
    · split
      · exact h.consumed.kFault
      · split
        · exact h1.kDone
        · split
          · exact h.consumed.kFault
          · extract_lets s2
            have h2 : s2.memOk := by
              unfold s2
              split
              · exact h1.incSlot
              · exact h1
            split
            · exact h.kFault
            · next s3 e =>
              have h3 : s3.memOk := h2.writeAt.ok e
              refine State.memOk.kDone ?_
              split
              · exact h3
              · exact h3.release

/-! ### System registers, traps and stopped sequencers -/

theorem State.memOk.execSrrd {d a : Reg} : NextOk (execSrrd d a s) := h.kDone

theorem State.memOk.execSrwr {a b : Reg} : NextOk (execSrwr a b s) := by
  fun_cases Sys2Proof.Machine.execSrwr
  · exact h.upd fun _ h => Tile.memOk.kNext (h.same (by rfl))
  · exact h.upd fun _ h => Tile.memOk.kNext (h.same (by rfl))
  · exact h.kFault
  · exact h.kFault

theorem State.memOk.execSqrd {d a b : Reg} : NextOk (execSqrd d a b s) := by
  fun_cases Sys2Proof.Machine.execSqrd
  · exact h.kFault
  · exact h.kDone

theorem State.memOk.execSqres {a : Reg} : NextOk (execSqres a s) := by
  fun_cases Sys2Proof.Machine.execSqres
  · exact h.kFault
  · refine h.upd fun x h => Tile.memOk.kNext ?_
    split
    · exact h.unstop
    · exact h
  · exact h.kSkip
  · refine h.upd fun x h => Tile.memOk.kNext ?_
    split
    · split
      · exact h.setHead
      · exact h
    · exact h

theorem State.memOk.execSqskip {a : Reg} : NextOk (execSqskip a s) := by
  fun_cases Sys2Proof.Machine.execSqskip
  · exact h.kFault
  · refine h.upd fun x h => Tile.memOk.kNext ?_
    split
    · exact h
    · split
      · exact h.skipC
      · exact h.skipLs
  · exact h.kSkip
  · refine h.upd fun x h => Tile.memOk.kNext ?_
    split
    · exact h.popCmd
    · exact h

theorem State.memOk.execTrap {a : Reg} : NextOk (execTrap a s) :=
  h.upd fun x h => by
    split
    · exact h.kRaise
    · exact h.kRaise.setClk

theorem State.memOk.execEret : NextOk (execEret s) := by
  fun_cases Sys2Proof.Machine.execEret
  · exact h.kFault
  · exact h.kFault
  · exact h.upd fun _ h => Tile.memOk.kGo (h.same (by rfl))
  · exact h.upd fun _ h => h.kNext.same (by rfl)
  · exact h.upd fun _ h => h.kNext.enterFor

theorem State.memOk.trapNow {t : TileId} : (s.trapNow t).memOk := by
  fun_cases State.trapNow
  · exact h
  · exact h
  · exact h.updAt fun _ h => Tile.memOk.enterFor (h.same (by rfl))

theorem State.memOk.execYield : NextOk (execYield s) := by
  fun_cases Sys2Proof.Machine.execYield
  · exact h.kSkip
  · exact h.kSkip
  · exact h.kSkip.preempt

theorem State.memOk.execExit : NextOk (execExit s) :=
  h.upd fun x h => by
    split
    · exact h.same (by rfl)
    · exact h.same (by rfl)

end

end Sys2Proof.Machine
end

section
/-! SUPPORT. Cores L and S keep every memory in canonical form (04 R70, R77, 07 R137 to R169): what their issue does with
what a word asks for, then the words. -/

namespace Sys2Proof.Machine

/-- The states that a word of L or S may be left with have their memories in canonical form. -/
def Issue.memOk : Issue → Prop
  | .stall s => s.memOk
  | .held s => s.memOk
  | .stop s _ _ => s.memOk
  | .next s _ => s.memOk
  | .jump s _ _ => s.memOk
  | .loop s _ _ => s.memOk
  | .pending s => s.memOk
  | _ => True

section
variable {s : State} (h : s.memOk)
include h

/-! ### Issue -/

theorem State.memOk.lsHold {q : Sequencer} {now : Nat} : (s.upd fun t => t.lsHold q now).memOk := h.upd fun _ h => h.lsHold

theorem State.memOk.lsStop {q : Sequencer} {ps : List Sequencer} {c : Cause} {a : Word} : (s.lsStop q ps c a).memOk := by
  unfold State.lsStop
  refine State.memOk.stopSeq ?_
  split
  · exact h
  · exact h.upd fun _ h => h.reserve

theorem State.memOk.lsRun {q : Sequencer} {f : LSF} {regs : List Reg} {preds : List (BitVec 3)} {body : State → Issue}
    (hbody : ∀ z, z.memOk → (body z).memOk) : (s.lsRun q f regs preds body).memOk := by
  unfold State.lsRun
  extract_lets t now pops ps resv s1 clk
  split
  · exact h.lsHold
  split
  · exact h.upd fun _ h => h.lsNext
  split
  · exact h.lsHold
  split
  · split
    · exact h.stopSeq
    · exact h.lsHold
  split
  · exact h.lsHold
  have h1 : s1.memOk := h.upd fun x h => by
    split
    · exact h.popFor
    · exact h.popFor.reserve
  have hi := hbody s1 h1
  generalize body s1 = i at hi
  split
  · exact h.lsHold
  · exact h.bindTag.upd fun _ h => h.lsHold.setLsState
  · exact State.memOk.lsHold hi
  · exact hi
  · split
    · exact h.consumed.lsStop
    · exact h.lsHold
  · split
    · exact State.memOk.lsStop hi
    · exact h.lsHold
  · exact State.memOk.upd hi fun _ h => h.pushReserved.lsNext
  · split
    · exact State.memOk.upd hi fun _ h => h.pushReserved.lsGo
    · split
      · exact h.lsStop
      · exact h.lsHold
  · split
    · exact State.memOk.upd hi fun _ h => h.pushReserved.lsGo
    · split
      · exact h.lsStop
      · exact h.lsHold
  · exact State.memOk.upd hi fun _ h => h.lsNext

theorem State.memOk.launchReq {before : State} {q : Sequencer} {f : LSF} {kind : ReqKind} {ps : List Piece} {finished defer : Bool} :
    (s.launchReq before q f kind ps finished defer).memOk := by
  unfold State.launchReq
  extract_lets t
  split
  next id s1 e =>
  have h1 : s1.memOk := h.fresh.snd e
  extract_lets r s2
  have h2 : s2.memOk := h1.upd fun _ h => h.same (by rfl)
  split
  · exact h2
  · exact h2.tryAll

theorem State.memOk.sysRelease {f : LSF} {ordered : Bool} : GivenOk Issue.memOk (s.sysRelease f ordered) := by
  unfold State.sysRelease
  split
  · split
    · split
      · refine State.memOk.upd (State.memOk.stopSeq ?_) fun _ h => h.same (by rfl)
        split
        · exact h
        · exact h.upd fun _ h => h.reserve
      · trivial
    · split
      · trivial
      · trivial
  · trivial

theorem State.memOk.sRun {f : LSF} {regs : List Reg} {preds : List (BitVec 3)} {body : State → Issue}
    (hbody : ∀ z, z.memOk → (body z).memOk) : (s.sRun f regs preds body).memOk :=
  h.lsRun fun z hz => by
    split
    · next e => exact h.sysRelease.some e
    · exact hbody z hz

/-! ### Commands -/

theorem State.memOk.lsDesc {f : LSF} {q : Queue} {n : Nat} {check : Nat → DescRes} : (s.lsDesc f q n check).memOk :=
  h.lsRun fun z hz => by
    extract_lets t clk
    split
    · trivial
    · split
      · next e => exact h.regLost.some e
      · split
        · trivial
        · exact hz.upd fun _ h => h.pushCmd

theorem State.memOk.execPfh {f : LSF} : NextOk (execPfh f s) :=
  h.lsRun fun z hz => by
    extract_lets t c
    split
    · trivial
    · exact hz.upd fun _ h => h.pushCmd

theorem State.memOk.lsSend {f : LSF} {r2 : Option Nat} {seq : Tile → BitVec 16} : (s.lsSend f r2 seq).memOk :=
  h.sRun fun z hz => by
    extract_lets t w g c
    split
    · trivial
    · split
      · trivial
      · exact hz.upd fun _ h => h.pushCmd

/-! ### Channels, work lists, far counters and lookups -/

theorem State.memOk.chanSend {t : TileId} {c : Nat} : (s.chanSend t c).memOk := by
  fun_cases State.chanSend
  case case4 => exact h.sendTo.updAt fun _ h => h.endReq.same (by rfl)
  all_goals exact h

theorem State.memOk.execChsend {f : LSF} : NextOk (execChsend f s) :=
  h.sRun fun z hz => by
    extract_lets t c x
    split
    · trivial
    · split
      · trivial
      · split
        · exact h.upd fun _ h => h.same (by rfl)
        · split
          · trivial
          · split
            · next e => exact h.regLost.some e
            · extract_lets data z2
              have h2 : z2.memOk := State.memOk.launchReq (hz.upd fun _ h => h.same (by rfl))
              change State.memOk (if _ then _ else _)
              split
              · exact h2
              · exact h2.chanSend

theorem State.memOk.execChrecv {f : LSF} : NextOk (execChrecv f s) :=
  h.lsRun fun z hz => by
    extract_lets t c x
    split
    · trivial
    · split
      · trivial
      · split
        · exact h.upd fun _ h => h.same (by rfl)
        · split
          · trivial
          · extract_lets a
            split
            · trivial
            · split
              · trivial
              · exact State.memOk.sendTo (State.memOk.heal (hz.upd fun _ h => h.rwrite.mark.same (by rfl)))

theorem State.memOk.appendArrives {t : TileId} : (s.appendArrives t).memOk := by
  fun_cases State.appendArrives
  case case4 => exact State.memOk.updAt (h.same (by rfl)) fun _ h => h.endReq
  all_goals exact h

theorem State.memOk.popArrives {t : TileId} : (s.popArrives t).memOk := by
  fun_cases State.popArrives
  case case5 => exact State.memOk.updAt (h.same (by rfl)) fun _ h => h.setResult.endReq
  all_goals exact h

theorem State.memOk.execWlapp {f : LSF} : NextOk (execWlapp f s) :=
  h.sRun fun z hz => by
    extract_lets t d n z2
    split
    · split
      · trivial
      · split
        · trivial
        · have h2 : z2.memOk := hz.launchReq
          change State.memOk (if _ then _ else _)
          split
          · exact h2
          · exact h2.appendArrives
    · trivial

theorem State.memOk.execWlpop {f : LSF} : NextOk (execWlpop f s) :=
  h.lsRun fun z hz => by
    extract_lets t d n z2
    split
    · split
      · exact hz.upd fun _ h => h.setLs.setPred
      · split
        · trivial
        · split
          · have h2 : z2.memOk := hz.launchReq
            change State.memOk (if _ then _ else _)
            split
            · exact h2
            · exact h2.popArrives
          · trivial
    · trivial

theorem State.memOk.execFacc {f : LSF} : NextOk (execFacc f s) :=
  h.lsRun fun z hz => by
    extract_lets t ea n
    split
    · trivial
    · split
      · trivial
      · split
        · next e => exact State.memOk.launchReq ((Plan.memOk.add (p := .ok [] z) hz).ok e)
        · trivial
        · trivial

theorem State.memOk.lsLook {f : LSF} {interior : Bool} : (s.lsLook f interior).memOk :=
  h.sRun fun z hz => by
    extract_lets t line
    split
    · trivial
    · split
      · trivial
      · split
        · next e => exact h.regLost.some e
        · split
          · trivial
          · trivial
          · next e => exact State.memOk.upd (hz.lookup.ok e) fun _ h => h.setLs.mark

/-! ### Loads, stores and atomics -/

theorem State.memOk.lsSettWrite {va : Word} {n v : Nat} {plain : Bool} : (s.lsSettWrite va n v plain).memOk := by
  fun_cases State.lsSettWrite
  case case4 l z e z2 e2 => exact (State.memOk.settStore (h.leafAt.ok e)).done e2
  all_goals trivial

theorem State.memOk.planRefuse {p : Plan} {q : Sequencer} {va : Word} {n v : Nat} {plain : Bool} : (p.refuse s q va n v plain).memOk := by
  fun_cases Plan.refuse
  case case1 => exact h.lsSettWrite
  all_goals trivial

theorem State.memOk.lsLoad {sp : Space} {m : AMode} {wd : Width} {f : LSF} : (s.lsLoad sp m wd f).memOk :=
  h.lsRun fun z hz => by
    extract_lets ea
    split
    · trivial
    split
    · trivial
    split
    · trivial
    split
    · next e => exact State.memOk.launchReq (State.memOk.upd (hz.planSectors.ok e) fun _ h => h.postInc)
    · exact h.planRefuse

theorem State.memOk.lsLoadName {m : AMode} {wd : Width} {f : LSF} : (s.lsLoadName m wd f).memOk :=
  h.lsRun fun z hz => by
    extract_lets t name off
    split
    · trivial
    split
    · trivial
    split
    · trivial
    · exact State.memOk.launchReq (hz.upd fun _ h => h.postInc)

theorem State.memOk.lsAccept {z : State} {f : LSF} {sp : Space} {ps : List Piece} (hz : z.memOk) : (s.lsAccept z f sp ps).memOk := by
  unfold State.lsAccept
  split
  · next e => exact hz.sysRelease.some e
  · split
    · exact h.launchReq
    · exact h.launchReq

theorem State.memOk.lsStore {sp : Space} {m : AMode} {wd : Width} {f : LSF} : (s.lsStore sp m wd f).memOk :=
  h.lsRun fun z hz => by
    extract_lets ea v
    split
    · trivial
    split
    · next e => exact h.regLost.some e
    split
    · trivial
    split
    · trivial
    split
    · next e => exact State.memOk.lsAccept (State.memOk.upd (hz.planSectors.ok e) fun _ h => h.postInc) h
    · exact h.planRefuse

theorem State.memOk.planElems {q : Sequencer} {sp : Space} {k : Acc} {f : LSF} {v : Nat} : (s.planElems q sp k f v).memOk := by
  refine List.foldlRecOn (motive := Plan.memOk) _ _ h fun p hp e _ => ?_
  extract_lets off ea
  split
  · exact hp
  · split
    · split
      · trivial
      · exact hp.add
    · exact hp

theorem State.memOk.lsGather {sp : Space} {f : LSF} : (s.lsGather sp f).memOk :=
  h.lsRun fun z hz => by
    split
    · trivial
    split
    · next e => exact h.regLost.some e
    split
    · next e => exact hz.planElems.ok e
    · next e =>
      split
      · next e => exact h.regPart.some e
      · exact State.memOk.launchReq (hz.planElems.ok e)
    · exact h.planRefuse

theorem State.memOk.lsScatter {sp : Space} {f : LSF} : (s.lsScatter sp f).memOk :=
  h.lsRun fun z hz => by
    extract_lets v
    split
    · trivial
    split
    · next e =>
      rcases Option.or_eq_some_iff.1 e with e | ⟨_, e⟩
      · exact h.regLost.some e
      · exact h.regLost.some e
    split
    · next e =>
      split
      · next e => exact h.sysRelease.some e
      · exact hz.planElems.ok e
    · next e => exact State.memOk.lsAccept (hz.planElems.ok e) h
    · exact h.planRefuse

theorem State.memOk.lsAtomic {sp : Space} {op : BitVec 4} {f : LSF} : (s.lsAtomic sp op f).memOk :=
  h.lsRun fun z hz => by
    extract_lets t ea n
    split
    · trivial
    split
    · next e =>
      split
      · next e => exact h.sysRelease.some e
      · exact State.memOk.launchReq ((Plan.memOk.add (p := .ok [] z) hz).ok e)
    · exact h.planRefuse

/-! ### Registers and control -/

theorem State.memOk.lsSet {q : Sequencer} {f : LSF} {srcs : List Reg} {v : Tile → Word} : (s.lsSet q f srcs v).memOk :=
  h.lsRun fun _ hz => hz.upd fun _ h => h.setLs

theorem State.memOk.lsCmp {q : Sequencer} {f : LSF} {v : Word → Word → Bool} : (s.lsCmp q f v).memOk :=
  h.lsRun fun _ hz => hz.upd fun _ h => h.setPred

theorem State.memOk.lsBranch {q : Sequencer} {f : LSF} : (s.lsBranch q f).memOk :=
  h.lsRun fun z hz => by
    split
    · exact hz
    · exact hz

theorem State.memOk.lsJump {q : Sequencer} {f : LSF} : (s.lsJump q f).memOk := h.lsRun fun _ hz => hz

theorem State.memOk.lsLoop {q : Sequencer} {f : LSF} : (s.lsLoop q f).memOk :=
  h.lsRun fun z hz => by
    extract_lets t w off x
    split
    · trivial
    · split
      · trivial
      · exact hz

end

end Sys2Proof.Machine
end

section
/-! SUPPORT. Records, the end of a task and the end of a launch keep every memory in canonical form (15 R320 to R326, 10 R243 to R245,
18 R366, R368). -/

namespace Sys2Proof.Machine

/-- What the end of a launch drops from a tile. -/
theorem Tile.memOk.dropLaunch {x : Tile} (h : x.memOk) {p : Carve → Bool} {q : Kept → Bool} :
    Tile.memOk { x with carves := x.carves.filter p, kept := x.kept.filter q } :=
  (h.setCarves fun c hc => h.carves c (List.mem_of_mem_filter hc)).setKept fun k hk => h.kept k (List.mem_of_mem_filter hk)

theorem Tile.memOk.resolveGuards {x : Tile} (h : x.memOk) : x.resolveGuards.memOk := h.same (by rfl)

section
variable {s : State} (h : s.memOk)
include h

/-! ### What the control plane writes -/

theorem State.memOk.physWrite {p : Word} {n v : Nat} : (s.physWrite p n v).memOk := by
  unfold State.physWrite
  split
  · exact h
  · split
    · exact h.setHost (Mem.wf_writeN _ _ _ h.host)
    · exact h.writeHbm

theorem State.memOk.ctlWrite {tag : BitVec 12} {id : Word} {sp : Space} {va : Word} {n v : Nat} : (s.ctlWrite tag id sp va n v).1.memOk := by
  fun_cases State.ctlWrite
  · exact h.bindTag.failed
  · exact h.bindTag.failed
  · next e => exact h.bindTag.writeAt.ok e

theorem State.memOk.writeRecord {id : Word} : (s.writeRecord id).memOk := by
  unfold State.writeRecord
  split
  · exact h.physWrite
  · exact h

theorem State.memOk.moveLaunch {id : Word} {st : LState} {f : Launch → Launch} : (s.moveLaunch id st f).memOk := by
  unfold State.moveLaunch
  extract_lets s1
  have h1 : s1.memOk := h.updLaunch
  split
  · exact h1.physWrite
  · exact h1

theorem State.memOk.foldChain {id : Word} {q record : Nat} : (s.foldChain id q record).memOk := h.same (by rfl)

theorem State.memOk.traceAdd {id : Word} {d : DieId} {r : BitVec 128} : (s.traceAdd id d r).1.memOk := by
  fun_cases State.traceAdd
  · exact h
  · exact h
  · next e => exact h.ctlWrite.fst e
  · next e => exact (h.ctlWrite.fst e).updLaunch

theorem State.memOk.traceHeaders {id : Word} : (s.traceHeaders id).1.memOk := by
  unfold State.traceHeaders
  split
  · exact h
  · split
    · exact h
    · refine List.foldlRecOn (motive := fun a : State × Bool => a.1.memOk) _ _ h fun a ha d _ => ?_
      split
      · exact ha
      · exact State.memOk.ctlWrite ha

theorem State.memOk.countRetire {t : TileId} {x : Tile} {status guarded : Nat} : (s.countRetire t x status guarded).1.memOk := by
  unfold State.countRetire
  split
  · exact h
  · exact h.updLaunch.traceAdd

/-! ### The end of a launch -/

theorem State.memOk.dropSlots : s.dropSlots.memOk := by
  unfold State.dropSlots
  split
  · exact h
  · exact h.same (by rfl)

theorem State.memOk.releaseLaunch {id : Word} : (s.releaseLaunch id).memOk := by
  refine State.memOk.updLaunch (State.memOk.dropSlots ?_)
  exact State.memOk.same ((h.filterSaves (p := fun v => v.launch != id)).mapTiles (f := fun x => { x with
      matchT := x.matchT.filter fun e => e.launch != id
      waves := x.waves.filter fun w => w.launch != id
      acc := x.acc.filter fun a => a.launch != id
      carves := x.carves.filter fun c => c.launch != id
      kept := x.kept.filter fun k => k.launch != id }) fun x h => h.dropLaunch.same (by rfl)) (by rfl)

theorem State.memOk.endLaunch {id : Word} {st : LState} {reason : Nat} {digest : Word} : (s.endLaunch id st reason digest).memOk := by
  unfold State.endLaunch
  extract_lets s1
  have h1 : s1.memOk := h.updLaunch
  split
  · exact h1.writeRecord.foldChain.releaseLaunch
  · exact h1

/-! ### The end of a task -/

theorem State.memOk.closeEntries {t : TileId} : (s.closeEntries t).memOk := by
  unfold State.closeEntries
  extract_lets x s1
  have h1 : s1.memOk := h.foldl (fun s e h => by
    split
    · exact h.dropPubAt
    · exact h) _
  exact h1.foldl (fun s p h => by
    split
    · exact h.updTask fun _ h => h.same (by rfl)
    · exact h) _

theorem State.memOk.landAccepted {t : TileId} : (s.landAccepted t).memOk := by
  refine h.foldl (fun s w h => ?_) _
  split
  · split
    · next e => exact h.writeAt.ok e
    · exact h
  · exact h

theorem State.memOk.disown {t : TileId} : (s.disown t).memOk := h.same (by rfl)

theorem State.memOk.vacate {t : TileId} : (s.vacate t).memOk := h.disown.landAccepted.barFlush.closeBatch.closeEntries.updAt fun _ h => h.leave

theorem State.memOk.logKill {t : TileId} {x : Tile} {cause : Nat} {q : Sequencer} {pc : Word} : (s.logKill t x cause q pc).memOk := h.logOn

theorem State.memOk.killAborted {id : Word} : (s.killAborted id).memOk := by
  unfold State.killAborted
  extract_lets s1
  have h1 : s1.memOk := by
    refine h.foldl (fun s i h => ?_) _
    extract_lets t x
    split
    · exact h.logKill.countRetire.vacate
    · exact h
  refine h1.foldl (fun s v h => ?_) _
  split
  · exact h.logKill.countRetire
  · exact h

theorem State.memOk.abort {id : Word} {reason : Nat} : (s.abort id reason).memOk := h.killAborted.endLaunch

theorem State.memOk.retireTask {t : TileId} {status guarded : Nat} : (s.retireTask t status guarded).memOk := by
  unfold State.retireTask
  extract_lets x id
  split
  next z ok e =>
  extract_lets z1
  have h1 : z1.memOk := (h.countRetire.fst e).vacate
  split
  · exact h1.abort
  · split
    · split
      · exact h1.abort
      · exact h1
    · exact h1

theorem State.memOk.killTask {t : TileId} {k : Kill} : (s.killTask t k).memOk := by
  unfold State.killTask
  extract_lets x s1
  have h1 : s1.memOk := by
    unfold s1
    split
    · exact h
    · exact h.logKill
  exact h1.retireTask

theorem State.memOk.killNow {t : TileId} : (s.killNow t).memOk := by
  fun_cases State.killNow
  · exact h
  · exact h.killTask
  · exact h

theorem State.memOk.execTaskRetire {t : TileId} : NextOk (execTaskRetire t s) := by
  fun_cases Sys2Proof.Machine.execTaskRetire
  case case2 => exact h.killNow
  case case3 => exact h.killTask
  case case5 => exact h.setTileAt (h.tileAt t).resolveGuards
  case case6 => exact h.closeBatch
  case case7 => exact h.barFlush
  case case9 => exact h.killTask
  case case11 =>
    change State.memOk (if _ then _ else _)
    split
    · exact h
    · exact h.closeEntries
  case case13 => exact h.retireTask
  all_goals exact h

end

end Sys2Proof.Machine
end

section
/-! SUPPORT. From a queue's tail to the seal of a launch every memory stays in canonical form: acceptance, staging, placement, task start, save and
restore (15 R307 to R324, 18 R369 to R376), and the waits that end early (10 R232 to R241, 12 R282). -/

namespace Sys2Proof.Machine

/-! ### What a task starts with -/

theorem wf_startGroup {m : Mem} (i : Nat) (g : Group) (w : m.wf = true) : (startGroup i m g).wf = true := by
  unfold startGroup
  split
  · exact Mem.wf_setBar _ _ w
  · exact w

theorem Tile.memOk.launchState {x : Tile} (h : x.memOk) {l : Launch} {i : Image} {t : Nat} : (x.launchState l i t).spm.wf = true := by
  unfold Tile.launchState
  split
  · exact h.spm
  · split
    · next e => exact h.kept _ (List.mem_of_find?_eq_some e)
    · rfl

theorem Tile.memOk.keepOld {x : Tile} (h : x.memOk) {s : State} {launch : Word} : ∀ k ∈ s.keepOld x launch, k.spm.wf = true := by
  have others : ∀ k ∈ x.kept.filter fun k => k.launch != launch, k.spm.wf = true := fun k hk => h.kept k (List.mem_of_mem_filter hk)
  unfold State.keepOld
  extract_lets _ alive
  intro k hk
  split at hk
  · rcases List.mem_cons.1 hk with rfl | hk
    · exact h.spm
    · exact others k hk
  · exact others k hk

section
variable {s : State} (h : s.memOk)
include h

/-! ### Acceptance -/

theorem State.memOk.updQueue {q : Nat} {f : CmdQueue → CmdQueue} : (s.updQueue q f).memOk := h.same (by rfl)

theorem State.memOk.execTailWrite {q : QueueId} : NextOk (execTailWrite q s) := by
  fun_cases Sys2Proof.Machine.execTailWrite
  · exact h.updQueue
  · exact h

theorem State.memOk.advanceHead {q : Nat} : (s.advanceHead q).memOk := h.updQueue.physWrite

theorem State.memOk.capture {l : Launch} : (s.capture l).2.2.memOk := by
  fun_cases State.capture
  · exact h
  · exact h
  · exact h.updQueue

theorem State.memOk.admitLaunch {c : Checked} : (s.admitLaunch c).2.memOk := by
  have hc := h.capture (l := c.l)
  unfold State.admitLaunch
  split
  next e =>
  rw [e] at hc
  exact hc

theorem State.memOk.accept {q : Nat} : (s.accept q).memOk := by
  have add : ∀ (z : State) (l : Launch), z.memOk → ((z.updDev fun d => { d with launches := d.launches ++ [l] }).advanceHead q).memOk :=
    fun z l hz => State.memOk.advanceHead (hz.same (by rfl))
  fun_cases State.accept
  · exact (add _ _ h.bindTag).writeRecord
  · exact (add _ _ h.bindTag).endLaunch
  · exact (add _ _ h.bindTag.admitLaunch).writeRecord
  · exact (add _ _ h.bindTag).endLaunch

theorem State.memOk.execCommandAccept {q : QueueId} : NextOk (execCommandAccept q s) := by
  change State.memOk (if _ then _ else _)
  split
  · exact h.accept.same (by rfl)
  · exact h

/-! ### Staging -/

theorem State.memOk.inputSector {l : Launch} {d : CopyDesc} {i : Nat} : GivenOk (fun r => r.1.memOk) (s.inputSector l d i) := by
  fun_cases State.inputSector
  case case2 | case5 => trivial
  case case7 e => exact State.memOk.noteRequest (State.memOk.noteRequest (h.writeAt.ok e))
  all_goals exact h.failed

theorem State.memOk.stageSector {l : Launch} : (s.stageSector l).memOk := by
  fun_cases State.stageSector
  · exact h
  · exact h.bindTag
  · next e => exact State.memOk.updLaunch (h.bindTag.inputSector.some e)
  · next e => exact State.memOk.abort (h.bindTag.inputSector.some e)

theorem State.memOk.execTransferCommand {id : Word} : NextOk (execTransferCommand id s) := by
  fun_cases Sys2Proof.Machine.execTransferCommand
  case case3 =>
    change State.memOk (if _ then _ else _)
    split
    · exact h.moveLaunch
    · exact h
  case case4 => exact h.endLaunch
  case case5 => exact h.stageSector
  all_goals exact h

theorem State.memOk.installFlow {l : Launch} {e : BitVec 512} : (s.installFlow l e).memOk := h.same (by rfl)

theorem State.memOk.addCarve {t : TileId} {id : Word} {n : Nat} : (s.updAt t fun x => { x with carves := x.carves ++ [⟨id, n, []⟩] }).memOk :=
  h.updAt fun x h => h.setCarves fun c hc => by
    rcases List.mem_append.1 hc with hc | hc
    · exact h.carves c hc
    · rw [List.mem_singleton.1 hc]
      rfl

theorem State.memOk.stage {l : Launch} : (s.stage l).memOk := by
  unfold State.stage
  extract_lets s1 s2 i s3
  have h1 : s1.memOk := h.foldl (fun _ _ h => by exact h.addCarve.fitHub) _
  have h2 : s2.memOk := h1.foldl (fun _ _ h => by exact h.same (by rfl)) _
  exact State.memOk.foldl h2.moveLaunch (fun _ _ h => h.installFlow) _

theorem State.memOk.execLaunchStaging {id : Word} : NextOk (execLaunchStaging id s) := by
  fun_cases Sys2Proof.Machine.execLaunchStaging
  case case3 => exact h.stage
  case case6 => exact h.stageSector
  all_goals exact h

theorem State.memOk.execLaunchReady {id : Word} : NextOk (execLaunchReady id s) := by
  fun_cases Sys2Proof.Machine.execLaunchReady
  · exact h
  · exact h
  · exact h.moveLaunch

/-! ### Placement and start -/

theorem State.memOk.placeTask {l : Launch} {t : TileId} {i : Nat} : (s.placeTask l t i).memOk := by
  unfold State.placeTask
  extract_lets s1 f
  have h1 : s1.memOk := h.updAt fun _ h => h.same (by rfl)
  split
  · exact h1.moveLaunch
  · exact h1.updLaunch

theorem State.memOk.execTaskPlacement {t : TileId} : NextOk (execTaskPlacement t s) := by
  fun_cases Sys2Proof.Machine.execTaskPlacement
  case case3 => exact h.updLaunch
  case case5 =>
    refine State.memOk.placeTask ?_
    change State.memOk (if _ then _ else _)
    split
    · exact h
    · exact h.updLaunch
  all_goals exact h

theorem State.memOk.writeMap {l : Launch} {ps : List (Nat × TileId)} : (s.writeMap l ps).1.memOk := by
  refine List.foldlRecOn (motive := fun a : State × Bool => a.1.memOk) _ _ h fun a ha p _ => ?_
  split
  · exact ha
  · exact State.memOk.ctlWrite ha

theorem State.memOk.mapTasks {l : Launch} : (s.mapTasks l).memOk := by
  fun_cases State.mapTasks
  · next e => exact (h.writeMap.fst e).abort
  · next e _ _ _ _ _ =>
    refine State.memOk.foldl (State.memOk.foldl (h.writeMap.fst e).updLaunch (fun _ _ h => h.installFlow) _) (fun s p h => ?_) _
    split
    · exact h.placeTask
    · exact h

theorem State.memOk.execReadySignal {id : Word} {die : DieId} : NextOk (execReadySignal id die s) := by
  fun_cases Sys2Proof.Machine.execReadySignal
  · exact h
  · exact h
  · exact h.updLaunch
  · exact h.updLaunch.mapTasks

theorem State.memOk.freshTile {t : TileId} {spm : Bool} : (s.freshTile t spm).memOk := h.same (by rfl)

theorem State.memOk.startTile {t : TileId} : (s.startTile t).memOk := by
  unfold State.startTile
  extract_lets x
  split
  · exact h
  split
  · exact h
  extract_lets i p y s1 n s2
  have hx : x.memOk := h.tileAt t
  have hy : y.memOk := ⟨Mem.wf_foldl hx.launchState _ fun m g w => wf_startGroup _ _ w, rfl, rfl, hx.carves, hx.keepOld⟩
  have h2 : s2.memOk := (h.freshTile.setTileAt hy).updLaunch
  split
  · next e => exact h2.traceAdd.fst e
  · next e => exact (h2.traceAdd.fst e).abort

theorem State.memOk.execTaskStart {t : TileId} : NextOk (execTaskStart t s) := by
  fun_cases Sys2Proof.Machine.execTaskStart
  case case4 =>
    refine State.memOk.foldl h (fun s u h => ?_) _
    split
    · exact h
    · exact h.startTile
  all_goals exact h

/-! ### Preemption, save and restore -/

theorem State.memOk.execPreemption {t : TileId} : NextOk (execPreemption t s) := by
  fun_cases Sys2Proof.Machine.execPreemption
  · exact h.preempt
  · exact h

theorem State.memOk.takeSend {t : TileId} : (s.takeSend t).memOk := by
  unfold State.takeSend
  split
  · refine State.memOk.updAt (h.same (by rfl)) fun x h => ?_
    split
    · exact h.setHead
    · exact h
  · exact h

theorem State.memOk.addSave {v : Save} (hv : v.img.memOk) : (s.updDev fun d => { d with saves := d.saves ++ [v] }).memOk :=
  h.setSaves fun w hw => by
    rcases List.mem_append.1 hw with hw | hw
    · exact h.saves w hw
    · rw [List.mem_singleton.1 hw]
      exact hv

theorem State.memOk.saveTask {t : TileId} {slot : Nat} {w : Word} {k : Task} : (s.saveTask t slot w k).memOk := by
  unfold State.saveTask
  extract_lets s1 img s2 s3 s4 s5
  have h1 : s1.memOk := h.takeSend
  have hi : img.memOk := (h1.tileAt t).asSaved
  have h3 : s3.memOk := h1.storeImage.addSave hi
  have h5 : s5.memOk := h3.updLaunch.updAt fun _ h => h.emptied
  split
  · split
    · exact h5.updLaunch
    · exact h5
  · exact h5

theorem State.memOk.execContextImageSaved {t : TileId} : NextOk (execContextImageSaved t s) := by
  fun_cases Sys2Proof.Machine.execContextImageSaved
  · exact h.killNow
  · exact h
  · exact h.updAt fun _ h => h.same (by rfl)
  · exact h.saveTask
  · exact h

theorem State.memOk.restore {v : Save} (hv : v.img.memOk) : (s.restore v).memOk := by
  unfold State.restore
  extract_lets x b y y1 bad s1 s2
  have hx : x.memOk := h.tileAt v.tile
  have hy : y.memOk := hv.fromImage h.hbm
  clear_value y
  have hy1 : y1.memOk := ((hy.setCarves hx.carves).setKept hx.keepOld).same (by rfl)
  have h1 : s1.memOk := h.freshTile.filterSaves
  have h2 : s2.memOk := (h1.setTileAt hy1).updLaunch
  clear_value bad
  split
  · exact h2.killTask
  · exact h2

theorem State.memOk.resumesWith {l : Launch} {t : TileId} : ∀ v ∈ s.resumesWith l t, v.img.memOk := by
  intro v hv
  unfold State.resumesWith at hv
  split at hv
  · exact h.saves v (List.mem_of_mem_filter hv)
  · cases hv

theorem State.memOk.execResume {t : TileId} : NextOk (execResume t s) := by
  fun_cases Sys2Proof.Machine.execResume
  · exact h
  · exact List.foldlRecOn (motive := State.memOk) _ _ h fun z hz v hv => hz.restore (h.resumesWith v hv)

/-! ### Sealing -/

theorem State.memOk.execLaunchSealing {id : Word} : NextOk (execLaunchSealing id s) := by
  fun_cases Sys2Proof.Machine.execLaunchSealing
  case case3 e => exact (h.traceHeaders.fst e).moveLaunch
  case case4 e => exact (h.traceHeaders.fst e).abort
  case case5 => exact h.bindTag.endLaunch
  case case6 =>
    refine State.memOk.abort ?_
    exact h.bindTag.logMet
  all_goals exact h

/-! ### Waits that end early -/

theorem State.memOk.setCur {t : TileId} : State.memOk { s with cur := t } := h.same (by rfl)

theorem State.memOk.stopBefore {t : TileId} {q : Sequencer} {c : Cause} : (s.stopBefore t q c).memOk := by
  unfold State.stopBefore
  split
  · exact (State.memOk.kFault (h.setCur.upd fun _ h => h.same (by rfl))).setCur
  · split
    · exact h.stopSeq
    · exact h

theorem State.memOk.execTokenStall {t : TileId} {q : Sequencer} : NextOk (execTokenStall t q s) := by
  fun_cases Sys2Proof.Machine.execTokenStall
  · exact h.stopBefore
  · exact h

theorem State.memOk.keepQuiet : s.keepQuiet.memOk := by
  unfold State.keepQuiet
  extract_lets now due
  split
  · exact h
  · exact h.same (by rfl)

theorem State.memOk.execOwlQuiescence {id : Word} : NextOk (execOwlQuiescence id s) := by
  fun_cases Sys2Proof.Machine.execOwlQuiescence
  · exact h
  · exact h.updLaunch
  · exact h

theorem State.memOk.waveRecord {t : TileId} {w : Wave} {c : Cause} : (s.waveRecord t w c).memOk := h.postTask

/-- The waves of a port's table end; apart, since the state before them is a long run over the tiles. -/
theorem State.memOk.clearPortWaves {p : Wave → Bool} : State.memOk ((s.dev.portWaves.filter fun w => p w.2).foldl
    (fun s w => s.waveRecord (portTile w.1) w.2 .flowTimeout)
    (s.updDev fun d => { d with portWaves := d.portWaves.filter fun w => !p w.2 })) :=
  State.memOk.foldl (h.same (by rfl)) (fun _ _ h => h.waveRecord) _

theorem State.memOk.clearTileWaves {p : Wave → Bool} {t : TileId} : State.memOk (((s.tileAt t).waves.filter p).foldl
    (fun s w => s.waveRecord t w .flowTimeout) (s.updAt t fun x => { x with waves := x.waves.filter fun w => !p w })) :=
  State.memOk.foldl (h.updAt fun _ h => h.same (by rfl)) (fun _ _ h => h.waveRecord) _

theorem State.memOk.clearWaves {c : BitVec 12} : (s.clearWaves c).memOk := by
  unfold State.clearWaves
  extract_lets mine s1
  have h1 : s1.memOk := h.foldl (fun _ _ h => h.clearTileWaves) _
  exact h1.clearPortWaves

theorem State.memOk.stallContext {c : BitVec 12} : (s.stallContext c).memOk := by
  unfold State.stallContext
  extract_lets pops waits s1
  have h1 : s1.memOk := h.same (by rfl)
  exact h1.clearWaves.foldl (fun _ _ h => h.stopBefore) _

theorem State.memOk.execOwlStallRule {c : BitVec 12} : NextOk (execOwlStallRule c s) := by
  fun_cases Sys2Proof.Machine.execOwlStallRule
  · exact h.same (by rfl)
  · exact h.same (by rfl)
  · exact State.memOk.stallContext (h.same (by rfl))
  · exact h

theorem State.memOk.keepStalls : s.keepStalls.memOk := by
  unfold State.keepStalls
  split
  · exact h
  · exact h.same (by rfl)

theorem State.memOk.execFlowTimeout {place : BitVec 9} {slot : BitVec 7} : NextOk (execFlowTimeout place slot s) := by
  fun_cases Sys2Proof.Machine.execFlowTimeout
  · exact State.memOk.waveRecord (State.memOk.forget (h.updAt fun _ h => h.same (by rfl)))
  · exact h
  · exact State.memOk.waveRecord (State.memOk.forget (h.same (by rfl)))
  · exact h

theorem State.memOk.execSequencerFlowTimeout {t : TileId} {q : Sequencer} : NextOk (execSequencerFlowTimeout t q s) := by
  fun_cases Sys2Proof.Machine.execSequencerFlowTimeout
  · exact h.stopBefore
  · exact h
  · exact h

end

end Sys2Proof.Machine
end

section
/-! SUPPORT. The flow plane and channels keep every memory in canonical form (12 R268 to R294). -/

namespace Sys2Proof.Machine

/-- The state that a delivery leaves has its memories in canonical form. -/
def Delivery.memOk : Delivery → Prop
  | .done s => s.memOk
  | _ => True

theorem Delivery.memOk.done {d : Delivery} {s : State} (h : d.memOk) (e : d = .done s) : s.memOk := by
  subst e
  exact h

section
variable {s : State} (h : s.memOk)
include h

/-! ### Packets and tables -/

theorem State.memOk.dropPkt {n : Nat} : (s.dropPkt n).memOk := h.same (by rfl)

theorem State.memOk.setPkt {p : Pkt} : (s.setPkt p).memOk := h.same (by rfl)

theorem State.memOk.sendOn {p : Pkt} {dst : Place} : (s.sendOn p dst).memOk := h.inject

theorem State.memOk.touchTable {place : Nat} {e : FlowEntry} : (s.touchTable place e).memOk := by
  unfold State.touchTable
  split
  · exact h.updAt fun _ h => h.same (by rfl)
  · exact h.same (by rfl)

theorem State.memOk.execWarrenFetch {n : Nat} : NextOk (execWarrenFetch n s) := by
  fun_cases Sys2Proof.Machine.execWarrenFetch
  case case5 => exact h.touchTable
  all_goals exact h

theorem State.memOk.setWaves {place : Nat} {ws : List Wave} : (s.setWaves place ws).memOk := by
  unfold State.setWaves
  split
  · exact h.updAt fun _ h => h.same (by rfl)
  · exact h.same (by rfl)

/-! ### Packets that match nothing or are lost -/

theorem State.memOk.recordLeaves {p : Pkt} {d : BitVec 12} {t : BitVec 9} {port : Fin 32} : (s.recordLeaves p d t port).memOk := by
  unfold State.recordLeaves
  split
  · exact h
  · split
    · exact State.memOk.same h.dropPkt.noteSent (by rfl)
    · exact h.dropPkt

theorem State.memOk.recordAway {p : Pkt} {r : BitVec 128} : (s.recordAway p r).memOk := by
  unfold State.recordAway
  extract_lets q port
  split
  · exact State.memOk.same h.noteSent (by rfl)
  · exact h.inject

theorem State.memOk.unmatchedRecord {p : Pkt} {engine sem : BitVec 8} {tag : BitVec 32} : (s.unmatchedRecord p engine sem tag).memOk := by
  unfold State.unmatchedRecord
  extract_lets r
  split
  · split
    · exact h.postTask
    · exact h
  · exact h.recordAway

theorem State.memOk.unmatched {p : Pkt} {place : Nat} : (s.unmatched p place).memOk := by
  unfold State.unmatched
  extract_lets s1
  have h1 : s1.memOk := State.memOk.same (h.dropPkt (n := p.stamp)) (by rfl)
  split
  · split
    · exact h1.unmatchedRecord.updAt fun _ h => h.popCmd
    · exact h
  · exact h1.unmatchedRecord

theorem State.memOk.losePacket {p : Pkt} : GivenOk State.memOk (s.losePacket p) := by
  unfold State.losePacket
  split
  · trivial
  · extract_lets header place s1 s2 s3 detail r
    have h1 : s1.memOk := h.dropPkt.forget
    have h2 : s2.memOk := by
      unfold s2
      split
      · exact h1.updLaunch
      · exact h1
    have h3 : s3.memOk := h2.logOn
    split
    · split
      · split
        · exact h3.postTask
        · exact h3
      · exact h3.recordAway
    · exact h3

/-! ### Deliveries and outputs -/

theorem State.memOk.globalWrite {tag : BitVec 12} {va : Nat} {data : List Byte} {rs : List (Nat × Nat)} : (s.globalWrite tag va data rs).memOk := by
  refine h.foldl (fun s r h => ?_) _
  split
  · exact h
  · split
    · next e => exact h.writeAt.ok e
    · exact h

theorem State.memOk.deliverEnd {t : TileId} {launch : Word} {p : Home} {e : BitVec 512} {n : Nat} : (s.deliverEnd t launch p e n).memOk := by
  unfold State.deliverEnd
  extract_lets s1 sem
  have h1 : s1.memOk := by
    unfold s1
    split
    · exact h.barMeet
    · exact h
  split
  · exact h1
  · exact h1.updTask fun _ h => h.smSignal

theorem State.memOk.deliver {t : TileId} {launch : Word} {e : BitVec 512} {p : Pkt} {data : List Byte} {mine : Bool} :
    (s.deliver t launch e p data mine).memOk := by
  fun_cases State.deliver
  case case4 => exact h.spmArrive.deliverEnd
  case case5 => exact h.bindTag.failed.postTask
  case case6 => exact h.bindTag.globalWrite.deliverEnd
  case case8 => exact State.memOk.deliverEnd (h.forget.updAt fun _ h => h.same (by rfl))
  all_goals trivial

theorem State.memOk.output {place : Nat} {e : FlowEntry} {p : Pkt} {data : List Byte} {mine : Bool} : (s.output place e p data mine).memOk := by
  unfold State.output
  extract_lets place' copies s1 s2
  split
  · exact h.deliver
  · split
    · exact h.sendOn
    · have h1 : s1.memOk := h.foldl (fun s d h => by
        split
        · exact h.sendOn
        · exact h) _
      have h2 : s2.memOk := by
        unfold s2
        split
        · exact h1.sendOn
        · exact h1
      split
      · have hd := h2.deliver (t := place') (launch := e.launch) (e := e.w) (p := p) (data := data) (mine := mine)
        split
        · split
          · exact h2.unmatched
          · trivial
        · exact h2.same (by rfl)
        · exact hd
      · exact h2
    · exact h.deliver

/-! ### Waves and holds -/

theorem State.memOk.loseWave {place : Nat} {w : Wave} {slot : Nat} : (s.loseWave place w slot).memOk := by
  unfold State.loseWave
  extract_lets tag s1
  have h1 : s1.memOk := h.logOn
  exact h1.forget.waveRecord

theorem State.memOk.combineGate {place : Nat} {e : FlowEntry} {p : Pkt} : (s.combineGate place e p).memOk := by
  have taken : ∀ (old : Option Wave) (a n : Nat),
      State.memOk (if old.isNone then (s.dropPkt p.stamp).forget 8 place a n else s.dropPkt p.stamp) := fun old a n => by
    split
    · exact h.dropPkt.forget
    · exact h.dropPkt
  fun_cases State.combineGate
  case case1 | case2 | case3 => exact h.unmatched
  case case4 | case8 => exact h
  case case5 | case6 => exact State.memOk.loseWave (State.memOk.setWaves (taken ..))
  case case7 e => exact (State.memOk.output (State.memOk.setWaves (taken ..))).done e
  case case9 => exact State.memOk.unmatched (State.memOk.setWaves (taken ..))
  case case10 => exact State.memOk.setWaves (taken ..)

theorem State.memOk.release' {place : Nat} {e : FlowEntry} {p : Pkt} {l : List Arrived} : GivenOk State.memOk (s.release' place e p l) := by
  induction l generalizing s with
  | nil => exact h
  | cons a r ih =>
    unfold State.release'
    extract_lets q
    split
    · trivial
    · next e => exact ih (h.output.done e)
    · exact ih h.unmatched

theorem State.memOk.holdGate {place : Nat} {e : FlowEntry} {p : Pkt} : (s.holdGate place e p).memOk := by
  unfold State.holdGate
  extract_lets l ws mine w0 rest count w lost s1
  split
  · exact h
  have h1 : (s1.setWaves place rest).memOk := h.dropPkt.forget.setWaves
  split
  · exact h1.loseWave
  split
  · exact State.memOk.setWaves h.dropPkt.forget
  · cases e : (s1.setWaves place rest).release' place e p (w.arrived.foldr insertHeld [])
    · exact h
    · exact h1.release'.some e

theorem State.memOk.matched {place : Nat} {e : FlowEntry} {p : Pkt} : (s.matched place e p).memOk := by
  unfold State.matched
  extract_lets p s1
  have h1 : s1.memOk := h.setPkt.touchTable
  split
  · split
    · next e => exact h1.dropPkt.output.done e
    · exact h1
    · exact h1.unmatched
  · exact h1.combineGate
  · exact h1.holdGate

theorem State.memOk.leave {p : Pkt} {d : BitVec 12} {port : Option (Fin 32)} : (s.leave p d port).memOk := by
  fun_cases State.leave
  · exact h
  · exact State.memOk.same h.dropPkt.noteSent (by rfl)
  · exact h.dropPkt.unmatchedRecord

/-! ### Arrivals -/

theorem State.memOk.execFlowPacketArrival {n : Nat} : NextOk (execFlowPacketArrival n s) := by
  fun_cases Sys2Proof.Machine.execFlowPacketArrival
  case case3 e => exact h.losePacket.some e
  case case4 => exact h.leave
  case case5 => exact h.matched
  case case6 => exact h.setPkt
  case case7 => exact h.dropPkt.sendOn
  case case8 => exact h.unmatched
  all_goals exact h

theorem State.memOk.execFlowUnmatchedRecordReturn {n : Nat} : NextOk (execFlowUnmatchedRecordReturn n s) := by
  fun_cases Sys2Proof.Machine.execFlowUnmatchedRecordReturn
  case case3 e => exact h.losePacket.some e
  case case4 => exact h.dropPkt.postTask
  case case5 => exact h.recordLeaves
  all_goals exact h

theorem State.memOk.barAbsent {ps : List Pkt} : (s.barAbsent ps).memOk := by
  refine h.foldl (fun s p h => ?_) _
  split
  · exact h.dropPkt.postTask
  · exact h

theorem State.memOk.barPackets {t : TileId} {launch : Word} {ps : List Pkt} : (s.barPackets t launch ps).memOk := by
  fun_cases State.barPackets
  · exact h
  · exact h.barAbsent
  · exact State.memOk.foldl (h.foldl (fun _ _ h => h.dropPkt) _) (fun _ _ h => h.barMeet) _

theorem State.memOk.execBarrierUpdate {t : TileId} {us : Updates} : NextOk (execBarrierUpdate t us s) := by
  unfold Sys2Proof.Machine.execBarrierUpdate
  extract_lets mine s1 ps s2 s3
  have h1 : s1.memOk := h.foldl (fun s p h => by
    cases e : s.losePacket p
    · exact h
    · exact h.losePacket.some e) _
  have h2 : s2.memOk := by
    unfold s2
    split
    · exact h1.updAt fun _ h => h.same (by rfl)
    · exact h1
  have h3 : s3.memOk := h2.foldl (fun _ _ h => h.barPackets) _
  change State.memOk (if _ then _ else _)
  split
  · exact h3
  · exact h3.barFlush

/-! ### Channels -/

theorem State.memOk.execChannelSlotArrival {n : Nat} : NextOk (execChannelSlotArrival n s) := by
  fun_cases Sys2Proof.Machine.execChannelSlotArrival
  case case2 e => exact h.losePacket.some e
  case case4 => exact h.dropPkt.spmArrive.updTask fun _ h => h.same (by rfl)
  all_goals exact h

theorem State.memOk.chFault {t : TileId} {p : Home} {launch : Word} {ch : Nat} {c : BitVec 32} : (s.chFault t p launch ch c).memOk := by
  unfold State.chFault
  split
  · exact h
  · exact State.memOk.postTask (h.updTask fun _ h => h.same (by rfl))

theorem State.memOk.applyReturn {t : TileId} {p : Home} {launch : Word} {k : ChanDecl} {c : BitVec 32} :
    (s.applyReturn t p launch k c).memOk := by
  unfold State.applyReturn
  extract_lets x d free s1
  split
  · exact h.logLost.forget.chFault
  split
  · exact h
  have h1 : s1.memOk := h.updTask fun _ h => h.same (by rfl)
  split
  · exact h1.chFault
  · exact h1

theorem State.memOk.execChannelReturnArrival {n : Nat} : NextOk (execChannelReturnArrival n s) := by
  fun_cases Sys2Proof.Machine.execChannelReturnArrival
  case case2 e => exact h.losePacket.some e
  case case4 => exact h.dropPkt.applyReturn
  all_goals exact h

theorem State.memOk.execSenderAudit {t : TileId} {c : BitVec 6} : NextOk (execSenderAudit t c s) := by
  fun_cases Sys2Proof.Machine.execSenderAudit
  case case3 => exact h.sendTo.updAt fun _ h => h.same (by rfl)
  all_goals exact h

theorem State.memOk.execReceiverAudit {t : TileId} {c : BitVec 6} : NextOk (execReceiverAudit t c s) := by
  fun_cases Sys2Proof.Machine.execReceiverAudit
  case case3 => exact h.sendTo.updAt fun _ h => h.same (by rfl)
  all_goals exact h

theorem State.memOk.auditSend {l : Launch} {src dst : TileId} {seq : BitVec 16} {body : PktBody} : (s.auditSend l src dst seq body).memOk := h.inject

theorem State.memOk.auditLost {l : Launch} {k : ChanDecl} : (s.auditLost l k).memOk := by
  fun_cases State.auditLost
  case case2 => exact h.chFault
  all_goals exact h

theorem State.memOk.execAuditReply {n : Nat} : NextOk (execAuditReply n s) := by
  fun_cases Sys2Proof.Machine.execAuditReply
  case case2 e => exact h.losePacket.some e
  case case4 => exact h.dropPkt.auditSend
  case case6 => exact h.dropPkt.auditSend
  case case8 => exact h.dropPkt.applyReturn.auditLost
  case case11 => exact h.dropPkt.auditLost
  all_goals exact h

/-! ### Published windows -/

theorem State.memOk.execSubscriptionBatchClose {t : TileId} : NextOk (execSubscriptionBatchClose t s) := by
  fun_cases Sys2Proof.Machine.execSubscriptionBatchClose
  · exact h.closeBatch
  · exact h
  · exact h

theorem State.memOk.updateBytes {t : TileId} {p : Home} {addr : Nat} {mask : BitVec 32} {data : Nat} :
    (s.updateBytes t p addr mask data).memOk := by
  refine h.foldl (fun s i h => ?_) _
  extract_lets m a
  split
  · exact h.spmArrive
  split
  · exact h
  · exact h.updTask fun _ h => h.setSpm (Mem.wf_writeMask _ _ _ _ h.spm)

theorem State.memOk.execForwardedUpdate {n : Nat} : NextOk (execForwardedUpdate n s) := by
  fun_cases Sys2Proof.Machine.execForwardedUpdate
  case case2 e => exact h.losePacket.some e
  case case5 => exact h.dropPkt
  case case6 => exact h.dropPkt.updateBytes
  case case7 => exact h.dropPkt
  all_goals exact h

end

end Sys2Proof.Machine
end

section
/-! SUPPORT. Requests in the network, their ends and the combining of far counters keep every memory in canonical form
(11 R254, 19 R383, 23 R410, R415, 12 R285, R295 to R297, 17 R349). -/

namespace Sys2Proof.Machine

section
variable {s : State} (h : s.memOk)
include h

/-! ### Requests and posted writes -/

theorem State.memOk.landPosted {t : TileId} {r : Req} {i : Nat} : (s.landPosted t r i).memOk := by
  unfold State.landPosted
  split
  · exact h
  split
  · exact h
  split
  · next e => exact State.memOk.updAt (h.writeAt.ok e) fun _ h => h.mark.closePiece
  · exact h

theorem State.memOk.execMemoryRequest {t : TileId} {n piece : Nat} : NextOk (execMemoryRequest t n piece s) := by
  fun_cases Sys2Proof.Machine.execMemoryRequest
  · exact h.chanSend
  · exact h.landPosted
  · exact h.tryPiece
  · exact h.tryPiece
  · exact h

theorem State.memOk.execPostedWriteAck {t : TileId} {n : Nat} : NextOk (execPostedWriteAck t n s) := by
  fun_cases Sys2Proof.Machine.execPostedWriteAck
  · refine State.memOk.foldl h (fun s i h => ?_) _
    split
    · exact h.landPosted
    · exact h
  · next e => exact State.memOk.updAt (h.writeAt.ok e) fun _ h => h.unpost
  · exact h
  · exact h
  · exact h

theorem State.memOk.execPostedWriteRefusal {t : TileId} {n : Nat} : NextOk (execPostedWriteRefusal t n s) := by
  fun_cases Sys2Proof.Machine.execPostedWriteRefusal
  · exact h.updAt fun _ h => Tile.memOk.closePiece (h.same (by rfl))
  · exact h
  · exact h
  · exact h.updAt fun _ h => h.postFailed
  · exact h
  · exact h

/-! ### Requests that time out -/

theorem State.memOk.timedOut {t : TileId} {r : Req} : (s.timedOut t r).memOk := by
  unfold State.timedOut
  extract_lets load
  split
  · exact h
  · refine List.foldlRecOn (motive := fun a : Req × State => a.2.memOk) _ _ h fun a ha i _ => ?_
    split
    · split
      · exact ha
      · split
        · next e => exact (State.memOk.perform ha).ok e
        · exact ha
    · exact ha

/-- Which tile steps, and whether what it asks for waits, leaves the memories as they were. -/
theorem State.memOk.withCur {t : TileId} {b : Bool} : State.memOk { s with cur := t, defer := b } := h.same (by rfl)

theorem State.memOk.kEffect {t : TileId} : (s.kEffect t).memOk := by
  unfold State.kEffect
  extract_lets x s1 r
  have h1 : s1.memOk := h.withCur
  have hr : NextOk r := by
    unfold r
    split
    · exact h1.kStore
    · exact h1.kStore
    · exact h1.kStore
    · exact h1.kStore
    · exact h1.kAtomic
    · exact h1.kAtomic
    · exact h1.kAtomic
    · exact h1.execSinc
    · exact h1.execSrel
    · exact h1.execSroot
    · exact h1
  clear_value r
  split
  · next y =>
    have hy : y.memOk := hr
    split
    · exact h
    · exact (hy.updAt fun _ h => h.same (by rfl)).withCur
  · exact h

theorem State.memOk.kTimedOut {t : TileId} : (s.kTimedOut t).memOk := by
  unfold State.kTimedOut
  split
  · exact h.kEffect
  · exact h

theorem State.memOk.logTimeout {t : TileId} {va : Word} : (s.logTimeout t va).memOk := h.logOn

theorem State.memOk.kTimeout {t : TileId} : (s.kTimeout t).memOk := by
  fun_cases State.kTimeout
  case case2 => exact h.kTimedOut.logTimeout.setCur.kFault.setCur
  all_goals exact h

theorem State.memOk.seqTimeout {t : TileId} {q : Sequencer} : (s.seqTimeout t q).memOk := by
  fun_cases State.seqTimeout
  · exact h.logTimeout.stopSeq
  · exact h
  · exact h

theorem State.memOk.engineTimeout {t : TileId} {q : Queue} : (s.engineTimeout t q).memOk := by
  fun_cases State.engineTimeout
  · exact h.logTimeout.updAt fun _ h => h.setHead.engineFault
  · exact h
  · exact h
  · exact h

theorem State.memOk.reqTimeout {t : TileId} {r : Req} : (s.reqTimeout t r).memOk := by
  fun_cases State.reqTimeout
  case case3 => exact h.timedOut.logTimeout.updAt fun _ h => h.same (by rfl)
  case case5 => exact h.tryAll
  case case6 => exact h.timedOut.logTimeout.rewind
  all_goals exact h

theorem State.memOk.execRequestTimeout {t : TileId} {src : Source} : NextOk (execRequestTimeout t src s) := by
  fun_cases Sys2Proof.Machine.execRequestTimeout
  case case1 => exact h.reqTimeout
  case case3 =>
    refine State.memOk.updAt (State.memOk.logTimeout ?_) fun _ h => h.postFailed
    change State.memOk (if _ then _ else _)
    split
    · split
      · next e => exact h.writeAt.ok e
      · exact h
    · exact h
  case case5 => exact h.kTimeout
  case case7 => exact h.seqTimeout
  case case8 => exact h.engineTimeout
  all_goals exact h

/-! ### Eviction and resending -/

theorem State.memOk.execClass3Eviction {x : SourceAt} : NextOk (execClass3Eviction x s) := by
  fun_cases Sys2Proof.Machine.execClass3Eviction
  · exact h.updAt fun _ h => h.same (by rfl)
  · exact h
  · exact h.updAt fun _ h => h.setHead
  · exact h
  · exact h

theorem State.memOk.execRequestResend {x : SourceAt} : NextOk (execRequestResend x s) := by
  fun_cases Sys2Proof.Machine.execRequestResend
  case case2 => exact State.memOk.foldl (h.updAt fun _ h => h.same (by rfl)) (fun _ _ h => h.noteRequest) _
  case case5 => exact h.updAt fun _ h => h.setHead
  all_goals exact h

/-! ### Combining -/

theorem State.memOk.markJoined {x : FaccSrc} : (s.markJoined x).memOk := by
  unfold State.markJoined
  split
  · refine h.updAt fun x h => ?_
    split
    · exact h.mark.same (by rfl)
    · exact h
  · exact h
  · exact h.same (by rfl)

theorem State.memOk.combine {f : FaccAt} {p : CombAt} : (s.combine f p).memOk := by
  unfold State.combine
  extract_lets place m here
  split
  · exact State.memOk.markJoined (h.same (by rfl))
  · split
    · exact h
    · exact State.memOk.markJoined (State.memOk.same h.fresh (by rfl))

theorem State.memOk.execFaccRequestArrival {n : Nat} {p : CombAt} : NextOk (execFaccRequestArrival n p s) := by
  fun_cases Sys2Proof.Machine.execFaccRequestArrival
  · exact h
  · exact h.combine
  · exact h

theorem State.memOk.execCombiningWindowEnd {n : Nat} : NextOk (execCombiningWindowEnd n s) := by
  unfold Sys2Proof.Machine.execCombiningWindowEnd
  split
  · exact h
  · extract_lets s1
    have h1 : s1.memOk := by
      unfold s1
      split
      · exact h.noteRequest
      · exact h
    exact h1.same (by rfl)

theorem State.memOk.answerReq {t : TileId} {id : Nat} {v : Word} {lost : Bool} : (s.answerReq t id v lost).memOk := by
  fun_cases State.answerReq
  case case2 => exact h.updAt fun _ h => Tile.memOk.finishAll (h.same (by rfl))
  case case3 => exact h.updAt fun _ h => Tile.memOk.pushReserved (h.setResult.same (by rfl))
  case case4 => exact h.failNow
  all_goals exact h

theorem State.memOk.answerFar {dev : BitVec 12} {tile : BitVec 9} {r : FarReply} : (s.answerFar dev tile r).memOk := by
  unfold State.answerFar
  split
  · exact State.memOk.same h.noteSent (by rfl)
  · exact h.same (by rfl)

theorem State.memOk.answerAll : s.answerAll.memOk := State.memOk.foldl (h.same (by rfl)) (fun _ _ h => h.answerFar) _

theorem State.memOk.splitReply {c : CombRec} {v : Word} {lost : Bool} {fuel : Nat} : (s.splitReply c v lost fuel).memOk := by
  induction fuel generalizing s c v lost with
  | zero => exact h
  | succ fuel ih =>
    unfold State.splitReply
    extract_lets lost
    refine List.foldlRecOn (motive := fun a : State × Word => a.1.memOk) _ _ h fun a ha m _ => ?_
    extract_lets base s1
    change s1.memOk
    unfold s1
    split
    · exact State.memOk.answerReq ha
    · exact State.memOk.answerFar ha
    · split
      · exact State.memOk.same (ih ha) (by rfl)
      · exact ha

theorem State.memOk.freeRecords {c : CombRec} {fuel : Nat} : (s.freeRecords c fuel).memOk := by
  induction fuel generalizing s c with
  | zero => exact h
  | succ fuel ih =>
    unfold State.freeRecords
    extract_lets s1
    have h1 : s1.memOk := h.same (by rfl)
    refine h1.foldl (fun s m h => ?_) _
    split
    · exact h
    · exact h.answerFar
    · split
      · exact ih h
      · exact h

theorem State.memOk.failMembers {c : CombRec} : (s.failMembers c).memOk := by
  unfold State.failMembers
  extract_lets n
  refine State.memOk.freeRecords (h.foldl (fun s m h => ?_) _)
  split
  · split
    · exact h.failNow
    · exact h
  · exact h

theorem State.memOk.execCombiningReply {n : Nat} : NextOk (execCombiningReply n s) := by
  fun_cases Sys2Proof.Machine.execCombiningReply
  case case3 => exact h.consumed.failMembers
  case case5 e => exact State.memOk.same (State.memOk.splitReply (h.writeAt.ok e)) (by rfl)
  all_goals exact h

theorem State.memOk.execCombiningRecordLost {n : Nat} {what : RecordLoss} : NextOk (execCombiningRecordLost n what s) := by
  fun_cases Sys2Proof.Machine.execCombiningRecordLost
  case case2 c _ s1 =>
    have h1 : s1.memOk := h.logOn
    exact h1.same (by rfl)
  case case3 => exact h.logOn.failMembers
  all_goals exact h

/-! ### Walks of freed Setts -/

theorem State.memOk.execReleaseWalk {n : Nat} : NextOk (execReleaseWalk n s) := by
  fun_cases Sys2Proof.Machine.execReleaseWalk
  · exact h
  · exact State.memOk.same h.walkStep (by rfl)
  · exact State.memOk.same h.walkStep (by rfl)

end

end Sys2Proof.Machine
end

section
/-! SUPPORT. Registers, links, the host, other devices, resets and management keep every memory in canonical form
(15 R307, 16 R330 to R341, 19 R377 to R391, 23 R407 to R419, 24 R422 to R428). -/

namespace Sys2Proof.Machine

theorem Tile.memOk.dropCached {x : Tile} (h : x.memOk) {n : Nat} : (x.dropCached n).memOk := by
  unfold Tile.dropCached
  split <;> exact h.same (by rfl)

section
variable {s : State} (h : s.memOk)
include h

/-! ### Register writes -/

theorem State.memOk.physClear {p : Word} {n : Nat} : (s.physClear p n).memOk := by
  unfold State.physClear
  split
  · exact h
  · split
    · exact (h.setHost (Mem.wf_clear _ _ h.host)).same (by rfl)
    · exact (h.setHbm (Mem.wf_clear _ _ h.hbm)).heal.heal.recall

theorem State.memOk.badQctl {q : Nat} : (s.badQctl q).memOk := h.updQueue

theorem State.memOk.setPrio {q : Nat} {p : BitVec 2} : (s.setPrio q p).memOk := h.same (by rfl)

theorem State.memOk.openRing {q : Nat} : (s.openRing q).memOk := by
  unfold State.openRing
  extract_lets z
  split
  · exact h
  · exact h.physClear.updQueue

theorem State.memOk.enableQueue {q : Nat} {v : Word} : (s.enableQueue q v).memOk := by
  fun_cases State.enableQueue
  · exact h.badQctl
  · exact h.setPrio
  · exact h.setPrio.openRing.updQueue

theorem State.memOk.disableQueue {q : Nat} {v : Word} : (s.disableQueue q v).memOk := by
  fun_cases State.disableQueue
  · exact h.badQctl
  · exact h.setPrio.updQueue

theorem State.memOk.writeQctl {q : Nat} {v : Word} : (s.writeQctl q v).memOk := by
  unfold State.writeQctl
  split
  · exact h.enableQueue
  · exact h.disableQueue

theorem State.memOk.writeSeed {q : Nat} {v : Word} : (s.writeSeed q v).memOk := h.updQueue

theorem State.memOk.writeCtrbase {q : Nat} {v : Word} : (s.writeCtrbase q v).memOk := h.updQueue

theorem State.memOk.writeQueueReg {q off : Nat} {v : Word} : (s.writeQueueReg q off v).memOk := by
  fun_cases State.writeQueueReg
  case case1 => exact h.writeQctl
  case case8 => exact h.writeSeed
  case case9 => exact h.writeCtrbase
  case case10 => exact h
  all_goals exact h.updQueue

theorem State.memOk.writeSdctl {v : Word} : (s.writeSdctl v).memOk := by
  unfold State.writeSdctl
  split
  · exact h
  · refine h.updDev ?_
    dsimp only
    split <;> rfl

theorem State.memOk.rebind {tag : BitVec 12} : (s.rebind tag).memOk := by
  unfold State.rebind
  split
  · exact State.memOk.bindTag (h.same (by rfl))
  · exact h

theorem State.memOk.execShootDownComplete : NextOk (execShootDownComplete s) := by
  unfold Sys2Proof.Machine.execShootDownComplete
  split
  · exact h
  · extract_lets s1 s2
    have h1 : s1.memOk := h.mapTiles fun _ h => h.same (by rfl)
    split
    · exact h1
    · have h2 : s2.memOk := h1.same (by rfl)
      change State.memOk (if _ then _ else _)
      split
      · exact h2.rebind
      · exact h2

theorem State.memOk.setAcct {g e : Nat} {v : BitVec 128} : (s.setAcct g e v).memOk := h.same (by rfl)

theorem State.memOk.holdAcct {g : Nat} {v : Word} : (s.holdAcct g v).memOk := h.same (by rfl)

theorem State.memOk.applyAcct {g e : Nat} {v : Word} : (s.applyAcct g e v).memOk := State.memOk.setAcct (h.same (by rfl))

theorem State.memOk.writeAcct {g e : Nat} {part : EntryPart} {v : BitVec 128} : (s.writeAcct g e part v).memOk := by
  fun_cases State.writeAcct
  case case2 => exact h.setAcct
  case case4 => exact h.holdAcct
  case case6 => exact h.applyAcct
  all_goals exact h

theorem State.memOk.writeAtsync {v : Word} : (s.writeAtsync v).memOk := by
  unfold State.writeAtsync
  split
  · exact h.same (by rfl)
  · exact h

theorem State.memOk.writePmap {t : TileId} {v : Word} : (s.writePmap t v).memOk := by
  unfold State.writePmap
  split
  · exact h
  · exact h.updAt fun _ h => h.same (by rfl)

theorem State.memOk.writeFarange {i : Nat} {v : BitVec 128} : (s.writeFarange i v).memOk := by
  unfold State.writeFarange
  split
  · exact h
  · exact h.same (by rfl)

theorem State.memOk.clearIndex : s.clearIndex.memOk := (State.memOk.setHbm h.recall (Mem.wf_clear _ _ h.recall.hbm)).same (by rfl)

theorem State.memOk.writeSxcfg {v : Word} : (s.writeSxcfg v).memOk := by
  fun_cases State.writeSxcfg
  · exact h
  · exact h.same (by rfl)
  · exact State.memOk.clearIndex (h.same (by rfl))
  · exact h.same (by rfl)

theorem State.memOk.writeFlgap {v : Word} : (s.writeFlgap v).memOk := by
  unfold State.writeFlgap
  split
  · exact h
  · exact h.same (by rfl)

theorem State.memOk.writeHtag {i : Nat} {v : Word} : (s.writeHtag i v).memOk := by
  unfold State.writeHtag
  split
  · exact h
  · exact h.same (by rfl)

theorem State.memOk.setSxbase {v : Word} : (s.updDev fun d => if d.sxen then d else { d with sxbase := v }).memOk := by
  refine h.updDev ?_
  split <;> rfl

theorem State.memOk.writeDeviceReg {off : Nat} {v : Word} : (s.writeDeviceReg off v).memOk := by
  fun_cases State.writeDeviceReg
  · exact h.same (by rfl)
  · exact h.same (by rfl)
  · exact h.same (by rfl)
  · exact h.writeSdctl
  · exact h.writeAtsync
  · exact h.setSxbase
  · exact h.writeSxcfg
  · exact h.same (by rfl)
  · exact h.same (by rfl)
  · exact h
  · exact h.writeFlgap
  · exact h.writeHtag
  · exact h.writeHtag
  · exact h

theorem State.memOk.writeReg {off : Nat} {v : Word} : (s.writeReg off v).memOk := by
  fun_cases State.writeReg
  · exact h
  · exact h.writeQueueReg
  · exact h.writePmap
  · exact h.writeFarange
  · exact h.writeAcct
  · exact h.writeDeviceReg

/-! ### Links and the host -/

theorem State.memOk.logLink {t : TileId} {place : Nat} : (s.logLink t place).memOk := h.logOn

theorem State.memOk.execFlowletPathChange {key : FlowletKey} {path : Nat} : NextOk (execFlowletPathChange key path s) := h.same (by rfl)

theorem State.memOk.execPathFailure {path : Nat} : NextOk (execPathFailure path s) := by
  fun_cases Sys2Proof.Machine.execPathFailure
  · exact h
  · exact State.memOk.logLink (h.same (by rfl))

theorem State.memOk.execPathDrained {path : Nat} : NextOk (execPathDrained path s) := by
  fun_cases Sys2Proof.Machine.execPathDrained
  · exact h.same (by rfl)
  · exact h

theorem State.memOk.setLink {p : LinkId} {l : Link} : (s.setLink p l).memOk := by cases p <;> exact h.same (by rfl)

theorem State.memOk.execLinkReplay {p : LinkId} : NextOk (execLinkReplay p s) := by
  fun_cases Sys2Proof.Machine.execLinkReplay
  · exact h
  · exact h.logOn.setLink
  · exact h.logOn.setLink.logLink

theorem State.memOk.linkDown {p : LinkId} : (s.linkDown p).memOk := by
  fun_cases State.linkDown
  · exact h.setLink.logLink
  · exact h
  · exact h

theorem State.memOk.execPortDown {p : LinkId} : NextOk (execPortDown p s) := h.linkDown

theorem State.memOk.execHentiaLinkDown {i : Fin 2} : NextOk (execHentiaLinkDown i s) := h.linkDown

theorem State.memOk.execLinkTrained {p : LinkId} : NextOk (execLinkTrained p s) := by
  fun_cases Sys2Proof.Machine.execLinkTrained
  · exact h
  · exact h.setLink.answerAll

theorem State.memOk.hostUnit {port : Fin 2} {a : Nat} : (s.hostUnit port a).memOk := h.logOn

theorem State.memOk.hostRead {port : Fin 2} {a n : Nat} : (s.hostRead port a n).memOk := by
  fun_cases State.hostRead
  · exact h.hostUnit.updDev (by rfl)
  · exact h.same (by rfl)
  · exact h.same (by rfl)

theorem State.memOk.hostWrite {port : Fin 2} {a : Nat} {bytes : List Byte} : (s.hostWrite port a bytes).memOk := by
  refine h.foldl (fun s r h => ?_) _
  split
  · exact h
  split
  · exact h.hostUnit
  · exact h.writeHbm

theorem State.memOk.hostFetch {port : Fin 2} {line : Nat} {excl : Bool} : (s.hostFetch port line excl).memOk := by
  fun_cases State.hostFetch
  · exact h.updDev (by rfl)
  · exact h.hostUnit.updDev (by rfl)
  · exact h.same (by rfl)

theorem State.memOk.hostCopyStore {a : Nat} {bytes : List Byte} : (s.hostCopyStore a bytes).memOk := by
  unfold State.hostCopyStore
  split
  · exact h
  · exact (h.setHbm (Mem.wf_writeN _ _ _ h.hbm)).heal.markDirty

theorem State.memOk.execHostAccess {port : Fin 2} {r : HostReq} : NextOk (execHostAccess port r s) := by
  fun_cases Sys2Proof.Machine.execHostAccess
  · exact h
  · exact h.hostRead
  · exact h.hostWrite
  · exact h.hostFetch
  · exact h.hostCopyStore
  · exact h.same (by rfl)

/-! ### Lost units and scrubbing -/

theorem State.memOk.loseUnits {us : List StoredUnit} : (s.loseUnits us).memOk := h.same (by rfl)

theorem State.memOk.dropLine {u : StoredUnit} : (s.dropLine u).memOk := by
  unfold State.dropLine
  split
  · exact h.same (by rfl)
  · exact h

theorem State.memOk.execPatrolScrub {u : StoredUnit} {err : BitErrors} : NextOk (execPatrolScrub u err s) := by
  fun_cases Sys2Proof.Machine.execPatrolScrub
  · exact h
  · exact h
  · exact h.logOn
  · exact h.loseUnits.dropLine.logOn

theorem State.memOk.execWarrenReload {die : DieId} {n : Nat} : NextOk (execWarrenReload die n s) := by
  fun_cases Sys2Proof.Machine.execWarrenReload
  · exact h
  · exact h
  · change State.memOk (if _ then _ else _)
    split
    · exact h.forget
    · exact h.forget.abort
  · refine State.memOk.abort ?_
    exact h.forget

theorem State.memOk.execFuseUpdate {die : DieId} {rows : List Nat} : NextOk (execFuseUpdate die rows s) := h.same (by rfl)

theorem State.memOk.channelParity {t : TileId} {ch : Nat} {e : LogEntry} : (s.channelParity t ch e).memOk := by
  fun_cases State.channelParity
  · exact h
  · exact h.logOn.chFault
  · exact h

theorem State.memOk.unitLost {u : StoredUnit} : (s.unitLost u).memOk := by
  fun_cases State.unitLost
  case case3 => exact h.logOn.tileError
  case case6 => exact h.loseUnits.dropLine
  case case9 => exact h.updAt fun _ h => h.dropCached
  case case10 => exact State.memOk.logOn (h.same (by rfl))
  case case12 => exact h.channelParity
  case case1 | case5 | case7 | case14 => exact h.loseUnits
  all_goals exact h

theorem State.memOk.softError {u : StoredUnit} {err : BitErrors} : (s.softError u err).memOk := by
  fun_cases State.softError
  · exact h
  · exact h.unitLost
  · exact h.logOn
  · exact h
  · exact h.unitLost

/-! ### Resets -/

theorem State.memOk.endSession : s.endSession.memOk := ⟨h.hbm, h.host, h.remote, memOk_stateReset.tileAt, memOk_stateReset.saves⟩

theorem State.memOk.updMgmt {f : Mgmt → Mgmt} : (s.updMgmt f).memOk := h.same (by rfl)

theorem State.memOk.failUp {reason : Nat} : (s.failUp reason).memOk := h.updMgmt

theorem State.memOk.upTo {st : Nat} : (s.upTo st).memOk := h.updMgmt

theorem State.memOk.applyRepair {d : DieId} : (s.applyRepair d).memOk := by
  unfold State.applyRepair
  split
  · exact h
  · exact State.memOk.logOn (h.same (by rfl))

theorem State.memOk.upFuses : s.upFuses.memOk := by
  fun_cases State.upFuses
  · exact h.failUp
  · exact h.failUp
  · exact h.applyRepair.applyRepair.applyRepair.upTo

theorem State.memOk.upFirmware : s.upFirmware.memOk := by
  fun_cases State.upFirmware
  · exact h.updMgmt.updMgmt.upTo
  · exact h.updMgmt.failUp

theorem State.memOk.upClocks : s.upClocks.memOk := by
  refine State.memOk.upTo ?_
  split
  · exact h.updMgmt
  · exact h

theorem State.memOk.upMemory : s.upMemory.memOk := by
  unfold State.upMemory
  split
  · exact h.failUp
  · refine State.memOk.upTo ?_
    split
    · exact State.memOk.same (h.setHbm (m := []) rfl) (by rfl)
    · exact h

theorem State.memOk.readNumber : s.readNumber.memOk := h.same (by rfl)

theorem State.memOk.trainPorts : s.trainPorts.memOk := by
  unfold State.trainPorts
  split
  · exact State.memOk.logLink (h.same (by rfl))
  · exact h.updDev (by simp only [Device.mems])

theorem State.memOk.upReady : s.upReady.memOk := h.updMgmt

theorem State.memOk.upLinks : s.upLinks.memOk := by
  unfold State.upLinks
  extract_lets s1 s2
  have h2 : s2.memOk := h.readNumber.same (by rfl)
  split
  · exact h2.trainPorts.upReady
  · exact h2.failUp

theorem State.memOk.bringUp : s.bringUp.memOk := by
  fun_cases State.bringUp
  · exact h.upFuses
  · exact h.upFirmware
  · exact h.upClocks
  · exact h.upMemory
  · exact h.upLinks
  · exact h

theorem State.memOk.countReset : s.countReset.memOk := h.updMgmt

theorem State.memOk.clearLogs : s.clearLogs.memOk := h.same (by rfl)

theorem State.memOk.beginUp {cold : Bool} : (s.beginUp cold).memOk := h.updMgmt

theorem State.memOk.execColdReset : NextOk (execColdReset s) := h.endSession.countReset.clearLogs.beginUp

theorem State.memOk.execWarmReset : NextOk (execWarmReset s) := by
  fun_cases Sys2Proof.Machine.execWarmReset
  · exact h
  · exact h.endSession.countReset.beginUp

theorem State.memOk.holdReset {cold : Bool} : (s.holdReset cold).memOk := h.endSession.updMgmt

theorem State.memOk.execResetAsserted : NextOk (execResetAsserted s) := h.holdReset

theorem State.memOk.warmLow : s.warmLow.memOk := by
  unfold State.warmLow
  split
  · exact h
  · exact h.holdReset

theorem State.memOk.execPowerRemoval : NextOk (execPowerRemoval s) := 
  ⟨memOk_stateReset.hbm, h.host, h.remote, memOk_stateReset.tileAt, memOk_stateReset.saves⟩

/-! ### Clock, temperature and management -/

theorem State.memOk.setMhz {mhz : Nat} : (s.setMhz mhz).memOk := h.same (by rfl)

theorem State.memOk.readTemp {sensor deg : Nat} : (s.readTemp sensor deg).memOk := by
  fun_cases State.readTemp
  · exact h.updMgmt.setMhz
  · exact h.updMgmt

theorem State.memOk.answer {a : Answer} : (s.answer a).memOk := by
  unfold State.answer
  split
  · exact h
  · exact h.updMgmt

theorem State.memOk.answerOpen {r : MgmtReq} : NextOk (s.answerOpen r) := h.answer

theorem State.memOk.execGetpldmcommands {r : MgmtReq} : NextOk (execGetpldmcommands r s) := by
  fun_cases Sys2Proof.Machine.execGetpldmcommands
  · exact h.answer
  · exact h.answer
  · exact h.answerOpen

theorem State.memOk.execGetsensorreading {r : MgmtReq} : NextOk (execGetsensorreading r s) := by
  fun_cases Sys2Proof.Machine.execGetsensorreading
  · exact h.answer
  · exact h.answerOpen

theorem State.memOk.setCap {w : Nat} : (s.setCap w).memOk := by
  fun_cases State.setCap
  · exact h.updMgmt.setMhz
  · exact h.updMgmt

theorem State.memOk.execPowerCapSet {r : MgmtReq} : NextOk (execPowerCapSet r s) := by
  fun_cases Sys2Proof.Machine.execPowerCapSet
  · exact h
  · exact h.setCap.answer
  · exact h.answer

theorem State.memOk.clearAllLogs : s.clearAllLogs.memOk := by
  unfold State.clearAllLogs
  extract_lets m now kept
  exact State.memOk.foldl (h.same (by rfl)) (fun _ _ h => h.logOn) _

theorem State.memOk.execEventLogClear {r : MgmtReq} : NextOk (execEventLogClear r s) := by
  fun_cases Sys2Proof.Machine.execEventLogClear
  · exact h
  · exact h.clearAllLogs.answer
  · exact h.answerOpen

theorem State.memOk.execGetnumericeffectervalue {r : MgmtReq} : NextOk (execGetnumericeffectervalue r s) := by
  fun_cases Sys2Proof.Machine.execGetnumericeffectervalue
  · exact h.answer
  · exact h.answerOpen

theorem State.memOk.execFirmwareUpdate {r : MgmtReq} : NextOk (execFirmwareUpdate r s) := by
  fun_cases Sys2Proof.Machine.execFirmwareUpdate
  · exact h
  · exact h.updMgmt.answer

/-! ### Other devices and what comes from outside -/

theorem State.memOk.load {o : Object} : (s.load o).memOk := by
  fun_cases State.load
  · exact h
  · exact h
  · exact h.same (by rfl)
  · exact State.memOk.writeHbm (h.same (by rfl))

theorem State.memOk.bring {p : Place} {hdr : Word} {ctx : BitVec 12} {launch : Word} {task : Option Nat} {body : PktBody} :
    (s.bring p hdr ctx launch task body).memOk := h.inject

theorem State.memOk.flowIn {t : TileId} {port : Option (Fin 32)} {hdr : Word} {ctx : BitVec 12} {launch : Word} {data : List Byte} :
    (s.flowIn t port hdr ctx launch data).memOk := by
  unfold State.flowIn
  split
  · exact h.bring
  · exact h

theorem State.memOk.reply {x : FarAccess} {r : FarReply} : (s.reply x r).memOk := State.memOk.same h.noteSent (by rfl)

theorem State.memOk.farLost {x : FarAccess} : (s.farLost x).memOk := h.logOn.reply

theorem State.memOk.farPerform {x : FarAccess} : (s.farPerform x).memOk := by
  fun_cases State.farPerform
  · exact h.farLost
  · exact h.reply
  · exact h.farLost
  · exact h.writeHbm.reply
  · exact h.farLost
  · exact h.writeHbm.reply

theorem State.memOk.farRequest {x : FarAccess} : (s.farRequest x).memOk := by
  fun_cases State.farRequest
  · exact h
  · exact h.farPerform
  · exact h.reply

theorem State.memOk.faccIn {x : FarFacc} : (s.faccIn x).memOk := by
  fun_cases State.faccIn
  case case3 => exact h.combine
  case case4 => exact h.reply
  case case5 => exact h.combine
  all_goals exact h

theorem State.memOk.updRemote {d : BitVec 12} {f : Remote → Remote} (hf : ∀ r : Remote, r.hbm.wf = true → (f r).hbm.wf = true) :
    (s.updRemote d f).memOk := by
  change State.memOk { s with dev := if _ then _ else _ }
  split
  · refine h.mapRemote fun r w => ?_
    split
    · exact hf r w
    · exact w
  · refine h.setRemote fun r hr => ?_
    rcases List.mem_append.1 hr with hr | hr
    · exact h.remote r hr
    · rw [List.mem_singleton.1 hr]
      exact hf _ rfl

end

end Sys2Proof.Machine
end

section
/-! SUPPORT. Each instruction, each event, each change from outside and the passing of time keep every memory in canonical form. -/

namespace Sys2Proof.Machine

section
variable {s : State} (h : s.memOk)
include h

/-! ### Instructions and events -/

/-- An event that is taken under a condition. -/
theorem State.memOk.ifThen {c : Prop} [Decidable c] {z : State} (hz : z.memOk) : NextOk (.next (if c then z else s)) := by
  change State.memOk (if _ then _ else _)
  split
  · exact hz
  · exact h

theorem State.memOk.exec {i : Instr} : NextOk (exec i s) := by
  cases i with
  | add | sub | and | or | xor | shl | shr | sar | mul | mulh | mulhn | div | divn | rem | remn | min | max | minn | maxn | slt | sltn
    | shli | shri | sari => exact h.kReg
  | addi | andi | ori | xori | slti => exact h.kImm
  | lit | litZx | litHi => exact h.kLit
  | beq | bne | blt | bge | bltn | bgen => exact h.kBranch
  | jal => exact h.execJal
  | jalr => exact h.execJalr
  | klds | kldm | kldl | kldf | kldh => exact h.kLoad
  | ksts | kstm | kstl | kstf | ksth => exact h.kStore
  | katm | katl | katf => exact h.kAtomic
  | smwait => exact h.execSmwait
  | smsig => exact h.execSmsig
  | smset => exact h.execSmset
  | smrd | rng | clkrd | grpq => exact h.kDone
  | evpop => exact h.execEvpop
  | evpeek => exact h.execEvpeek
  | gres => exact h.execGres
  | tkpush => exact h.execTkpush
  | tkpop => exact h.execTkpop
  | barr => exact h.execBarr
  | bard => exact h.execBard
  | barx => exact h.execBarx
  | barw => exact h.execBarw
  | flagadd => exact h.execFlagadd
  | flagset => exact h.execFlagset
  | grpset => exact h.execGrpset
  | fence => exact h.execFence
  | qfence => exact h.execQfence
  | subon => exact h.execSubon
  | suboff => exact h.execSuboff
  | chresync => exact h.execChresync
  | sinc => exact h.execSinc
  | srel => exact h.execSrel
  | sroot => exact h.execSroot
  | nop => exact h.kSkip
  | sqrd => exact h.execSqrd
  | sqres => exact h.execSqres
  | sqskip => exact h.execSqskip
  | srrd => exact h.execSrrd
  | srwr => exact h.execSrwr
  | trap => exact h.execTrap
  | eret => exact h.execEret
  | yield => exact h.execYield
  | exit => exact h.execExit
  | lds | ldm | ldl | ldf | ldh => exact h.lsLoad
  | ldn => exact h.lsLoadName
  | sts | stm | stl | stf | sth => exact h.lsStore
  | gths | gthl => exact h.lsGather
  | scts | sctl => exact h.lsScatter
  | aadd | aaddi | asub | amul | ashl | amov | alit | badd | baddi | bsub | bmul | bshl | bmov | blit => exact h.lsSet
  | aslt | aeq | bslt | beqS => exact h.lsCmp
  | lbr | sbr => exact h.lsBranch
  | lj | sj => exact h.lsJump
  | loopL | loopS => exact h.lsLoop
  | cpy | cpy2 | mdld | scout => exact h.lsDesc
  | pfh => exact h.execPfh
  | chrecv => exact h.execChrecv
  | wlpop => exact h.execWlpop
  | facc => exact h.execFacc
  | fsend | fsend2 => exact h.lsSend
  | chsend => exact h.execChsend
  | wlapp => exact h.execWlapp
  | slook | slooki => exact h.lsLook
  | atm | atl | atf => exact h.lsAtomic
  | vadd | vsub | vmul | vfma | vfms | vmin | vmax | vabs | vneg | vcpys | viadd | visub | vimul | vimulh | vand | vor | vxor | vnot | vshl
    | vshr | vsar | vimin | vimax | vicmpeq | vicmplt | vcmpeq | vcmplt | vcmple | vcmpun | vsel | vmov | vpart | vbcast | vshuf | vrot
    | viota | vcompr | vcvt | vcvto | vcvts | vcbdec | vexp2 | vlog2 | vsin | vcos | vtanh | vrcp | vrsqrt | vsqrt | vdiv | vrsum | vrmax
    | vrmin | vrstat | vrsoft | vcmul | vcfma | vconj | vrand | pand | por | pxor | pnot | cbr | cbrt | cj | loopC | loopSet | rotb | lbhdr
    | viewt | viewa | fmtset | mdset | mdsetf | cbload | mxgo | mxgou | mxloop | tokenBundle => exact h.cRun
  | heldCodebookWrite | heldViewWrite => exact h.releaseHeld
  | commandDecided => exact h.execCommandDecided
  | engineCommandStart => exact h.execEngineCommandStart
  | copySector => exact h.execCopySector
  | copyComplete => exact h.execCopyComplete
  | scoutLeaf => exact h.execScoutLeaf
  | scoutComplete => exact h.execScoutComplete
  | flowSendStart => exact h.execFlowSendStart
  | flowSendComplete => exact h.execFlowSendComplete
  | qfenceJoinComplete => exact h.execQfenceJoinComplete
  | matrixCommandStart => exact h.execMatrixCommandStart
  | matrixKStep => exact h.execMatrixKStep
  | matrixPromotion => exact h.execMatrixPromotion
  | matrixCommandComplete => exact h.execMatrixCommandComplete
  | taskStart => exact h.execTaskStart
  | taskRetire => exact h.execTaskRetire
  | tokenStall => exact h.execTokenStall
  | owlQuiescence => exact h.execOwlQuiescence
  | owlStallRule => exact h.execOwlStallRule
  | workListAppendArrival => exact h.appendArrives
  | workListPopArrival => exact h.popArrives
  | barrierUpdate => exact h.execBarrierUpdate
  | flowPacketArrival => exact h.execFlowPacketArrival
  | warrenFetch => exact h.execWarrenFetch
  | flowTimeout => exact h.execFlowTimeout
  | sequencerFlowTimeout => exact h.execSequencerFlowTimeout
  | class3Eviction => exact h.execClass3Eviction
  | requestResend => exact h.execRequestResend
  | channelSlotArrival => exact h.execChannelSlotArrival
  | channelReturnArrival => exact h.execChannelReturnArrival
  | senderAudit => exact h.execSenderAudit
  | receiverAudit => exact h.execReceiverAudit
  | auditReply => exact h.execAuditReply
  | subscriptionBatchClose => exact h.execSubscriptionBatchClose
  | forwardedUpdate => exact h.execForwardedUpdate
  | subscriptionHandshake => exact h.execSubscriptionHandshake
  | faccRequestArrival => exact h.execFaccRequestArrival
  | combiningWindowEnd => exact h.execCombiningWindowEnd
  | combiningReply => exact h.execCombiningReply
  | combiningRecordLost => exact h.execCombiningRecordLost
  | memoryRequest => exact h.execMemoryRequest
  | postedWriteAck => exact h.execPostedWriteAck
  | postedWriteRefusal => exact h.execPostedWriteRefusal
  | requestTimeout => exact h.execRequestTimeout
  | releaseWalk => exact h.execReleaseWalk
  | trapEntry => exact h.trapNow
  | taskKill => exact h.killNow
  | preemption => exact h.execPreemption
  | contextImageSaved => exact h.execContextImageSaved
  | resume => exact h.execResume
  | tailWrite => exact h.execTailWrite
  | commandAccept => exact h.execCommandAccept
  | transferCommand => exact h.execTransferCommand
  | launchStaging => exact h.execLaunchStaging
  | launchReady => exact h.execLaunchReady
  | taskPlacement => exact h.execTaskPlacement
  | readySignal => exact h.execReadySignal
  | launchSealing => exact h.execLaunchSealing
  | queueEnable => exact h.ifThen h.enableQueue
  | queueDisable => exact h.ifThen h.disableQueue
  | seedWrite => exact h.ifThen h.writeSeed
  | ctrbaseWrite => exact h.ifThen h.writeCtrbase
  | registerWrite => exact h.ifThen h.writeReg
  | shootDown => exact h.ifThen h.writeSdctl
  | shootDownComplete => exact h.execShootDownComplete
  | accessTableWrite => exact h.ifThen h.writeAcct
  | atsync => exact h.ifThen h.writeAtsync
  | partitionMapWrite => exact h.ifThen h.writePmap
  | farangeWrite => exact h.ifThen h.writeFarange
  | settIndexEnable => exact h.ifThen h.writeSxcfg
  | flgapWrite => exact h.ifThen h.writeFlgap
  | flowletPathChange => exact h.execFlowletPathChange
  | hostAccess => exact h.execHostAccess
  | linkReplay => exact h.execLinkReplay
  | portDown => exact h.execPortDown
  | pathFailure => exact h.execPathFailure
  | hentiaLinkDown => exact h.execHentiaLinkDown
  | patrolScrub => exact h.execPatrolScrub
  | warrenReload => exact h.execWarrenReload
  | coldReset => exact h.execColdReset
  | warmReset => exact h.execWarmReset
  | clockChange => exact h.ifThen h.setMhz
  | thermalThrottle | thermtrip => exact h.ifThen h.readTemp
  | mctpControl | gettid | getpldmversion | getpdr | getCapabilities => exact h.answerOpen
  | unsupportedRequest | getpldmtypes | getVersion | negotiateAlgorithms | getDigests | getCertificate | challenge | getMeasurements => exact h.answer
  | getpldmcommands => exact h.execGetpldmcommands
  | getsensorreading => exact h.execGetsensorreading
  | powerCapSet => exact h.execPowerCapSet
  | eventLogClear => exact h.execEventLogClear
  | getnumericeffectervalue => exact h.execGetnumericeffectervalue
  | firmwareUpdate => exact h.execFirmwareUpdate
  | chresyncHandshake => exact h.execChresyncHandshake
  | grpsetHandshake => exact h.execGrpsetHandshake
  | flowUnmatchedRecordReturn => exact h.execFlowUnmatchedRecordReturn
  | linkTrained => exact h.execLinkTrained
  | pathDrained => exact h.execPathDrained
  | fuseUpdate => exact h.execFuseUpdate
  | powerRemoval => exact h.execPowerRemoval
  | resetAsserted => exact h.execResetAsserted

/-! ### What comes from outside -/

theorem State.memOk.outside {x : Outside} : (s.outside x).memOk := by
  cases x with
  | softError => exact h.ifThen h.softError
  | flowPacket => exact h.ifThen h.flowIn
  | record => exact h.ifThen h.bring
  | request => exact h.farRequest
  | hostStore => exact (h.setHost (Mem.wf_writeN _ _ _ h.host)).same (by rfl)
  | farStore => exact h.updRemote fun _ w => Mem.wf_writeN _ _ _ w
  | farPresent | farEntry | farRanges | farLost => exact h.updRemote fun _ w => w
  | load => exact h.ifThen h.load
  | facc => exact h.faccIn
  | hubWriteBack | hostDeny | hostLost => exact h.same (by rfl)
  | bringUp => exact h.bringUp
  | warmLow => exact h.warmLow

/-! ### Turns and time -/

theorem State.memOk.illegalAt {q : Sequencer} : (s.illegalAt q).memOk := by
  fun_cases State.illegalAt
  · exact h.kFault
  · exact h.stopSeq
  · exact h

theorem State.memOk.barSettle {q : Sequencer} {i : Instr} : (s.barSettle q i).memOk := by
  unfold State.barSettle
  split
  · exact h.barFlush
  · exact h

theorem State.memOk.seqTurn {t : TileId} {q : Sequencer} {defer : Bool} : NextOk (s.seqTurn t q defer) := by
  have h1 := h.withCur (t := t) (b := defer)
  fun_cases State.seqTurn
  · exact h1
  · exact h1.killNow
  · exact h1
  · exact h1.trapNow
  · exact h1
  · exact h1
  · exact h1.illegalAt
  · exact h1.barSettle.exec

theorem State.memOk.aged {n : Nat} {t : TileId} : (s.aged n t).memOk := by
  unfold State.aged
  extract_lets x
  split
  · exact h.tileAt t
  · exact (h.tileAt t).ageBy

/-- The clocks move and the tiles' commands age; apart, since the barrier updates before it are a long run over the tiles. -/
theorem State.memOk.tick {n : Nat} : State.memOk (s.updDev fun d =>
    let r := d.clkRem + 100 * n
    { d with
      now := d.now + n, clk := d.clk + r / max 1 d.mgmt.mhz, clkRem := r % max 1 d.mgmt.mhz, mgmt := d.mgmt.foldAll
      tiles := Vector.ofFn fun t => s.aged n t }) := by
  refine State.memOk.same (h.setTiles (ts := Vector.ofFn fun t => s.aged n t) fun t => ?_) (by simp only [State.mems, State.updDev])
  have e : (Vector.ofFn fun t => s.aged n t)[t] = s.aged n t := Vector.getElem_ofFn ..
  exact e ▸ h.aged

theorem State.memOk.pass {n : Nat} : (s.pass n).memOk := by
  unfold State.pass
  split
  · exact h
  · exact State.memOk.tick (h.foldl (fun _ _ h => h.barFlush) _)

theorem State.memOk.elapse {n : Nat} : (s.elapse n).memOk := h.pass

theorem State.memOk.takeTurn {t : Turn} : NextOk (s.takeTurn t) := by
  fun_cases State.takeTurn
  · exact h.seqTurn
  · exact h.exec
  · exact h
  · exact h.elapse
  · exact h.outside

theorem State.memOk.nextTurn : s.nextTurn.2.memOk := by
  unfold State.nextTurn
  split <;> exact h.same (by rfl)

end

theorem NextOk.afterTurn {r : Host.Outcome State Fault Refusal} (h : NextOk r) : NextOk (afterTurn r) := by
  cases r with
  | next s =>
    have hs : s.memOk := h
    exact hs.keepQuiet.keepStalls
  | fault | refused => trivial

theorem State.memOk.step {s : State} (h : s.memOk) : NextOk (step s) := h.nextTurn.takeTurn.afterTurn

/-- Settles O58: each place of the machine that holds a memory is written by operations that keep it canonical only, and the rules for the operations
are put together along the definition of a step. -/
theorem memoryStaysCanonical : Obligations.MemoryStaysCanonical := by
  unfold Obligations.MemoryStaysCanonical
  intro s t h e
  have hn := h.step
  rw [e] at hn
  exact hn

end Sys2Proof.Machine
end

section
/-! SUPPORT. The words of an instruction and their bytes: what the decoder reads from either is the instruction (04 R64 to R78, 05 R87 to R97). -/

namespace Sys2Proof.Laws

/-! ### From words -/

/-- Each constructor's own lemma of RoundTrip; an event has no words. -/
theorem roundTrip (i : Instr) : RoundTrip.Statement i := by
  cases i with
  | add => exact RoundTrip.add _ _ _ | sub => exact RoundTrip.sub _ _ _ | and => exact RoundTrip.and _ _ _ | or => exact RoundTrip.or _ _ _
  | xor => exact RoundTrip.xor _ _ _ | shl => exact RoundTrip.shl _ _ _ | shr => exact RoundTrip.shr _ _ _ | sar => exact RoundTrip.sar _ _ _
  | mul => exact RoundTrip.mul _ _ _ | mulh => exact RoundTrip.mulh _ _ _ | mulhn => exact RoundTrip.mulhn _ _ _ | div => exact RoundTrip.div _ _ _
  | divn => exact RoundTrip.divn _ _ _ | rem => exact RoundTrip.rem _ _ _ | remn => exact RoundTrip.remn _ _ _ | min => exact RoundTrip.min _ _ _
  | max => exact RoundTrip.max _ _ _ | minn => exact RoundTrip.minn _ _ _ | maxn => exact RoundTrip.maxn _ _ _ | slt => exact RoundTrip.slt _ _ _
  | sltn => exact RoundTrip.sltn _ _ _ | addi => exact RoundTrip.addi _ _ _ | andi => exact RoundTrip.andi _ _ _ | ori => exact RoundTrip.ori _ _ _
  | xori => exact RoundTrip.xori _ _ _ | shli => exact RoundTrip.shli _ _ _ | shri => exact RoundTrip.shri _ _ _ | sari => exact RoundTrip.sari _ _ _
  | slti => exact RoundTrip.slti _ _ _ | lit => exact RoundTrip.lit _ _ | litZx => exact RoundTrip.litZx _ _ | litHi => exact RoundTrip.litHi _ _
  | beq => exact RoundTrip.beq _ _ _ | bne => exact RoundTrip.bne _ _ _ | blt => exact RoundTrip.blt _ _ _ | bge => exact RoundTrip.bge _ _ _
  | bltn => exact RoundTrip.bltn _ _ _ | bgen => exact RoundTrip.bgen _ _ _ | jal => exact RoundTrip.jal _ | jalr => exact RoundTrip.jalr _ _ _
  | klds => exact RoundTrip.klds _ _ _ | kldm => exact RoundTrip.kldm _ _ _ | kldl => exact RoundTrip.kldl _ _ _ | kldf => exact RoundTrip.kldf _ _ _
  | kldh => exact RoundTrip.kldh _ _ _ | ksts => exact RoundTrip.ksts _ _ _ | kstm => exact RoundTrip.kstm _ _ _ | kstl => exact RoundTrip.kstl _ _ _
  | kstf => exact RoundTrip.kstf _ _ _ | ksth => exact RoundTrip.ksth _ _ _ | katm => exact RoundTrip.katm _ _ _ _
  | katl => exact RoundTrip.katl _ _ _ _ | katf => exact RoundTrip.katf _ _ _ _ | smwait => exact RoundTrip.smwait _
  | smsig => exact RoundTrip.smsig _ | smset => exact RoundTrip.smset _ _ | smrd => exact RoundTrip.smrd _ _ | evpop => exact RoundTrip.evpop _
  | evpeek => exact RoundTrip.evpeek _ | gres => exact RoundTrip.gres _ _ | tkpush => exact RoundTrip.tkpush _ _ | tkpop => exact RoundTrip.tkpop _ _
  | barr => exact RoundTrip.barr _ _ _ | bard => exact RoundTrip.bard _ _ | barx => exact RoundTrip.barx _ _ | barw => exact RoundTrip.barw _ _ _
  | flagadd => exact RoundTrip.flagadd _ _ | flagset => exact RoundTrip.flagset _ _ | grpset => exact RoundTrip.grpset _ _
  | grpq => exact RoundTrip.grpq _ _ _ | fence => exact RoundTrip.fence _ _ | qfence => exact RoundTrip.qfence _ _
  | subon => exact RoundTrip.subon _ _ _ | suboff => exact RoundTrip.suboff _ _ | chresync => exact RoundTrip.chresync _ _
  | sinc => exact RoundTrip.sinc _ _ | srel => exact RoundTrip.srel _ _ | sroot => exact RoundTrip.sroot _ _ _ | nop => exact RoundTrip.nop
  | sqrd => exact RoundTrip.sqrd _ _ _ | sqres => exact RoundTrip.sqres _ | sqskip => exact RoundTrip.sqskip _ | srrd => exact RoundTrip.srrd _ _
  | srwr => exact RoundTrip.srwr _ _ | rng => exact RoundTrip.rng _ _ | clkrd => exact RoundTrip.clkrd _ | trap => exact RoundTrip.trap _
  | eret => exact RoundTrip.eret | yield => exact RoundTrip.yield | exit => exact RoundTrip.exit | lds => exact RoundTrip.lds _ _ _
  | ldm => exact RoundTrip.ldm _ _ _ | ldl => exact RoundTrip.ldl _ _ _ | ldf => exact RoundTrip.ldf _ _ _ | ldn => exact RoundTrip.ldn _ _ _
  | ldh => exact RoundTrip.ldh _ _ _ | sts => exact RoundTrip.sts _ _ _ | stm => exact RoundTrip.stm _ _ _ | stl => exact RoundTrip.stl _ _ _
  | stf => exact RoundTrip.stf _ _ _ | sth => exact RoundTrip.sth _ _ _ | gths => exact RoundTrip.gths _ | gthl => exact RoundTrip.gthl _
  | scts => exact RoundTrip.scts _ | sctl => exact RoundTrip.sctl _ | aadd => exact RoundTrip.aadd _ | aaddi => exact RoundTrip.aaddi _
  | asub => exact RoundTrip.asub _ | amul => exact RoundTrip.amul _ | ashl => exact RoundTrip.ashl _ | amov => exact RoundTrip.amov _
  | alit => exact RoundTrip.alit _ | aslt => exact RoundTrip.aslt _ | aeq => exact RoundTrip.aeq _ | badd => exact RoundTrip.badd _
  | baddi => exact RoundTrip.baddi _ | bsub => exact RoundTrip.bsub _ | bmul => exact RoundTrip.bmul _ | bshl => exact RoundTrip.bshl _
  | bmov => exact RoundTrip.bmov _ | blit => exact RoundTrip.blit _ | bslt => exact RoundTrip.bslt _ | beqS => exact RoundTrip.beqS _
  | lbr => exact RoundTrip.lbr _ | lj => exact RoundTrip.lj _ | sbr => exact RoundTrip.sbr _ | sj => exact RoundTrip.sj _
  | loopL => exact RoundTrip.loopL _ | loopS => exact RoundTrip.loopS _ | cpy => exact RoundTrip.cpy _ | cpy2 => exact RoundTrip.cpy2 _
  | pfh => exact RoundTrip.pfh _ | mdld => exact RoundTrip.mdld _ | scout => exact RoundTrip.scout _ | chrecv => exact RoundTrip.chrecv _
  | wlpop => exact RoundTrip.wlpop _ | facc => exact RoundTrip.facc _ | fsend => exact RoundTrip.fsend _ | fsend2 => exact RoundTrip.fsend2 _
  | chsend => exact RoundTrip.chsend _ | wlapp => exact RoundTrip.wlapp _ | slook => exact RoundTrip.slook _ | slooki => exact RoundTrip.slooki _
  | atm => exact RoundTrip.atm _ _ | atl => exact RoundTrip.atl _ _ | atf => exact RoundTrip.atf _ _ | vadd => exact RoundTrip.vadd _ _ _
  | vsub => exact RoundTrip.vsub _ _ _ | vmul => exact RoundTrip.vmul _ _ _ | vfma => exact RoundTrip.vfma _ _ _ | vfms => exact RoundTrip.vfms _ _ _
  | vmin => exact RoundTrip.vmin _ _ _ | vmax => exact RoundTrip.vmax _ _ _ | vabs => exact RoundTrip.vabs _ _ _ | vneg => exact RoundTrip.vneg _ _ _
  | vcpys => exact RoundTrip.vcpys _ _ _ | viadd => exact RoundTrip.viadd _ _ _ | visub => exact RoundTrip.visub _ _ _
  | vimul => exact RoundTrip.vimul _ _ _ | vimulh => exact RoundTrip.vimulh _ _ _ | vand => exact RoundTrip.vand _ _ _
  | vor => exact RoundTrip.vor _ _ _ | vxor => exact RoundTrip.vxor _ _ _ | vnot => exact RoundTrip.vnot _ _ _ | vshl => exact RoundTrip.vshl _ _ _
  | vshr => exact RoundTrip.vshr _ _ _ | vsar => exact RoundTrip.vsar _ _ _ | vimin => exact RoundTrip.vimin _ _ _
  | vimax => exact RoundTrip.vimax _ _ _ | vicmpeq => exact RoundTrip.vicmpeq _ _ _ | vicmplt => exact RoundTrip.vicmplt _ _ _
  | vcmpeq => exact RoundTrip.vcmpeq _ _ _ | vcmplt => exact RoundTrip.vcmplt _ _ _ | vcmple => exact RoundTrip.vcmple _ _ _
  | vcmpun => exact RoundTrip.vcmpun _ _ _ | vsel => exact RoundTrip.vsel _ _ _ | vmov => exact RoundTrip.vmov _ _ _
  | vpart => exact RoundTrip.vpart _ _ _ | vbcast => exact RoundTrip.vbcast _ _ _ | vshuf => exact RoundTrip.vshuf _ _ _
  | vrot => exact RoundTrip.vrot _ _ _ | viota => exact RoundTrip.viota _ _ _ | vcompr => exact RoundTrip.vcompr _ _ _
  | vcvt => exact RoundTrip.vcvt _ _ _ | vcvto => exact RoundTrip.vcvto _ _ _ | vcvts => exact RoundTrip.vcvts _ _ _
  | vcbdec => exact RoundTrip.vcbdec _ _ _ | vexp2 => exact RoundTrip.vexp2 _ _ _ | vlog2 => exact RoundTrip.vlog2 _ _ _
  | vsin => exact RoundTrip.vsin _ _ _ | vcos => exact RoundTrip.vcos _ _ _ | vtanh => exact RoundTrip.vtanh _ _ _
  | vrcp => exact RoundTrip.vrcp _ _ _ | vrsqrt => exact RoundTrip.vrsqrt _ _ _ | vsqrt => exact RoundTrip.vsqrt _ _ _
  | vdiv => exact RoundTrip.vdiv _ _ _ | vrsum => exact RoundTrip.vrsum _ _ _ | vrmax => exact RoundTrip.vrmax _ _ _
  | vrmin => exact RoundTrip.vrmin _ _ _ | vrstat => exact RoundTrip.vrstat _ _ _ | vrsoft => exact RoundTrip.vrsoft _ _ _
  | vcmul => exact RoundTrip.vcmul _ _ _ | vcfma => exact RoundTrip.vcfma _ _ _ | vconj => exact RoundTrip.vconj _ _ _
  | vrand => exact RoundTrip.vrand _ _ _ | pand => exact RoundTrip.pand _ _ _ | por => exact RoundTrip.por _ _ _ | pxor => exact RoundTrip.pxor _ _ _
  | pnot => exact RoundTrip.pnot _ _ _ | cbr => exact RoundTrip.cbr _ _ _ | cbrt => exact RoundTrip.cbrt _ _ _ | cj => exact RoundTrip.cj _ _ _
  | loopC => exact RoundTrip.loopC _ _ _ | loopSet => exact RoundTrip.loopSet _ _ _ | rotb => exact RoundTrip.rotb _ _ _
  | lbhdr => exact RoundTrip.lbhdr _ _ _ | viewt => exact RoundTrip.viewt _ _ _ | viewa => exact RoundTrip.viewa _ _ _
  | fmtset => exact RoundTrip.fmtset _ _ _ | mdset => exact RoundTrip.mdset _ _ _ | mdsetf => exact RoundTrip.mdsetf _ _ _
  | cbload => exact RoundTrip.cbload _ _ _ | mxgo => exact RoundTrip.mxgo _ _ | mxgou => exact RoundTrip.mxgou _ _
  | mxloop => exact RoundTrip.mxloop _ _ | tokenBundle => exact RoundTrip.tokenBundle _
  | _ => exact RoundTrip.noWords rfl

/-! ### From bytes -/

/-- Opcode 0x0A, by which a fetch knows a pair of K words from a single one (04 R68). -/
def Words.PairMarked : Words → Prop
  | .k w => bits w 31 25 ≠ 0x0A
  | .kx w _ => bits w 31 25 = 0x0A
  | _ => True

/-- The encoder writes opcode 0x0A into the pairs and into no single word of K. -/
theorem encode_pairMarked {i : Instr} {ws : Words} (e : encode i = some ws) : Words.PairMarked ws := by
  cases i <;> cases e <;> simp [Words.PairMarked, encodeV, encodeM]

/-- The number that the bytes of a word hold. -/
theorem leNat_bytes {n : Nat} (w : BitVec n) (k : Nat) (h : n = 8 * k) : leNat (leBytes k w.toNat) = w.toNat := by
  have e : 256 ^ k = 2 ^ n := by rw [h, pow_mul]; norm_num
  rw [leNat_leBytes, e, Nat.mod_eq_of_lt w.isLt]

/-- The two words of a pair from the number that their eight bytes hold. -/
theorem leNat_pair (w lit : BitVec 32) : leNat (leBytes 4 w.toNat ++ leBytes 4 lit.toNat) = w.toNat + 2 ^ 32 * lit.toNat := by
  rw [leNat_append, leNat_bytes w 4 rfl, leNat_bytes lit 4 rfl, leBytes_length]
  norm_num

/-- What a sequencer's decoder reads from the number that its bytes hold. -/
def decodeNumber : Sequencer → Nat → Except Reject Instr
  | .k, v => decodeK (BitVec.ofNat 32 v) (BitVec.ofNat 32 (v / 2 ^ 32))
  | .l, v => decodeL (BitVec.ofNat 64 v)
  | .s, v => decodeS (BitVec.ofNat 64 v)
  | .c, v => decodeC (BitVec.ofNat 128 v)

/-- A fetch takes the bytes of its instruction and leaves what follows them. -/
theorem decodeBytes_append {q : Sequencer} {bs more : List Byte} {i : Instr} (n : instrLen q (bs ++ more) = bs.length)
    (e : decodeNumber q (leNat bs) = .ok i) : decodeBytes q (bs ++ more) = .ok (i, more) := by
  cases q <;> simp only [decodeNumber] at e <;>
    simp only [decodeBytes, n, List.length_append, List.take_left, List.drop_left, e, if_neg (by omega : ¬ bs.length + more.length < bs.length)]

theorem decodeNumber_bytes (ws : Words) : decodeNumber ws.sequencer (leNat ws.bytes) = ws.decode := by
  cases ws with
  | k w =>
    have hi : w.toNat / 2 ^ 32 = 0 := Nat.div_eq_of_lt w.isLt
    simp only [Words.bytes, leNat_bytes w 4 rfl, Words.sequencer, decodeNumber, hi, BitVec.ofNat_toNat, BitVec.setWidth_eq, Words.decode]
    rfl
  | kx w lit =>
    have lo : BitVec.ofNat 32 (w.toNat + 2 ^ 32 * lit.toNat) = w := by bv_omega
    have hi : (w.toNat + 2 ^ 32 * lit.toNat) / 2 ^ 32 = lit.toNat := by have := w.isLt; omega
    simp only [Words.bytes, leNat_pair, Words.sequencer, decodeNumber, lo, hi, BitVec.ofNat_toNat, BitVec.setWidth_eq, Words.decode]
  | l w => simp only [Words.bytes, leNat_bytes w 8 rfl, Words.sequencer, decodeNumber, BitVec.ofNat_toNat, BitVec.setWidth_eq, Words.decode]
  | s w => simp only [Words.bytes, leNat_bytes w 8 rfl, Words.sequencer, decodeNumber, BitVec.ofNat_toNat, BitVec.setWidth_eq, Words.decode]
  | c w => simp only [Words.bytes, leNat_bytes w 16 rfl, Words.sequencer, decodeNumber, BitVec.ofNat_toNat, BitVec.setWidth_eq, Words.decode]

/-- A fetch of K takes eight bytes where the first word has opcode 0x0A, and four else. -/
theorem instrLen_k (w : BitVec 32) (rest : List Byte) :
    instrLen .k (leBytes 4 w.toNat ++ rest) = if bits w 31 25 = 0x0A then 8 else 4 := by
  have e : (leBytes 4 w.toNat ++ rest).take 4 = leBytes 4 w.toNat := List.take_left' (leBytes_length ..)
  simp only [instrLen, e, leNat_bytes w 4 rfl]
  rfl

theorem instrLen_bytes {ws : Words} (h : Words.PairMarked ws) (more : List Byte) :
    instrLen ws.sequencer (ws.bytes ++ more) = ws.bytes.length := by
  cases ws with
  | k w =>
    have one : bits w 31 25 ≠ 0x0A := h
    simp only [Words.sequencer, Words.bytes, instrLen_k, if_neg one, leBytes_length]
  | kx w lit =>
    have pair : bits w 31 25 = 0x0A := h
    simp only [Words.sequencer, Words.bytes, List.append_assoc, instrLen_k, if_pos pair, List.length_append, leBytes_length]
  | l w => exact (leBytes_length ..).symm
  | s w => exact (leBytes_length ..).symm
  | c w => exact (leBytes_length ..).symm

/-- Settles O53: each constructor's words decode to it, and a fetch of their bytes takes these words. -/
theorem decodeEncode : Obligations.DecodeEncode := by
  unfold Obligations.DecodeEncode
  intro i ws more h e
  have d : ws.decode = .ok i := roundTrip i h ws e
  exact ⟨d, decodeBytes_append (instrLen_bytes (encode_pairMarked e) more) ((decodeNumber_bytes ws).trans d)⟩

end Sys2Proof.Laws
end

section
/-! SUPPORT. Token queues: what a push, a pop and a reservation do to each queue, and the stall of a token wait (04 R75, R76, 10 R231, R232). -/

namespace Sys2Proof.Machine

/-! ### The twelve queues of a tile -/

theorem tokNum_lt {x y : Sequencer} (h : x ≠ y) : tokNum x y < 12 := by
  revert h
  cases x <;> cases y <;> decide

theorem tokNum_inj {x y a b : Sequencer} (h : a ≠ b) (e : tokNum x y = tokNum a b) : x = a ∧ y = b := by
  revert h e
  cases x <;> cases y <;> cases a <;> cases b <;> decide

/-- A queue as it reads after one queue was replaced. -/
theorem tokQ_setTokQ (t : Tile) (x y : Sequencer) (v : TokQ) {a b : Sequencer} (h : a ≠ b) :
    (t.setTokQ x y v).tokQ a b = if x = a ∧ y = b then v else t.tokQ a b := by
  split
  next e => rw [e.1, e.2]; exact rd_wr_self _ _ _ (tokNum_lt h)
  next e => exact rd_wr_ne _ _ _ _ fun n => e (tokNum_inj h n)

@[simp] theorem tokQ_mark (t : Tile) (q : Sequencer) (n : Nat) (a b : Sequencer) : (t.mark q n).tokQ a b = t.tokQ a b := by
  cases q <;> rfl

@[simp] theorem tokQ_setClk (t : Tile) (q : Sequencer) (c : Clk) (a b : Sequencer) : (t.setClk q c).tokQ a b = t.tokQ a b := by
  cases q <;> rfl

theorem peersOf_nodup (q : Sequencer) (code : BitVec 3) : (peersOf q code).Nodup := by
  revert code
  cases q <;> decide

/-- A queue without its head entry. -/
def TokQ.pop (z : TokQ) : TokQ :=
  match z.items with
  | [] => z
  | _ :: r => { z with head := (z.head + 1) % 16, items := r }

theorem TokQ.pop_items (z : TokQ) : z.pop.items = z.items.drop 1 := by
  unfold TokQ.pop
  split <;> simp [*]

theorem TokQ.pop_wait (z : TokQ) : z.pop.wait = z.wait := by
  unfold TokQ.pop
  split <;> rfl

theorem tokQ_popOne (t : Tile) (q p : Sequencer) {x y : Sequencer} (h : x ≠ y) :
    (popOne q t p).tokQ x y = if x = p ∧ y = q then (t.tokQ x y).pop else t.tokQ x y := by
  cases e : (t.tokQ p q).items with
  | nil =>
    have stay : popOne q t p = t := by simp [popOne, e]
    rw [stay]
    split
    next c => rw [c.1, c.2, TokQ.pop, e]
    next => rfl
  | cons k r =>
    have go : popOne q t p = (t.setTokQ p q (t.tokQ p q).pop).mark p (k.clk.at p) := by simp [popOne, TokQ.pop, e]
    rw [go, tokQ_mark, tokQ_setTokQ _ _ _ _ h]
    simp only [eq_comm]
    split
    next c => rw [← c.1, ← c.2]
    next => rfl

/-- A run over peers of which r alone changes the queue from a to b, and that only under a condition. -/
theorem tokQ_foldl {f : Tile → Sequencer → Tile} {g : TokQ → TokQ} {a b r : Sequencer} {c : Prop} [Decidable c]
    (h : ∀ t p, (f t p).tokQ a b = if c ∧ p = r then g (t.tokQ a b) else t.tokQ a b) {ps : List Sequencer} (d : ps.Nodup) (t : Tile) :
    (ps.foldl f t).tokQ a b = if c ∧ r ∈ ps then g (t.tokQ a b) else t.tokQ a b := by
  induction ps generalizing t with
  | nil => simp
  | cons p ps ih =>
    obtain ⟨hp, d⟩ := List.nodup_cons.1 d
    rw [List.foldl_cons, ih d, h]
    by_cases hr : p = r
    · subst hr
      simp [hp]
    · simp [hr, Ne.symm hr]

section
variable (t : Tile) (q : Sequencer) {ps : List Sequencer} (d : ps.Nodup) {x y : Sequencer} (h : x ≠ y)
include d h

/-- A reservation stands at the end of each named queue, under the number of the word that made it. -/
theorem tokQ_reserve : (t.reserve q ps).tokQ x y =
    if x = q ∧ y ∈ ps then { t.tokQ x y with wait := (t.tokQ x y).wait ++ [((t.clkOf q).at q + 1, none)] } else t.tokQ x y := by
  refine tokQ_foldl (g := fun z => { z with wait := z.wait ++ [((t.clkOf q).at q + 1, none)] }) (fun t p => ?_) d t
  simp only [tokQ_mark, tokQ_setTokQ _ _ _ _ h, eq_comm]
  split
  next e => rw [← e.1, ← e.2]
  next => rfl

theorem tokQ_pushReserved (pay : BitVec 32) (clk : Clk) : (t.pushReserved q ps pay clk).tokQ x y =
    if x = q ∧ y ∈ ps then (t.tokQ x y).complete (clk.at q) ⟨pay, clk⟩ else t.tokQ x y := by
  refine tokQ_foldl (g := fun z => z.complete (clk.at q) ⟨pay, clk⟩) (fun t p => ?_) d t
  simp only [tokQ_setTokQ _ _ _ _ h, eq_comm]
  split
  next e => rw [← e.1, ← e.2]
  next => rfl

/-- Each named queue gives its head entry, if it has one. -/
theorem tokQ_popToks : (t.popToks q ps).tokQ x y = if y = q ∧ x ∈ ps then (t.tokQ x y).pop else t.tokQ x y := by
  change ((ps.foldl (popOne q) t).setClk q _).tokQ x y = _
  rw [tokQ_setClk]
  refine tokQ_foldl (g := TokQ.pop) (fun t p => ?_) d t
  rw [tokQ_popOne t q p h]
  simp only [eq_comm, and_comm]

end

/-! ### Entries and reservations -/

/-- A queue without reservations takes the entry of the word that has reserved last at its tail. -/
theorem TokQ.complete_reserved_first (z : TokQ) (n : Nat) (k : Tok) (h : z.wait = []) :
    ({ z with wait := z.wait ++ [(n, none)] } : TokQ).complete n k = { z with items := z.items ++ [k], wait := [] } := by
  simp [TokQ.complete, TokQ.settle, h]

/-- Behind a push that is still to come the entry waits in its place (log 84). -/
theorem TokQ.complete_reserved_behind (z : TokQ) (n : Nat) (k : Tok) {w : Nat} {r : List (Nat × Option Tok)} (h : z.wait = (w, none) :: r)
    (lt : ∀ e ∈ z.wait, e.1 < n) :
    ({ z with wait := z.wait ++ [(n, none)] } : TokQ).complete n k = { z with wait := z.wait ++ [(n, some k)] } := by
  have keep : ∀ e ∈ z.wait, (if e.1 = n ∧ e.2.isNone then (n, some k) else e) = e := fun e m => if_neg fun c => absurd c.1 (lt e m).ne
  have e : ((z.wait ++ [(n, none)]).map fun (e : Nat × Option Tok) => if e.1 = n ∧ e.2.isNone then (n, some k) else e) = z.wait ++ [(n, some k)] := by
    rw [List.map_append, List.map_congr_left keep, List.map_id']
    simp
  simp only [TokQ.complete, Bool.and_eq_true, decide_eq_true_eq, e]
  simp [TokQ.settle, h]

/-! ### A word's pushes -/

section
variable (t : Tile) (q : Sequencer) {ps : List Sequencer} (d : ps.Nodup) (pay : BitVec 32) {clk : Clk} (n : clk.at q = (t.clkOf q).at q + 1)
  {x y : Sequencer} (h : x ≠ y)
include d n h

/-- A word's reservation and its push, made one after the other, in one queue. -/
theorem tokQ_push : ((t.reserve q ps).pushReserved q ps pay clk).tokQ x y =
    if x = q ∧ y ∈ ps then ({ t.tokQ x y with wait := (t.tokQ x y).wait ++ [(clk.at q, none)] } : TokQ).complete (clk.at q) ⟨pay, clk⟩
    else t.tokQ x y := by
  rw [tokQ_pushReserved _ q d h, tokQ_reserve _ q d h, n]
  split
  next c => rfl
  next => rfl

theorem tokQ_push_first (e : (t.tokQ x y).wait = []) : ((t.reserve q ps).pushReserved q ps pay clk).tokQ x y =
    { t.tokQ x y with items := (t.tokQ x y).items ++ if x = q ∧ y ∈ ps then [⟨pay, clk⟩] else [] } := by
  rw [tokQ_push t q d pay n h]
  split
  · rw [TokQ.complete_reserved_first _ _ _ e, ← e]
  · rw [List.append_nil]

theorem tokQ_push_behind {w : Nat} {r : List (Nat × Option Tok)} (e : (t.tokQ x y).wait = (w, none) :: r)
    (lt : ∀ e ∈ (t.tokQ x y).wait, e.1 < clk.at q) : ((t.reserve q ps).pushReserved q ps pay clk).tokQ x y =
    { t.tokQ x y with wait := (t.tokQ x y).wait ++ if x = q ∧ y ∈ ps then [(clk.at q, some ⟨pay, clk⟩)] else [] } := by
  rw [tokQ_push t q d pay n h]
  split
  · rw [TokQ.complete_reserved_behind _ _ _ e lt]
  · rw [List.append_nil]

end

/-! ### Token waits that cannot end (10 R232) -/

/-- The queues that a word pops and pushes, each with what makes it wait for ever. -/
theorem tokenStalled_iff (t : Tile) (q : Sequencer) (pops pushes : List Sequencer) (resv : Bool) :
    t.tokenStalled q pops pushes resv = true ↔ (∃ p ∈ pops, (t.tokQ p q).items = [] ∧ t.endedOf p = true ∧ (t.tokQ p q).resv = 0) ∨
      (resv = false ∧ ∃ p ∈ pushes, 16 ≤ (t.tokQ q p).items.length + (t.tokQ q p).resv ∧ t.endedOf p = true) := by
  simp [Tile.tokenStalled, TokQ.space, and_assoc]

/-- What a stop leaves of a tile. -/
theorem setStop_frame (x : Tile) {q : Sequencer} (h : q ≠ .k) (r : StopRec) (v : Bool) :
    (x.setStop q r v).stopOf q = some r ∧ (x.setStop q r v).k = x.k ∧ (x.setStop q r v).tok = x.tok ∧ (x.setStop q r v).resvOf q = v := by
  cases q with
  | k => exact absurd rfl h
  | l | c | s => exact ⟨rfl, rfl, rfl, rfl⟩

/-- K, which waits for nothing else, takes TOKEN_STALL as a fault of its own. -/
theorem stopBefore_k (s : State) (c : Cause) (h : s.tile.k.pend = none) : s.stopBefore s.cur .k c = s.kFault c 0 := by
  have same : ({ s.tile with k := { s.tile.k with pend := none } } : Tile) = s.tile := by rw [← h]
  have e : s.upd (fun x => { x with k := { x.k with pend := none } }) = s :=
    (congrArg (s.setTileAt s.cur) same).trans (setTileAt_tileAt s s.cur)
  change ({ (s.upd fun x => { x with k := { x.k with pend := none } }).kFault c 0 with cur := s.cur } : State) = _
  rw [e]
  rfl

theorem stopBefore_of_mayStop (s : State) (t : TileId) {q : Sequencer} (c : Cause) (h : q ≠ .k) (m : (s.tileAt t).mayStop q = true) :
    s.stopBefore t q c = s.stopSeq t q c 0 false ((s.tileAt t).resvOf q) := by
  cases q with
  | k => exact absurd rfl h
  | l | c | s => exact if_pos m

theorem stopBefore_of_not_mayStop (s : State) (t : TileId) {q : Sequencer} (c : Cause) (h : q ≠ .k) (m : ¬ (s.tileAt t).mayStop q = true) :
    s.stopBefore t q c = s := by
  cases q with
  | k => exact absurd rfl h
  | l | c | s => exact if_neg m

/-- TOKEN_STALL finds its sequencer executing, K waiting for nothing else, and the token wait one that can never end. -/
def State.TokenStuck (s : State) (t : TileId) (q : Sequencer) : Prop :=
  s.executes t q = true ∧ (q = .k → (s.tileAt t).k.pend = none) ∧
    (s.tileAt t).tokenStalled q (peersOf q (s.tokensAt t q).1) (peersOf q (s.tokensAt t q).2) ((s.tileAt t).resvOf q) = true

theorem tokenStuck_iff (s : State) (t : TileId) (q : Sequencer) : s.TokenStuck t q ↔
    (s.executes t q && (q != .k || (s.tileAt t).k.pend.isNone) &&
      (s.tileAt t).tokenStalled q (peersOf q (s.tokensAt t q).1) (peersOf q (s.tokensAt t q).2) ((s.tileAt t).resvOf q)) = true := by
  simp [State.TokenStuck, and_assoc, imp_iff_not_or]

theorem exec_tokenStall_stuck {s : State} {t : TileId} {q : Sequencer} (h : s.TokenStuck t q) :
    exec (.tokenStall t q) s = .next (s.stopBefore t q .tokenStall) := if_pos ((tokenStuck_iff s t q).1 h)

theorem exec_tokenStall_free {s : State} {t : TileId} {q : Sequencer} (h : ¬ s.TokenStuck t q) :
    exec (.tokenStall t q) s = .next s := if_neg (mt (tokenStuck_iff s t q).2 h)

/-- Settles O7: each queue by the rules of reservation, push and pop, and the event by what it stops. -/
theorem tokenQueuesAndStalls : Obligations.TokenQueuesAndStalls := by
  unfold Obligations.TokenQueuesAndStalls
  refine ⟨fun t q code pay clk x y h n => ?_, fun s t q => ?_⟩
  · have d := peersOf_nodup q code
    refine ⟨?_, fun e => ?_, fun w r e lt => ?_, ?_, ?_⟩
    · rw [tokQ_push t q d pay n h]
      split <;> rfl
    · rw [tokQ_push_first t q d pay n h e]
      exact ⟨e, rfl⟩
    · rw [tokQ_push_behind t q d pay n h e lt]
      exact ⟨rfl, rfl⟩
    · rw [tokQ_popToks t q d h]
      split <;> [exact TokQ.pop_items _; rfl]
    · rw [tokQ_popToks t q d h]
      split <;> [exact TokQ.pop_wait _; rfl]
  · intro x pops pushes stuck
    have hs : stuck ↔ x.tokenStalled q pops pushes (x.resvOf q) = true := (tokenStalled_iff ..).symm
    refine ⟨fun h => ?_, fun ex st hq ms => ?_, fun ex hq st hp ht hk => ?_⟩
    · by_cases c : s.TokenStuck t q
      · obtain ⟨ex, hp, hst⟩ := c
        have hq : q ≠ .k := fun e => h ⟨ex, hp, fun n => absurd e n, hs.2 hst⟩
        have ms : ¬ x.mayStop q = true := fun m => h ⟨ex, hp, fun _ => m, hs.2 hst⟩
        rw [exec_tokenStall_stuck ⟨ex, hp, hst⟩, stopBefore_of_not_mayStop s t _ hq ms]
      · exact exec_tokenStall_free c
    · have c : s.TokenStuck t q := ⟨ex, fun e => absurd e hq, hs.1 st⟩
      rw [exec_tokenStall_stuck c, stopBefore_of_mayStop s t _ hq ms]
      let r : StopRec := ⟨.tokenStall, x.pcOf q, 0, s.seqWord t q (x.pcOf q), false⟩
      have e : (s.stopSeq t q .tokenStall 0 false (x.resvOf q)).tileAt t = x.setStop q r (x.resvOf q) := tileAt_updAt_self ..
      refine ⟨_, r, rfl, ?_⟩
      rw [e]
      obtain ⟨h1, h2, h3, h4⟩ := setStop_frame x hq r (x.resvOf q)
      exact ⟨h1, rfl, rfl, rfl, rfl, h2, h3, h4, fun u hu => tileAt_updAt_ne _ _ _ _ hu.symm⟩
    · subst hq ht
      rw [exec_tokenStall_stuck ⟨ex, fun _ => hp, hs.1 st⟩, stopBefore_k s _ hp]
      exact ⟨_, rfl, kFault_trapped s _ _ hk (by decide)⟩

end Sys2Proof.Machine
end

section
/-! SUPPORT. Relocations: what is stored, where, and what refuses an image (04 R85, R86). -/

namespace Sys2Proof.Machine

/-! ### The value that a relocation stores -/

theorem relocType_reserved {n : Nat} (h : 14 ≤ n) : relocType n = none := by
  unfold relocType
  split
  case h_15 => rfl
  all_goals omega

/-- Only code 0 is the type that stores nothing. -/
theorem relocType_none {n : Nat} : relocType n = some .none ↔ n = 0 := by
  refine ⟨fun h => ?_, fun h => h ▸ rfl⟩
  unfold relocType at h
  split at h <;> simp_all

/-- A relocation whose type and symbol are known. -/
theorem relocStore_known {r : Reloc} {y : Symbol} {t : RelocType} (ht : relocType r.code = some t) (hn : t ≠ .none) (hy : r.sym = some y)
    (hin : relocIn t r.sec = true) : relocStore r =
      if relocWord t ≠ 0 ∧ y.sec ≠ some r.sec then none
      else (relocValue t (y.value + r.addend) (r.off : Int)).bind fun v => if relocFits t v then some (t, v) else none := by
  cases t with
  | none => exact absurd rfl hn
  | _ =>
    simp only [relocStore, ht, hy, hin]
    cases relocValue _ (y.value + r.addend) r.off <;> simp

section
variable {r : Reloc} {y : Symbol} {t : RelocType} (ht : relocType r.code = some t) (hn : t ≠ .none) (hy : r.sym = some y)
  (hin : relocIn t r.sec = true) {c : Prop} [Decidable c]
include ht hn hy hin

/-- A type that stores the value itself or a half of it, where that fits. -/
theorem relocStore_value {v : Int} (hw : relocWord t = 0) (hv : relocValue t (y.value + r.addend) r.off = some v) (hc : relocFits t v = true ↔ c) :
    relocStore r = if c then some (t, v) else none := by
  rw [relocStore_known ht hn hy hin, if_neg fun c => c.1 hw, hv, Option.bind_some]
  exact if_congr hc rfl rfl

/-- A type that stores a distance in words of its section, where it is a whole number of them and fits. -/
theorem relocStore_distance {d : Int} (hd : d = y.value + r.addend - r.off) (hw : relocWord t ≠ 0) (hc : relocFits t (d / relocWord t) = true ↔ c) :
    relocStore r = if y.sec = some r.sec ∧ d % relocWord t = 0 ∧ c then some (t, d / relocWord t) else none := by
  have hv : relocValue t (y.value + r.addend) r.off = if d % relocWord t = 0 then some (d / relocWord t) else none := hd ▸ if_pos hw
  rw [relocStore_known ht hn hy hin, hv]
  by_cases hs : y.sec = some r.sec
  · by_cases h0 : d % relocWord t = 0
    · simp [hs, h0, hc]
    · simp [hs, h0]
  · simp [hs, hw]

end

theorem relocIn_ls {t : RelocType} (h : t = .ls20 ∨ t = .lspc20) {x : Section} (hx : x = .l ∨ x = .s) : relocIn t x = true := by
  rcases h with rfl | rfl <;> rcases hx with rfl | rfl <;> rfl

theorem fitsSigned_iff (n : Nat) (v : Int) : fitsSigned n v = true ↔ -(2 ^ (n - 1) : Int) ≤ v ∧ v < 2 ^ (n - 1) := by simp [fitsSigned]

theorem fitsUnsigned_iff (n : Nat) (v : Int) : fitsUnsigned n v = true ↔ 0 ≤ v ∧ v < 2 ^ n := by simp [fitsUnsigned]

/-! ### A field patched into its word -/

/-- Bits lo to lo + n - 1 of a number replaced by m. -/
def putField (old lo n m : Nat) : Nat := old - nbits old lo n * 2 ^ lo + m * 2 ^ lo

/-- The number above the field, the field, and the number below it. -/
theorem putField_parts (old lo n m : Nat) : putField old lo n m = 2 ^ lo * (2 ^ n * (old / 2 ^ (lo + n)) + m) + old % 2 ^ lo := by
  have hm : nbits old lo n = old / 2 ^ lo % 2 ^ n := by rw [nbits, Nat.shiftRight_eq_div_pow]
  have h1 : 2 ^ lo * (old / 2 ^ lo) + old % 2 ^ lo = old := Nat.div_add_mod ..
  have h2 : 2 ^ n * (old / 2 ^ (lo + n)) + old / 2 ^ lo % 2 ^ n = old / 2 ^ lo := by
    rw [pow_add, ← Nat.div_div_eq_div_mul]
    exact Nat.div_add_mod ..
  have h3 : old = 2 ^ lo * (2 ^ n * (old / 2 ^ (lo + n))) + nbits old lo n * 2 ^ lo + old % 2 ^ lo := by
    rw [hm, mul_comm _ (2 ^ lo), ← mul_add, h2, h1]
  rw [putField, mul_add, mul_comm (2 ^ lo) m]
  omega

theorem nbits_putField (old lo n m : Nat) (h : m < 2 ^ n) : nbits (putField old lo n m) lo n = m := by
  have hl : old % 2 ^ lo < 2 ^ lo := Nat.mod_lt _ (by positivity)
  rw [nbits, Nat.shiftRight_eq_div_pow, putField_parts, Nat.mul_add_div (by positivity), Nat.div_eq_of_lt hl, add_zero,
    Nat.mul_add_mod, Nat.mod_eq_of_lt h]

theorem testBit_putField (old lo n m : Nat) (h : m < 2 ^ n) {b : Nat} (hb : b < lo ∨ lo + n ≤ b) :
    (putField old lo n m).testBit b = old.testBit b := by
  have hl : old % 2 ^ lo < 2 ^ lo := Nat.mod_lt _ (by positivity)
  rw [putField_parts, Nat.testBit_two_pow_mul_add _ hl]
  rcases hb with hb | hb
  · rw [if_pos hb, Nat.testBit_mod_two_pow, decide_eq_true hb, Bool.true_and]
  · rw [if_neg (by omega), Nat.testBit_two_pow_mul_add _ h, if_neg (by omega), Nat.testBit_div_two_pow]
    congr 1
    omega

theorem putField_lt {old lo n m k : Nat} (h : m < 2 ^ n) (ho : old < 2 ^ k) (hk : lo + n ≤ k) : putField old lo n m < 2 ^ k :=
  Nat.lt_pow_two_of_testBit _ fun i hi => (testBit_putField old lo n m h (.inr (by omega))).trans
    (Nat.testBit_lt_two_pow (ho.trans_le (Nat.pow_le_pow_right (by decide) hi)))

theorem leNat_lt (bs : List Byte) : leNat bs < 2 ^ (8 * bs.length) := by
  induction bs with
  | nil => decide
  | cons b t ih =>
    have hb := b.isLt
    have hp : 2 ^ (8 * (t.length + 1)) = 256 * 2 ^ (8 * t.length) := by rw [mul_add, pow_add]; omega
    rw [leNat, List.length_cons, hp]
    omega

/-- The low n bits of a value. -/
theorem toNat_emod_lt (v : Int) (n : Nat) : (v % 2 ^ n).toNat < 2 ^ n := by
  have lt := Int.emod_lt_of_pos v (show (0 : Int) < 2 ^ n by positivity)
  have nonneg := Int.emod_nonneg v (show (2 : Int) ^ n ≠ 0 by positivity)
  zify
  omega

section
variable (bs : List Byte) {off w : Nat} (lo n : Nat) (v : Int) (h : off + w ≤ bs.length)
include h

theorem patchBytes_length : (patchBytes bs off w lo n v).length = bs.length := by
  simp only [patchBytes, List.length_append, List.length_take, leBytes_length, List.length_drop]
  omega

theorem patchBytes_outside {i : Nat} (hi : i < off ∨ off + w ≤ i) : (patchBytes bs off w lo n v)[i]? = bs[i]? := by
  have hl : (bs.take off).length = off := by rw [List.length_take]; omega
  rw [patchBytes]
  rcases hi with hi | hi
  · rw [List.append_assoc, List.getElem?_append_left (by omega), List.getElem?_take_of_lt hi]
  · rw [List.getElem?_append_right (by simp; omega), List.getElem?_drop]
    congr 1
    simp
    omega

/-- The word that holds the field. -/
theorem patchBytes_word (hf : lo + n ≤ 8 * w) : leNat (((patchBytes bs off w lo n v).drop off).take w) =
    putField (leNat ((bs.drop off).take w)) lo n (v % 2 ^ n).toNat := by
  have hl : (bs.take off).length = off := by rw [List.length_take]; omega
  have hw : ((bs.drop off).take w).length = w := by rw [List.length_take, List.length_drop]; omega
  have hm := toNat_emod_lt v n
  have ho : leNat ((bs.drop off).take w) < 2 ^ (8 * w) := by simpa only [hw] using leNat_lt ((bs.drop off).take w)
  rw [patchBytes, List.append_assoc, List.drop_left' hl, List.take_left' (leBytes_length ..), leNat_leBytes]
  refine Nat.mod_eq_of_lt ?_
  have e : 256 ^ w = 2 ^ (8 * w) := by rw [pow_mul]; norm_num
  rw [e]
  exact putField_lt hm ho hf

end

/-! ### Relocations applied -/

theorem sectionOf_setSection_self (o : Object) (x : Section) (bs : List Byte) : sectionOf (setSection o x bs) x = bs := by cases x <;> rfl

theorem sectionOf_setSection_ne (o : Object) {x y : Section} (bs : List Byte) (h : y ≠ x) : sectionOf (setSection o x bs) y = sectionOf o y := by
  cases x <;> cases y <;> simp [sectionOf, setSection] at h ⊢

theorem relocField_fits (t : RelocType) : (relocField t).2.1 + (relocField t).2.2 ≤ 8 * (relocField t).1 := by cases t <;> decide

/-- A relocation that is applied patches its field, which lies in its section. -/
theorem applyReloc_some {o z : Object} {r : Reloc} {t : RelocType} {v : Int} (h : relocStore r = some (t, v)) (hn : t ≠ .none)
    (e : applyReloc o r = some z) : r.off + (relocField t).1 ≤ (sectionOf o r.sec).length ∧
      z = setSection o r.sec (patchBytes (sectionOf o r.sec) r.off (relocField t).1 (relocField t).2.1 (relocField t).2.2 v) := by
  have room : r.off + (relocField t).1 ≤ (sectionOf o r.sec).length ∧ some (setSection o r.sec
      (patchBytes (sectionOf o r.sec) r.off (relocField t).1 (relocField t).2.1 (relocField t).2.2 v)) = some z := by
    unfold applyReloc at e
    rw [h] at e
    cases t with
    | none => exact absurd rfl hn
    | _ => exact Option.ite_none_right_eq_some.1 e
  exact ⟨room.1, (Option.some.inj room.2).symm⟩

theorem relocateAll_error (o : Object) {rs : List Reloc} (h : ∃ r ∈ rs, relocStore r = none) : ∃ r ∈ rs, relocateAll o rs = .error r := by
  induction rs generalizing o with
  | nil => simp at h
  | cons a rs ih =>
    cases ha : applyReloc o a with
    | none => exact ⟨a, List.mem_cons_self, by simp only [relocateAll, ha]⟩
    | some z =>
      have rest : ∃ r ∈ rs, relocStore r = none := by
        obtain ⟨r, hr, h0⟩ := h
        rcases List.mem_cons.1 hr with rfl | hr
        · simp [applyReloc, h0] at ha
        · exact ⟨r, hr, h0⟩
      obtain ⟨r, hr, e⟩ := ih z rest
      exact ⟨r, List.mem_cons_of_mem _ hr, by simp only [relocateAll, ha, e]⟩

/-! ### The loader -/

theorem mem_putImage (is : List Image) (i : Image) : i ∈ putImage is i := by
  unfold putImage
  split
  next h =>
    obtain ⟨x, hx, hm⟩ := List.any_eq_true.1 h
    exact List.mem_map.2 ⟨x, hx, if_pos hm⟩
  next => simp

section
variable (s : State) {α : Type} {f : Device → α}

theorem heal_frame (h : ∀ d x, f { d with lost := x } = f d) (code : BitVec 8) (p a n : Nat) : f (s.heal code p a n).dev = f s.dev := by
  unfold State.heal
  split
  · rfl
  · exact h ..

theorem recall_frame (h : ∀ d x, f { d with hostCopies := x } = f d) (a n : Nat) : f (s.recall a n).dev = f s.dev := by
  unfold State.recall
  split
  · rfl
  · exact h ..

theorem markDirty_frame (h : ∀ d x, f { d with hub := x } = f d) (a : Nat) : f (s.markDirty a).dev = f s.dev := by
  unfold State.markDirty State.fitHub
  split
  · rfl
  · dsimp only
    split
    · exact h ..
    · exact (h ..).trans (h ..)

/-- A write of HBM changes its bytes, its lost units, the lines that are dirty and the host's copies. -/
theorem writeHbm_frame (hb : ∀ d x, f { d with hbm := x } = f d) (hl : ∀ d x, f { d with lost := x } = f d)
    (hc : ∀ d x, f { d with hostCopies := x } = f d) (hu : ∀ d x, f { d with hub := x } = f d) (a n v : Nat) :
    f (s.writeHbm a n v).dev = f s.dev :=
  calc f (s.writeHbm a n v).dev
    _ = _ := markDirty_frame _ hu _
    _ = _ := recall_frame _ hc _ _
    _ = _ := heal_frame _ hl _ _ _ _
    _ = _ := heal_frame _ hl _ _ _ _
    _ = f s.dev := hb ..

end

/-- A refused object leaves everything. -/
theorem load_refused (s : State) {o : Object} {r : Reloc} (e : relocateAll o o.relocs = .error r) : s.load o = s := by
  simp only [State.load, e]

theorem load_beyond (s : State) {o x : Object} (e : relocateAll o o.relocs = .ok x) (h0 : x.data ≠ []) (h : hbmSize < x.dataAt + x.data.length) :
    s.load o = s := by
  simp [State.load, e, h0, h]

/-- What a load leaves: the image put among the others, and the object's data written. -/
theorem load_ok (s : State) {o x : Object} (e : relocateAll o o.relocs = .ok x) (h : x.data = [] ∨ x.dataAt + x.data.length ≤ hbmSize) :
    s.load o = (let s := s.updDev fun d => { d with images := putImage d.images (imageOfObject x) }
      if x.data = [] then s else s.writeHbm x.dataAt x.data.length (leNat x.data)) := by
  have fits : ¬ (x.data ≠ [] ∧ hbmSize < x.dataAt + x.data.length) := fun c => h.elim c.1 (Nat.not_le_of_lt c.2)
  simp only [State.load, e]
  rw [if_neg (by simpa using fits)]
  simp

theorem takeTurn_load (s : State) (o : Object) : s.takeTurn (.outside (.load o)) = .next (if s.isReady then s.load o else s) := rfl

/-- Settles O55: the types by whether they store a value or a distance, a patched field bit by bit, and the loader by the first refusal. -/
theorem relocationsFit : Obligations.RelocationsFit := by
  unfold Obligations.RelocationsFit
  refine ⟨fun r => ⟨?_, ?_, ?_⟩, fun r y hy => ?_, ?_, ?_, ?_, ?_⟩
  · intro h
    simp [relocStore, relocType_reserved h]
  · intro hc hy
    cases ht : relocType r.code with
    | none => simp [relocStore, ht]
    | some t =>
      cases t with
      | none => exact absurd (relocType_none.1 ht) hc
      | _ => simp [relocStore, ht, hy]
  · intro hc
    simp [relocStore, relocType_none.2 hc]
  · intro v d
    refine ⟨fun c x => ?_, fun c x => ?_, fun c x => ?_, fun c x => ?_, fun c x => ?_, fun c x => ?_, fun c x => ?_, fun c x => ?_, fun c x => ?_,
      fun c x => ?_, fun c x => ?_, fun c x => ?_, fun c x => ?_⟩
    · exact relocStore_value (c ▸ rfl) (by decide) hy (x ▸ rfl) rfl rfl (fitsSigned_iff 15 v)
    · exact x ▸ relocStore_distance (t := .kb15) (c ▸ rfl) (by decide) hy (x ▸ rfl) rfl (by decide) (fitsSigned_iff 15 (d / 4))
    · exact x ▸ relocStore_distance (t := .kj25) (c ▸ rfl) (by decide) hy (x ▸ rfl) rfl (by decide) (fitsSigned_iff 25 (d / 4))
    · exact relocStore_value (c ▸ rfl) (by decide) hy (x ▸ rfl) rfl rfl (fitsSigned_iff 32 v)
    · exact relocStore_value (c ▸ rfl) (by decide) hy (x ▸ rfl) rfl rfl (fitsUnsigned_iff 32 v)
    · exact (relocStore_value (t := .hi32) (c ▸ rfl) (by decide) hy (x ▸ rfl) rfl rfl Iff.rfl).trans (if_pos rfl)
    · exact (relocStore_value (t := .lo32) (c ▸ rfl) (by decide) hy (x ▸ rfl) rfl rfl Iff.rfl).trans (if_pos rfl)
    · exact relocStore_value (c ▸ rfl) (by decide) hy (relocIn_ls (.inl rfl) x) rfl rfl (fitsSigned_iff 20 v)
    · exact relocStore_distance (t := .lspc20) (c ▸ rfl) (by decide) hy (relocIn_ls (.inr rfl) x) rfl (by decide) (fitsSigned_iff 20 (d / 8))
    · refine relocStore_value (c ▸ rfl) (by decide) hy (x ▸ rfl) rfl rfl ?_
      rw [relocFits, Bool.or_eq_true, fitsSigned_iff, fitsUnsigned_iff]
      omega
    · exact x ▸ relocStore_distance (t := .cpc32) (c ▸ rfl) (by decide) hy (x ▸ rfl) rfl (by decide) (fitsSigned_iff 32 (d / 16))
    · exact relocStore_value (c ▸ rfl) (by decide) hy (x ▸ rfl) rfl rfl (fitsUnsigned_iff 32 v)
    · exact (relocStore_value (t := .abs64) (c ▸ rfl) (by decide) hy (x ▸ rfl) rfl rfl Iff.rfl).trans (if_pos rfl)
  · intro o z r t v h hn e f old new
    obtain ⟨room, rfl⟩ := applyReloc_some h hn e
    have hm : (v % 2 ^ f.2.2).toNat < 2 ^ f.2.2 := toNat_emod_lt v _
    have hnew : new = patchBytes old r.off f.1 f.2.1 f.2.2 v := sectionOf_setSection_self ..
    have hword := patchBytes_word old f.2.1 f.2.2 v room (relocField_fits t)
    rw [hnew, hword]
    exact ⟨patchBytes_length old _ _ v room, fun i hi => patchBytes_outside old _ _ v room hi, fun x hx => sectionOf_setSection_ne o _ hx,
      nbits_putField _ _ _ _ hm, fun b hb => testBit_putField _ _ _ _ hm hb⟩
  · intro s o h
    obtain ⟨r, hr, e⟩ := relocateAll_error o h
    refine ⟨⟨r, hr, e⟩, ?_⟩
    rw [takeTurn_load, load_refused s e, ite_self]
  · intro s o x e h0 h
    rw [takeTurn_load, load_beyond s e h0 h, ite_self]
  · intro s o x hr e h
    rw [takeTurn_load, if_pos hr, load_ok s e h]
    refine ⟨_, rfl, ?_⟩
    dsimp only
    split
    · exact ⟨mem_putImage .., rfl, rfl⟩
    · rw [writeHbm_frame (f := Device.images) _ (fun _ _ => rfl) (fun _ _ => rfl) (fun _ _ => rfl) (fun _ _ => rfl),
        writeHbm_frame (f := Device.tiles) _ (fun _ _ => rfl) (fun _ _ => rfl) (fun _ _ => rfl) (fun _ _ => rfl),
        writeHbm_frame (f := Device.launches) _ (fun _ _ => rfl) (fun _ _ => rfl) (fun _ _ => rfl) (fun _ _ => rfl)]
      exact ⟨mem_putImage .., rfl, rfl⟩

end Sys2Proof.Machine
end

section
/-! SUPPORT. A turn of a sequencer runs what its bytes decode to, and the words of the encoding tables decode to what they stand for (04 R64 to R78). -/

namespace Sys2Proof.Machine

/-! ### Words of the encoding tables -/

/-- Settles O54, by computation. -/
theorem specWordsDecode : Obligations.SpecWordsDecode := by
  unfold Obligations.SpecWordsDecode
  decide

/-! ### The fetch -/

/-- A word that decodes to an instruction inside its stream is fetched. -/
theorem fetched_some {s : State} {q : Sequencer} {k : Task} {i : Instr} {more : List Byte} (hk : s.tile.task = some k)
    (e : decodeBytes q (s.fetchBytes s.cur q) = .ok (i, more)) (lo : k.entry q ≤ s.tile.pcOf q)
    (hi : (s.tile.pcOf q).toNat + instrLen q (s.fetchBytes s.cur q) ≤ (k.fin q).toNat) : s.fetched q = some i := by
  simp [State.fetched, e, hk, lo, hi]

theorem fetched_none_of_error {s : State} {q : Sequencer} {r : Reject} (e : decodeBytes q (s.fetchBytes s.cur q) = .error r) :
    s.fetched q = none := by
  simp [State.fetched, e]

/-- No instruction falls through past the end of its stream (04 R65). -/
theorem fetched_none_of_end {s : State} {q : Sequencer} {k : Task} (hk : s.tile.task = some k)
    (h : (k.fin q).toNat < (s.tile.pcOf q).toNat + instrLen q (s.fetchBytes s.cur q)) : s.fetched q = none := by
  cases e : decodeBytes q (s.fetchBytes s.cur q) with
  | error r => exact fetched_none_of_error e
  | ok p =>
    simp only [State.fetched, e, hk]
    exact if_neg fun c => absurd (of_decide_eq_true (Bool.and_eq_true_iff.1 c).1) (Nat.not_le_of_lt h)

/-! ### The turn -/

/-- Nothing keeps a sequencer of the stepping tile from running: its task is live and neither killed nor stopping, its tile is in its partition, the sequencer is
neither ended nor stopped, and K has no stop to take and waits for nothing but its link. -/
structure State.Runs (s : State) (q : Sequencer) (k : Task) : Prop where
  task : s.tile.task = some k
  live : s.tile.live = true
  preempt : s.tile.preempt = .none ∨ q = .k ∧ s.tile.k.linkWait = true
  partition : s.runsOn s.cur s.tile.ctx = true
  kill : s.tile.killDue = none
  ended : s.tile.endedOf q = false
  stop : s.tile.stopOf q = none
  wait : q = .k → s.tile.k.pend = none ∧ (s.tile.stopped = false ∨ s.tile.k.trap = true) ∨ s.tile.k.linkWait = true

theorem replyWait_of_linkWait {k : KState} (h : k.linkWait = true) : k.replyWait = true := by
  unfold KState.linkWait at h
  split at h
  next a e => simp [KState.replyWait, e]
  next => cases h

section
variable {s : State} {q : Sequencer} {k : Task} (h : s.Runs q k)
include h

/-- The turn of a sequencer that nothing keeps from running is its instruction, or ILLEGAL where there is none. -/
theorem seqTurn_of_runs (z : State) (t : TileId) (d : Bool) (e : s = { z with cur := t, defer := d }) :
    z.seqTurn t q d = (s.fetched q).elim (.next (s.illegalAt q)) fun i => exec i (s.barSettle q i) := by
  obtain ⟨task, live, preempt, partition, kill, ended, stop, wait⟩ := h
  have ht : t = s.cur := e ▸ rfl
  unfold State.seqTurn
  rw [← e, ht]
  have h1 : (s.tile.task.isNone || !s.tile.live || !s.runsOn s.cur s.tile.ctx) = false := by simp [task, live, partition]
  have h2 : (s.tile.preempt != .none && !(q == .k && s.tile.k.linkWait)) = false := by
    rcases preempt with p | ⟨rfl, p⟩ <;> simp [p]
  have h3 : (q == .k && s.tile.stopped && !s.tile.k.trap && !s.tile.k.replyWait) = false := by
    by_cases hq : q = .k
    · rcases wait hq with ⟨-, w | w⟩ | w <;> simp [w, replyWait_of_linkWait]
    · simp [hq]
  have h4 : (q == .k && s.tile.k.pend.isSome && !s.tile.k.linkWait) = false := by
    by_cases hq : q = .k
    · rcases wait hq with ⟨w, -⟩ | w <;> simp [w]
    · simp [hq]
  have h5 : (s.tile.endedOf q || (s.tile.stopOf q).isSome) = false := by simp [ended, stop]
  simp only [h1, h2, h3, h4, h5, kill, Option.isSome_none, Bool.false_eq_true, if_false]
  cases s.fetched q <;> rfl

end

/-- A tile without a valid partition map, or not of its task's partition, runs no task (16 R329). -/
theorem seqTurn_of_not_runsOn (z : State) (t : TileId) (q : Sequencer) (d : Bool) (h : z.runsOn t (z.tileAt t).ctx = false) :
    z.seqTurn t q d = .next { z with cur := t, defer := d } :=
  if_pos (Bool.or_eq_true_iff.2 (.inr ((congrArg Bool.not h).trans rfl)))

theorem runsOn_unmapped {s : State} {t : TileId} (h : bit (s.tileAt t).pmap 4 = false) (tag : BitVec 12) : s.runsOn t tag = false := by
  simp [State.runsOn, Tile.mapped, h]

theorem barSettle_none {s : State} {q : Sequencer} (h : q ≠ .k ∨ s.tile.barOpen = none) (i : Instr) : s.barSettle q i = s := by
  rcases h with h | h <;> simp [State.barSettle, h]

theorem barSettle_open {s : State} {b : Bool} (h : s.tile.barOpen = some b) (i : Instr) :
    s.barSettle .k i = if b = false ∧ updatesBar i = true then s else s.barFlush s.cur := by
  by_cases c : b = false ∧ updatesBar i = true
  · simp [State.barSettle, h, c]
  · rw [if_neg c]
    cases b <;> simp_all [State.barSettle]

theorem step_of_agenda {s : State} {t : Turn} {rest : List Turn} (h : s.agenda = t :: rest) :
    step s = afterTurn (State.takeTurn { s with agenda := rest, tick := s.tick + 1 } t) := by
  simp only [step, State.nextTurn, h]

/-- Settles O56: where nothing keeps a sequencer from running, its turn is that of the fetched instruction; the other turns are their own definitions. -/
theorem stepRunsDecoded : Obligations.StepRunsDecoded := by
  unfold Obligations.StepRunsDecoded
  intro s rest t q d k x s1 pc bytes
  refine ⟨fun ha task live preempt part kill ended stop wait => ?_, fun ha h => ?_, ⟨fun h i => ?_, fun i b hq h => ?_⟩, ⟨rfl, fun r hr => ?_⟩,
    fun i ha hi => ?_, fun n ha => ?_, fun z ha => ?_, fun z => rfl⟩
  · have link : (∃ a, x.k.pend = some (.access a)) → x.k.linkWait = true := by
      rintro ⟨a, e⟩
      simp [KState.linkWait, e]
    have runs : s1.Runs q k := ⟨task, live, preempt.imp_right (And.imp_right link), part, kill, ended, stop, fun e => (wait e).imp_right link⟩
    have turn : step s = afterTurn ((s1.fetched q).elim (.next (s1.illegalAt q)) fun i => exec i (s1.barSettle q i)) :=
      (step_of_agenda ha).trans (congrArg afterTurn (seqTurn_of_runs runs _ t d rfl))
    refine ⟨fun i more e lo hi => ?_, fun r e => ?_, fun e => ?_⟩
    · rw [turn, fetched_some (s := s1) task e (BitVec.le_def.2 lo) hi]
      rfl
    · rw [turn, fetched_none_of_error (s := s1) e]
      rfl
    · rw [turn, fetched_none_of_end (s := s1) task e]
      rfl
  · have off : s.runsOn t x.ctx = false := h.elim id fun h => runsOn_unmapped h _
    exact (step_of_agenda ha).trans (congrArg afterTurn (seqTurn_of_not_runsOn _ t q d off))
  · exact barSettle_none h i
  · subst hq
    exact barSettle_open (s := s1) h i
  · cases r with
    | k => exact absurd rfl hr
    | l | c | s => rfl
  · exact (step_of_agenda ha).trans (congrArg afterTurn (if_pos (Option.isNone_iff_eq_none.2 hi)))
  · exact step_of_agenda ha
  · exact step_of_agenda ha

end Sys2Proof.Machine
end

section
/-! SUPPORT. What a word of L or S leaves alone, and when it goes on, waits or stalls (04 R76, R77, 07 R137, R139, 10 R232). -/

namespace Sys2Proof.Machine

/-! ### The memories -/

/-- A change of the stepping tile that keeps its memories keeps every memory. -/
theorem sameMemory_upd (s : State) (f : Tile → Tile) (spm : (f s.tile).spm = s.tile.spm) (reg : (f s.tile).regspace = s.tile.regspace)
    (valid : (f s.tile).rvalid = s.tile.rvalid) (side : (f s.tile).side = s.tile.side) (carves : (f s.tile).carves = s.tile.carves) :
    SameMemory s (s.upd f) := by
  refine ⟨fun _ => rfl, fun _ => rfl, fun _ _ => rfl, fun u => ?_⟩
  by_cases h : s.cur = u
  · subst h
    rw [← State.tile, show (s.upd f).tileAt s.cur = f s.tile from tile_upd s f]
    exact ⟨fun a => by rw [spm], fun a => by unfold Tile.rbyte Tile.valid; rw [reg, valid], fun a => by rw [side],
      fun l a => by simp only [Tile.carveMem, carves]⟩
  · rw [show (s.upd f).tileAt u = s.tileAt u from tileAt_updAt_ne _ _ _ _ h]
    exact ⟨fun _ => rfl, fun _ => rfl, fun _ => rfl, fun _ _ => rfl⟩

/-! ### A word that writes one register -/

/-- A tile after its word of L or S has popped and reserved: queues z, marks a and b, the sequencer's clock c and trail u. -/
def Tile.issued (t : Tile) (q : Sequencer) (z : Vector TokQ 12) (a b : Nat) (c : Clk) (u : List Popped) : Tile :=
  ({ t with tok := z, outL := a, outS := b }).setLsState q { t.ls q with clk := c, trail := u }

theorem lsIssue_tile (s : State) {q : Sequencer} (hq : q = .l ∨ q = .s) (f : LSF) :
    ∃ z a b c u, (s.lsIssue q f).tile = s.tile.issued q z a b c u := by
  rcases hq with rfl | rfl
  · obtain ⟨z, c, u, a, b, h⟩ := lsIssue_tile_l s f
    exact ⟨z, a, b, c, u, h⟩
  · obtain ⟨z, c, u, a, b, h⟩ := lsIssue_tile_s s f
    exact ⟨z, a, b, c, u, h⟩

theorem setTok_issued (t : Tile) {q : Sequencer} (hq : q = .l ∨ q = .s) (z z' : Vector TokQ 12) (a b : Nat) (c : Clk) (u : List Popped) (d : Reg)
    (v : Word) : ({ (t.issued q z a b c u).setLs q d v with tok := z' } : Tile) = (t.issued q z' a b c u).setLs q d v := by
  rcases hq with rfl | rfl <;> rfl

/-- The stepping tile behind a word that wrote one register. -/
theorem lsDone_tile (s : State) {q : Sequencer} (hq : q = .l ∨ q = .s) (f : LSF) (pay : BitVec 32) (d : Reg) (v : Word) :
    ∃ z a b c u, (s.lsDone q f pay fun t => t.setLs q d v).tile = ((s.tile.issued q z a b c u).setLs q d v).lsNext q := by
  obtain ⟨z, a, b, c, u, h⟩ := lsIssue_tile s hq f
  have e : (s.lsDone q f pay fun t => t.setLs q d v).tile =
      (((s.tile.issued q z a b c u).setLs q d v).pushReserved q (peersOf q f.push) pay (s.lsClk q f)).lsNext q := by
    unfold State.lsDone State.lsEnd
    rw [tile_upd, tile_upd, h]
  rw [e, pushReserved_eq, setTok_issued _ hq]
  exact ⟨_, a, b, c, u, rfl⟩

theorem lsDone_eq (s : State) (q : Sequencer) (f : LSF) (pay : BitVec 32) (g : Tile → Tile) :
    s.lsDone q f pay g = s.upd fun _ => (s.lsDone q f pay g).tile := by
  simp [State.lsDone, State.lsEnd, State.lsIssue, State.upd, State.updAt, State.tile]

section
variable (t : Tile) {q : Sequencer} (hq : q = .l ∨ q = .s) (z : Vector TokQ 12) (a b : Nat) (c : Clk) (u : List Popped) (d : Reg) (v : Word)
include hq

theorem areg_wrote (r : Reg) : (((t.issued q z a b c u).setLs q d v).lsNext q).areg q r = if r = d then v else t.areg q r := by
  have e : (((t.issued q z a b c u).setLs q d v).lsNext q).areg q r = rd (wr (t.ls q).regs d.toNat v) r.toNat := by
    rcases hq with rfl | rfl <;> rfl
  rw [e]
  split
  next h => rw [h, rd_wr_self _ _ _ d.isLt]
  next h => exact rd_wr_ne _ _ _ _ fun n => h (BitVec.eq_of_toNat_eq n.symm)

/-- What a word that wrote one register leaves of its sequencer and of the other one. -/
theorem ls_wrote : let x := ((t.issued q z a b c u).setLs q d v).lsNext q
    (x.ls q).preds = (t.ls q).preds ∧ (x.ls q).stop = (t.ls q).stop ∧ (x.ls q).lc = (testLoops (t.ls q).lc ((t.ls q).pc + 8) (loopsAt (t.ls q).lc (t.ls q).pc)).1 ∧
      (x.ls q).pc = (testLoops (t.ls q).lc ((t.ls q).pc + 8) (loopsAt (t.ls q).lc (t.ls q).pc)).2.1 ∧
      (∀ o, (o = .l ∨ o = .s) → o ≠ q → x.ls o = t.ls o) ∧ x = { t with l := x.l, s := x.s, tok := x.tok, outL := x.outL, outS := x.outS } := by
  rcases hq with rfl | rfl
  · exact ⟨rfl, rfl, rfl, rfl, fun o ho hn => ho.elim (fun h => absurd h hn) fun h => h ▸ rfl, rfl⟩
  · exact ⟨rfl, rfl, rfl, rfl, fun o ho hn => ho.elim (fun h => h ▸ rfl) fun h => absurd h hn, rfl⟩

end

/-! ### Words that go on, wait or stall -/

section
variable {s : State} {q : Sequencer} {f : LSF} {regs : List Reg} {preds : List (BitVec 3)} (body : State → Issue) (h : s.tile.lsBusy q [] [f.pred] = false)
include h

/-- A word whose predicate is false goes on (04 R77). -/
theorem lsRun_pred_false (hp : s.tile.pred q f.pred = false) : s.lsRun q f regs preds body = s.upd fun t => t.lsNext q := by
  simp [State.lsRun, h, hp]

/-- A word that moves tokens waits behind a FACC in flight (log 28). -/
theorem lsRun_facc (hp : s.tile.pred q f.pred = true) (hf : s.tile.faccHolds q f = true) :
    s.lsRun q f regs preds body = s.upd fun t => t.lsHold q s.dev.now := by
  simp [State.lsRun, h, hp, hf]

section
variable (hp : s.tile.pred q f.pred = true) (hb : s.tile.lsBusy q regs preds = false) (hf : s.tile.faccHolds q f = false)
include hp hb hf

/-- A token wait that can never end stops the sequencer, once it may stop (10 R232). -/
theorem lsRun_stalled (hs : s.tile.tokenStalled q (peersOf q f.pop) (peersOf q f.push) (s.tile.ls q).resv = true) :
    s.lsRun q f regs preds body = if s.tile.mayStop q = true then s.stopSeq s.cur q .tokenStall 0 false (s.tile.ls q).resv
      else s.upd fun t => t.lsHold q s.dev.now := by
  simp [State.lsRun, h, hp, hb, hf, hs]

/-- A word waits for its pops and for the space of its pushes with nothing taken (04 R76). -/
theorem lsRun_tokens (hs : s.tile.tokenStalled q (peersOf q f.pop) (peersOf q f.push) (s.tile.ls q).resv = false)
    (hw : s.tile.canPop q (peersOf q f.pop) = false ∨ ((s.tile.ls q).resv = false ∧ s.tile.canPush q (peersOf q f.push) = false)) :
    s.lsRun q f regs preds body = s.upd fun t => t.lsHold q s.dev.now := by
  rcases hw with hw | ⟨hr, hw⟩
  · simp [State.lsRun, h, hp, hb, hf, hs, hw]
  · rw [hr] at hs
    simp [State.lsRun, h, hp, hb, hf, hs, hr, hw]

end

end

theorem abOf_eq (f : LSF) : abOf f = BitVec.ofNat 5 f.imm.toNat := by
  apply BitVec.eq_of_toNat_eq
  simp [abOf]

/-- Settles O17: a word that writes one register leaves its tile in one form (lsDone_tile), from which the frame is read off; the waits and stalls are the
branches of lsRun before its body. -/
theorem lsWaitsAndFrame : Obligations.LsWaitsAndFrame := by
  unfold Obligations.LsWaitsAndFrame
  refine ⟨fun s f q o d v pay hqo => ?_, fun s f i q regs preds hi hb => ?_⟩
  · intro t
    have hq : q = .l ∨ q = .s := hqo.imp And.left And.left
    obtain ⟨z, a, b, c, u, e⟩ := lsDone_tile s hq f pay d v
    obtain ⟨preds, stop, lc, pc, other, same⟩ := ls_wrote s.tile hq z a b c u d v
    rw [← e] at preds stop lc pc other same
    have only : t = s.upd fun x => { x with l := t.tile.l, s := t.tile.s, tok := t.tile.tok, outL := t.tile.outL, outS := t.tile.outS } :=
      (lsDone_eq ..).trans (congrArg (s.setTileAt s.cur) same)
    refine ⟨fun r => e ▸ areg_wrote s.tile hq z a b c u d v r, preds, stop, fun hl => ?_, ?_, only, ?_⟩
    · rw [hl] at lc pc
      exact ⟨pc, lc⟩
    · rcases hqo with ⟨rfl, rfl⟩ | ⟨rfl, rfl⟩
      · exact other .s (.inr rfl) (by decide)
      · exact other .l (.inl rfl) (by decide)
    · rw [only]
      exact sameMemory_upd s _ rfl rfl rfl rfl rfl
  · have run : ∃ body, exec i s = .next (s.lsRun q f regs preds body) := by
      simp only [List.mem_cons, Prod.mk.injEq, List.not_mem_nil, or_false] at hi
      rcases hi with ⟨rfl, rfl, rfl, rfl⟩ | ⟨rfl, rfl, rfl, rfl⟩ | ⟨rfl, rfl, rfl, rfl⟩ | ⟨rfl, rfl, rfl, rfl⟩
      · exact ⟨_, by rw [← abOf_eq]; rfl⟩
      · exact ⟨_, by rw [← abOf_eq]; rfl⟩
      · exact ⟨_, rfl⟩
      · exact ⟨_, rfl⟩
    obtain ⟨body, e⟩ := run
    rw [e]
    exact ⟨fun hp => congrArg _ (lsRun_pred_false body hb hp), fun hp hf => congrArg _ (lsRun_facc body hb hp hf), fun hp hr hf =>
      ⟨fun hs => congrArg _ (lsRun_stalled body hb hp hr hf hs), fun hs hw => congrArg _ (lsRun_tokens body hb hp hr hf hs hw)⟩⟩

end Sys2Proof.Machine
end

section
/-! SUPPORT. A bundle of C: when it takes effect, and what its issue leaves alone (04 R72 to R77, 08 R172, R175, 09 R204, R205). -/

namespace Sys2Proof.Machine

/-! ### Bytes of the register space -/

/-- The valid bits of sectors that a write does not touch. -/
theorem sectorMask_outside {a n j : Nat} (h : j < a / 32 ∨ (a + n + 31) / 32 ≤ j) : (sectorMask a n).getLsbD j = false := by
  unfold sectorMask
  split
  · simp
  · rw [BitVec.getLsbD_shiftLeft]
    rcases h with h | h
    · simp [h]
    · have out : ¬ j - a / 32 < (a + n - 1) / 32 - a / 32 + 1 := by omega
      simp [BitVec.getLsbD_ofNat, Nat.testBit_two_pow_sub_one, out]

theorem get_foldl_clear (m : Mem) (l : List Nat) (w : Nat → Nat) (n b : Nat) (h : ∀ i ∈ l, b < w i ∨ w i + n ≤ b) :
    (l.foldl (fun m i => m.clear (w i) n) m).get b = m.get b := by
  induction l generalizing m with
  | nil => rfl
  | cons i l ih =>
    rw [List.foldl_cons, ih _ fun j hj => h j (List.mem_cons_of_mem _ hj), Mem.get_clear, if_neg]
    have := h i List.mem_cons_self
    omega

/-- Opening the sectors of a write changes no byte of another sector. -/
theorem rbyte_openSectors (t : Tile) {a n b : Nat} (h : b / 32 < a / 32 ∨ (a + n + 31) / 32 ≤ b / 32) : (t.openSectors a n).rbyte b = t.rbyte b := by
  have valid : (t.rvalid ||| sectorMask a n).getLsbD (b / 32) = t.rvalid.getLsbD (b / 32) := by
    rw [BitVec.getLsbD_or, sectorMask_outside h, Bool.or_false]
  have bytes : (t.openSectors a n).regspace.get b = t.regspace.get b := by
    refine get_foldl_clear _ _ (fun i => 32 * (a / 32 + i)) 32 b fun i hi => ?_
    have lt := List.mem_range.1 (List.mem_filter.1 hi).1
    omega
  change (if (t.rvalid ||| sectorMask a n).getLsbD (b / 32) then (t.openSectors a n).regspace.get b else 0) = _
  rw [valid, bytes]
  rfl

section
variable (t : Tile) {r d : Nat} (h : d ≠ r) {i : Nat} (hi : i < 128)
include h hi

/-- A register written as a whole, with its sectors opened. -/
theorem rbyte_putReg (v : Nat) :
    ({ t.openSectors (128 * d) 128 with regspace := (t.openSectors (128 * d) 128).regspace.writeN (128 * d) 128 v } : Tile).rbyte (128 * r + i) =
      t.rbyte (128 * r + i) := by
  rw [← rbyte_openSectors t (a := 128 * d) (n := 128) (by omega)]
  unfold Tile.rbyte Tile.valid
  rw [Mem.get_writeN_out _ _ _ _ _ (by omega)]

theorem rbyte_rwrite (v : Nat) : (t.rwrite (128 * d) 128 v).rbyte (128 * r + i) = t.rbyte (128 * r + i) := rbyte_putReg t h hi v

end

/-! ### A slot's results -/

/-- u is t after results of C's slots: the bypass network and the predicates, and the register space. -/
def Tile.WroteC (t u : Tile) : Prop :=
  u = { t with c := { t.c with bypass := u.c.bypass, p := u.c.p }, regspace := u.regspace, rvalid := u.rvalid }

theorem Tile.WroteC.refl (t : Tile) : t.WroteC t := rfl

theorem Tile.WroteC.trans {t u v : Tile} (h : t.WroteC u) (g : u.WroteC v) : t.WroteC v := by
  unfold Tile.WroteC at *
  rw [g, h]

theorem Tile.WroteC.foldl {α : Type} {f : Tile → α → Tile} (h : ∀ t x, Tile.WroteC t (f t x)) (l : List α) (t : Tile) : t.WroteC (l.foldl f t) := by
  induction l generalizing t with
  | nil => exact .refl t
  | cons x l ih => exact (h t x).trans (ih _)

theorem wroteC_rwrite (t : Tile) (a n v : Nat) : t.WroteC (t.rwrite a n v) := by
  unfold Tile.rwrite
  split
  · exact .refl t
  · rfl

theorem wroteC_cWrite (t : Tile) (o : SlotOut) (tr : Bool) : t.WroteC (t.cWrite o tr) := by
  unfold Tile.cWrite
  extract_lets t1 t2
  have h1 : t.WroteC t1 := by
    unfold t1
    split
    · refine .foldl (fun t r => ?_) _ t
      dsimp only
      split <;> rfl
    · exact .foldl (fun t r => wroteC_rwrite t _ _ _) _ t
  have h2 : t.WroteC t2 := h1.trans (.foldl (fun t m => wroteC_rwrite t _ _ _) _ t1)
  split
  · split
    · exact h2
    · exact h2.trans rfl
  · exact h2

theorem rbyte_foldl {α : Type} {f : Tile → α → Tile} {l : List α} {b : Nat} (h : ∀ x ∈ l, ∀ t, (f t x).rbyte b = t.rbyte b) (t : Tile) :
    (l.foldl f t).rbyte b = t.rbyte b := by
  induction l generalizing t with
  | nil => rfl
  | cons x l ih => exact (ih (fun y hy => h y (List.mem_cons_of_mem _ hy)) _).trans (h x List.mem_cons_self t)

/-- A register that a slot does not write keeps its bytes. -/
theorem rbyte_cWrite (t : Tile) (o : SlotOut) (tr : Bool) {r : Nat} (h : ∀ w ∈ o.regs, w.1 ≠ r) (hm : o.mem = []) {i : Nat} (hi : i < 128) :
    (t.cWrite o tr).rbyte (128 * r + i) = t.rbyte (128 * r + i) := by
  unfold Tile.cWrite
  extract_lets t1 t2
  have h1 : t1.rbyte (128 * r + i) = t.rbyte (128 * r + i) := by
    unfold t1
    split
    · refine rbyte_foldl (fun w hw t => ?_) t
      dsimp only
      split
      · rfl
      · exact rbyte_putReg _ (h w hw) hi _
    · exact rbyte_foldl (fun w hw t => rbyte_rwrite t (h w hw) hi _) t
  have h2 : t2 = t1 := by simp only [t2, hm, List.foldl_nil]
  rw [h2, ← h1]
  split
  · split <;> rfl
  · rfl

/-! ### The issue of a bundle -/

/-- The two slots' results written, slot A's first. -/
def Tile.cSlots (t : Tile) (o : BundleOut) : Tile :=
  let t := match o.a with | some r => t.cWrite r.1 r.2 | none => t
  match o.b with | some r => t.cWrite r.1 r.2 | none => t

theorem wroteC_cSlots (t : Tile) (o : BundleOut) : t.WroteC (t.cSlots o) := by
  have one : ∀ (t : Tile) (z : Option (SlotOut × Bool)), t.WroteC (match z with | some r => t.cWrite r.1 r.2 | none => t) := by
    intro t z
    cases z with
    | none => exact .refl t
    | some r => exact wroteC_cWrite t r.1 r.2
  exact (one t o.a).trans (one _ o.b)

theorem rbyte_cSlots (t : Tile) (o : BundleOut) {r : Nat} (h : ∀ z ∈ [o.a, o.b], ∀ q, z = some q → (∀ w ∈ q.1.regs, w.1 ≠ r) ∧ q.1.mem = [])
    {i : Nat} (hi : i < 128) : (t.cSlots o).rbyte (128 * r + i) = t.rbyte (128 * r + i) := by
  have one : ∀ (t : Tile), ∀ z ∈ [o.a, o.b], (match z with | some r => t.cWrite r.1 r.2 | none => t).rbyte (128 * r + i) = t.rbyte (128 * r + i) := by
    intro t z hz
    cases z with
    | none => rfl
    | some q => exact rbyte_cWrite t q.1 q.2 (h _ hz q rfl).1 (h _ hz q rfl).2 hi
  exact (one _ o.b (by simp)).trans (one t o.a (by simp))

/-- Slot M's command queued, and the state of C that slot A's control leaves. -/
def Tile.cBegin (t : Tile) (o : BundleOut) : Tile :=
  let t1 := match o.cmd with | some (q, c) => t.pushCmd q { c with clk := t.c.clk.tick .c } | none => t
  { t1 with c := { t1.c with lc := o.ctl.c.lc, p := o.ctl.c.p, rot := o.ctl.c.rot, rings := o.ctl.c.rings, ft := o.ctl.c.ft, md := o.ctl.c.md } }

/-- The pushes made, or kept with a write that the bundle's own command keeps back. -/
def Tile.cPushes (t : Tile) (pushes : BitVec 3) (o : BundleOut) (clk : Clk) : Tile :=
  let push := fun (t : Tile) => t.pushReserved .c (peersOf .c pushes) o.ctl.pay clk
  match o.ctl.held with
  | none => push t
  | some h => if t.heldBack h then { t with c := { t.c with held := some h, heldPush := pushes } } else push { t with c := t.c.applyHeld h }

theorem cIssue_eq (t : Tile) (pushes : BitVec 3) (o : BundleOut) :
    t.cIssue pushes o = (((t.cBegin o).cSlots o).cPushes pushes o (t.c.clk.tick .c)).cAdvance o.ctl.jump := by
  rfl

/-- The tile in which a bundle issues: its entries popped and its pushes reserved. -/
def Tile.cTokens (t : Tile) (k : Toks) : Tile :=
  if t.c.resv then t.popToks .c (peersOf .c k.pop) else (t.popToks .c (peersOf .c k.pop)).reserve .c (peersOf .c k.push)

/-- t is s but that some lost units may be lost no longer. -/
def State.Healed (s t : State) : Prop := ∃ l, t = s.updDev fun d => { d with lost := l }

theorem State.Healed.refl (s : State) : s.Healed s := ⟨s.dev.lost, rfl⟩

theorem State.Healed.trans {s t u : State} (h : s.Healed t) (g : t.Healed u) : s.Healed u := by
  obtain ⟨l, rfl⟩ := h
  obtain ⟨m, rfl⟩ := g
  exact ⟨m, rfl⟩

theorem State.Healed.foldl {α : Type} {f : State → α → State} (h : ∀ s x, State.Healed s (f s x)) (l : List α) (s : State) : s.Healed (l.foldl f s) := by
  induction l generalizing s with
  | nil => exact .refl s
  | cons x l ih => exact (h s x).trans (ih _)

theorem healed_heal (s : State) (code : BitVec 8) (p a n : Nat) : s.Healed (s.heal code p a n) := by
  unfold State.heal
  split
  · exact .refl s
  · exact ⟨_, rfl⟩

theorem healed_healSlot (s : State) (o : SlotOut) (tr : Bool) : s.Healed (s.healSlot o tr) := by
  unfold State.healSlot
  split
  · exact .refl s
  · exact (State.Healed.foldl (fun s r => healed_heal s _ _ _ _) _ s).trans (.foldl (fun s m => healed_heal s _ _ _ _) _ _)

/-- A bundle's issue is that of its tile, and heals the units that its results rewrite. -/
theorem cDone_tile (s : State) (b : Bundle) (o : BundleOut) : ∃ l, s.cDone b o =
    (s.upd fun t => (t.cTokens b.k).cIssue b.k.push o).updDev fun d => { d with lost := l } := by
  have one : ∀ (s : State) (z : Option (SlotOut × Bool)), s.Healed (match z with | some r => s.healSlot r.1 r.2 | none => s) := by
    intro s z
    cases z with
    | none => exact .refl s
    | some r => exact healed_healSlot s r.1 r.2
  exact (one _ o.a).trans (one _ o.b)

/-! ### What the issue leaves alone -/

/-- u is t but for C, the engine and token queues, the register space and the marks of L and S. -/
def Tile.CIssued (t u : Tile) : Prop :=
  u = { t with c := u.c, q := u.q, tok := u.tok, regspace := u.regspace, rvalid := u.rvalid, outL := u.outL, outS := u.outS }

theorem Tile.CIssued.trans {t u v : Tile} (h : t.CIssued u) (g : u.CIssued v) : t.CIssued v := by
  unfold Tile.CIssued at *
  rw [g, h]

theorem Tile.WroteC.cIssued {t u : Tile} (h : t.WroteC u) : t.CIssued u := by
  unfold Tile.CIssued Tile.WroteC at *
  rw [h]

theorem cTokens_form (t : Tile) (k : Toks) : ∃ z c a b, t.cTokens k = { t with tok := z, outL := a, outS := b, c := { t.c with clk := c } } := by
  obtain ⟨z, c, a, b, h⟩ := popToks_form t .c (peersOf .c k.pop)
  unfold Tile.cTokens
  split
  · exact ⟨z, c, a, b, h⟩
  · rw [reserve_eq, h]
    exact ⟨_, c, _, _, rfl⟩

theorem cBegin_form (t : Tile) (o : BundleOut) : ∃ z, t.cBegin o =
    { t with q := z, c := { t.c with lc := o.ctl.c.lc, p := o.ctl.c.p, rot := o.ctl.c.rot, rings := o.ctl.c.rings, ft := o.ctl.c.ft, md := o.ctl.c.md } } := by
  unfold Tile.cBegin
  cases o.cmd with
  | none => exact ⟨_, rfl⟩
  | some c => exact ⟨_, rfl⟩

theorem applyHeld_place (c : CState) (h : Held) : (c.applyHeld h).lc = c.lc ∧ (c.applyHeld h).pc = c.pc := by
  cases h <;> exact ⟨rfl, rfl⟩

/-- The pushes touch the token queues, and a held write C's views, its codebook and what it holds. -/
theorem cPushes_form (t : Tile) (pushes : BitVec 3) (o : BundleOut) (clk : Clk) :
    ∃ z c, t.cPushes pushes o clk = { t with tok := z, c := c } ∧ c.lc = t.c.lc ∧ c.pc = t.c.pc := by
  unfold Tile.cPushes
  extract_lets push
  cases o.ctl.held with
  | none => exact ⟨_, t.c, pushReserved_eq .., rfl, rfl⟩
  | some h =>
    dsimp only
    split
    · exact ⟨t.tok, _, rfl, rfl, rfl⟩
    · exact ⟨_, _, pushReserved_eq .., applyHeld_place t.c h⟩

/-- At the end of no loop C goes on to the next bundle. -/
theorem cNext_pc {t : Tile} (h : loopsAt t.c.lc t.c.pc = []) : t.cNext.c.pc = t.c.pc + 16 := by
  unfold Tile.cNext
  rw [h]
  rfl

theorem cNext_form (t : Tile) : ∃ c, t.cNext = { t with c := c } := by
  unfold Tile.cNext
  extract_lets r u
  split
  · exact ⟨_, rfl⟩
  · exact ⟨_, rfl⟩

theorem cAdvance_form (t : Tile) (jump : Option (Word × Bool)) : ∃ c, t.cAdvance jump = { t with c := c } ∧
    (jump = none → loopsAt t.c.lc t.c.pc = [] → c.pc = t.c.pc + 16) ∧ ∀ target br, jump = some (target, br) → c.pc = target := by
  cases jump with
  | none =>
    obtain ⟨c, e⟩ := cNext_form t
    refine ⟨c, e, fun _ h => ?_, fun _ _ h => nomatch h⟩
    rw [← cNext_pc h, e]
  | some j =>
    refine ⟨_, rfl, fun h => ?_, fun target br h => ?_⟩
    · cases h
    · cases h
      rfl

/-- The tile of a bundle that issues, up to its pushes: C has not gone on. -/
def Tile.cFilled (t : Tile) (k : Toks) (o : BundleOut) : Tile :=
  (((t.cTokens k).cBegin o).cSlots o).cPushes k.push o ((t.cTokens k).c.clk.tick .c)

theorem cIssued_cFilled (t : Tile) (k : Toks) (o : BundleOut) : t.CIssued (t.cFilled k o) := by
  have tokens : t.CIssued (t.cTokens k) := by
    obtain ⟨_, _, _, _, e⟩ := cTokens_form t k
    rw [e]
    rfl
  have begun : (t.cTokens k).CIssued ((t.cTokens k).cBegin o) := by
    obtain ⟨_, e⟩ := cBegin_form (t.cTokens k) o
    rw [e]
    rfl
  have pushed : (((t.cTokens k).cBegin o).cSlots o).CIssued (t.cFilled k o) := by
    obtain ⟨_, _, e, -⟩ := cPushes_form (((t.cTokens k).cBegin o).cSlots o) k.push o ((t.cTokens k).c.clk.tick .c)
    rw [Tile.cFilled, e]
    rfl
  exact ((tokens.trans begun).trans (wroteC_cSlots _ o).cIssued).trans pushed

/-- C still stands at the bundle, and its loop counters are those that slot A's control leaves. -/
theorem place_cFilled (t : Tile) (k : Toks) (o : BundleOut) : (t.cFilled k o).c.lc = o.ctl.c.lc ∧ (t.cFilled k o).c.pc = t.c.pc := by
  have written := wroteC_cSlots ((t.cTokens k).cBegin o) o
  obtain ⟨_, _, e, lc, pc⟩ := cPushes_form (((t.cTokens k).cBegin o).cSlots o) k.push o ((t.cTokens k).c.clk.tick .c)
  obtain ⟨_, begun⟩ := cBegin_form (t.cTokens k) o
  obtain ⟨_, _, _, _, tokens⟩ := cTokens_form t k
  rw [Tile.cFilled, e]
  refine ⟨lc.trans ?_, pc.trans ?_⟩
  · rw [written, begun]
  · rw [written, begun, tokens]

/-- Of the register space only the slots' results write. -/
theorem rbyte_cFilled (t : Tile) (k : Toks) (o : BundleOut) (b : Nat) : (t.cFilled k o).rbyte b = (((t.cTokens k).cBegin o).cSlots o).rbyte b := by
  obtain ⟨_, _, e, -⟩ := cPushes_form (((t.cTokens k).cBegin o).cSlots o) k.push o ((t.cTokens k).c.clk.tick .c)
  rw [Tile.cFilled, e]
  rfl

theorem rbyte_cBegin (t : Tile) (k : Toks) (o : BundleOut) (b : Nat) : ((t.cTokens k).cBegin o).rbyte b = t.rbyte b := by
  obtain ⟨_, begun⟩ := cBegin_form (t.cTokens k) o
  obtain ⟨_, _, _, _, tokens⟩ := cTokens_form t k
  rw [begun, tokens]
  rfl

/-- What a bundle's issue does to its tile. -/
theorem cIssue_frame (t : Tile) (k : Toks) (o : BundleOut) : let u := (t.cTokens k).cIssue k.push o
    t.CIssued u ∧ (o.ctl.jump = none → loopsAt o.ctl.c.lc t.c.pc = [] → u.c.pc = t.c.pc + 16) ∧
      (∀ target br, o.ctl.jump = some (target, br) → u.c.pc = target) ∧
      ∀ r, (∀ z ∈ [o.a, o.b], ∀ q, z = some q → (∀ w ∈ q.1.regs, w.1 ≠ r) ∧ q.1.mem = []) → ∀ i, i < 128 →
        u.rbyte (128 * r + i) = t.rbyte (128 * r + i) := by
  intro u
  obtain ⟨lc, pc⟩ := place_cFilled t k o
  obtain ⟨c, e, next, jump⟩ := cAdvance_form (t.cFilled k o) o.ctl.jump
  have e : u = { t.cFilled k o with c := c } := (cIssue_eq ..).trans e
  rw [lc, pc] at next
  rw [e]
  refine ⟨(cIssued_cFilled t k o).trans rfl, next, jump, fun r h i hi => ?_⟩
  calc (t.cFilled k o).rbyte (128 * r + i)
      = (((t.cTokens k).cBegin o).cSlots o).rbyte (128 * r + i) := rbyte_cFilled ..
    _ = ((t.cTokens k).cBegin o).rbyte (128 * r + i) := rbyte_cSlots _ o h hi
    _ = t.rbyte (128 * r + i) := rbyte_cBegin ..

/-! ### When a bundle issues -/

theorem cRun_reserved {s : State} {b : Bundle} (held : s.tile.c.held = none) (bad : s.tile.bundleReserved (s.renamedBundle b) = true) :
    s.cRun b = s.stopSeq s.cur .c .illegal 0 false s.tile.c.resv := by
  unfold State.renamedBundle at bad
  simp [State.cRun, held, bad]

/-- What a bundle comes to at C. -/
def State.cOutcome (s : State) (b : Bundle) : Except (Cause × Word) BundleOut := s.tile.bundleOut (s.rngKey s.cur) b (s.cPay b)

/-- A bundle that waits for nothing issues with its outcome, or stops C. -/
theorem cRun_ready {s : State} {b : Bundle} (h : CReady s (s.renamedBundle b)) :
    (∀ o, s.cOutcome (s.renamedBundle b) = .ok o → s.cRun b = s.cDone (s.renamedBundle b) o) ∧
      ∀ c a, s.cOutcome (s.renamedBundle b) = .error (c, a) → s.cRun b = s.cStop (peersOf .c b.k.push) c a := by
  obtain ⟨held, fine, stall, pop, push, control, queue, reads⟩ := h
  have lost : ((s.tile.bundleReads (s.renamedBundle b)).findSome? fun r => s.regLost (128 * r) 128) = none :=
    List.findSome?_eq_none_iff.2 reads
  have run : ∀ z, s.cOutcome (s.renamedBundle b) = z → s.cRun b = match z with
      | .error (c, a) => s.cStop (peersOf .c b.k.push) c a
      | .ok o => s.cDone (s.renamedBundle b) o := by
    intro z e
    unfold State.cRun
    extract_lets t now pops ps b' pay
    rw [if_neg, if_neg, if_neg, if_neg, if_neg]
    · split
      next _ found => exact absurd (lost.symm.trans found) (by simp)
      · rw [show t.bundleOut (s.rngKey s.cur) b' pay = z from e]
        cases z with
        | error _ => rfl
        | ok _ => rfl
    · rw [Bool.or_eq_true, not_or]
      constructor
      · split
        next x e => rw [show t.controlWaits x = false from control x e]; decide
        · decide
      · split
        next m e => rw [show t.queueSpace (mxQueue m.op) = true from queue m e]; decide
        · decide
    · rw [show t.canPop .c pops = true from pop, show (t.c.resv || t.canPush .c ps) = true from Bool.or_eq_true_iff.2 push]
      decide
    · exact ne_true_of_eq_false stall
    · exact ne_true_of_eq_false fine
    · exact fun some => by simp [t, held] at some
  exact ⟨fun o e => run _ e, fun c a e => run _ e⟩

/-- Every instruction that a slot code names runs its bundle. -/
theorem exec_ofSlot (op : VCode) (ty : BitVec 2) (f : SlotF) (x : Bun) (s : State) :
    exec (Instr.ofSlot ⟨op, ty, f⟩ x) s = .next (s.cRun (bundleOf x op ty f)) := by
  cases op <;> rfl

/-- So does every matrix command that stands without a slot instruction. -/
theorem exec_ofM (mop : MOp) (m : MSlot) (k : Toks) (s : State) :
    exec (Instr.ofM (some ⟨mop, m⟩) k) s = .next (s.cRun ⟨none, none, none, some ⟨mop, m⟩, k⟩) := by
  cases mop <;> rfl

/-- A bundle run at C takes effect whole, or stops C with its cause. -/
theorem cRun_whole {s : State} {p : Instr × Bundle} (e : exec p.1 s = .next (s.cRun p.2)) :
    let b := s.renamedBundle p.2
    (CReady s b →
      (∀ o, s.tile.bundleOut (s.rngKey s.cur) b (s.cPay b) = .ok o → exec p.1 s = .next (s.cDone b o)) ∧
      (∀ c a, s.tile.bundleOut (s.rngKey s.cur) b (s.cPay b) = .error (c, a) →
        exec p.1 s = .next (s.cStop (peersOf .c b.k.push) c a))) ∧
    (s.tile.c.held = none → s.tile.bundleReserved b = true → exec p.1 s = .next (s.stopSeq s.cur .c .illegal 0 false s.tile.c.resv)) := by
  intro b
  refine ⟨fun ready => ?_, fun held bad => e.trans (congrArg _ (cRun_reserved held bad))⟩
  obtain ⟨whole, stops⟩ := cRun_ready ready
  exact ⟨fun o ok => e.trans (congrArg _ (whole o ok)), fun c a bad => e.trans (congrArg _ (stops c a bad))⟩

/-- Settles O23. Each instruction runs its bundle by cRun, which CReady and the reserved encodings decide; the frame follows from the stages of an issue
(tokens, command and control, slots, pushes, advance), each of which says what it writes. -/
theorem cBundlesIssue : Obligations.CBundlesIssue := by
  refine ⟨fun s op ty f x mop m k p hp => cRun_whole ?_, fun s b o => ?_⟩
  · simp only [List.mem_cons, List.not_mem_nil, or_false] at hp
    obtain rfl | rfl | rfl := hp
    · exact exec_ofSlot op ty f x s
    · exact exec_ofM mop m k s
    · rfl
  · intro t
    obtain ⟨l, e⟩ := cDone_tile s b o
    obtain ⟨frame, next, jump, bytes⟩ := cIssue_frame s.tile b.k o
    have tile : t.tile = (s.tile.cTokens b.k).cIssue b.k.push o :=
      (congrArg State.tile e).trans (tile_upd s fun t => (t.cTokens b.k).cIssue b.k.push o)
    have others : ∀ u, u ≠ s.cur → t.tileAt u = s.tileAt u := fun u other =>
      (congrArg (·.tileAt u) e).trans (tileAt_updAt_ne s s.cur u (fun t => (t.cTokens b.k).cIssue b.k.push o) other.symm)
    rw [tile]
    refine ⟨(congrArg State.cur e).trans rfl, others, ?_, ?_, ?_, ?_, ?_, ?_, ?_, ?_, ?_, (congrArg (·.dev.hbm) e).trans rfl,
      (congrArg (·.dev.host) e).trans rfl, (congrArg (·.dev.net) e).trans rfl, next, jump, bytes⟩
    all_goals rw [frame]

end Sys2Proof.Machine
end

section
/-! SUPPORT. Every instruction and every event has its effect in every state (95, 05 R87, 18 R361). -/

namespace Sys2Proof.Machine

/-- Each meaning that is chosen by conditions is split along its branches. Then every branch, like every meaning without one, is an answer: the effect,
a wait, an exception taken, or the state as it was. -/
theorem exec_eq_next (i : Instr) (s : State) : ∃ t, exec i s = .next t := by
  cases i
  all_goals dsimp only [exec]
  -- Words of K that wait, fault or answer by what the tile holds.
  case' jalr => fun_cases execJalr
  case' smwait => fun_cases execSmwait
  case' evpop => fun_cases execEvpop
  case' tkpush => fun_cases execTkpush
  case' tkpop => fun_cases execTkpop
  case' barw => fun_cases execBarw
  case' flagadd => fun_cases execFlagadd
  case' flagset => fun_cases execFlagset
  case' grpset => fun_cases execGrpset
  case' fence => fun_cases execFence
  case' qfence => fun_cases execQfence
  case' subon => fun_cases execSubon
  case' suboff => fun_cases execSuboff
  case' chresync => fun_cases execChresync
  case' sinc => fun_cases execSinc
  case' srel => fun_cases execSrel
  case' sqrd => fun_cases execSqrd
  case' sqres => fun_cases execSqres
  case' sqskip => fun_cases execSqskip
  case' srwr => fun_cases execSrwr
  case' eret => fun_cases execEret
  case' yield => fun_cases execYield
  -- Engine queues and the matrix engine.
  case' commandDecided => fun_cases execCommandDecided
  case' engineCommandStart => fun_cases execEngineCommandStart
  case' copySector => fun_cases execCopySector
  case' copyComplete => fun_cases execCopyComplete
  case' scoutLeaf => fun_cases execScoutLeaf
  case' scoutComplete => fun_cases execScoutComplete
  case' flowSendComplete => fun_cases execFlowSendComplete
  case' qfenceJoinComplete => fun_cases execQfenceJoinComplete
  case' matrixCommandStart => fun_cases execMatrixCommandStart
  case' matrixKStep => fun_cases execMatrixKStep
  case' matrixPromotion => fun_cases execMatrixPromotion
  case' matrixCommandComplete => fun_cases execMatrixCommandComplete
  -- Tasks, stalls and Owls.
  case' taskStart => fun_cases execTaskStart
  case' taskRetire => fun_cases execTaskRetire
  case' tokenStall => fun_cases execTokenStall
  case' owlQuiescence => fun_cases execOwlQuiescence
  case' owlStallRule => fun_cases execOwlStallRule
  -- The flow plane, requests resent, channels and subscriptions.
  case' flowPacketArrival => fun_cases execFlowPacketArrival
  case' warrenFetch => fun_cases execWarrenFetch
  case' flowTimeout => fun_cases execFlowTimeout
  case' sequencerFlowTimeout => fun_cases execSequencerFlowTimeout
  case' class3Eviction => fun_cases execClass3Eviction
  case' requestResend => fun_cases execRequestResend
  case' channelSlotArrival => fun_cases execChannelSlotArrival
  case' channelReturnArrival => fun_cases execChannelReturnArrival
  case' senderAudit => fun_cases execSenderAudit
  case' receiverAudit => fun_cases execReceiverAudit
  case' auditReply => fun_cases execAuditReply
  case' subscriptionBatchClose => fun_cases execSubscriptionBatchClose
  case' forwardedUpdate => fun_cases execForwardedUpdate
  case' subscriptionHandshake => fun_cases execSubscriptionHandshake
  -- Requests, posted writes and combining.
  case' faccRequestArrival => fun_cases execFaccRequestArrival
  case' combiningWindowEnd => fun_cases execCombiningWindowEnd
  case' combiningReply => fun_cases execCombiningReply
  case' combiningRecordLost => fun_cases execCombiningRecordLost
  case' memoryRequest => fun_cases execMemoryRequest
  case' postedWriteAck => fun_cases execPostedWriteAck
  case' postedWriteRefusal => fun_cases execPostedWriteRefusal
  case' requestTimeout => fun_cases execRequestTimeout
  case' releaseWalk => fun_cases execReleaseWalk
  -- Launches from acceptance to seal, preemption and resume.
  case' preemption => fun_cases execPreemption
  case' contextImageSaved => fun_cases execContextImageSaved
  case' resume => fun_cases execResume
  case' tailWrite => fun_cases execTailWrite
  case' transferCommand => fun_cases execTransferCommand
  case' launchStaging => fun_cases execLaunchStaging
  case' launchReady => fun_cases execLaunchReady
  case' taskPlacement => fun_cases execTaskPlacement
  case' readySignal => fun_cases execReadySignal
  case' launchSealing => fun_cases execLaunchSealing
  -- Shoot-down, links, the host and scrubbing.
  case' shootDownComplete => fun_cases execShootDownComplete
  case' hostAccess => fun_cases execHostAccess
  case' linkReplay => fun_cases execLinkReplay
  case' pathFailure => fun_cases execPathFailure
  case' patrolScrub => fun_cases execPatrolScrub
  case' warrenReload => fun_cases execWarrenReload
  -- Resets and requests to Badger.
  case' warmReset => fun_cases execWarmReset
  case' getpldmcommands => fun_cases execGetpldmcommands
  case' getsensorreading => fun_cases execGetsensorreading
  case' powerCapSet => fun_cases execPowerCapSet
  case' eventLogClear => fun_cases execEventLogClear
  case' getnumericeffectervalue => fun_cases execGetnumericeffectervalue
  case' firmwareUpdate => fun_cases execFirmwareUpdate
  -- Steps that end what an earlier step began.
  case' chresyncHandshake => fun_cases execChresyncHandshake
  case' grpsetHandshake => fun_cases execGrpsetHandshake
  case' flowUnmatchedRecordReturn => fun_cases execFlowUnmatchedRecordReturn
  case' linkTrained => fun_cases execLinkTrained
  case' pathDrained => fun_cases execPathDrained
  all_goals exact ⟨_, rfl⟩

/-- Settles O57, by the meaning of each instruction and event. -/
theorem neverStops : Obligations.NeverStops := exec_eq_next

end Sys2Proof.Machine
end

section
/-! SUPPORT. K's register arithmetic in exact integers (06 R100 to R102, 04 R68). -/

open Sys2Proof

namespace Sys2Proof.Machine

/-! ### Words as wrapped integers -/

theorem ofInt_toNat_sub (x y : Word) : BitVec.ofInt 64 ((x.toNat : Int) - y.toNat) = x - y := by
  apply BitVec.eq_of_toInt_eq
  rw [BitVec.toInt_ofInt, BitVec.toInt_sub, BitVec.toInt_eq_toNat_bmod, BitVec.toInt_eq_toNat_bmod, Int.bmod_sub_bmod,
    Int.sub_bmod_bmod]

theorem ofNat_mul_two_pow (x : Word) (n : Nat) : BitVec.ofNat 64 (x.toNat * 2 ^ n) = x <<< n := by
  apply BitVec.eq_of_toNat_eq; simp [Nat.shiftLeft_eq]

theorem ofNat_div_two_pow (x : Word) (n : Nat) : BitVec.ofNat 64 (x.toNat / 2 ^ n) = x >>> n := by
  apply BitVec.eq_of_toNat_eq
  rw [BitVec.toNat_ofNat, BitVec.toNat_ushiftRight, Nat.shiftRight_eq_div_pow,
    Nat.mod_eq_of_lt (Nat.lt_of_le_of_lt (Nat.div_le_self _ _) x.isLt)]

theorem ofInt_div_two_pow (x : Word) (n : Nat) : BitVec.ofInt 64 (x.toInt / 2 ^ n) = x.sshiftRight n := by
  rw [BitVec.sshiftRight_eq, Int.shiftRight_eq_div_pow]; norm_cast

theorem ofNat_toNat_mul (x y : Word) : BitVec.ofNat 64 (x.toNat * y.toNat) = x * y := by
  rw [BitVec.ofNat_mul, BitVec.ofNat_toNat, BitVec.ofNat_toNat, BitVec.setWidth_eq, BitVec.setWidth_eq]

theorem extractLsb'_high_ofInt (p : Int) : (BitVec.ofInt 128 p).extractLsb' 64 64 = BitVec.ofInt 64 (p / 2 ^ 64) := by
  apply BitVec.eq_of_toNat_eq
  rw [BitVec.extractLsb'_toNat, BitVec.toNat_ofInt, BitVec.toNat_ofInt, Nat.shiftRight_eq_div_pow]
  omega

theorem mulHi_eq (x y : Word) : mulHi x y = BitVec.ofInt 64 (x.toInt * y.toInt / 2 ^ 64) := by
  have h : x.signExtend 128 * y.signExtend 128 = BitVec.ofInt 128 (x.toInt * y.toInt) := by
    rw [BitVec.ofInt_mul]; rfl
  rw [mulHi, h, extractLsb'_high_ofInt]

theorem mulHiN_eq (x y : Word) : mulHiN x y = BitVec.ofNat 64 (x.toNat * y.toNat / 2 ^ 64) := by
  apply BitVec.eq_of_toNat_eq
  have h : x.toNat * y.toNat < 2 ^ 128 := by
    calc x.toNat * y.toNat < 2 ^ 64 * 2 ^ 64 := Nat.mul_lt_mul'' x.isLt y.isLt
      _ = 2 ^ 128 := by norm_num
  rw [mulHiN, BitVec.extractLsb'_toNat, BitVec.toNat_mul, BitVec.toNat_setWidth_of_le (by decide), BitVec.toNat_setWidth_of_le (by decide),
    Nat.mod_eq_of_lt h, Nat.shiftRight_eq_div_pow, BitVec.toNat_ofNat]

theorem divS_eq (x y : Word) : divS x y = if y = 0 then BitVec.ofNat 64 0xFFFFFFFFFFFFFFFF else BitVec.ofInt 64 (x.toInt.tdiv y.toInt) := by
  unfold divS
  split
  · rfl
  · apply BitVec.eq_of_toInt_eq; rw [BitVec.toInt_sdiv, BitVec.toInt_ofInt]

theorem divU_eq (x y : Word) : divU x y = if y = 0 then BitVec.ofNat 64 0xFFFFFFFFFFFFFFFF else BitVec.ofNat 64 (x.toNat / y.toNat) := by
  unfold divU
  split
  · rfl
  · exact BitVec.udiv_def

theorem remS_eq (x y : Word) : remS x y = if y = 0 then x else BitVec.ofInt 64 (x.toInt.tmod y.toInt) := by
  unfold remS
  rw [← BitVec.toInt_srem, BitVec.ofInt_toInt]

theorem remU_eq (x y : Word) : remU x y = if y = 0 then x else BitVec.ofNat 64 (x.toNat % y.toNat) := by
  unfold remU
  rw [← BitVec.toNat_umod, BitVec.ofNat_toNat, BitVec.setWidth_eq]

theorem min_slt_eq (x y : Word) : (if x.slt y then x else y) = if x.toInt ≤ y.toInt then x else y := by
  by_cases h : x.toInt = y.toInt
  · simp [BitVec.eq_of_toInt_eq h]
  · simp [BitVec.slt_iff_toInt_lt, le_iff_lt_or_eq, h]

theorem max_slt_eq (x y : Word) : (if x.slt y then y else x) = if x.toInt ≤ y.toInt then y else x := by
  by_cases h : x.toInt = y.toInt
  · simp [BitVec.eq_of_toInt_eq h]
  · simp [BitVec.slt_iff_toInt_lt, le_iff_lt_or_eq, h]

theorem min_ult_eq (x y : Word) : (if x.ult y then x else y) = if x.toNat ≤ y.toNat then x else y := by
  by_cases h : x.toNat = y.toNat
  · simp [BitVec.eq_of_toNat_eq h]
  · simp [BitVec.ult, le_iff_lt_or_eq, h]

theorem max_ult_eq (x y : Word) : (if x.ult y then y else x) = if x.toNat ≤ y.toNat then y else x := by
  by_cases h : x.toNat = y.toNat
  · simp [BitVec.eq_of_toNat_eq h]
  · simp [BitVec.ult, le_iff_lt_or_eq, h]

theorem flagWord_slt (x y : Word) : flagWord (x.slt y) = if x.toInt < y.toInt then 1 else 0 := by
  simp [flagWord, BitVec.slt_iff_toInt_lt]

theorem flagWord_ult (x y : Word) : flagWord (x.ult y) = if x.toNat < y.toNat then 1 else 0 := by
  simp [flagWord, BitVec.ult]

theorem append_low_eq (w : BitVec 32) (x : Word) :
    w ++ x.extractLsb' 0 32 = BitVec.ofNat 64 (w.toNat * 2 ^ 32 + x.toNat % 2 ^ 32) := by
  apply BitVec.eq_of_toNat_eq
  have hw := w.isLt
  have hx : x.toNat % 2 ^ 32 < 2 ^ 32 := Nat.mod_lt _ (by decide)
  rw [BitVec.toNat_append, BitVec.extractLsb'_toNat, BitVec.toNat_ofNat, Nat.shiftRight_zero, ← Nat.shiftLeft_add_eq_or_of_lt hx,
    Nat.shiftLeft_eq]
  omega

/-! ### Instructions that write one register -/

theorem kReg_wrote (s : State) (d a b : Reg) (f : Word → Word → Word) {v : Word} (h : f (s.tile.kget a) (s.tile.kget b) = v) :
    ∃ t, (.next (s.kReg d a b f) : Out) = .next t ∧ KWrote s t d v (s.tile.k.pc + 4) :=
  ⟨_, rfl, h ▸ kDone_wrote s d _⟩

theorem kImm_wrote (s : State) (d a : Reg) (imm : BitVec 15) (f : Word → Word → Word) {v : Word}
    (h : f (s.tile.kget a) (BitVec.ofInt 64 imm.toInt) = v) :
    ∃ t, (.next (s.kImm d a imm f) : Out) = .next t ∧ KWrote s t d v (s.tile.k.pc + 4) :=
  ⟨_, rfl, h ▸ kDone_wrote s d _⟩

theorem kLit_wrote (s : State) (d : Reg) {v v' : Word} (h : v = v') :
    ∃ t, (.next (s.kLit d v) : Out) = .next t ∧ KWrote s t d v' (s.tile.k.pc + 8) := by
  have : s.kLit d v = s.upd fun t => (t.kset d v).kGo (s.tile.k.pc + 8) := by
    unfold State.kLit State.upd State.updAt State.tile; rfl
  exact ⟨_, rfl, this ▸ h ▸ kset_kGo_wrote s d v _⟩

/-- Settles O1: each row is the shared operation of its form, whose value is read off in exact integers. -/
theorem kArithmetic : Obligations.KArithmetic := by
  refine ⟨fun s d a b => ⟨?add, ?sub, ?and, ?or, ?xor, ?shl, ?shr, ?sar, ?mul, ?mulh, ?mulhn, ?div, ?divn, ?rem, ?remn, ?min, ?max, ?minn, ?maxn,
    ?slt, ?sltn⟩, fun s d a imm sh w => ⟨?addi, ?andi, ?ori, ?xori, ?slti, ?shli, ?shri, ?sari, ?lit, ?litZx, ?litHi, ?nop⟩⟩
  case add => exact kReg_wrote s d a b _ (by simp [BitVec.ofNat_add])
  case sub => exact kReg_wrote s d a b _ (ofInt_toNat_sub _ _).symm
  case and | or | xor => exact kReg_wrote s d a b _ rfl
  case shl => exact kReg_wrote s d a b _ (ofNat_mul_two_pow _ _).symm
  case shr => exact kReg_wrote s d a b _ (ofNat_div_two_pow _ _).symm
  case sar => exact kReg_wrote s d a b _ (ofInt_div_two_pow _ _).symm
  case mul => exact kReg_wrote s d a b _ (ofNat_toNat_mul _ _).symm
  case mulh => exact kReg_wrote s d a b _ (mulHi_eq _ _)
  case mulhn => exact kReg_wrote s d a b _ (mulHiN_eq _ _)
  case div => exact kReg_wrote s d a b _ (divS_eq _ _)
  case divn => exact kReg_wrote s d a b _ (divU_eq _ _)
  case rem => exact kReg_wrote s d a b _ (remS_eq _ _)
  case remn => exact kReg_wrote s d a b _ (remU_eq _ _)
  case min => exact kReg_wrote s d a b _ (min_slt_eq _ _)
  case max => exact kReg_wrote s d a b _ (max_slt_eq _ _)
  case minn => exact kReg_wrote s d a b _ (min_ult_eq _ _)
  case maxn => exact kReg_wrote s d a b _ (max_ult_eq _ _)
  case slt => exact kReg_wrote s d a b _ (flagWord_slt _ _)
  case sltn => exact kReg_wrote s d a b _ (flagWord_ult _ _)
  case addi | andi | ori | xori => exact kImm_wrote s d a imm _ rfl
  case slti => exact kImm_wrote s d a imm _ (flagWord_slt _ _)
  case shli => exact kReg_wrote s d a 0 _ (ofNat_mul_two_pow _ _).symm
  case shri => exact kReg_wrote s d a 0 _ (ofNat_div_two_pow _ _).symm
  case sari => exact kReg_wrote s d a 0 _ (ofInt_div_two_pow _ _).symm
  case lit => exact kLit_wrote s d rfl
  case litZx => exact kLit_wrote s d (BitVec.ofNat_toNat 64 w).symm
  case litHi => exact kLit_wrote s d (append_low_eq _ _)
  case nop => exact ⟨_, rfl, kSkip_went s⟩

end Sys2Proof.Machine
end

section
/-! SUPPORT. K's branches and jumps (06 R103, 04 R65). -/

open Sys2Proof

namespace Sys2Proof.Machine

theorem kFault_out_trapped (s : State) {c : Cause} {v : Word} {o : Out} (h : o = .next (s.kFault c v)) (hc : c ≠ .launchStall) (hh : KHandles s) :
    ∃ t, o = .next t ∧ KTrapped s t c s.tile.k.pc v :=
  ⟨_, h, kFault_trapped s c v hh hc⟩

/-- A jump out of the stream: ILLEGAL, in the form the statements give it. -/
theorem kJump_out_trapped (s : State) (pc : Word) (f : Tile → Tile) (h : s.tile.kIn pc = false) :
    (.next (s.kJump pc f) : Out) = .next (s.kFault .illegal 0) ∧
      (KHandles s → ∃ t, (.next (s.kJump pc f) : Out) = .next t ∧ KTrapped s t .illegal s.tile.k.pc 0) := by
  rw [kJump_out s pc f h]
  exact ⟨rfl, kFault_out_trapped s rfl (by decide)⟩

/-- A branch whose condition computes C goes to its target where C holds and to the next word where it does not. -/
theorem kBranch_cases (s : State) (a b : Reg) (off : BitVec 15) (f : Word → Word → Bool) {C : Prop}
    (hC : f (s.tile.kget a) (s.tile.kget b) = true ↔ C) :
    let t0 : Word := s.tile.k.pc + 4 * BitVec.ofInt 64 off.toInt
    (¬ C → ∃ t, (.next (s.kBranch a b off f) : Out) = .next t ∧ KWent s t (s.tile.k.pc + 4)) ∧
    (C → s.tile.kIn t0 = true → ∃ t, (.next (s.kBranch a b off f) : Out) = .next t ∧ KWent s t t0) ∧
    (C → s.tile.kIn t0 = false → (.next (s.kBranch a b off f) : Out) = .next (s.kFault .illegal 0) ∧
      (KHandles s → ∃ t, (.next (s.kBranch a b off f) : Out) = .next t ∧ KTrapped s t .illegal s.tile.k.pc 0)) := by
  intro t0
  have taken : C → s.kBranch a b off f = s.kJump t0 id := fun h => if_pos (hC.2 h)
  refine ⟨fun h => ?untaken, fun h hin => ?inside, fun h hout => ?outside⟩
  case untaken =>
    have : s.kBranch a b off f = s.kSkip := if_neg (mt hC.1 h)
    exact ⟨_, rfl, this ▸ kSkip_went s⟩
  case inside => exact ⟨_, rfl, taken h ▸ kJump_went s t0 hin⟩
  case outside => rw [taken h]; exact kJump_out_trapped s t0 id hout

theorem execJalr_of_aligned (s : State) (d a : Reg) (imm : BitVec 15)
    (h : (s.tile.kget a + BitVec.ofInt 64 imm.toInt).toNat % 4 = 0) :
    execJalr d a imm s = .next (s.kJump (s.tile.kget a + BitVec.ofInt 64 imm.toInt) fun x => x.kset d (s.tile.k.pc + 4)) :=
  if_neg (not_not.2 h)

theorem execJalr_of_misaligned (s : State) (d a : Reg) (imm : BitVec 15)
    (h : (s.tile.kget a + BitVec.ofInt 64 imm.toInt).toNat % 4 ≠ 0) :
    execJalr d a imm s = .next (s.kFault .align (s.tile.kget a + BitVec.ofInt 64 imm.toInt)) :=
  if_pos h

/-- Settles O2: the six branches by their common operation, JAL and JALR by the jump. -/
theorem kBranchesAndJumps : Obligations.KBranchesAndJumps := by
  intro s d a b off imm far
  refine ⟨?beq, ?bne, ?blt, ?bge, ?bltn, ?bgen, ⟨fun h => ?jalIn, fun h => ?jalOut⟩, fun hal h => ?jalrIn, fun hal h => ?jalrOut, fun hal => ?jalrAlign⟩
  case beq => exact kBranch_cases s a b off _ beq_iff_eq
  case bne => exact kBranch_cases s a b off _ bne_iff_ne
  case blt => exact kBranch_cases s a b off _ BitVec.slt_iff_toInt_lt
  case bge => exact kBranch_cases s a b off _ (by rw [Bool.not_eq_true', ← Bool.not_eq_true, BitVec.slt_iff_toInt_lt, not_lt])
  case bltn => exact kBranch_cases s a b off _ BitVec.ult_iff_toNat_lt
  case bgen => exact kBranch_cases s a b off _ (by rw [Bool.not_eq_true', ← Bool.not_eq_true, BitVec.ult_iff_toNat_lt, not_lt])
  case jalIn => exact ⟨_, rfl, kJump_wrote s _ 31 _ h⟩
  case jalOut => exact kJump_out_trapped s _ _ h
  case jalrIn => exact ⟨_, execJalr_of_aligned s d a imm hal, kJump_wrote s _ d _ h⟩
  case jalrOut =>
    have := kJump_out_trapped s _ (fun x => x.kset d (s.tile.k.pc + 4)) h
    rwa [← execJalr_of_aligned s d a imm hal] at this
  case jalrAlign =>
    have h := execJalr_of_misaligned s d a imm hal
    exact ⟨_, h, kFault_out_trapped s h (by decide)⟩

end Sys2Proof.Machine
end

section
/-! SUPPORT. K's accesses: the checks before one performs (06 R104 to R106, 07 R143), and what a store to the scratchpad leaves alone (12 R291, R292). -/

open Sys2Proof

namespace Sys2Proof.Machine

/-! ### An open batch that leaves, and a store to the scratchpad -/

/-- x is s but for tile t's open batch and publisher entries and the packets under way. -/
def State.Forwarded (s : State) (t : TileId) (x : State) : Prop :=
  ∃ n i b p, x = (s.updDev fun d => { d with net := n, nextId := i }).updAt t fun y => { y with batch := b, pubs := p }

theorem State.Forwarded.refl (s : State) (t : TileId) : s.Forwarded t s :=
  ⟨s.dev.net, s.dev.nextId, (s.tileAt t).batch, (s.tileAt t).pubs, (setTileAt_tileAt s t).symm⟩

theorem State.Forwarded.trans {s x y : State} {t : TileId} (h : s.Forwarded t x) (g : x.Forwarded t y) : s.Forwarded t y := by
  obtain ⟨_, _, _, _, rfl⟩ := h
  obtain ⟨n, i, b, p, rfl⟩ := g
  exact ⟨n, i, b, p, by simp [State.updDev, State.updAt, State.setTileAt, State.tileAt]⟩

theorem forwarded_sendTo (s : State) (t u : TileId) (kind : BitVec 3) (seq : BitVec 16) (cls : BitVec 2) (body : PktBody) (clk : Clk) :
    s.Forwarded t (s.sendTo t u kind seq cls body clk) :=
  ⟨_, _, (s.tileAt t).batch, (s.tileAt t).pubs, (setTileAt_tileAt _ t).symm⟩

theorem forwarded_updAt (s : State) (t : TileId) (b : Option Batch) (p : Tile → Vector SubEntry 16) :
    s.Forwarded t (s.updAt t fun y => { y with batch := b, pubs := p y }) :=
  ⟨s.dev.net, s.dev.nextId, b, p (s.tileAt t), rfl⟩

/-- A batch that closes leaves as packets; of its tile the batch and the entries' update counts change. -/
theorem forwarded_closeBatch (s : State) (t : TileId) : s.Forwarded t (s.closeBatch t) := by
  unfold State.closeBatch
  extract_lets x
  split
  next => exact .refl s t
  next b hb =>
    refine List.foldlRecOn _ _ (forwarded_updAt s t none fun y => y.pubs) fun z hz i _ => hz.trans ?_
    extract_lets p mask
    split
    · split
      · exact .refl z t
      · next dst _ =>
        have entry (z : State) : z.Forwarded t (z.updAt t fun y => { y with pubs := wr y.pubs i { p with count := p.count + 1 } }) :=
          forwarded_updAt z t (z.tileAt t).batch fun y => wr y.pubs i { p with count := p.count + 1 }
        exact (forwarded_sendTo z t dst 3 p.count 1 _ _).trans (entry _)
    · exact .refl z t

section
variable {s x : State} {t : TileId} (h : s.Forwarded t x)
include h

theorem State.Forwarded.tileAt_self : ∃ b p, x.tileAt t = { s.tileAt t with batch := b, pubs := p } := by
  obtain ⟨_, _, b, p, rfl⟩ := h
  exact ⟨b, p, tileAt_updAt_self _ _ _⟩

theorem State.Forwarded.tileAt_ne {u : TileId} (hu : u ≠ t) : x.tileAt u = s.tileAt u := by
  obtain ⟨_, _, b, p, rfl⟩ := h
  exact tileAt_updAt_ne _ _ _ _ hu.symm

theorem State.Forwarded.cur_eq : x.cur = s.cur := by
  obtain ⟨_, _, _, _, rfl⟩ := h
  rfl

end

/-- x is s but for the open batch, publisher entries and scratchpad of tile t, the packets under way and the lost units. -/
def State.Stored (s : State) (t : TileId) (m : Mem) (x : State) : Prop :=
  ∃ n i l b p, x = (s.updDev fun d => { d with net := n, nextId := i, lost := l }).updAt t fun y => { y with batch := b, pubs := p, spm := m }

theorem State.Forwarded.stored {s x : State} {t : TileId} (h : s.Forwarded t x) : s.Stored t (s.tileAt t).spm x := by
  obtain ⟨n, i, b, p, rfl⟩ := h
  exact ⟨n, i, s.dev.lost, b, p, rfl⟩

theorem State.Stored.trans {s x y : State} {t : TileId} {m m' : Mem} (h : s.Stored t m x) (g : x.Stored t m' y) : s.Stored t m' y := by
  obtain ⟨_, _, _, _, _, rfl⟩ := h
  obtain ⟨n, i, l, b, p, rfl⟩ := g
  exact ⟨n, i, l, b, p, by simp [State.updDev, State.updAt, State.setTileAt, State.tileAt]⟩

theorem stored_heal (s : State) (t : TileId) (c : BitVec 8) (place a n : Nat) : s.Stored t (s.tileAt t).spm (s.heal c place a n) := by
  unfold State.heal
  split
  · exact (State.Forwarded.refl s t).stored
  · exact ⟨s.dev.net, s.dev.nextId, _, (s.tileAt t).batch, (s.tileAt t).pubs, (setTileAt_tileAt _ t).symm⟩

theorem stored_updAt (s : State) (t : TileId) (b : Tile → Option Batch) (m : Tile → Mem) :
    s.Stored t (m (s.tileAt t)) (s.updAt t fun y => { y with batch := b y, spm := m y }) :=
  ⟨s.dev.net, s.dev.nextId, s.dev.lost, b (s.tileAt t), (s.tileAt t).pubs, rfl⟩

theorem State.Stored.spm {s x : State} {t : TileId} {m : Mem} (h : s.Stored t m x) : (x.tileAt t).spm = m := by
  obtain ⟨_, _, _, _, _, rfl⟩ := h
  rw [tileAt_updAt_self]

/-- A tile's own store writes its bytes, and beside them touches only what forwards published windows. -/
theorem stored_spmStore (s : State) (t : TileId) (a n v : Nat) : s.Stored t ((s.tileAt t).spm.writeN a n v) (s.spmStore t a n v) := by
  unfold State.spmStore
  extract_lets x sector s1 s2 s3
  have left : s.Forwarded t s1 := by
    unfold s1
    split
    · split
      · split
        · exact .refl s t
        · exact forwarded_closeBatch s t
      · exact .refl s t
    · exact .refl s t
  have written : s.Stored t ((s.tileAt t).spm.writeN a n v) s2 := by
    have := left.stored.trans (stored_updAt s1 t (fun y => y.batch) fun y => y.spm.writeN a n v)
    rwa [left.stored.spm] at this
  have healed : s.Stored t ((s.tileAt t).spm.writeN a n v) s3 := by
    have := written.trans (stored_heal s2 t 1 t.val a n)
    rwa [written.spm] at this
  split
  · have kept (b : Tile → Option Batch) : s3.Stored t _ (s3.updAt t fun y => { y with batch := b y }) :=
      healed.spm ▸ stored_updAt s3 t b fun y => y.spm
    exact healed.trans (kept _)
  · exact healed

section
variable {s x : State} {t : TileId} {m : Mem} (h : s.Stored t m x)
include h

theorem State.Stored.tileAt_self : ∃ b p, x.tileAt t = { s.tileAt t with batch := b, pubs := p, spm := m } := by
  obtain ⟨_, _, _, b, p, rfl⟩ := h
  exact ⟨b, p, tileAt_updAt_self _ _ _⟩

theorem State.Stored.tileAt_ne {u : TileId} (hu : u ≠ t) : x.tileAt u = s.tileAt u := by
  obtain ⟨_, _, _, b, p, rfl⟩ := h
  exact tileAt_updAt_ne _ _ _ _ hu.symm

theorem State.Stored.cur_eq : x.cur = s.cur := by
  obtain ⟨_, _, _, _, _, rfl⟩ := h
  rfl

theorem State.Stored.memories : x.dev.hbm = s.dev.hbm ∧ x.dev.host = s.dev.host ∧ x.dev.remote = s.dev.remote := by
  obtain ⟨_, _, _, _, _, rfl⟩ := h
  exact ⟨rfl, rfl, rfl⟩

end

theorem partLost_of_not_isLost {s : State} {code : BitVec 8} {place a n : Nat} (h : s.isLost code place a n = false) :
    s.partLost code place a n = false := by
  simp only [State.isLost, State.partLost, List.any_eq_false, Bool.and_eq_true, not_and] at h ⊢
  exact fun u hu m => absurd m (h u hu)

/-! ### The checks of an access of K -/

theorem next_congr {s t : State} (h : s = t) : (.next s : Out) = .next t := congrArg _ h

section
variable (s : State) (sp : Space) (k : Acc) {ea : Word} {n : Nat} (plain : Bool) (v : Nat) (go : State → Where → State)

section
variable (al : ea.toNat % n = 0) {w : Where} {s1 : State} (r : s.resolve s.cur sp k ea n false = .ok (w, s1))
include al r

theorem kAccess_resolved : s.kAccess sp k ea n plain v go = if s.tile.kOrdered then s.kWait
    else if s.kAway sp || !s1.linkReady w.tgt w.addr then (s.bindFor s.cur sp).kLink ea else go s1 w := by
  unfold State.kAccess
  rw [if_neg (not_not.2 al), r]

/-- An access that resolves behind no acquire, whose turn does not leave it in the network and whose link is up, performs. -/
theorem kAccess_goes (ord : s.tile.kOrdered = false) (here : s.kAway sp = false) (up : s1.linkReady w.tgt w.addr = true) :
    s.kAccess sp k ea n plain v go = go s1 w := by
  rw [kAccess_resolved s sp k plain v go al r, ord, here, up]
  rfl

theorem kAccess_away (ord : s.tile.kOrdered = false) (away : s.kAway sp = true ∨ s1.linkReady w.tgt w.addr = false) :
    s.kAccess sp k ea n plain v go = (s.bindFor s.cur sp).kLink ea := by
  rw [kAccess_resolved s sp k plain v go al r, ord, if_neg Bool.false_ne_true, if_pos (by simpa using away)]

end

theorem kAccess_refused (al : ea.toNat % n = 0) {c : Cause} (r : s.resolve s.cur sp k ea n false = .error c) (hc : c ≠ .settWrite) :
    s.kAccess sp k ea n plain v go = (s.consumed s.cur c (s.walkMet s.tile.ctx sp ea)).kFault c ea := by
  unfold State.kAccess
  rw [if_neg (not_not.2 al), r]
  split
  · next e => exact absurd (Except.error.inj e) hc
  · next e => rw [Except.error.inj e]
  · next e => cases e

end

/-! ### The scratchpad -/

theorem resolve_spm {s : State} {t : TileId} {ea : Word} (k : Acc) (h : ea.toNat + 8 ≤ 0x300000) :
    s.resolve t .spm k ea 8 false = .ok (⟨.spm, ea.toNat, .rc, false⟩, s) := if_pos h

theorem resolve_spm_out {s : State} {t : TileId} {ea : Word} (k : Acc) (h : 0x300000 < ea.toNat + 8) :
    s.resolve t .spm k ea 8 false = .error .accessDenied := if_neg (by unfold spmSize; omega)

theorem kAway_spm (s : State) : s.kAway .spm = false := Bool.and_false _

/-- Nothing is logged for an address past the end of the scratchpad. -/
theorem kAccess_spm_out (s : State) (k : Acc) {ea : Word} (plain : Bool) (v : Nat) (go : State → Where → State) (al : ea.toNat % 8 = 0)
    (h : 0x300000 < ea.toNat + 8) : s.kAccess .spm k ea 8 plain v go = s.kFault .accessDenied ea :=
  kAccess_refused s .spm k plain v go al (resolve_spm_out k h) (by decide)

theorem readAt_spm {s : State} {t : TileId} {clk : Clk} {a n : Nat} (h : s.isLost 1 t.val a n = false) :
    s.readAt t clk .spm a n = .ok (((s.tileAt t).spmView clk).readN a n) := by
  unfold State.readAt
  rw [h]
  rfl

theorem writeAt_spm {s : State} {t : TileId} {a v : Nat} (h : s.isLost 1 t.val a 8 = false) :
    s.writeAt t .spm a 8 v = .ok (s.spmStore t a 8 v) := by
  unfold State.writeAt
  rw [partLost_of_not_isLost h]
  rfl

section
variable (s : State) (a b : Reg) (imm : BitVec 15)

/-- The address of a K access with an immediate. -/
def State.kEa : Word := s.tile.kget a + BitVec.ofInt 64 imm.toInt

/-- A K access of eight bytes of the scratchpad finds nothing to fault or wait for. -/
def State.SpmFree (ea : Word) : Prop :=
  ea.toNat % 8 = 0 ∧ ea.toNat + 8 ≤ 0x300000 ∧ s.isLost 1 s.cur.val ea.toNat 8 = false ∧ s.tile.kOrdered = false

variable {s a imm}

theorem kLoad_misaligned (sp : Space) (h : (s.kEa a imm).toNat % 8 ≠ 0) (d : Reg) : s.kLoad sp d a imm = s.kFault .align (s.kEa a imm) :=
  if_pos h

theorem kStore_misaligned (sp : Space) (h : (s.kEa a imm).toNat % 8 ≠ 0) (b : Reg) : s.kStore sp a b imm = s.kFault .align (s.kEa a imm) :=
  if_pos h

theorem kLoad_spm_out (al : (s.kEa a imm).toNat % 8 = 0) (h : 0x300000 < (s.kEa a imm).toNat + 8) (d : Reg) :
    s.kLoad .spm d a imm = s.kFault .accessDenied (s.kEa a imm) := by
  unfold State.kLoad
  exact kAccess_spm_out s .read _ _ _ al h

theorem kStore_spm_out (al : (s.kEa a imm).toNat % 8 = 0) (h : 0x300000 < (s.kEa a imm).toNat + 8) (b : Reg) :
    s.kStore .spm a b imm = s.kFault .accessDenied (s.kEa a imm) := kAccess_spm_out s .write _ _ _ al h

section
variable (free : s.SpmFree (s.kEa a imm))
include free

theorem kLoad_spm (d : Reg) :
    s.kLoad .spm d a imm = s.kDone d (BitVec.ofNat 64 ((s.tile.spmView s.tile.k.clk).readN (s.kEa a imm).toNat 8)) := by
  obtain ⟨al, inside, kept, ord⟩ := free
  unfold State.kLoad
  refine (kAccess_goes s .spm .read _ _ _ al (resolve_spm .read inside) ord (kAway_spm s) rfl).trans ?_
  rw [readAt_spm kept]
  rfl

theorem kStore_spm : s.kStore .spm a b imm = (s.spmStore s.cur (s.kEa a imm).toNat 8 (s.tile.kget b).toNat).kSkip := by
  obtain ⟨al, inside, kept, ord⟩ := free
  unfold State.kStore
  refine (kAccess_goes s .spm .write _ _ _ al (resolve_spm .write inside) ord (kAway_spm s) rfl).trans ?_
  rw [writeAt_spm kept]

end

end

/-- Settles O3: an access of the scratchpad performs at once, and a store leaves what State.Stored says. -/
theorem kScratchpadAccess : Obligations.KScratchpadAccess := by
  intro s d a b imm
  refine ⟨fun free => ?load, fun free => ?store, fun mis hh => ?align, fun al out hh => ?denied⟩
  case load => exact ⟨_, next_congr (kLoad_spm free d), kDone_wrote s d _⟩
  case store =>
    have st := stored_spmStore s s.cur (s.kEa a imm).toNat 8 (s.tile.kget b).toNat
    refine ⟨_, next_congr (kStore_spm b free), ?_⟩
    generalize s.spmStore s.cur (s.kEa a imm).toNat 8 (s.tile.kget b).toNat = x at st
    obtain ⟨e, p, self⟩ := st.tileAt_self
    have cur := st.cur_eq
    have hself : x.kSkip.tileAt s.cur = ({ s.tile with batch := e, pubs := p, spm := s.tile.spm.writeN (s.kEa a imm).toNat 8 (s.tile.kget b).toNat } : Tile).kNext := by
      rw [State.kSkip, State.upd, cur, tileAt_updAt_self, self]; rfl
    have hne : ∀ u, u ≠ s.cur → x.kSkip.tileAt u = s.tileAt u := fun u hu => by
      rw [State.kSkip, State.upd, cur, tileAt_updAt_ne _ _ _ _ hu.symm, st.tileAt_ne hu]
    have htile : x.kSkip.tile = x.kSkip.tileAt s.cur := congrArg _ cur
    rw [htile, hself]
    exact ⟨rfl, cur, fun c => Mem.get_writeN .., hne, fun _ _ => rfl, fun _ => rfl, st.memories⟩
  case align =>
    exact ⟨kFault_out_trapped s (next_congr (kLoad_misaligned .spm mis d)) (by decide) hh,
      kFault_out_trapped s (next_congr (kStore_misaligned .spm mis b)) (by decide) hh⟩
  case denied =>
    exact ⟨kFault_out_trapped s (next_congr (kLoad_spm_out al out d)) (by decide) hh,
      kFault_out_trapped s (next_congr (kStore_spm_out al out b)) (by decide) hh⟩

end Sys2Proof.Machine
end

section
/-! SUPPORT. K's loads, stores and atomics of commons and of local, far and host memory (06 R104 to R107, 05 R89). -/

open Sys2Proof

namespace Sys2Proof.Machine

/-! ### What an atomic leaves in memory -/

theorem bits_low (v : BitVec 4) : bits v 2 0 = v.toNat % 8 := rfl

theorem bit_three (op : BitVec 4) : bit op 3 = decide (8 ≤ op.toNat) := by
  revert op; decide

/-- The width in bits of an operation code. -/
theorem atomWidth_bits {op : BitVec 4} {n : Nat} (h : op.toNat < 8 ∧ n = 32 ∨ 8 ≤ op.toNat ∧ n = 64) : 8 * atomWidth op = n := by
  unfold atomWidth
  rw [bit_three]
  rcases h with ⟨h, rfl⟩ | ⟨h, rfl⟩
  · rw [if_neg (by simpa using h)]
  · rw [if_pos (by simpa using h)]

theorem slt_min_eq {n : Nat} (x y : BitVec n) : (if x.slt y then x.toNat else y.toNat) = if x.toInt ≤ y.toInt then x.toNat else y.toNat := by
  by_cases h : x.toInt = y.toInt
  · simp [BitVec.eq_of_toInt_eq h]
  · simp [BitVec.slt_iff_toInt_lt, le_iff_lt_or_eq, h]

theorem slt_max_eq {n : Nat} (x y : BitVec n) : (if x.slt y then y.toNat else x.toNat) = if x.toInt ≤ y.toInt then y.toNat else x.toNat := by
  by_cases h : x.toInt = y.toInt
  · simp [BitVec.eq_of_toInt_eq h]
  · simp [BitVec.slt_iff_toInt_lt, le_iff_lt_or_eq, h]

theorem ofNat_eq_ofNat_iff (n x y : Nat) : BitVec.ofNat n x = BitVec.ofNat n y ↔ x % 2 ^ n = y % 2 ^ n := by
  rw [← BitVec.toNat_inj, BitVec.toNat_ofNat, BitVec.toNat_ofNat]

/-- What each operation code leaves, in words of its width. -/
theorem atomNew_cases (old b e : Nat) (op : BitVec 4) {n : Nat} (h : op.toNat < 8 ∧ n = 32 ∨ 8 ≤ op.toNat ∧ n = 64) :
    let x : BitVec n := BitVec.ofNat n old
    let y : BitVec n := BitVec.ofNat n b
    (op.toNat % 8 = 0 → atomNew op old b e = (old + b) % 2 ^ n) ∧
    (op.toNat % 8 = 1 → atomNew op old b e = if x.toInt ≤ y.toInt then x.toNat else y.toNat) ∧
    (op.toNat % 8 = 2 → atomNew op old b e = if x.toInt ≤ y.toInt then y.toNat else x.toNat) ∧
    (op.toNat % 8 = 3 → atomNew op old b e = (x &&& y).toNat) ∧
    (op.toNat % 8 = 4 → atomNew op old b e = (x ||| y).toNat) ∧
    (op.toNat % 8 = 5 → atomNew op old b e = (x ^^^ y).toNat) ∧
    (op.toNat % 8 = 6 → atomNew op old b e = y.toNat) ∧
    (op.toNat % 8 = 7 → atomNew op old b e = if old % 2 ^ n = e % 2 ^ n then y.toNat else x.toNat) := by
  obtain rfl := atomWidth_bits h
  intro x y
  refine ⟨fun c => ?add, fun c => ?min, fun c => ?max, fun c => ?and, fun c => ?or, fun c => ?xor, fun c => ?swap, fun c => ?cas⟩
  case add => simp [atomNew, bits_low, c]
  case min => simp only [atomNew, bits_low, c]; exact slt_min_eq x y
  case max => simp only [atomNew, bits_low, c]; exact slt_max_eq x y
  case and | or | xor | swap => simp only [atomNew, bits_low, c]; rfl
  case cas => simp only [atomNew, bits_low, c, ofNat_eq_ofNat_iff]; rfl

/-! ### Loads, stores and atomics that perform or wait -/

section
variable {s s1 : State} {sp : Space} {w : Where} {a : Reg}

theorem kAway_memory (h : sp ≠ .spm) : s.kAway sp = s.defer := by simp [State.kAway, h]

theorem away_of_not_goes (h : sp ≠ .spm) (n : ¬ (s.defer = false ∧ s1.linkReady w.tgt w.addr = true)) :
    s.kAway sp = true ∨ s1.linkReady w.tgt w.addr = false := by
  rw [kAway_memory h]
  simpa [imp_iff_not_or] using n

section
variable {imm : BitVec 15} (h : sp ≠ .spm) (al : (s.kEa a imm).toNat % 8 = 0) (ord : s.tile.kOrdered = false)
include h al ord

theorem kLoad_waits (r : s.resolve s.cur sp .read (s.kEa a imm) 8 false = .ok (w, s1))
    (n : ¬ (s.defer = false ∧ s1.linkReady w.tgt w.addr = true)) (d : Reg) : s.kLoad sp d a imm = (s.bindFor s.cur sp).kLink (s.kEa a imm) := by
  unfold State.kLoad
  exact kAccess_away s sp .read _ _ _ al r ord (away_of_not_goes h n)

theorem kStore_waits (r : s.resolve s.cur sp .write (s.kEa a imm) 8 false = .ok (w, s1))
    (n : ¬ (s.defer = false ∧ s1.linkReady w.tgt w.addr = true)) (b : Reg) : s.kStore sp a b imm = (s.bindFor s.cur sp).kLink (s.kEa a imm) := by
  unfold State.kStore
  exact kAccess_away s sp .write _ _ _ al r ord (away_of_not_goes h n)

theorem kLoad_goes (r : s.resolve s.cur sp .read (s.kEa a imm) 8 false = .ok (w, s1)) (g : s.defer = false ∧ s1.linkReady w.tgt w.addr = true)
    {v : Nat} (e : s1.readAt s.cur s.tile.k.clk w.tgt w.addr 8 = .ok v) (d : Reg) : s.kLoad sp d a imm = s1.kDone d (BitVec.ofNat 64 v) := by
  unfold State.kLoad
  refine (kAccess_goes s sp .read _ _ _ al r ord ((kAway_memory h).trans g.1) g.2).trans ?_
  rw [e]

theorem kStore_goes (r : s.resolve s.cur sp .write (s.kEa a imm) 8 false = .ok (w, s1)) (g : s.defer = false ∧ s1.linkReady w.tgt w.addr = true)
    {b : Reg} {s2 : State} (e : s1.writeAt s.cur w.tgt w.addr 8 (s.tile.kget b).toNat = .ok s2) : s.kStore sp a b imm = s2.kSkip := by
  unfold State.kStore
  refine (kAccess_goes s sp .write _ _ _ al r ord ((kAway_memory h).trans g.1) g.2).trans ?_
  rw [e]

end

section
variable {op : BitVec 4} (h : sp ≠ .spm) (al : (s.tile.kget a).toNat % atomWidth op = 0) (ord : s.tile.kOrdered = false)
  (r : s.resolve s.cur sp .rmw (s.tile.kget a) (atomWidth op) false = .ok (w, s1))
include h al ord r

theorem kAtomic_waits (n : ¬ (s.defer = false ∧ s1.linkReady w.tgt w.addr = true)) (d b : Reg) :
    s.kAtomic sp d a b op = (s.bindFor s.cur sp).kLink (s.tile.kget a) := by
  unfold State.kAtomic
  exact kAccess_away s sp .rmw _ _ _ al r ord (away_of_not_goes h n)

theorem kAtomic_goes (g : s.defer = false ∧ s1.linkReady w.tgt w.addr = true) {v : Nat} {d b : Reg} {s2 : State}
    (e : s1.readAt s.cur s.tile.k.clk w.tgt w.addr (atomWidth op) = .ok v)
    (f : s1.writeAt s.cur w.tgt w.addr (atomWidth op) (atomNew op v (s.tile.kget b).toNat (s.tile.kget d).toNat) = .ok s2) :
    s.kAtomic sp d a b op = s2.kDone d (signExt (atomWidth op) v) := by
  unfold State.kAtomic
  refine (kAccess_goes s sp .rmw _ _ _ al r ord ((kAway_memory h).trans g.1) g.2).trans ?_
  rw [e]
  dsimp only
  rw [f]

end

end

/-! ### The instructions of the four spaces -/

theorem exec_load_store (s : State) {sp : Space} {ld st : Instr} {d a b : Reg} {imm : BitVec 15}
    (h : (sp, ld, st) ∈ [(Space.commons, Instr.kldm d a imm, Instr.kstm a b imm), (.loc, .kldl d a imm, .kstl a b imm),
      (.far, .kldf d a imm, .kstf a b imm), (.host, .kldh d a imm, .ksth a b imm)]) :
    sp ≠ .spm ∧ exec ld s = .next (s.kLoad sp d a imm) ∧ exec st s = .next (s.kStore sp a b imm) := by
  simp only [List.mem_cons, Prod.mk.injEq, List.not_mem_nil, or_false] at h
  obtain ⟨rfl, rfl, rfl⟩ | ⟨rfl, rfl, rfl⟩ | ⟨rfl, rfl, rfl⟩ | ⟨rfl, rfl, rfl⟩ := h
  all_goals exact ⟨by decide, rfl, rfl⟩

theorem exec_atomic (s : State) {sp : Space} {i : Instr} {d a b : Reg} {op : BitVec 4}
    (h : (sp, i) ∈ [(Space.commons, Instr.katm d a b op), (.loc, .katl d a b op), (.far, .katf d a b op)]) :
    sp ≠ .spm ∧ exec i s = .next (s.kAtomic sp d a b op) := by
  simp only [List.mem_cons, Prod.mk.injEq, List.not_mem_nil, or_false] at h
  obtain ⟨rfl, rfl⟩ | ⟨rfl, rfl⟩ | ⟨rfl, rfl⟩ := h
  all_goals exact ⟨by decide, rfl⟩

/-- Settles O4: each instruction is the shared access of its kind, which waits or performs; the codes of the atomics by atomNew_cases. -/
theorem kMemoryAndAtomics : Obligations.KMemoryAndAtomics := by
  refine ⟨fun s s1 s2 sp ld st at_ d a b imm op w v ord => ⟨fun m => ?plain, fun m al r => ?atomic⟩,
    fun old b e op n h => atomNew_cases old b e op h⟩
  case plain =>
    obtain ⟨h, hld, hst⟩ := exec_load_store s m
    rw [hld, hst]
    exact fun al => ⟨fun r n => next_congr (kLoad_waits h al ord r n d), fun r n => next_congr (kStore_waits h al ord r n b),
      fun r g e => ⟨_, next_congr (kLoad_goes h al ord r g e d), kDone_wrote s1 d _⟩,
      fun r g e => ⟨_, next_congr (kStore_goes h al ord r g e), kSkip_went s2⟩⟩
  case atomic =>
    obtain ⟨h, hat⟩ := exec_atomic s m
    rw [hat]
    exact ⟨fun n => next_congr (kAtomic_waits h al ord r n d b),
      fun g e f => ⟨_, next_congr (kAtomic_goes h al ord r g e f), kDone_wrote s2 d _⟩⟩

end Sys2Proof.Machine
end

section
/-! SUPPORT. K's semaphores, event queue, guard slots and tokens (06 R108 to R114). -/

open Sys2Proof

namespace Sys2Proof.Machine

/-- Two changes of the stepping tile that agree on it. -/
theorem next_upd_congr {s : State} {f g : Tile → Tile} (h : f s.tile = g s.tile) : (.next (s.upd f) : Out) = .next (s.upd g) :=
  next_congr (congrArg (s.setTileAt s.cur) h)

theorem wr_rd {α : Type} {n : Nat} [Inhabited α] (v : Vector α n) (i : Nat) : wr v i (rd v i) = v := by
  ext j hj
  by_cases h : i = j
  · subst h
    simp [wr, rd, hj]
  · simp [wr, h]

/-! ### Semaphores (06 R108, R109) -/

section
variable (t : Tile) {n : BitVec 8} (h : n ≠ 0)
include h

theorem smGet_of_ne : t.smGet n = rd t.sm n.toNat := if_neg h

theorem smSet_of_ne (v : BitVec 32) : t.smSet n v = { t with sm := wr t.sm n.toNat v } := if_neg h

theorem smTake_of_ne : t.smTake n = { t with sm := wr t.sm n.toNat (rd t.sm n.toNat - 1) } := by
  unfold Tile.smTake
  rw [smGet_of_ne t h, smSet_of_ne t h]

/-- A signal adds one and saturates. -/
theorem smSignal_of_ne : t.smSignal n = { t with sm := wr t.sm n.toNat (BitVec.ofNat 32 (min ((rd t.sm n.toNat).toNat + 1) 0xFFFFFFFF)) } := by
  unfold Tile.smSignal
  rw [smGet_of_ne t h, smSet_of_ne t h]
  have lt := (rd t.sm n.toNat).isLt
  split
  next full =>
    have same : BitVec.ofNat 32 (min ((rd t.sm n.toNat).toNat + 1) 0xFFFFFFFF) = rd t.sm n.toNat := by rw [full]; rfl
    rw [same, wr_rd]
  next room =>
    have below : (rd t.sm n.toNat).toNat ≠ 0xFFFFFFFF := fun e => room (BitVec.eq_of_toNat_eq e)
    have plus : BitVec.ofNat 32 (min ((rd t.sm n.toNat).toNat + 1) 0xFFFFFFFF) = rd t.sm n.toNat + 1 := by
      rw [Nat.min_eq_left (by omega)]
      simp [BitVec.ofNat_add]
    rw [plus]

end

theorem smSet_zero (t : Tile) (v : BitVec 32) : t.smSet 0 v = t := rfl

theorem smSignal_zero (t : Tile) : t.smSignal 0 = t := rfl

section
variable (s : State) {a : Reg}

/-- The semaphore that a register names. -/
def State.semOf (a : Reg) : BitVec 8 := (s.tile.kget a).setWidth 8

theorem smwait_takes (h : s.semOf a ≠ 0)
    (free : s.tile.engineAhead (s.semOf a) (s.tile.k.since.getD s.dev.now) < (rd s.tile.sm (s.semOf a).toNat).toNat) :
    exec (.smwait a) s = .next (s.upd fun x => ({ x with sm := wr x.sm (s.semOf a).toNat (rd x.sm (s.semOf a).toNat - 1) }).kNext) := by
  rw [← smGet_of_ne s.tile h] at free
  refine ((if_neg h).trans (if_pos free)).trans (next_upd_congr ?_)
  exact congrArg Tile.kNext (smTake_of_ne s.tile h)

theorem smwait_waits (h : s.semOf a ≠ 0) (none_ : rd s.tile.sm (s.semOf a).toNat = 0) : exec (.smwait a) s = .next s.kWait := by
  refine (if_neg h).trans (if_neg ?_)
  rw [← State.semOf, smGet_of_ne _ h, none_]
  exact Nat.not_lt_zero _

theorem smsig_adds (h : s.semOf a ≠ 0) : exec (.smsig a) s = .next (s.upd fun x => ({ x with
    sm := wr x.sm (s.semOf a).toNat (BitVec.ofNat 32 (min ((rd x.sm (s.semOf a).toNat).toNat + 1) 0xFFFFFFFF)) }).kNext) :=
  next_upd_congr (congrArg Tile.kNext (smSignal_of_ne s.tile h))

theorem smset_sets (h : s.semOf a ≠ 0) (b : Reg) : exec (.smset a b) s = .next (s.upd fun x =>
    ({ x with sm := wr x.sm (s.semOf a).toNat (BitVec.ofNat 32 (s.tile.kget b).toNat) }).kNext) := by
  rw [BitVec.ofNat_toNat]
  exact next_upd_congr (congrArg Tile.kNext (smSet_of_ne s.tile h _))

/-- Semaphore 0 is none. -/
theorem sm_none (h : s.semOf a = 0) (b : Reg) {i : Instr} (hi : i ∈ [Instr.smwait a, .smsig a, .smset a b]) : exec i s = .next s.kSkip := by
  simp only [List.mem_cons, List.not_mem_nil, or_false] at hi
  obtain rfl | rfl | rfl := hi
  · exact if_pos h
  · exact next_upd_congr (congrArg Tile.kNext ((congrArg s.tile.smSignal h).trans (smSignal_zero _)))
  · exact next_upd_congr (congrArg Tile.kNext ((congrArg (s.tile.smSet · _) h).trans (smSet_zero _ _)))

theorem smrd_value : (s.tile.smGet (s.semOf a)).zeroExtend 64 =
    BitVec.ofNat 64 (if s.semOf a = 0 then 0 else (rd s.tile.sm (s.semOf a).toNat).toNat) := by
  unfold Tile.smGet
  split
  · rfl
  · exact (BitVec.ofNat_toNat 64 _).symm

end

/-! ### The event queue (06 R111) -/

theorem evpop_some (s : State) (d : Reg) {r : BitVec 128} {rest : List (BitVec 128)} (h : s.tile.evq = r :: rest) :
    exec (.evpop d) s = .next (s.upd fun x => (x.popRecord.putRecord d r).kNext) := by
  change execEvpop d s = _
  unfold execEvpop
  rw [h]

theorem evpop_waits (s : State) (d : Reg) (h : s.tile.evq = []) : exec (.evpop d) s = .next s.kWait := by
  change execEvpop d s = _
  unfold execEvpop
  rw [h]

theorem evpeek_reads (s : State) (d : Reg) : exec (.evpeek d) s = .next (s.upd fun x => (x.putRecord d (s.tile.evq.headD 0)).kNext) :=
  next_upd_congr rfl

theorem popRecord_last (t : Tile) {r : BitVec 128} {rest : List (BitVec 128)} (h : t.evq = r :: rest) (w : t.evWait = []) :
    t.popRecord = { t with evq := rest, evHead := (t.evHead + 1) % 64 } := by
  simp [Tile.popRecord, h, w]

theorem popRecord_lets_in (t : Tile) {r y : BitVec 128} {rest ys : List (BitVec 128)} (h : t.evq = r :: rest) (w : t.evWait = y :: ys) :
    t.popRecord = { t with evq := rest ++ [y], evHead := (t.evHead + 1) % 64, evWait := ys } := by
  simp [Tile.popRecord, h, w]

/-! ### Tokens of K (06 R114) -/

section
variable (s : State) {c : BitVec 3}

theorem tkpush_stalls (a : Reg) (h : s.tile.tokenStalled .k [] (peersOf .k c) false = true) : exec (.tkpush a c) s = .next (s.kFault .tokenStall 0) :=
  if_pos h

theorem tkpop_stalls (d : Reg) (h : s.tile.tokenStalled .k (peersOf .k c) [] false = true) : exec (.tkpop d c) s = .next (s.kFault .tokenStall 0) :=
  if_pos h

theorem tkpush_pushes (a : Reg) (n : s.tile.tokenStalled .k [] (peersOf .k c) false = false) (h : s.tile.canPush .k (peersOf .k c) = true) :
    exec (.tkpush a c) s = .next (s.upd fun x => ((x.reserve .k (peersOf .k c)).pushReserved .k (peersOf .k c)
      (BitVec.ofNat 32 (s.tile.kget a).toNat) (x.k.clk.tick .k)).kNext) := by
  change execTkpush a c s = _
  unfold execTkpush
  rw [BitVec.ofNat_toNat]
  simp only [n, h, Bool.not_true, Bool.false_eq_true, if_false]
  exact next_upd_congr rfl

theorem tkpop_pops (d : Reg) (n : s.tile.tokenStalled .k (peersOf .k c) [] false = false) (h : s.tile.canPop .k (peersOf .k c) = true)
    {k : Tok} {r : List Tok} (hs : s.tile.heads .k (peersOf .k c) = k :: r) :
    exec (.tkpop d c) s = .next (s.upd fun x => ((x.popToks .k (peersOf .k c)).kset d (BitVec.ofNat 64 k.pay.toNat)).kNext) := by
  change execTkpop d c s = _
  unfold execTkpop
  rw [BitVec.ofNat_toNat]
  simp only [n, h, hs, Bool.not_true, Bool.false_eq_true, if_false]

end

/-- The value that GRES gives a guard slot. -/
def State.guardOf (s : State) (a b : Reg) : Guard := if bit (s.tile.kget a) 4 then .free else if s.tile.kget b = 0 then .no else .yes

theorem gres_sets (s : State) (a b : Reg) :
    exec (.gres a b) s = .next (s.upd fun x => ({ x with gd := wr x.gd (bits (s.tile.kget a) 3 0) (s.guardOf a b) }).kNext) := by
  change execGres a b s = _
  unfold execGres
  simp only [State.guardOf, ne_eq, ite_not]

/-- Settles O6, row by row. -/
theorem kSemaphoresEventsTokens : Obligations.KSemaphoresEventsTokens := by
  refine ⟨fun s d a b => ⟨smwait_takes s, smwait_waits s, smsig_adds s, fun h => smset_sets s h b,
    fun h i hi => ⟨_, sm_none s h b hi, kSkip_went s⟩, _, rfl, ?smrd⟩, fun s d a b c => ⟨fun r rest h w => ?last, fun r rest y ys h w => ?letsIn,
    evpop_waits s d, evpeek_reads s d, gres_sets s a b, tkpush_pushes s a, fun n h k r hs => tkpop_pops s d n h hs, tkpush_stalls s a, tkpop_stalls s d⟩⟩
  case smrd => exact smrd_value s ▸ kDone_wrote s d _
  case last =>
    rw [evpop_some s d h]
    exact next_upd_congr (congrArg (fun x : Tile => (x.putRecord d r).kNext) (popRecord_last _ h w))
  case letsIn =>
    rw [evpop_some s d h]
    exact next_upd_congr (congrArg (fun x : Tile => (x.putRecord d r).kNext) (popRecord_lets_in _ h w))

end Sys2Proof.Machine
end

section
/-! SUPPORT. Barrier objects: what the updates of one cycle do to an object and its tile (06 R115 to R118). -/

open Sys2Proof

namespace Sys2Proof.Machine

/-! ### A tile changed more than once -/

@[simp] theorem updAt_updAt (s : State) (t : TileId) (f g : Tile → Tile) : (s.updAt t f).updAt t g = s.updAt t fun x => g (f x) := by
  simp [State.updAt]

theorem updAt_congr {s : State} {t : TileId} {f g : Tile → Tile} (h : f (s.tileAt t) = g (s.tileAt t)) : s.updAt t f = s.updAt t g :=
  congrArg (s.setTileAt t) h

theorem updAt_same {s : State} {t : TileId} {f : Tile → Tile} (h : f (s.tileAt t) = s.tileAt t) : s.updAt t f = s :=
  (congrArg (s.setTileAt t) h).trans (setTileAt_tileAt s t)

/-! ### Records posted to a running task -/

/-- A change that leaves the task, whether it runs and whether it is being stopped leaves where a launch's task is. -/
theorem taskHome_updAt (s : State) (t : TileId) {f : Tile → Tile} (task : (f (s.tileAt t)).task = (s.tileAt t).task)
    (pre : (f (s.tileAt t)).preempt = (s.tileAt t).preempt) (live : (f (s.tileAt t)).live = (s.tileAt t).live) (launch : Word) :
    (s.updAt t f).taskHome t launch = s.taskHome t launch := by
  simp only [State.taskHome, tileAt_updAt_self, Tile.launch, task, pre, live]
  rfl

theorem post_eq (x : Tile) (r : BitVec 128) : ∃ q w, x.post r = { x with evq := q, evWait := w } := by
  unfold Tile.post
  split
  · exact ⟨_, _, rfl⟩
  · exact ⟨_, _, rfl⟩

theorem postTask_live {s : State} {t : TileId} {launch : Word} (h : s.taskHome t launch = .live) (r : BitVec 128) :
    s.postTask t launch none r = s.updAt t fun x => x.post r := by
  unfold State.postTask
  rw [h]
  rfl

/-- Records posted one after another. -/
theorem foldl_postTask {s : State} {t : TileId} {launch : Word} (h : s.taskHome t launch = .live) (r : Nat → BitVec 128) (is : List Nat) :
    is.foldl (fun s i => s.postTask t launch none (r i)) s = s.updAt t fun x => is.foldl (fun y i => y.post (r i)) x := by
  induction is generalizing s with
  | nil => exact (setTileAt_tileAt s t).symm
  | cons i is ih =>
    rw [List.foldl_cons, postTask_live h, ih, updAt_updAt]
    · rfl
    · obtain ⟨q, w, e⟩ := post_eq (s.tileAt t) (r i)
      rw [taskHome_updAt s t, h] <;> rw [e]

/-! ### The updates of an object in one cycle (06 R117, R118) -/

/-- The updates that object a takes in: those that wait for the cycle's end, then us. -/
def Tile.barTaken (x : Tile) (a : Nat) (us : List (BarUpd × Nat)) : List (BarUpd × Nat) :=
  ((x.barDue.filter fun u => u.1 == a).map fun u => u.2) ++ us

/-- An object after updates bs: one of which all are refused is not written. -/
def Mem.barAfter (m : Mem) (a : Nat) (bs : List BarUpd) : Mem :=
  if ((m.bar a).refused bs).length = bs.length then m else m.setBar a ((m.bar a).cycle bs)

/-- The BAR_OVERRUN records of the refused ones of updates us of object a, posted to a tile. -/
def Tile.postRefused (y : Tile) (a : Nat) (us : List (BarUpd × Nat)) (is : List Nat) : Tile :=
  is.foldl (fun y i => y.post (mkRecord (overrunDetail ((us[i]?.map fun u => u.2).getD 0) a) kindOverrun 8 0 0)) y

/-- A tile whose object a has taken in updates us. -/
def Tile.barApplied (x : Tile) (a : Nat) (us : List (BarUpd × Nat)) : Tile :=
  let bs := (x.barTaken a us).map fun u => u.1
  ({ x with barDue := x.barDue.filter fun u => u.1 != a, spm := x.spm.barAfter a bs } : Tile).postRefused a (x.barTaken a us) ((x.spm.bar a).refused bs)

/-- Updates of an object in place, at a running task; where none is refused it need not run. -/
theorem barApply_live {s : State} {t : TileId} {launch : Word} {a : Nat} {us : List (BarUpd × Nat)} (kept : s.isLost 1 t.val a 16 = false)
    (h : s.taskHome t launch = .live ∨ (((s.tileAt t).spm.bar a).refused (((s.tileAt t).barTaken a us).map fun u => u.1)) = []) :
    s.barApply t launch .live a us = s.updAt t fun x => x.barApplied a us := by
  unfold State.barApply
  simp only [State.taskTile, State.spmLost, if_true]
  have kept' : (s.updAt t fun x => { x with barDue := x.barDue.filter fun u => u.1 != a }).isLost 1 t.val a 16 = false := kept
  rw [kept', if_neg Bool.false_ne_true]
  generalize hbs : (((s.tileAt t).barTaken a us).map fun u => u.1) = bs at h
  have taken : ((((s.tileAt t).barDue.filter fun u => u.1 == a).map fun u => u.2) ++ us) = (s.tileAt t).barTaken a us := rfl
  rw [taken, hbs]
  have written : (if ((((s.tileAt t).spm.bar a).refused bs).length = bs.length)
      then s.updAt t fun x => { x with barDue := x.barDue.filter fun u => u.1 != a }
      else (s.updAt t fun x => { x with barDue := x.barDue.filter fun u => u.1 != a }).updTask t .live fun x =>
        { x with spm := x.spm.setBar a (((s.tileAt t).spm.bar a).cycle bs) }) =
      s.updAt t fun x => { x with barDue := x.barDue.filter fun u => u.1 != a, spm := (s.tileAt t).spm.barAfter a bs } := by
    unfold Mem.barAfter
    split
    · exact updAt_congr rfl
    · unfold State.updTask
      rw [updAt_updAt]
      exact updAt_congr rfl
  rw [written]
  rcases h with h | h
  · rw [foldl_postTask ((taskHome_updAt s t rfl rfl rfl launch).trans h), updAt_updAt]
    refine updAt_congr ?_
    simp only [Tile.barApplied, hbs]
    rfl
  · rw [h, List.foldl_nil]
    refine updAt_congr ?_
    simp only [Tile.barApplied, hbs, h]
    rfl

end Sys2Proof.Machine
end

section
/-! SUPPORT. Local barrier instructions and fences of K (06 R115 to R117, R123, R124). -/

open Sys2Proof

namespace Sys2Proof.Machine

/-! ### The updates of a local barrier instruction (06 R117) -/

section
variable (o : Bar) (n : Word)

theorem refused_bytes : o.refused [.bytes n] = [] := rfl

theorem refused_drop : o.refused [.drop] = if o.pending = 0 ∨ o.reload = 0 then [0] else [] := by
  have one : o.refused [.drop] = if (o.apply .drop).2 then [0] else [] := rfl
  rw [one, Bar.apply, Bar.drop]
  by_cases h : o.pending = 0 ∨ o.reload = 0
  · rw [if_pos h, if_pos h]; rfl
  · rw [if_neg h, if_neg h]; rfl

theorem cycle_drop (h : 0 < o.pending) (g : 0 < o.reload) :
    o.cycle [.drop] = ({ o with pending := o.pending - 1, reload := o.reload - 1 } : Bar).test := by
  have d : o.drop = some { o with pending := o.pending - 1, reload := o.reload - 1 } := if_neg (by omega)
  simp [Bar.cycle, Bar.applyRank, BarUpd.rank, Bar.apply, d]

theorem refused_arrive : o.refused [.bytes n, .arrive 1] = if o.pending = 0 then [1] else [] := by
  have two : o.refused [.bytes n, .arrive 1] = if (({ o with bytes := o.bytes + n } : Bar).apply (.arrive 1)).2 then [1] else [] := rfl
  rw [two, Bar.apply, Bar.arrive]
  by_cases h : o.pending = 0
  · simp [h]
  · simp [h]

theorem cycle_arrive (h : 0 < o.pending) :
    o.cycle [.bytes n, .arrive 1] = ({ o with pending := o.pending - 1, bytes := o.bytes + n } : Bar).test := by
  have a : ({ o with bytes := o.bytes + n } : Bar).arrive 1 = some { o with pending := o.pending - 1, bytes := o.bytes + n } :=
    if_neg (Nat.not_lt.2 h)
  simp [Bar.cycle, Bar.applyRank, BarUpd.rank, Bar.apply, a]

end

/-! ### An object that is met (06 R116, R117) -/

/-- A local barrier instruction finds its object in place and intact. -/
def State.BarFound (s : State) (a : Reg) : Prop :=
  (s.tile.kget a).toNat % 16 = 0 ∧ (s.tile.kget a).toNat < 0x300000 ∧ s.isLost 1 s.cur.val (s.tile.kget a).toNat 16 = false

/-- The address and the object that a register names. -/
def State.barAt (s : State) (a : Reg) : Nat := (s.tile.kget a).toNat
def State.barOf (s : State) (a : Reg) : Bar := s.tile.spm.bar (s.barAt a)

/-- No update of the cycle waits for others, and none are still to come. -/
def Tile.BarAlone (t : Tile) : Prop := t.barDue = [] ∧ t.barOpen = none

theorem barTaken_alone {t : Tile} (h : t.BarAlone) (a : Nat) (us : List (BarUpd × Nat)) : t.barTaken a us = us := by
  obtain ⟨due, _⟩ := h
  simp [Tile.barTaken, due]

theorem barOpen_shut (x : Tile) (h : x.barOpen = none) : ({ x with barOpen := x.barOpen.map fun _ => true } : Tile) = x := by
  rw [h, Option.map_none, ← h]

section
variable {s : State} {a : Reg} (h : s.BarFound a)
include h

theorem kBar_ordered (ord : s.tile.kOrdered = true) (release : Bool) (us : List BarUpd) (d : Reg) : s.kBar a release us d = s.kWait := by
  obtain ⟨al, inside, -⟩ := h
  unfold State.kBar
  rw [if_neg (not_not.2 al), if_neg (show ¬ spmSize ≤ _ from Nat.not_le.2 inside), ord]
  rfl

section
variable (ord : s.tile.kOrdered = false) {release : Bool} (rel : release = true → s.tile.kOpen false false = false)
  (alone : s.tile.BarAlone) {us : List BarUpd}
include ord rel alone

/-- What K's own updates do once nothing keeps the instruction waiting. -/
theorem kBar_meets (d : Reg) : s.kBar a release us d = if ((s.barOf a).refused us) ≠ [] then s.kFault .barOverrun (s.tile.kget a) else
    ((s.barMeet s.cur s.tile.launch .live (s.barAt a) (us.map fun u => (u, s.cur.val))).upd fun x => { x with barOpen := x.barOpen.map fun _ => true }).kDone d
      (BitVec.ofNat 64 (s.barOf a).phase) := by
  obtain ⟨al, inside, kept⟩ := h
  obtain ⟨due, _⟩ := alone
  have open_ : (release && s.tile.kOpen false false) = false := by
    cases release with
    | false => rfl
    | true => exact rel rfl
  unfold State.kBar
  rw [if_neg (not_not.2 al), if_neg (show ¬ spmSize ≤ _ from Nat.not_le.2 inside), ord, open_, kept, due,
    Bool.or_false, if_neg Bool.false_ne_true, if_neg Bool.false_ne_true]
  refine if_congr ?_ rfl rfl
  simp [State.barOf, State.barAt, List.eq_nil_iff_forall_not_mem]

theorem kBar_overrun (r : (s.barOf a).refused us ≠ []) (d : Reg) : s.kBar a release us d = s.kFault .barOverrun (s.tile.kget a) :=
  (kBar_meets h ord rel alone d).trans (if_pos r)

/-- Where no update is refused the object alone changes. -/
theorem kBar_applies (f : us ≠ []) (r : (s.barOf a).refused us = []) (d : Reg) : s.kBar a release us d =
    (s.upd fun x => { x with spm := x.spm.setBar (s.barAt a) ((s.barOf a).cycle us) }).kDone d (BitVec.ofNat 64 (s.barOf a).phase) := by
  have taken : (s.tile.barTaken (s.barAt a) (us.map fun u => (u, s.cur.val))).map Prod.fst = us := by
    rw [barTaken_alone alone]; simp [Function.comp_def]
  have met : s.barMeet s.cur s.tile.launch .live (s.barAt a) (us.map fun u => (u, s.cur.val)) =
      s.upd fun x => x.barApplied (s.barAt a) (us.map fun u => (u, s.cur.val)) := by
    unfold State.barMeet
    have shut : (s.tileAt s.cur).barOpen = none := alone.2
    rw [if_neg (by simp [shut])]
    exact barApply_live h.2.2 (.inr ((congrArg _ taken).trans r))
  have applied : s.tile.barApplied (s.barAt a) (us.map fun u => (u, s.cur.val)) =
      { s.tile with spm := s.tile.spm.setBar (s.barAt a) ((s.barOf a).cycle us) } := by
    have kept : s.tile.barDue.filter (fun u => u.1 != s.barAt a) = s.tile.barDue := by rw [alone.1]; rfl
    have r' : (s.tile.spm.bar (s.barAt a)).refused us = [] := r
    simp only [Tile.barApplied, taken, r', kept, Mem.barAfter, List.length_nil, List.length_eq_zero_iff.not.2 f |> Ne.symm, if_false]
    rfl
  rw [(kBar_meets h ord rel alone d).trans (if_neg (not_not.2 r)), met, upd_upd]
  exact congrArg (fun z : State => z.kDone d _) (updAt_congr ((barOpen_shut _ (applied ▸ alone.2)).trans applied))

end

end

/-! ### BARR, which closes the open batch (06 R116, 12 R292) -/

theorem State.Forwarded.tile_eq {s x : State} (h : s.Forwarded s.cur x) : ∃ b p, x.tile = { s.tile with batch := b, pubs := p } := by
  obtain ⟨b, p, e⟩ := h.tileAt_self
  exact ⟨b, p, (congrArg _ h.cur_eq).trans e⟩

theorem State.Forwarded.isLost_eq {s x : State} {t : TileId} (h : s.Forwarded t x) (c : BitVec 8) (place a n : Nat) :
    x.isLost c place a n = s.isLost c place a n := by
  obtain ⟨_, _, _, _, rfl⟩ := h
  rfl

section
variable {s : State} {a : Reg} (h : s.BarFound a) (ord : s.tile.kOrdered = false) (alone : s.tile.BarAlone)
  (rel : s.tile.kOpen false false = false)
include rel

theorem execBarr_eq (d a b : Reg) :
    execBarr d a b s = .next ((s.closeBatch s.cur).kBar a true [.bytes (s.tile.kget b), .arrive 1] d) := by
  unfold execBarr
  simp only [rel, Bool.false_eq_true, if_false]

include h ord alone

/-- What BARR meets once the batch has left is what it met before. -/
theorem closeBatch_meets : (s.closeBatch s.cur).BarFound a ∧ (s.closeBatch s.cur).tile.kOrdered = false ∧
    (s.closeBatch s.cur).tile.kOpen false false = false ∧ (s.closeBatch s.cur).tile.BarAlone ∧
    (s.closeBatch s.cur).barOf a = s.barOf a ∧ (s.closeBatch s.cur).tile.kget a = s.tile.kget a := by
  have f := forwarded_closeBatch s s.cur
  obtain ⟨_, _, e⟩ := f.tile_eq
  simp only [State.BarFound, State.barOf, State.barAt, f.isLost_eq, f.cur_eq, e]
  exact ⟨h, ord, rel, alone, rfl, rfl⟩

theorem barr_arrives (p : 0 < (s.barOf a).pending) (d b : Reg) : exec (.barr d a b) s = .next (((s.closeBatch s.cur).upd fun x =>
    { x with spm := x.spm.setBar (s.barAt a)
              (({ s.barOf a with pending := (s.barOf a).pending - 1, bytes := (s.barOf a).bytes + s.tile.kget b } : Bar).test) }).kDone d
      (BitVec.ofNat 64 (s.barOf a).phase)) := by
  obtain ⟨h', ord', rel', alone', same, reg⟩ := closeBatch_meets h ord alone rel
  refine (execBarr_eq rel d a b).trans (next_congr ?_)
  rw [kBar_applies h' ord' (fun _ => rel') alone' (by simp) (by rw [same, refused_arrive, if_neg (Nat.ne_of_gt p)]), same,
    cycle_arrive _ _ p, State.barAt, reg, State.barAt]

theorem barr_overruns (p : (s.barOf a).pending = 0) (d b : Reg) :
    exec (.barr d a b) s = .next ((s.closeBatch s.cur).kFault .barOverrun (s.tile.kget a)) := by
  obtain ⟨h', ord', rel', alone', same, reg⟩ := closeBatch_meets h ord alone rel
  refine (execBarr_eq rel d a b).trans (next_congr ?_)
  rw [kBar_overrun h' ord' (fun _ => rel') alone' (by rw [same, refused_arrive, if_pos p]; simp), reg]

theorem bard_drops (p : 0 < (s.barOf a).pending) (q : 0 < (s.barOf a).reload) (d : Reg) : exec (.bard d a) s = .next ((s.upd fun x =>
    { x with spm := x.spm.setBar (s.barAt a)
              (({ s.barOf a with pending := (s.barOf a).pending - 1, reload := (s.barOf a).reload - 1 } : Bar).test) }).kDone d
      (BitVec.ofNat 64 (s.barOf a).phase)) := by
  refine next_congr ?_
  rw [kBar_applies h ord (fun _ => rel) alone (by simp) (by rw [refused_drop, if_neg (by omega)]), cycle_drop _ p q]

theorem bard_overruns (p : (s.barOf a).pending = 0 ∨ (s.barOf a).reload = 0) (d : Reg) :
    exec (.bard d a) s = .next (s.kFault .barOverrun (s.tile.kget a)) :=
  next_congr (kBar_overrun h ord (fun _ => rel) alone (by rw [refused_drop, if_pos p]; simp) d)

end

section
variable {s : State} {a : Reg} (h : s.BarFound a) (ord : s.tile.kOrdered = false)
include h ord

theorem barx_adds (alone : s.tile.BarAlone) (b : Reg) : exec (.barx a b) s = .next ((s.upd fun x =>
    { x with spm := x.spm.setBar (s.barAt a) (({ s.barOf a with bytes := (s.barOf a).bytes + s.tile.kget b } : Bar).test) }).kDone 0
      (BitVec.ofNat 64 (s.barOf a).phase)) :=
  next_congr (kBar_applies h ord (fun e => absurd e Bool.false_ne_true) alone (by simp) (refused_bytes _ (s.tile.kget b)) 0)

theorem execBarw_eq (d b : Reg) : exec (.barw d a b) s =
    if (s.barOf a).phase = (s.tile.kget b).toNat % 4096 then .next s.kWait else .next (s.kDone d (BitVec.ofNat 64 (s.barOf a).phase)) := by
  obtain ⟨al, inside, kept⟩ := h
  change execBarw d a b s = _
  unfold execBarw
  rw [if_neg (not_not.2 al), if_neg (show ¬ spmSize ≤ _ from Nat.not_le.2 inside), ord, if_neg Bool.false_ne_true, kept, if_neg Bool.false_ne_true]
  rfl

end

theorem bar_ordered {s : State} {a : Reg} (h : s.BarFound a) (ord : s.tile.kOrdered = true) (d b : Reg) {i : Instr}
    (hi : i ∈ [Instr.bard d a, .barx a b, .barw d a b]) : exec i s = .next s.kWait := by
  simp only [List.mem_cons, List.not_mem_nil, or_false] at hi
  obtain rfl | rfl | rfl := hi
  · exact next_congr (kBar_ordered h ord true _ d)
  · exact next_congr (kBar_ordered h ord false _ 0)
  · obtain ⟨al, inside, -⟩ := h
    change execBarw d a b s = _
    unfold execBarw
    rw [if_neg (not_not.2 al), if_neg (show ¬ spmSize ≤ _ from Nat.not_le.2 inside), if_pos ord]

/-! ### Fences (06 R123, R124) -/

section
variable (s : State) (kind scope : BitVec 2)

/-- FENCE has an access to wait for. -/
def State.FenceWaits : Prop :=
  ((kind = 1 ∨ kind = 3) ∧ s.tile.kOpen true false = true) ∨ ((kind = 2 ∨ kind = 3) ∧ s.tile.kOpen false (decide (scope = 3)) = true)

theorem fence_goes (h : ¬ s.FenceWaits kind scope) : exec (.fence kind scope) s = .next s.kSkip := if_neg h
theorem fence_waits (h : s.FenceWaits kind scope) : exec (.fence kind scope) s = .next s.kWait := if_pos h

end

/-- A join of the named queues, as K queues it. -/
def State.joinCmd (s : State) (mask : BitVec 7) (sem : BitVec 8) : Cmd :=
  newCmd (.join s.dev.nextId mask sem) (s.tile.k.pc.setWidth 32) none 0 0 false s.tile.k.clk

/-- A command added to each named queue. -/
def joinQueues (mask : BitVec 7) (c : Cmd) (q : Vector (List Cmd) 7) (e : Nat) : Vector (List Cmd) 7 :=
  if mask.getLsbD e then wr q e (rd q e ++ [c]) else q

theorem rd_foldl_joinQueues (mask : BitVec 7) (c : Cmd) (q : Vector (List Cmd) 7) (n : Nat) {e : Nat} (he : e < 7) :
    rd ((List.range n).foldl (joinQueues mask c) q) e = if e < n ∧ mask.getLsbD e = true then rd q e ++ [c] else rd q e := by
  induction n with
  | zero => simp
  | succ n ih =>
    rw [List.range_succ, List.foldl_append, List.foldl_cons, List.foldl_nil, joinQueues]
    by_cases hn : e = n
    · subst hn
      split
      next m => rw [rd_wr_self _ _ _ he, ih, if_neg (by omega), if_pos ⟨by omega, m⟩]
      next m => rw [ih, if_neg (by omega), if_neg fun x => m x.2]
    · have lt : e < n + 1 ↔ e < n := by omega
      simp only [lt, ← ih]
      split
      · exact rd_wr_ne _ _ _ _ (Ne.symm hn)
      · rfl

section
variable (s : State) (a b : Reg)

/-- QFENCE's mask and semaphore. -/
def State.joinMask (a : Reg) : BitVec 7 := (s.tile.kget a).setWidth 7

theorem joinMask_getLsbD {e : Nat} (h : e < 7) : (s.joinMask a).getLsbD e = (s.tile.kget a).getLsbD e := by
  simp [State.joinMask, h]

theorem joinMask_eq_zero : s.joinMask a = 0 ↔ (s.tile.kget a).toNat % 128 = 0 := by
  rw [← BitVec.toNat_inj, State.joinMask, BitVec.toNat_setWidth]
  rfl

theorem qfence_none (h : (s.tile.kget a).toNat % 128 = 0) :
    exec (.qfence a b) s = .next (s.upd fun x => (x.smSignal (BitVec.ofNat 8 (s.tile.kget b).toNat)).kNext) := by
  rw [BitVec.ofNat_toNat]
  exact if_pos ((joinMask_eq_zero s a).2 h)

/-- Some named queue is full. -/
theorem queueFull_iff : ((List.range 7).any fun e => (s.joinMask a).getLsbD e && decide (16 ≤ (rd s.tile.q e).length)) = true ↔
    ∃ e, e < 7 ∧ (s.tile.kget a).getLsbD e = true ∧ 16 ≤ (rd s.tile.q e).length := by
  simp only [List.any_eq_true, List.mem_range, Bool.and_eq_true, decide_eq_true_eq]
  exact exists_congr fun e => and_congr_right fun h => by rw [joinMask_getLsbD s a h]

theorem qfence_waits (h : ∃ e, e < 7 ∧ (s.tile.kget a).getLsbD e = true ∧ 16 ≤ (rd s.tile.q e).length) :
    exec (.qfence a b) s = .next s.kWait := by
  have some_ : s.joinMask a ≠ 0 := fun z => by
    obtain ⟨e, he, m, _⟩ := h
    rw [← joinMask_getLsbD s a he, z] at m
    simp at m
  exact (if_neg some_).trans (if_pos ((queueFull_iff s a).2 h))

/-- The join that QFENCE queues in each named queue, and the queues with it. -/
def State.joinOf (a b : Reg) : Cmd := s.joinCmd (s.joinMask a) ((s.tile.kget b).setWidth 8)
def State.joinedQueues (a b : Reg) : Vector (List Cmd) 7 := (List.range 7).foldl (joinQueues (s.joinMask a) (s.joinOf a b)) s.tile.q

theorem qfence_joins (h : (s.tile.kget a).toNat % 128 ≠ 0) (space : ∀ e, e < 7 → (s.tile.kget a).getLsbD e = true → (rd s.tile.q e).length < 16) :
    exec (.qfence a b) s = .next (s.fresh.2.upd fun x => ({ x with q := s.joinedQueues a b }).kNext) :=
  (if_neg (mt (joinMask_eq_zero s a).1 h)).trans (if_neg fun f => by
    obtain ⟨e, he, m, full⟩ := (queueFull_iff s a).1 f
    exact absurd full (Nat.not_le.2 (space e he m)))

end

/-- Settles O8: the barrier instructions by what their updates do to an object that is met, the fences by their conditions. -/
theorem kBarriersAndFences : Obligations.KBarriersAndFences := by
  refine ⟨fun s d a b al inside kept => ⟨fun ord i hi => bar_ordered ⟨al, inside, kept⟩ ord d b hi, fun ord due opened => ?met⟩,
    fun s a b kind scope => ⟨fun h => ⟨_, fence_goes s kind scope h, kSkip_went s⟩, fence_waits s kind scope, qfence_none s a b, qfence_waits s a b,
      fun h space => ⟨_, qfence_joins s a b h space, ?joined⟩⟩⟩
  case met =>
    have h : s.BarFound a := ⟨al, inside, kept⟩
    have alone : s.tile.BarAlone := ⟨due, opened⟩
    have barw := execBarw_eq h ord d b
    exact ⟨fun rel p => barr_arrives h ord alone rel p d b, fun rel p q => bard_drops h ord alone rel p q d, barx_adds h ord alone b,
      fun rel p => barr_overruns h ord alone rel p d b, fun rel p => bard_overruns h ord alone rel p d,
      fun n => ⟨_, barw.trans (if_neg n), kDone_wrote s d _⟩, fun e => barw.trans (if_pos e)⟩
  case joined =>
    rw [tile_upd]
    refine ⟨rfl, rfl, sameMemory_upd s.fresh.2 _ rfl rfl rfl rfl rfl, fun u hu => tileAt_updAt_ne _ _ _ _ hu.symm, fun e he => ⟨s.joinOf a b, ?body, rfl, ?queue⟩⟩
    case body => rw [State.joinOf, State.joinCmd, newCmd, State.joinMask, BitVec.ofNat_toNat, BitVec.ofNat_toNat]
    case queue =>
      refine (rd_foldl_joinQueues _ _ _ 7 he).trans ?_
      simp only [joinMask_getLsbD s a he, he, true_and]

end Sys2Proof.Machine
end

section
/-! SUPPORT. Barrier packets that K sends, and groups (06 R118 to R121, 10 R234 to R236). -/

open Sys2Proof

namespace Sys2Proof.Machine

/-! ### Fields of a number in memory -/

theorem Mem.readN_add (m : Mem) (a i j : Nat) : m.readN a (i + j) = m.readN a i + 256 ^ i * m.readN (a + i) j := by
  induction i generalizing a with
  | zero => simp [Mem.readN]
  | succ i ih =>
    rw [Nat.succ_add, Mem.readN, Mem.readN, ih, show a + (i + 1) = a + 1 + i by omega, Nat.pow_succ]
    ring

theorem Mem.readN_lt (m : Mem) (a n : Nat) : m.readN a n < 256 ^ n := by
  induction n generalizing a with
  | zero => simp [Mem.readN]
  | succ n ih =>
    have := (m.get a).isLt
    have := ih (a + 1)
    rw [Mem.readN, Nat.pow_succ]
    omega

/-- Bytes i to i + j - 1 of a number read from memory. -/
theorem Mem.nbits_readN (m : Mem) (a i j k : Nat) : nbits (m.readN a (i + (j + k))) (8 * i) (8 * j) = m.readN (a + i) j := by
  have w : ∀ n, 2 ^ (8 * n) = 256 ^ n := fun n => by rw [Nat.pow_mul]
  rw [nbits, Nat.shiftRight_eq_div_pow, w, w, Mem.readN_add, Nat.add_mul_div_left _ _ (by positivity), Nat.div_eq_of_lt (m.readN_lt a i), Nat.zero_add,
    Mem.readN_add, Nat.add_mul_mod_self_left, Nat.mod_eq_of_lt (m.readN_lt _ j)]

/-! ### The stepping tile through a run of packets and writes -/

@[simp] theorem cur_updAt (s : State) (t : TileId) (f : Tile → Tile) : (s.updAt t f).cur = s.cur := rfl

@[simp] theorem cur_heal (s : State) (c : BitVec 8) (place a n : Nat) : (s.heal c place a n).cur = s.cur := by
  unfold State.heal; split <;> rfl

@[simp] theorem cur_recall (s : State) (a n : Nat) : (s.recall a n).cur = s.cur := by
  unfold State.recall; split <;> rfl

@[simp] theorem cur_markDirty (s : State) (a : Nat) : (s.markDirty a).cur = s.cur := by
  unfold State.markDirty State.fitHub
  split
  · rfl
  · dsimp only
    split <;> rfl

@[simp] theorem cur_writeHbm (s : State) (a n v : Nat) : (s.writeHbm a n v).cur = s.cur := by
  simp only [State.writeHbm, cur_markDirty, cur_recall, cur_heal, cur_updDev]

@[simp] theorem cur_imagePut (s : State) (slot : Nat) (cs : List Host.Cell) : (s.imagePut slot cs).cur = s.cur := by
  refine List.foldlRecOn (motive := fun z : State => z.cur = s.cur) cs _ rfl fun z hz c _ => ?_
  split
  · exact (cur_writeHbm ..).trans hz
  · exact hz

@[simp] theorem cur_updSave (s : State) (slot : Nat) (f : Tile → Tile) : (s.updSave slot f).cur = s.cur := by
  unfold State.updSave
  split
  · rfl
  · simp only [cur_imagePut, cur_updDev]

@[simp] theorem cur_updTask (s : State) (t : TileId) (h : Home) (f : Tile → Tile) : (s.updTask t h f).cur = s.cur := by
  cases h with
  | image slot => exact cur_updSave ..
  | live | held | kept _ | absent => rfl

@[simp] theorem cur_sendTo (s : State) (t u : TileId) (kind : BitVec 3) (seq : BitVec 16) (cls : BitVec 2) (body : PktBody) (clk : Clk) :
    (s.sendTo t u kind seq cls body clk).cur = s.cur := rfl

@[simp] theorem cur_logSpm (s : State) (t : TileId) (l : Word) (c : BitVec 12) (h : Home) (a : Nat) : (s.logSpm t l c h a).cur = s.cur := by
  cases h <;> rfl

@[simp] theorem cur_grpWrite (s : State) (self : TileId) (l : Word) (g n master : Nat) (ms : List Nat) (x : GrpTarget) :
    (s.grpWrite self l g n master ms x).cur = s.cur := by
  cases x with
  | die d => rfl
  | tile t =>
    unfold State.grpWrite
    dsimp only
    rw [apply_ite State.cur, cur_logSpm, cur_updTask, ite_self]

/-- A run whose steps leave the stepping tile may name it as it was. -/
theorem foldl_cur {α : Type} (f : TileId → State → α → State) (cur : ∀ u z x, (f u z x).cur = z.cur) (xs : List α) {z : State} {u : TileId}
    (h : z.cur = u) : xs.foldl (fun z x => f z.cur z x) z = xs.foldl (f u) z := by
  induction xs generalizing z with
  | nil => rfl
  | cons x xs ih => rw [List.foldl_cons, List.foldl_cons, h, ih ((cur u z x).trans h)]

/-! ### FLAGADD and FLAGSET (06 R118, R119) -/

/-- The barrier address that a flag instruction names. -/
def State.flagAt (s : State) (a : Reg) : Nat := (s.tile.kget a).toNat % 2 ^ 22

section
variable {s : State} {a : Reg}

theorem kFlag_misaligned (h : s.flagAt a % 16 ≠ 0) (tiles : List Nat) (body : Nat → PktBody) :
    s.kFlag a tiles body = s.kFault .align (BitVec.ofNat 64 (s.flagAt a)) := if_pos h

/-- The packets leave once K's earlier accesses have performed and the open batch has left. -/
theorem kFlag_sends (h : s.flagAt a % 16 = 0 ∧ s.flagAt a < 0x300000 ∧ s.tile.kOpen false false = false) {tiles : List Nat}
    (here : ∀ n ∈ tiles, ∃ h : n < 432, s.inPartition s.tile.ctx ⟨n, h⟩ = true) (body : Nat → PktBody) :
    s.kFlag a tiles body = (tiles.foldl (fun z n => z.sendTo s.cur (tileOf n) 4 0 2 (body (s.flagAt a)) s.tile.k.clk) (s.closeBatch s.cur)).kSkip := by
  obtain ⟨al, inside, done⟩ := h
  have bad : (decide (spmSize ≤ s.flagAt a) || tiles.any fun n => match tileOf? n with
      | some u => !s.inPartition s.tile.ctx u
      | none => true) = false := by
    rw [Bool.or_eq_false_iff, decide_eq_false_iff_not, List.any_eq_false]
    refine ⟨Nat.not_le.2 inside, fun n m => ?_⟩
    obtain ⟨lt, e⟩ := here n m
    simp [tileOf?, lt, e]
  refine ((if_neg (not_not.2 al)).trans (if_neg (Bool.eq_false_iff.1 bad))).trans ((if_neg (Bool.eq_false_iff.1 done)).trans ?_)
  exact congrArg State.kSkip (foldl_cur (fun u z n => z.sendTo u (tileOf n) 4 0 2 (body (s.flagAt a)) s.tile.k.clk) (fun _ _ _ => rfl) tiles
    (forwarded_closeBatch s s.cur).cur_eq)

end

theorem flagadd_none {s : State} (a b : Reg) (h : (s.tile.kget b).toNat % 2 ^ 20 = 0) : exec (.flagadd a b) s = .next s.kSkip := if_pos h

theorem flagadd_some {s : State} (a b : Reg) (h : (s.tile.kget b).toNat % 2 ^ 20 ≠ 0) :
    exec (.flagadd a b) s = .next (s.kFlag a [bits (s.tile.kget a) 40 32] fun p => .flagadd p ((s.tile.kget b).toNat % 2 ^ 20)) := if_neg h

/-- The places of a flag mask's ones. -/
def State.flagMask (s : State) (b : Reg) : List Nat := (List.range 64).filter fun i => (s.tile.kget b).getLsbD i

theorem flagset_none {s : State} (a b : Reg) (h : s.flagMask b = []) : exec (.flagset a b) s = .next s.kSkip :=
  if_pos (List.isEmpty_iff.2 (List.map_eq_nil_iff.2 h))

theorem flagset_some {s : State} (a b : Reg) (h : s.flagMask b ≠ []) :
    exec (.flagset a b) s = .next (s.kFlag a ((s.flagMask b).map fun i => bits (s.tile.kget a) 40 32 + i) .flagset) :=
  if_neg fun e => h (List.map_eq_nil_iff.1 (List.isEmpty_iff.1 e))

theorem flagMask_zero {s : State} {b : Reg} (h : s.tile.kget b = 0) : s.flagMask b = [] := by
  simp [State.flagMask, h]

theorem tileOf_lt {n : Nat} (h : n < 432) : tileOf n = ⟨n, h⟩ := Fin.ext (Nat.mod_eq_of_lt h)

theorem kDone_wrote_of (s : State) (d : Reg) {v v' : Word} (h : v = v') : KWrote s (s.kDone d v) d v' (s.tile.k.pc + 4) := h ▸ kDone_wrote s d v

/-! ### Groups (06 R120, R121) -/

section
variable (s : State) {l : Launch} {k : Task}

theorem execGrpq_eq (h : s.launch? s.tile.launch = some l) (hk : s.tile.task = some k) (d a b : Reg) : exec (.grpq d a b) s =
    .next (s.kDone d (grpAnswer (l.group (dieOf s.cur) (bits (s.tile.kget a) 7 0)) k.index (bits (s.tile.kget b) 1 0) (bits (s.tile.kget a) 39 16))) := by
  change execGrpq d a b s = _
  unfold execGrpq
  simp only [h, hk]

/-- What stands in the list that GRPSET reads at p: the number of members and the master; its two other bytes are zero. -/
theorem grpHeader (m : Mem) (p : Nat) : nbits (m.readN p 8) 0 24 = m.readN p 3 ∧ nbits (m.readN p 8) 32 24 = m.readN (p + 4) 3 ∧
    nbits (m.readN p 8) 24 8 = m.readN (p + 3) 1 ∧ nbits (m.readN p 8) 56 8 = m.readN (p + 7) 1 :=
  ⟨m.nbits_readN p 0 3 5, m.nbits_readN p 4 3 1, m.nbits_readN p 3 1 4, m.nbits_readN p 7 1 0⟩

/-- The writes that a GRPSET of members ms makes, in order. -/
def Launch.grpTargets (l : Launch) (ms : List Nat) : List GrpTarget :=
  [GrpTarget.die 0, .die 1, .die 2] ++ (ms.filterMap fun i => l.tileOfTask i).map GrpTarget.tile

theorem grpset_misaligned (a b : Reg) (h : (s.tile.kget b).toNat % 8 ≠ 0) : exec (.grpset a b) s = .next (s.kFault .align (s.tile.kget b)) := if_pos h

theorem grpHeld_iff (self : TileId) (launch : Word) (xs : List GrpTarget) :
    xs.any (s.grpHeld self launch) = true ↔ ∃ u, GrpTarget.tile u ∈ xs ∧ u ≠ self ∧ s.taskHome u launch = .held := by
  rw [List.any_eq_true]
  constructor
  · rintro ⟨x, m, h⟩
    cases x with
    | die d => cases h
    | tile u => exact ⟨u, m, by simpa [State.grpHeld] using h⟩
  · rintro ⟨u, m, h⟩
    exact ⟨_, m, by simpa [State.grpHeld] using h⟩

end

/-- What GRPSET finds where its list and its object pass the checks of 06 R121: group g, n members ms, and their master. -/
structure State.GrpsetFound (s : State) (b : Reg) (l : Launch) (k : Task) (g n master : Nat) (ms : List Nat) : Prop where
  aligned : (s.tile.kget b).toNat % 8 = 0
  inside : (s.tile.kget b).toNat + 8 + 4 * n ≤ 0x300000
  header_kept : s.isLost 1 s.cur.val (s.tile.kget b).toNat 8 = false
  list_kept : s.isLost 1 s.cur.val ((s.tile.kget b).toNat + 8) (4 * n) = false
  object_kept : s.isLost 1 s.cur.val (groupObj g) 16 = false
  launch : s.launch? s.tile.launch = some l
  task : s.tile.task = some k
  zero_low : (s.tile.spmView s.tile.k.clk).readN ((s.tile.kget b).toNat + 3) 1 = 0
  zero_high : (s.tile.spmView s.tile.k.clk).readN ((s.tile.kget b).toNat + 7) 1 = 0
  members : (l.group (dieOf s.cur) g).members ≠ []
  led : (l.group (dieOf s.cur) g).master = k.index
  idle : (s.tile.spm.bar (groupObj g)).pending = (s.tile.spm.bar (groupObj g)).reload
  no_bytes : (s.tile.spm.bar (groupObj g)).bytes = 0
  some_ : 0 < n
  few : n < 2 ^ 20
  list_ok : grpListOk l (dieOf s.cur) g n master ms = true
  n_eq : n = (s.tile.spmView s.tile.k.clk).readN (s.tile.kget b).toNat 3
  master_eq : master = (s.tile.spmView s.tile.k.clk).readN ((s.tile.kget b).toNat + 4) 3
  ms_eq : ms = (s.tile.spmView s.tile.k.clk).taskList ((s.tile.kget b).toNat + 8) n

section
variable {s : State} {a b : Reg} {l : Launch} {k : Task} {n master : Nat} {ms : List Nat}
  (h : s.GrpsetFound b l k (bits (s.tile.kget a) 7 0) n master ms)
include h

/-- GRPSET makes its writes, or waits with them still to make. -/
theorem grpset_found : exec (.grpset a b) s =
    if (s.defer || (l.grpTargets ms).any (s.grpHeld s.cur s.tile.launch)) = true then .next (s.upd fun t =>
      { t with k := { t.k with pend := some (.grpset (bits (s.tile.kget a) 7 0) n master ms (l.grpTargets ms)), since := some s.dev.now } })
    else .next ((l.grpTargets ms).foldl (fun z y => z.grpWrite s.cur s.tile.launch (bits (s.tile.kget a) 7 0) n master ms y) s).kSkip := by
  obtain ⟨hn, hmaster, hlow, hhigh⟩ := grpHeader (s.tile.spmView s.tile.k.clk) (s.tile.kget b).toNat
  rw [← h.n_eq] at hn
  rw [← h.master_eq] at hmaster
  rw [h.zero_low] at hlow
  rw [h.zero_high] at hhigh
  have fits := h.inside
  have lost : (s.isLost 1 s.cur.val (s.tile.kget b).toNat 8 || s.isLost 1 s.cur.val ((s.tile.kget b).toNat + 8) (4 * n) ||
      s.isLost 1 s.cur.val (groupObj (bits (s.tile.kget a) 7 0)) 16) = false := by rw [h.header_kept, h.list_kept, h.object_kept]; rfl
  have bad : (decide (spmSize < (s.tile.kget b).toNat + 8) || (l.group (dieOf s.cur) (bits (s.tile.kget a) 7 0)).members.isEmpty ||
      (l.group (dieOf s.cur) (bits (s.tile.kget a) 7 0)).master != k.index || (0 : Nat) != 0 || (0 : Nat) != 0 ||
      (s.tile.spm.bar (groupObj (bits (s.tile.kget a) 7 0))).pending != (s.tile.spm.bar (groupObj (bits (s.tile.kget a) 7 0))).reload ||
      (s.tile.spm.bar (groupObj (bits (s.tile.kget a) 7 0))).bytes != 0 || n == 0 || decide (2 ^ 20 ≤ n) ||
      decide (spmSize < (s.tile.kget b).toNat + 8 + 4 * n)) = false := by
    have := h.few
    have := h.some_
    simp [h.members, h.led, h.idle, h.no_bytes, spmSize]
    exact ⟨⟨⟨decide_eq_false (by omega), by omega⟩, by omega⟩, decide_eq_false (by omega)⟩
  change execGrpset a b s = _
  unfold execGrpset
  simp only [h.task, h.launch, hn, hmaster, hlow, hhigh, lost, bad, ← h.ms_eq, h.list_ok, h.aligned, ne_eq, not_true, if_false,
    Bool.false_eq_true, Bool.not_true]
  refine if_congr Iff.rfl rfl (next_congr (congrArg State.kSkip ?_))
  exact foldl_cur (fun u z y => z.grpWrite u s.tile.launch (bits (s.tile.kget a) 7 0) n master ms y) (fun _ _ _ => cur_grpWrite ..) _ rfl

end

/-- A handshake makes the next write, unless the Spoke of its tile holds it; behind the last K goes on. -/
theorem grpsetHandshake_writes {s : State} {t : TileId} {g n master : Nat} {ms : List Nat} {y : GrpTarget} {r : List GrpTarget}
    (p : (s.tileAt t).k.pend = some (.grpset g n master ms (y :: r))) (free : s.grpHeld t (s.tileAt t).launch y = false) :
    exec (.grpsetHandshake t) s = .next ((s.grpWrite t (s.tileAt t).launch g n master ms y).updAt t fun z =>
      if r = [] then ({ z with k := { z.k with pend := none } }).kNext else { z with k := { z.k with pend := some (.grpset g n master ms r) } }) := by
  change execGrpsetHandshake t s = _
  unfold execGrpsetHandshake
  simp only [p, free, Bool.false_eq_true, if_false]
  cases r with
  | nil => exact next_congr (updAt_congr rfl)
  | cons z r => exact next_congr (updAt_congr rfl)

/-- Settles O9: the packets of FLAGADD and FLAGSET by one operation, GRPQ by its answer, GRPSET by what it finds. -/
theorem kFlagsAndGroups : Obligations.KFlagsAndGroups := by
  refine ⟨fun s d a b => ⟨fun h => ⟨_, flagadd_none a b h, kSkip_went s⟩, fun h => ⟨_, flagset_none a b (flagMask_zero h), kSkip_went s⟩,
    fun lt ok n here => ?flagadd, fun ok m here => ?flagset, fun al n => (flagadd_some a b n).trans (next_congr (kFlag_misaligned al _ _)),
    fun al m => (flagset_some a b m).trans (next_congr (kFlag_misaligned al _ _)), fun l k hl hk => ⟨_, execGrpq_eq s hl hk d a b, ?grpq⟩⟩,
    fun s a b l k => ⟨grpset_misaligned s a b, fun al fits h8 hl ho hla ht z0 z1 mem led idle nb n0 n1 ok => ?grpset,
      fun t g n master ms y r p free => grpsetHandshake_writes p ?free⟩⟩
  case flagadd =>
    refine (flagadd_some a b n).trans (next_congr ?_)
    rw [kFlag_sends ok fun n m => List.mem_singleton.1 m ▸ ⟨lt, here⟩, ← tileOf_lt lt]
    rfl
  case flagset =>
    refine (flagset_some a b m).trans (next_congr ?_)
    refine (kFlag_sends ok (fun n hn => (List.mem_map.1 hn).elim fun i hi => hi.2 ▸ here i hi.1) .flagset).trans ?_
    rw [List.foldl_map]
    rfl
  case grpq =>
    refine kDone_wrote_of s d ?_
    generalize bits (s.tile.kget b) 1 0 = sel
    match sel with
    | 0 => rfl
    | 1 => simp only [grpAnswer, ones, List.isEmpty_iff]
    | 2 => rfl
    | _ + 3 => rfl
  case grpset =>
    have found : s.GrpsetFound b l k (bits (s.tile.kget a) 7 0) _ _ _ :=
      ⟨al, fits, h8, hl, ho, hla, ht, z0, z1, mem, led, idle, nb, n0, n1, ok, rfl, rfl, rfl⟩
    rw [grpset_found found]
    refine ⟨fun now free => if_neg ?_, fun w => if_pos ?_⟩
    · rw [now, Bool.false_or, grpHeld_iff]
      exact free
    · rw [Bool.or_eq_true, grpHeld_iff]
      exact w
  case free =>
    cases y with
    | die d => rfl
    | tile u => simpa [State.grpHeld] using free u rfl

end Sys2Proof.Machine
end

section
/-! SUPPORT. Subscriptions and the resynchronisation of channels (06 R125, R126, 12 R290 to R292). -/

open Sys2Proof

namespace Sys2Proof.Machine

/-! ### Tiles and memories through a change of one tile -/

theorem tileAt_updAt (s : State) (t u : TileId) (f : Tile → Tile) : (s.updAt t f).tileAt u = if t = u then f (s.tileAt u) else s.tileAt u := by
  split
  next h => rw [h, tileAt_updAt_self]
  next h => exact tileAt_updAt_ne s t u f h

theorem SameMemory.trans {s x y : State} (h : SameMemory s x) (g : SameMemory x y) : SameMemory s y := by
  obtain ⟨hbm, host, remote, tiles⟩ := h
  obtain ⟨hbm', host', remote', tiles'⟩ := g
  refine ⟨fun a => (hbm' a).trans (hbm a), fun a => (host' a).trans (host a), fun d a => (remote' d a).trans (remote d a), fun u => ?_⟩
  obtain ⟨spm, reg, side, carve⟩ := tiles u
  obtain ⟨spm', reg', side', carve'⟩ := tiles' u
  exact ⟨fun a => (spm' a).trans (spm a), fun a => (reg' a).trans (reg a), fun a => (side' a).trans (side a), fun l a => (carve' l a).trans (carve l a)⟩

/-- A change of a tile that keeps its memories keeps every memory. -/
theorem sameMemory_updAt (s : State) (t : TileId) (f : Tile → Tile) (spm : (f (s.tileAt t)).spm = (s.tileAt t).spm)
    (reg : (f (s.tileAt t)).regspace = (s.tileAt t).regspace) (valid : (f (s.tileAt t)).rvalid = (s.tileAt t).rvalid)
    (side : (f (s.tileAt t)).side = (s.tileAt t).side) (carves : (f (s.tileAt t)).carves = (s.tileAt t).carves) : SameMemory s (s.updAt t f) :=
  sameMemory_upd { s with cur := t } f spm reg valid side carves

theorem kget_zero (t : Tile) : t.kget 0 = 0 := rfl

theorem kget_kset_zero (t : Tile) (d : Reg) : (t.kset d 0).kget d = 0 := by
  rw [kget_kset]
  by_cases h : d = 0
  · rw [if_neg (by simp [h]), h, kget_zero]
  · rw [if_pos ⟨rfl, h⟩]

/-! ### SUBON (06 R125) -/

section
variable (s : State) (d a b : Reg)

/-- The subscriber entry, and the descriptor that SUBON reads. -/
def State.subEntry (a : Reg) : SubEntry := rd s.tile.subs ((s.tile.kget a).toNat % 16)
def State.subDesc (b : Reg) : Nat := (s.tile.spmView s.tile.k.clk).readN (s.tile.kget b).toNat 16

/-- SUBON's question to the publisher of its descriptor. -/
def State.subAsk (a b : Reg) : Option (Nat × State) :=
  s.subOpen s.cur ((s.tile.kget a).toNat % 16) (nbits (s.subDesc b) 96 16) (nbits (s.subDesc b) 64 32) (nbits (s.subDesc b) 32 32) (nbits (s.subDesc b) 0 32)

theorem subon_misaligned (h : (s.tile.kget b).toNat % 16 ≠ 0) : exec (.subon d a b) s = .next (s.kFault .align (s.tile.kget b)) := if_pos h

variable {s b} (ok : (s.tile.kget b).toNat % 16 = 0 ∧ (s.tile.kget b).toNat + 16 ≤ 0x300000 ∧ s.isLost 1 s.cur.val (s.tile.kget b).toNat 16 = false)
include ok

/-- SUBON once its descriptor is in place and intact. -/
theorem subon_read : exec (.subon d a b) s =
    if (s.subEntry a).opened then .next (s.kDone d 1)
    else if !subDescOk (s.subDesc b) then .next (s.kDone d 3)
    else if s.defer then .next (s.upd fun t => { t with k := { t.k with
        pend := some (.subon d ((s.tile.kget a).toNat % 16) (nbits (s.subDesc b) 96 16) (nbits (s.subDesc b) 64 32) (nbits (s.subDesc b) 32 32)
          (nbits (s.subDesc b) 0 32)), since := some s.dev.now } })
    else match s.subAsk a b with
      | none => .next (s.upd fun t => { t with k := { t.k with
        pend := some (.subon d ((s.tile.kget a).toNat % 16) (nbits (s.subDesc b) 96 16) (nbits (s.subDesc b) 64 32) (nbits (s.subDesc b) 32 32)
          (nbits (s.subDesc b) 0 32)), since := some s.dev.now } })
      | some (r, s) => .next (s.kDone d (BitVec.ofNat 64 r)) := by
  obtain ⟨al, inside, kept⟩ := ok
  change execSubon d a b s = _
  unfold execSubon
  rw [if_neg (not_not.2 al), if_neg (show ¬ spmSize < _ from Nat.not_lt.2 inside), kept]
  rfl

theorem subon_open (h : (s.subEntry a).opened = true) : exec (.subon d a b) s = .next (s.kDone d 1) := (subon_read d a ok).trans (if_pos h)

variable (closed : (s.subEntry a).opened = false)
include closed

theorem subon_invalid (h : subDescOk (s.subDesc b) = false) : exec (.subon d a b) s = .next (s.kDone d 3) := by
  rw [subon_read d a ok, closed, h]
  rfl

theorem subon_answered (h : subDescOk (s.subDesc b) = true) (now : s.defer = false) {r : Nat} {s1 : State} (e : s.subAsk a b = some (r, s1)) :
    exec (.subon d a b) s = .next (s1.kDone d (BitVec.ofNat 64 r)) := by
  rw [subon_read d a ok, closed, h, now, e]
  rfl

end

/-! ### The publisher's answer (06 R125) -/

/-- The entry that a subscription opens at its publisher, and the batch open there, which is left out of it. -/
def Tile.publish (y : Tile) (i : Nat) (x : SubEntry) : Tile :=
  { y with pubs := wr y.pubs i x, batch := y.batch.map fun b => { b with fresh := (i, 0) :: b.fresh.filter fun f => f.1 != i } }

theorem freePub_eq {y : Tile} {i : Nat} (hi : i < 16) (free : (rd y.pubs i).opened = false) (first : ∀ j, j < i → (rd y.pubs j).opened = true) :
    y.freePub = some i := by
  unfold Tile.freePub
  rw [List.find?_range_eq_some]
  exact ⟨by simp [free], List.mem_range.2 hi, fun j hj => by simp [first j hj]⟩

section
variable (s : State) (sub : TileId) (e size pb sb : Nat)

theorem subOpen_no_tile {pub : Nat} (h : ¬ pub < 432) : s.subOpen sub e pub size pb sb = some (4, s) := by
  simp [State.subOpen, tileOf?, h]

theorem subOpen_elsewhere {p : TileId} (h : s.inPartition (s.tileAt sub).ctx p = false) : s.subOpen sub e p.val size pb sb = some (4, s) := by
  simp [State.subOpen, tileOf?, h]

variable {p : TileId} (here : s.inPartition (s.tileAt sub).ctx p = true)
include here

theorem subOpen_absent (h : s.taskHome p (s.tileAt sub).launch = .absent) : s.subOpen sub e p.val size pb sb = some (4, s) := by
  simp [State.subOpen, tileOf?, here, h]

theorem subOpen_held (h : s.taskHome p (s.tileAt sub).launch = .held) : s.subOpen sub e p.val size pb sb = none := by
  simp [State.subOpen, tileOf?, here, h]

variable (h : s.taskHome p (s.tileAt sub).launch = .live)
include h

theorem subOpen_full (full : ∀ i, i < 16 → (rd (s.tileAt p).pubs i).opened = true) : s.subOpen sub e p.val size pb sb = some (2, s) := by
  have none_ : (s.tileAt p).freePub = none := by
    simp only [Tile.freePub, List.find?_eq_none, List.mem_range]
    exact fun i hi => by simp [full i hi]
  simp [State.subOpen, tileOf?, here, h, State.taskTile, none_]

theorem subOpen_opens {i : Nat} (free : (s.tileAt p).freePub = some i) : s.subOpen sub e p.val size pb sb =
    some (0, (s.updAt p fun y => y.publish i ⟨true, false, sub.val, size, pb, sb, 0⟩).updAt sub fun y =>
      { y with subs := wr y.subs e ⟨true, false, p.val, size, pb, sb, 0⟩ }) := by
  simp [State.subOpen, tileOf?, here, h, State.taskTile, free, State.updTask]
  rfl

end

/-! ### SUBOFF (06 R125) -/

/-- A change that leaves a tile's task, whether it runs and whether it is being stopped leaves where a launch's task is, on every tile. -/
theorem taskHome_updAt_at (s : State) (t : TileId) {f : Tile → Tile} (task : (f (s.tileAt t)).task = (s.tileAt t).task)
    (pre : (f (s.tileAt t)).preempt = (s.tileAt t).preempt) (live : (f (s.tileAt t)).live = (s.tileAt t).live) (u : TileId) (launch : Word) :
    (s.updAt t f).taskHome u launch = s.taskHome u launch := by
  by_cases h : t = u
  · subst h
    exact taskHome_updAt s t task pre live launch
  · unfold State.taskHome
    rw [tileAt_updAt_ne s t u f h]
    rfl

theorem closeBatch_none {s : State} {t : TileId} (h : (s.tileAt t).batch = none) : s.closeBatch t = s := by
  unfold State.closeBatch
  simp only [h]

/-- The publisher entries of a tile when one that may serve a subscriber's goes. -/
def Tile.pubsWithout (y : Tile) (i : Option Nat) : Vector SubEntry 16 := i.elim y.pubs fun i => wr y.pubs i SubEntry.closed

theorem dropPub_quiet {s : State} {p : TileId} {launch : Word} (home : s.taskHome p launch = .live) (quiet : (s.tileAt p).batch = none)
    (sub : TileId) (e : SubEntry) : s.dropPub p sub launch e = s.updAt p fun y => { y with pubs := y.pubsWithout ((s.tileAt p).pubFor sub e) } := by
  unfold State.dropPub State.dropPubAt
  rw [home]
  change (match (s.tileAt p).pubFor sub e with | none => s | some i => _) = _
  cases h : (s.tileAt p).pubFor sub e with
  | none => exact (updAt_same rfl).symm
  | some i =>
    simp only [State.closeBatchOf, closeBatch_none quiet, ite_self]
    rfl

theorem pubFor_lt {y : Tile} {sub : TileId} {e : SubEntry} {i : Nat} (h : y.pubFor sub e = some i) : i < 16 :=
  List.mem_range.1 (List.mem_of_find?_eq_some h)

theorem suboff_closed {s : State} {a : Reg} (h : (s.subEntry a).opened = false) (d : Reg) : exec (.suboff d a) s = .next (s.kDone d 1) := by
  change execSuboff d a s = _
  exact if_pos (by rw [Bool.not_eq_true']; exact h)

/-- K waiting in a SUBOFF. -/
def State.subLeaving (s : State) (d : Reg) (e : Nat) : State :=
  s.upd fun t => { t with k := { t.k with pend := some (.suboff d e none), since := some s.dev.now } }

/-- A tile whose subscriber entry has closed, and whose K goes on with 0. -/
def Tile.subEnded (x : Tile) (d : Reg) (e : Nat) : Tile :=
  (({ x with subs := wr x.subs e SubEntry.closed, k := { x.k with pend := none } } : Tile).kset d 0).kNext

theorem suboff_eq {s : State} {a : Reg} (h : (s.subEntry a).opened = true) (d : Reg) : exec (.suboff d a) s =
    if s.defer then .next (s.subLeaving d ((s.tile.kget a).toNat % 16))
    else .next ((s.subLeaving d ((s.tile.kget a).toNat % 16)).subClose s.cur d ((s.tile.kget a).toNat % 16) none) := by
  change execSuboff d a s = _
  exact if_neg (by rw [Bool.not_eq_true', Bool.not_eq_false]; exact h)

/-- A SUBOFF whose publisher has dropped its entry ends once no update of it is under way. -/
theorem subClose_dropped {s : State} {t : TileId} {d : Reg} {e n : Nat}
    (quiet : s.updatesInFlight (tileOf (rd (s.tileAt t).subs e).peer) t n = false) : s.subClose t d e (some n) = s.updAt t fun x => x.subEnded d e := by
  change (if s.updatesInFlight _ t n then _ else _) = _
  rw [quiet]
  rfl

theorem subClose_ends {s : State} {t : TileId} {e : Nat} (d : Reg) (home : s.taskHome (tileOf (rd (s.tileAt t).subs e).peer) (s.tileAt t).launch = .live)
    (quiet : (s.tileAt (tileOf (rd (s.tileAt t).subs e).peer)).batch = none)
    (landed : s.updatesInFlight (tileOf (rd (s.tileAt t).subs e).peer) t s.dev.nextId = false) :
    s.subClose t d e none = (s.updAt (tileOf (rd (s.tileAt t).subs e).peer) fun y =>
      { y with pubs := y.pubsWithout ((s.tileAt (tileOf (rd (s.tileAt t).subs e).peer)).pubFor t (rd (s.tileAt t).subs e)) }).updAt t
        fun x => x.subEnded d e := by
  unfold State.subClose
  simp only [Option.isNone_none, Bool.true_and, home]
  rw [dropPub_quiet home quiet]
  change (if s.updatesInFlight _ t s.dev.nextId then _ else _) = _
  rw [landed]
  rfl

/-- SUBOFF that closes both entries at once. -/
theorem suboff_ends {s : State} {a : Reg} (d : Reg) (opened : (s.subEntry a).opened = true) (now : s.defer = false)
    (home : s.taskHome (tileOf (s.subEntry a).peer) s.tile.launch = .live) (quiet : (s.tileAt (tileOf (s.subEntry a).peer)).batch = none)
    (landed : s.updatesInFlight (tileOf (s.subEntry a).peer) s.cur s.dev.nextId = false) :
    exec (.suboff d a) s = .next (((s.subLeaving d ((s.tile.kget a).toNat % 16)).updAt (tileOf (s.subEntry a).peer) fun y =>
      { y with pubs := y.pubsWithout ((s.tileAt (tileOf (s.subEntry a).peer)).pubFor s.cur (s.subEntry a)) }).updAt s.cur
        fun x => x.subEnded d ((s.tile.kget a).toNat % 16)) := by
  rw [suboff_eq opened, now, if_neg Bool.false_ne_true]
  have same : ∀ u, ∃ k, (s.subLeaving d ((s.tile.kget a).toNat % 16)).tileAt u = { s.tileAt u with k := k } := by
    intro u
    unfold State.subLeaving State.upd
    rw [tileAt_updAt]
    split
    · exact ⟨_, rfl⟩
    · exact ⟨_, rfl⟩
  obtain ⟨k, mine⟩ := same s.cur
  obtain ⟨k', other⟩ := same (tileOf (s.subEntry a).peer)
  have ent : rd ((s.subLeaving d ((s.tile.kget a).toNat % 16)).tileAt s.cur).subs ((s.tile.kget a).toNat % 16) = s.subEntry a := by
    rw [mine]
    rfl
  refine next_congr ((subClose_ends d ?_ ?_ ?_).trans ?_)
  · rw [ent, mine]
    exact (taskHome_updAt_at s s.cur (f := fun t => { t with
      k := { t.k with pend := some (.suboff d ((s.tile.kget a).toNat % 16) none), since := some s.dev.now } }) rfl rfl rfl _ _).trans home
  · rw [ent, other]
    exact quiet
  · rw [ent]
    exact landed
  · rw [ent, other]
    rfl

/-! ### CHRESYNC (06 R126, 12 R290) -/

theorem chresync_not_sender {s : State} {a : Reg} (h : (rd s.tile.chans ((s.tile.kget a).toNat % 64)).sender = false) (d : Reg) :
    exec (.chresync d a) s = .next (s.kFault .accessDenied 0) := by
  change execChresync d a s = _
  exact if_pos (by rw [Bool.not_eq_true']; exact h)

theorem chresync_sender {s : State} {a : Reg} (h : (rd s.tile.chans ((s.tile.kget a).toNat % 64)).sender = true) (d : Reg) :
    exec (.chresync d a) s = if s.defer then .next (s.upd fun t => { t with
        k := { t.k with pend := some (.chresync d ((s.tile.kget a).toNat % 64)), since := some (t.k.since.getD s.dev.now) } })
      else match s.resync s.cur ((s.tile.kget a).toNat % 64) with
        | none => .next (s.upd fun t => { t with
          k := { t.k with pend := some (.chresync d ((s.tile.kget a).toNat % 64)), since := some (t.k.since.getD s.dev.now) } })
        | some (v, s) => .next (s.kDone d v) := by
  change execChresync d a s = _
  exact if_neg (by rw [Bool.not_eq_true', Bool.not_eq_false]; exact h)

theorem chresync_answered {s s1 : State} {a : Reg} {v : Word} (h : (rd s.tile.chans ((s.tile.kget a).toNat % 64)).sender = true)
    (now : s.defer = false) (e : s.resync s.cur ((s.tile.kget a).toNat % 64) = some (v, s1)) (d : Reg) :
    exec (.chresync d a) s = .next (s1.kDone d v) := by
  rw [chresync_sender h, now, e]
  rfl

theorem tileAt_heal (s : State) (c : BitVec 8) (place a n : Nat) (u : TileId) : (s.heal c place a n).tileAt u = s.tileAt u := by
  unfold State.heal
  split
  · rfl
  · rfl

/-- The lost ring positions cleared at the receiver's running task, in the scratchpad only. -/
theorem zeroRing_live (s : State) (u : TileId) (n : Nat) (as : List Nat) (v : TileId) :
    ∃ m, (s.zeroRing u .live n as).tileAt v = { s.tileAt v with spm := m } := by
  have healed : ∀ (as : List Nat) (z : State), (as.foldl (fun s a => s.heal 1 u.val a n) z).tileAt v = z.tileAt v := by
    intro as
    induction as with
    | nil => exact fun _ => rfl
    | cons a as ih => exact fun z => (ih _).trans (tileAt_heal ..)
  unfold State.zeroRing
  refine (healed as _).symm ▸ ?_
  change ∃ m, (s.updAt u _).tileAt v = _
  rw [tileAt_updAt]
  split
  · exact ⟨_, rfl⟩
  · exact ⟨_, rfl⟩

/-- A channel's counters after a CHRESYNC: at its receiver, then at its sender. -/
def State.resynced (s : State) (t u : TileId) (c : Nat) (l : Launch) (k : ChanDecl) : State :=
  ((((s.zeroRing u .live k.bytes (l.lostRing k (rd (s.tileAt t).chans c).sent)).updAt u fun z => { z with
      chans := wr z.chans c { rd z.chans c with received := (rd (s.tileAt t).chans c).sent } }).updLaunch l.id fun l =>
        { l with slotsLost := l.slotsLost.filter fun p => p.1 != c }).updAt t fun z => { z with
      chans := wr z.chans c { rd z.chans c with
        free := BitVec.ofNat 32 k.slots - ((rd (s.tileAt t).chans c).sent - (rd (s.tileAt u).chans c).consumed)
        last := (rd (s.tileAt u).chans c).consumed
        fault := false } })

section
variable {s : State} {t u : TileId} {c : Nat} {l : Launch} {k : ChanDecl}

theorem resync_live (decl : s.chanDecl (s.tileAt t).launch c = some (l, k)) (dst : l.tileOfTask k.dst = some u)
    (home : s.chanHome u (s.tileAt t).launch = .live) (quiet : s.slotsInFlight (s.tileAt t).launch c = false) :
    s.resync t c = some ((rd (s.tileAt u).chans c).consumed.zeroExtend 64, s.resynced t u c l k) := by
  unfold State.resync
  simp only [decl, dst, home, quiet]
  rfl

theorem tileAt_updLaunch (z : State) (id : Word) (f : Launch → Launch) (v : TileId) : (z.updLaunch id f).tileAt v = z.tileAt v := rfl

/-- The receiver's counters, and the sender's, as a CHRESYNC leaves them. -/
theorem resynced_receiver (hc : c < 64) : (rd ((s.resynced t u c l k).tileAt u).chans c).received = (rd (s.tileAt t).chans c).sent := by
  unfold State.resynced
  generalize s.zeroRing u .live k.bytes (l.lostRing k (rd (s.tileAt t).chans c).sent) = z
  rw [tileAt_updAt, tileAt_updLaunch, tileAt_updAt_self]
  split
  · simp only [rd_wr_self _ _ _ hc]
  · simp only [rd_wr_self _ _ _ hc]

theorem resynced_sender (hc : c < 64) : ∃ x, rd ((s.resynced t u c l k).tileAt t).chans c = x ∧
    x.free = BitVec.ofNat 32 k.slots - ((rd (s.tileAt t).chans c).sent - (rd (s.tileAt u).chans c).consumed) ∧ x.fault = false ∧
    x.sent = (rd (s.tileAt t).chans c).sent := by
  unfold State.resynced
  obtain ⟨m, cleared⟩ := zeroRing_live s u k.bytes (l.lostRing k (rd (s.tileAt t).chans c).sent) t
  generalize s.zeroRing u .live k.bytes (l.lostRing k (rd (s.tileAt t).chans c).sent) = z at cleared ⊢
  rw [tileAt_updAt_self, tileAt_updLaunch, tileAt_updAt, cleared]
  refine ⟨_, rfl, ?_⟩
  split
  · simp only [rd_wr_self _ _ _ hc, and_self]
  · simp only [rd_wr_self _ _ _ hc, and_self]

end

/-! ### Both ends of a subscription, opened and closed -/

/-- A subscription opened: at its publisher, then at its subscriber. -/
def State.subscribed (s : State) (p sub : TileId) (i e : Nat) (x y : SubEntry) : State :=
  (s.updAt p fun z => z.publish i x).updAt sub fun z => { z with subs := wr z.subs e y }

/-- What a subscription leaves at its publisher, whichever tile its subscriber is. -/
theorem subscribed_publisher (s : State) (p sub : TileId) (i e : Nat) (x y : SubEntry) :
    ∃ ss, (s.subscribed p sub i e x y).tileAt p = { (s.tileAt p).publish i x with subs := ss } := by
  unfold State.subscribed
  rw [tileAt_updAt, tileAt_updAt_self]
  split
  · exact ⟨_, rfl⟩
  · exact ⟨_, rfl⟩

theorem subscribed_subscriber (s : State) (p sub : TileId) (i : Nat) {e : Nat} (he : e < 16) (x y : SubEntry) :
    rd ((s.subscribed p sub i e x y).tileAt sub).subs e = y := by
  unfold State.subscribed
  rw [tileAt_updAt_self]
  exact rd_wr_self _ _ _ he

/-- The batch open at a publisher stays, and has nothing for the new entry yet. -/
theorem publish_batch {t : Tile} {b : Batch} (h : t.batch = some b) (i : Nat) (x : SubEntry) :
    ∃ b', (t.publish i x).batch = some b' ∧ (i, 0) ∈ b'.fresh ∧ b'.mask = b.mask ∧ b'.data = b.data := by
  refine ⟨{ b with fresh := (i, 0) :: b.fresh.filter fun f => f.1 != i }, ?_, List.mem_cons_self .., rfl, rfl⟩
  simp [Tile.publish, h]

theorem subEnded_eq (x : Tile) (d : Reg) (e : Nat) : x.subEnded d e = { x with subs := wr x.subs e SubEntry.closed, k := (x.subEnded d e).k } :=
  congrArg Tile.kNext (kset_eq _ d 0)

theorem sameMemory_subEnded (s : State) (t : TileId) (d : Reg) (e : Nat) : SameMemory s (s.updAt t fun x => x.subEnded d e) := by
  rw [funext fun x => subEnded_eq x d e]
  exact sameMemory_updAt s t _ rfl rfl rfl rfl rfl

theorem tile_updAt_cur {s : State} {t : TileId} (h : s.cur = t) (f : Tile → Tile) : (s.updAt t f).tile = f (s.tileAt t) := by
  subst h
  exact tile_upd s f

theorem subLeaving_self (s : State) (d : Reg) (e : Nat) : (s.subLeaving d e).tileAt s.cur =
    { s.tile with k := { s.tile.k with pend := some (.suboff d e none), since := some s.dev.now } } := tileAt_updAt_self _ _ _

/-- The state that an immediate SUBOFF leaves: its publisher's entry i gone (none: it has none), then its own. -/
def State.subscriptionEnded (s : State) (p : TileId) (i : Option Nat) (d : Reg) (e : Nat) : State :=
  ((s.subLeaving d e).updAt p fun y => { y with pubs := y.pubsWithout i }).updAt s.cur fun x => x.subEnded d e

section
variable (s : State) (p : TileId) (i : Option Nat) (d : Reg) (e : Nat)

theorem sameMemory_subscriptionEnded : SameMemory s (s.subscriptionEnded p i d e) :=
  ((sameMemory_updAt s s.cur _ rfl rfl rfl rfl rfl).trans (sameMemory_updAt _ p _ rfl rfl rfl rfl rfl)).trans (sameMemory_subEnded _ s.cur d e)

theorem subscriptionEnded_tile : ∃ k ps, (s.subscriptionEnded p i d e).tile = ({ s.tile with k := k, pubs := ps } : Tile).subEnded d e ∧
    k.pc = s.tile.k.pc := by
  unfold State.subscriptionEnded
  rw [tile_updAt_cur (s := (s.subLeaving d e).updAt p _) (t := s.cur) rfl, tileAt_updAt, subLeaving_self]
  split
  · exact ⟨_, _, rfl, rfl⟩
  · exact ⟨_, _, rfl, rfl⟩

theorem subscriptionEnded_pubs {j : Nat} (hj : j < 16) (h : i = some j) :
    rd ((s.subscriptionEnded p i d e).tileAt p).pubs j = SubEntry.closed := by
  subst h
  unfold State.subscriptionEnded
  rw [tileAt_updAt, tileAt_updAt_self]
  split
  · rw [subEnded_eq]
    exact rd_wr_self _ _ _ hj
  · exact rd_wr_self _ _ _ hj

end

theorem subAsk_eq {s : State} {a b : Reg} {size pb sb : Nat} {r : Option (Nat × State)} (hsize : size = nbits (s.subDesc b) 64 32)
    (hpb : pb = nbits (s.subDesc b) 32 32) (hsb : sb = nbits (s.subDesc b) 0 32)
    (h : s.subOpen s.cur ((s.tile.kget a).toNat % 16) (nbits (s.subDesc b) 96 16) size pb sb = r) : s.subAsk a b = r := by
  rw [State.subAsk, ← hsize, ← hpb, ← hsb]
  exact h

/-- Settles O10: each answer of SUBON by the answer of its publisher, SUBOFF and CHRESYNC by what they leave at both ends. -/
theorem kSubscriptionsAndResync : Obligations.KSubscriptionsAndResync := by
  refine ⟨fun s d a b => ⟨fun h => subon_misaligned s d a b h, fun ok h => ⟨_, subon_open d a ok h, kDone_wrote s d 1⟩,
    fun ok h w => ⟨_, subon_invalid d a ok h w, kDone_wrote s d 3⟩,
    fun ok h w now r s1 e => ⟨_, subon_answered d a ok h w now e, kDone_wrote s1 d _⟩,
    fun h => ⟨_, suboff_closed h d, kDone_wrote s d 1⟩, fun h away => (suboff_eq h d).trans (if_pos away), ?_, ?_, ?_, ?_, ?_⟩,
    fun s d a => ⟨fun h => chresync_not_sender h d, fun h away => (chresync_sender h d).trans (if_pos away),
      fun v s1 h now e => ⟨_, chresync_answered h now e d, kDone_wrote s1 d v⟩, ?_, ?_⟩⟩
  · intro t size pb sb r s1 pend ask
    change execSubscriptionHandshake t s = _
    simp only [execSubscriptionHandshake, pend, ask]
    rfl
  · intro t n pend landed
    change execSubscriptionHandshake t s = _
    simp only [execSubscriptionHandshake, pend]
    exact next_congr (subClose_dropped landed)
  · intro size pb sb out
    by_cases h : nbits (s.subDesc b) 96 16 < 432
    · exact subOpen_elsewhere s s.cur _ size pb sb (p := ⟨_, h⟩) (out h)
    · exact subOpen_no_tile s s.cur _ size pb sb h
  · intro size pb sb h here
    refine ⟨fun home => subOpen_absent s s.cur _ size pb sb here home, fun home => subOpen_held s s.cur _ size pb sb here home,
      fun home full => subOpen_full s s.cur _ size pb sb here home full, fun i home hi free first => ?_⟩
    have opens := subOpen_opens s s.cur ((s.tile.kget a).toNat % 16) size pb sb here home (freePub_eq hi free first)
    obtain ⟨ss, publisher⟩ := subscribed_publisher s ⟨_, h⟩ s.cur i ((s.tile.kget a).toNat % 16) ⟨true, false, s.cur.val, size, pb, sb, 0⟩
      ⟨true, false, nbits (s.subDesc b) 96 16, size, pb, sb, 0⟩
    refine ⟨_, opens, ?_, subscribed_subscriber s _ s.cur i (Nat.mod_lt _ (by decide)) _ _, fun y hy => ?_, ?_⟩
    · exact (congrArg (fun t : Tile => rd t.pubs i) publisher).trans (rd_wr_self _ _ _ hi)
    · obtain ⟨b', kept⟩ := publish_batch hy i ⟨true, false, s.cur.val, size, pb, sb, 0⟩
      exact ⟨b', (congrArg Tile.batch publisher).trans kept.1, kept.2⟩
    · intro ok closed valid hsize hpb hsb now
      exact ⟨_, subon_answered d a ok closed valid now (subAsk_eq hsize hpb hsb opens), kDone_wrote _ d 0⟩
  · intro _ _ opened now home quiet landed
    obtain ⟨k, ps, mine, pc⟩ := subscriptionEnded_tile s (tileOf (s.subEntry a).peer)
      ((s.tileAt (tileOf (s.subEntry a).peer)).pubFor s.cur (s.subEntry a)) d ((s.tile.kget a).toNat % 16)
    refine ⟨_, suboff_ends d opened now home quiet landed, ?_, ?_, ?_, sameMemory_subscriptionEnded s _ _ d _,
      fun i h => subscriptionEnded_pubs s _ _ d _ (pubFor_lt h) h⟩
    · exact (congrArg (Tile.kget · d) mine).trans (kget_kset_zero _ d)
    · refine (congrArg (fun t : Tile => t.k.pc) mine).trans ?_
      simp [Tile.subEnded, Tile.kNext, Tile.kGo, pc]
    · refine (congrArg (fun t : Tile => rd t.subs _) mine).trans ?_
      refine (congrArg (fun t : Tile => rd t.subs _) (subEnded_eq _ d _)).trans ?_
      exact rd_wr_self _ _ _ (Nat.mod_lt _ (by decide))
  · intro t v s1 pend ans
    change execChresyncHandshake t s = _
    simp only [execChresyncHandshake, pend, ans]
    rfl
  · intro t u l k decl dst home quiet
    have hc : (s.tile.kget a).toNat % 64 < 64 := Nat.mod_lt _ (by decide)
    have answer := resync_live decl dst home quiet
    obtain ⟨x, hx, free, fault, sent⟩ := resynced_sender (s := s) (t := t) (u := u) (l := l) (k := k) hc
    refine ⟨_, answer, resynced_receiver hc, hx ▸ free, hx ▸ fault, hx ▸ sent, ?_⟩
    intro here sender now
    subst here
    exact ⟨_, chresync_answered sender now answer d, kDone_wrote _ d _⟩

end Sys2Proof.Machine
end

section
/-! SUPPORT. References of Sett names counted by K, and the compare and swap of a root slot (06 R127, R128). -/

open Sys2Proof

namespace Sys2Proof.Machine

/-! ### HBM and the tiles behind a write of HBM -/

theorem hbm_writeHbm (s : State) (a n v : Nat) : (s.writeHbm a n v).dev.hbm = s.dev.hbm.writeN a n v :=
  calc (s.writeHbm a n v).dev.hbm
    _ = _ := markDirty_frame (f := Device.hbm) _ (fun _ _ => rfl) _
    _ = _ := recall_frame (f := Device.hbm) _ (fun _ _ => rfl) _ _
    _ = _ := heal_frame (f := Device.hbm) _ (fun _ _ => rfl) _ _ _ _
    _ = _ := heal_frame (f := Device.hbm) _ (fun _ _ => rfl) _ _ _ _
    _ = s.dev.hbm.writeN a n v := rfl

theorem tiles_writeHbm (s : State) (a n v : Nat) : (s.writeHbm a n v).dev.tiles = s.dev.tiles :=
  writeHbm_frame s (f := Device.tiles) (fun _ _ => rfl) (fun _ _ => rfl) (fun _ _ => rfl) (fun _ _ => rfl) a n v

theorem metaAddr_writeHbm (s : State) (a n v g : Nat) : (s.writeHbm a n v).metaAddr g = s.metaAddr g :=
  writeHbm_frame s (f := fun d => d.sxbase.toNat + 16 * g) (fun _ _ => rfl) (fun _ _ => rfl) (fun _ _ => rfl) (fun _ _ => rfl) a n v

theorem tile_incSlot (s : State) (g : Nat) : (s.incSlot g).tile = s.tile := by
  change (State.writeHbm _ _ _ _).tileAt (State.writeHbm _ _ _ _).cur = s.tileAt s.cur
  rw [cur_writeHbm, cur_writeHbm]
  simp only [State.tileAt, tiles_writeHbm]

/-! ### The count of a slot -/

/-- The metadata word of a slot holds its count above every other field. -/
theorem slotWord_count {c st : Nat} (hc : c < 2 ^ 32) (hs : st < 4) (i : Bool) (t : BitVec 12) :
    nbits ((c * 2 ^ 32 + st * 2 ^ 30 + (if i then 2 ^ 29 else 0) + t.toNat * 2 ^ 16) % 256 ^ 8) 32 32 = c := by
  have ht : t.toNat < 2 ^ 12 := t.isLt
  have hi : (if i then 2 ^ 29 else 0) ≤ 2 ^ 29 := by
    split
    · exact Nat.le_refl _
    · exact Nat.zero_le _
  unfold nbits
  rw [Nat.shiftRight_eq_div_pow]
  omega

theorem slot_setSlot_count (s : State) (g : Nat) {x : SxSlot} (hc : x.count < 2 ^ 32) (hs : x.state < 4) : ((s.setSlot g x).slot g).count = x.count := by
  have read : (s.setSlot g x).dev.hbm.readN ((s.setSlot g x).metaAddr g + 8) 8 =
      (x.count * 2 ^ 32 + x.state * 2 ^ 30 + (if x.interior then 2 ^ 29 else 0) + x.tag.toNat * 2 ^ 16) % 256 ^ 8 := by
    unfold State.setSlot
    rw [metaAddr_writeHbm, metaAddr_writeHbm, hbm_writeHbm, Mem.readN_writeN]
  change nbits (Mem.readN _ _ _) 32 32 = _
  rw [read]
  exact slotWord_count hc hs _ _

/-- The count behind an increment, saturating. -/
theorem slot_incSlot_count (s : State) (g : Nat) : ((s.incSlot g).slot g).count = min ((s.slot g).count + 1) 0xFFFFFFFF :=
  slot_setSlot_count s g (Nat.lt_of_le_of_lt (Nat.min_le_right _ _) (by decide)) (Nat.mod_lt _ (by decide : 0 < 2 ^ 2))

/-! ### SINC and SREL (06 R127) -/

section
variable {s : State} {a : Reg} (d : Reg) {i : Instr} (hi : i ∈ [Instr.sinc d a, .srel d a])
include hi

theorem sett_zero (h : s.tile.kget a = 0) : exec i s = .next (s.kDone d 0) := by
  rcases List.mem_pair.1 hi with rfl | rfl
  · exact if_pos h
  · exact if_pos h

variable (h : s.tile.kget a ≠ 0)
include h

theorem sett_ordered (ord : s.tile.kOrdered = true) : exec i s = .next s.kWait := by
  rcases List.mem_pair.1 hi with rfl | rfl
  · exact (if_neg h).trans (if_pos ord)
  · exact (if_neg h).trans (if_pos ord)

variable (ord : s.tile.kOrdered = false)
include ord

theorem sett_deferred (away : s.defer = true) : exec i s = .next (s.kLink (s.tile.kget a)) := by
  have past : ¬ s.tile.kOrdered = true := by rw [ord]; decide
  rcases List.mem_pair.1 hi with rfl | rfl
  · exact (if_neg h).trans ((if_neg past).trans (if_pos away))
  · exact (if_neg h).trans ((if_neg past).trans (if_pos away))

theorem sett_refused (now : s.defer = false) {c : Cause} (e : s.needName s.tile.ctx (s.tile.kget a) = .error c) :
    exec i s = .next ((s.consumed s.cur c (s.nameMet (s.tile.kget a))).kFault c (s.tile.kget a)) := by
  rcases List.mem_pair.1 hi with rfl | rfl
  · change execSinc d a s = _
    unfold execSinc
    simp only [if_neg h, ord, now, Bool.false_eq_true, if_false, e]
  · change execSrel d a s = _
    unfold execSrel
    simp only [if_neg h, ord, now, Bool.false_eq_true, if_false, e]

end

section
variable {s : State} {a : Reg} (d : Reg) (h : s.tile.kget a ≠ 0) (ord : s.tile.kOrdered = false) (now : s.defer = false) {g : Nat}
  (e : s.needName s.tile.ctx (s.tile.kget a) = .ok g)
include h ord now e

theorem sinc_counts : exec (.sinc d a) s = .next ((s.incSlot g).kDone d (BitVec.ofNat 64 (min ((s.slot g).count + 1) 0xFFFFFFFF))) := by
  change execSinc d a s = _
  unfold execSinc
  simp only [if_neg h, ord, now, Bool.false_eq_true, if_false, e, slot_incSlot_count]

theorem srel_releases : exec (.srel d a) s = .next ((s.release s.tile.ctx (s.tile.kget a)).kDone d
    (BitVec.ofNat 64 (if (s.slot g).count = 0xFFFFFFFF then (s.slot g).count else (s.slot g).count - 1))) := by
  change execSrel d a s = _
  unfold execSrel
  simp only [if_neg h, ord, now, Bool.false_eq_true, if_false, e]
  rfl

end

/-! ### SROOT (06 R128) -/

section
variable {s s1 : State} {a : Reg} {w : Where} (al : (s.tile.kget a).toNat % 8 = 0)
  (r : s.resolve s.cur .loc .rmw (s.tile.kget a) 8 false = .ok (w, s1)) (ord : s.tile.kOrdered = false)
include al r ord

theorem sroot_waits (away : s.defer = true ∨ s1.linkReady w.tgt w.addr = false) (d b : Reg) :
    exec (.sroot d a b) s = .next ((s.bindFor s.cur .loc).kLink (s.tile.kget a)) :=
  next_congr (kAccess_away s .loc .rmw false 0 _ al r ord (by rwa [kAway_memory (by decide)]))

variable (now : s.defer = false) (up : s1.linkReady w.tgt w.addr = true)
include now up

/-- SROOT behind its release half. -/
theorem sroot_open (ordered : w.ord ≠ .unordered) (opened : s.tile.kOpen false false = true) (d b : Reg) : exec (.sroot d a b) s = .next s.kWait := by
  refine next_congr ((kAccess_goes s .loc .rmw false 0 _ al r ord ((kAway_memory (by decide)).trans now) up).trans ?_)
  exact if_pos (by simp [ordered, opened])

variable (half : w.ord = .unordered ∨ s.tile.kOpen false false = false)
include half

/-- SROOT at its place: the new name is looked up, then the slot is compared. -/
theorem sroot_performs {b : Reg} {g : Option Nat}
    (found : (if s.tile.kget b = 0 then .ok none else (s1.needName s.tile.ctx (s.tile.kget b)).map some) = Except.ok g) {old : Nat}
    (read : s1.readAt s.cur s.tile.k.clk w.tgt w.addr 8 = .ok old) (d : Reg) : exec (.sroot d a b) s = .next (
      if BitVec.ofNat 64 old ≠ s.tile.kget d then s1.kDone d (BitVec.ofNat 64 old)
      else if old ≠ 0 && s1.bucketLost (s1.bucketOf (old / 256)) then
        (s.consumed s.cur .eccUncorrected (s.nameMet (BitVec.ofNat 64 old))).kFault .eccUncorrected (s.tile.kget a)
      else match (match g with | some g => s1.incSlot g | none => s1).writeAt s.cur w.tgt w.addr 8 (s.tile.kget b).toNat with
        | .error c => s.kFault c (s.tile.kget a)
        | .ok s3 => (if old = 0 then s3 else s3.release s.tile.ctx (BitVec.ofNat 64 old)).kDone d (BitVec.ofNat 64 old)) := by
  refine next_congr ((kAccess_goes s .loc .rmw false 0 _ al r ord ((kAway_memory (by decide)).trans now) up).trans ?_)
  have past : (w.ord != .unordered && s.tile.kOpen false false) = false := by
    rcases half with h | h
    · rw [h]; rfl
    · rw [h, Bool.and_false]
  simp only [past, Bool.false_eq_true, if_false, found, read] <;> rfl

end

/-- Settles O11: SINC and SREL by what the name's lookup gives, SROOT by where its access performs and by its comparison. -/
theorem kSettReferences : Obligations.KSettReferences := by
  intro s d a b
  refine ⟨fun h i hi => ⟨_, sett_zero d hi h, kDone_wrote s d 0⟩, fun h ord i hi => sett_ordered d hi h ord,
    fun h ord away i hi => sett_deferred d hi h ord away, fun h ord now c e i hi => sett_refused d hi h ord now e,
    fun h ord now g e => ⟨⟨_, sinc_counts d h ord now e, ?_⟩, srel_releases d h ord now e⟩,
    fun w s1 al r ord => ⟨fun away => sroot_waits al r ord away d b, fun now up ordered opened => sroot_open al r ord now up ordered opened d b⟩,
    fun w s1 old half al r ord now up read => ⟨fun differs found => ?_, fun same sound g s3 found some_ written => ?_, fun same sound s3 zero written => ?_⟩⟩
  · have wrote := kDone_wrote (s.incSlot g) d (BitVec.ofNat 64 (min ((s.slot g).count + 1) 0xFFFFFFFF))
    rwa [tile_incSlot] at wrote
  · obtain ⟨g, found⟩ : ∃ g, (if s.tile.kget b = 0 then .ok none else (s1.needName s.tile.ctx (s.tile.kget b)).map some) = Except.ok g := by
      rcases found with zero | ⟨g, found⟩
      · exact ⟨none, if_pos zero⟩
      · by_cases zero : s.tile.kget b = 0
        · exact ⟨none, if_pos zero⟩
        · exact ⟨some g, (if_neg zero).trans (congrArg (Except.map some) found)⟩
    exact ⟨_, (sroot_performs al r ord now up half found read d).trans (next_congr (if_pos differs)), kDone_wrote s1 d _⟩
  · have found' := (if_neg some_ : (if s.tile.kget b = 0 then .ok none else (s1.needName s.tile.ctx (s.tile.kget b)).map some) = _).trans
      (congrArg (Except.map some) found)
    refine (sroot_performs al r ord now up half found' read d).trans (next_congr ((if_neg (not_not.2 same)).trans ((if_neg ?_).trans ?_)))
    · simpa [imp_iff_not_or, or_comm] using sound
    · simp only [written]
  · refine (sroot_performs al r ord now up half (if_pos zero) read d).trans (next_congr ((if_neg (not_not.2 same)).trans ((if_neg ?_).trans ?_)))
    · simpa [imp_iff_not_or, or_comm] using sound
    · have zero' : (s.tile.kget b).toNat = 0 := congrArg BitVec.toNat zero
      simp only [zero', written]

end Sys2Proof.Machine
end

section
/-! SUPPORT. The system registers, the generator and the clock as K reads and writes them (06 R129 to R131). -/

open Sys2Proof

namespace Sys2Proof.Machine

theorem launch_of_task {t : Tile} {k : Task} (h : t.task = some k) : t.launch = k.launch := by
  unfold Tile.launch
  rw [h]

theorem ctx_of_task {t : Tile} {k : Task} (h : t.task = some k) : t.ctx = k.ctx := by
  unfold Tile.ctx
  rw [h]

theorem kAddrOk_iff {t : Tile} {k : Task} (h : t.task = some k) (a : Word) : t.kAddrOk a = true ↔ a.toNat % 4 = 0 ∧ k.kEnt ≤ a ∧ a < k.kFin := by
  simp [Tile.kAddrOk, h]

theorem devNum_word (s : State) : s.devNum.zeroExtend 64 = BitVec.ofNat 64 (s.dev.devid.toNat % 4096) := by
  refine BitVec.eq_of_toNat_eq ?_
  simp only [State.devNum, BitVec.truncate_eq_setWidth, BitVec.toNat_setWidth, BitVec.extractLsb'_toNat, Nat.shiftRight_zero, BitVec.toNat_ofNat]

section
variable {s : State} {k : Task} {l : Launch} (hk : s.tile.task = some k) (hl : s.launch? k.launch = some l)
include hk hl

theorem launch?_of_task : s.launch? s.tile.launch = some l := launch_of_task hk ▸ hl

/-- The system registers of a running task. -/
theorem sysReg_running (n : Nat) : s.sysReg n = match n with
    | 0 => BitVec.ofNat 64 k.index
    | 1 => BitVec.ofNat 64 s.cur.val
    | 2 => BitVec.ofNat 64 l.tasks
    | 3 => k.launch
    | 4 => l.seed
    | 5 => l.cbase
    | 6 => if s.tile.loopmode then 1 else 0
    | 7 => BitVec.ofNat 64 k.ctx.toNat
    | 8 => BitVec.ofNat 64 (s.dev.devid.toNat % 4096)
    | 9 => BitVec.ofNat 64 s.tile.evq.length
    | 16 => BitVec.ofNat 64 s.tile.age.toNat
    | 17 => s.tile.tvec
    | _ => 0 := by
  unfold State.sysReg
  simp only [launch_of_task hk, hl, Option.getD_some, hk, ctx_of_task hk, devNum_word, BitVec.ofNat_toNat, BitVec.truncate_eq_setWidth] <;> rfl

theorem rng_word (d a : Reg) : exec (.rng d a) s = .next (s.kDone d
    (rngWord l.seed (l.cbase + BitVec.ofNat 64 (k.index * 2 ^ 32 + (s.tile.kget a).toNat % 2 ^ 27 * 32)))) := by
  have run : exec (.rng d a) s = execRng d a s := rfl
  rw [run, execRng]
  simp only [launch?_of_task hk hl, Option.getD_some, hk, rngCounter, Nat.add_zero]

end

section
variable {s : State} {a : Reg}

theorem srwr_age (h : (s.tile.kget a).toNat % 4096 = 16) (b : Reg) :
    exec (.srwr a b) s = .next (s.upd fun x => ({ x with age := (s.tile.kget b).setWidth 32 } : Tile).kNext) := if_pos h

theorem srwr_tvec (h : (s.tile.kget a).toNat % 4096 = 17) (trap : s.tile.k.trap = true) (b : Reg) : exec (.srwr a b) s =
    if s.tile.kget b = 0 ∨ s.tile.kAddrOk (s.tile.kget b) then .next (s.upd fun x => ({ x with tvec := s.tile.kget b } : Tile).kNext)
    else .next (s.kFault .align (s.tile.kget b)) := by
  have other : ¬ (s.tile.kget a).toNat % 4096 = 16 := by omega
  exact (if_neg other).trans (if_pos ⟨h, trap⟩)

theorem srwr_priv (h : (s.tile.kget a).toNat % 4096 ≠ 16) (g : (s.tile.kget a).toNat % 4096 = 17 → s.tile.k.trap = false) (b : Reg) :
    exec (.srwr a b) s = .next (s.kFault .priv 0) := by
  have other : ¬ ((s.tile.kget a).toNat % 4096 = 17 ∧ s.tile.k.trap = true) := fun ⟨n, t⟩ => by simp [g n] at t
  exact (if_neg h).trans (if_neg other)

end

/-- Settles O12: SRRD by the number it names, SRWR by the register it names and by trap mode. -/
theorem kSystemRegisters : Obligations.KSystemRegisters := by
  intro s d a b k l hk hl
  refine ⟨⟨_, rfl, kDone_wrote_of s d (sysReg_running hk hl _)⟩, fun h => ?_, fun h trap ok => (srwr_tvec h trap b).trans (if_pos ?_),
    fun h trap some_ bad => ⟨_, (srwr_tvec h trap b).trans (if_neg ?_)⟩, fun h g => srwr_priv h g b,
    ⟨_, rng_word hk hl d a, kDone_wrote s d _⟩, ⟨_, rfl, kDone_wrote s d _⟩⟩
  · simpa only [BitVec.ofNat_toNat] using srwr_age h b
  · exact ok.imp_right (kAddrOk_iff hk _).2
  · exact not_or.2 ⟨some_, fun ok => bad ((kAddrOk_iff hk _).1 ok)⟩

end Sys2Proof.Machine
end

section
/-! SUPPORT. TRAP, ERET, EXIT and YIELD, and the delivery of a stop to K's handler (06 R134 to R136, 18 R361 to R364). -/

open Sys2Proof

namespace Sys2Proof.Machine

/-! ### The cause word of a delivered stop -/

/-- The cause word of the trap for a stopped sequencer of a code, with the other stopped ones and whether it is imprecise. -/
def stopKt1 (c : Cause) (q : Nat) (x y z i : Bool) : Word :=
  BitVec.ofNat 64 (c.code + q * 2 ^ 8 + ((if x then 2 ^ 10 else 0) + (if y then 2 ^ 11 else 0) + (if z then 2 ^ 12 else 0)) + (if i then 2 ^ 13 else 0))

theorem cause_code_lt (c : Cause) : c.code < 2 ^ 8 := by cases c <;> decide

/-- The fields of a cause word: the code, the sequencer, the other stopped ones, imprecise. -/
theorem stopKt1_fields (c : Cause) {q : Nat} (hq : q < 4) (x y z i : Bool) :
    bits (stopKt1 c q x y z i) 7 0 = c.code ∧ bits (stopKt1 c q x y z i) 9 8 = q ∧ bit (stopKt1 c q x y z i) 10 = x ∧
    bit (stopKt1 c q x y z i) 11 = y ∧ bit (stopKt1 c q x y z i) 12 = z ∧ bit (stopKt1 c q x y z i) 13 = i := by
  have hc := cause_code_lt c
  unfold stopKt1
  generalize c.code = n at hc ⊢
  have word : (BitVec.ofNat 64 (n + q * 2 ^ 8 + ((if x then 2 ^ 10 else 0) + (if y then 2 ^ 11 else 0) + (if z then 2 ^ 12 else 0)) +
      (if i then 2 ^ 13 else 0))).toNat = n + 256 * (q + 4 * (x.toNat + 2 * (y.toNat + 2 * (z.toNat + 2 * i.toNat)))) := by
    rw [BitVec.toNat_ofNat]
    cases x <;> cases y <;> cases z <;> cases i <;> simp only [Bool.toNat_true, Bool.toNat_false, if_true, if_false, Bool.false_eq_true] <;> omega
  have hx := Bool.toNat_le x
  have hy := Bool.toNat_le y
  have hz := Bool.toNat_le z
  have flag : ∀ (m : Nat) (b : Bool), m = b.toNat → decide (m = 1) = b := by
    intro m b h
    cases b <;> simp [h]
  simp only [bits, bit, BitVec.getLsbD, Nat.testBit_eq_decide_div_mod_eq, Nat.shiftRight_eq_div_pow, word]
  have hi := Bool.toNat_le i
  exact ⟨by omega, by omega, flag _ _ (by omega), flag _ _ (by omega), flag _ _ (by omega), flag _ _ (by omega)⟩

theorem seqCode_lt (q : Sequencer) : seqCode q < 4 := by cases q <;> decide

theorem enterFor_kt (t : Tile) (ret : Word) (q : Sequencer) (r : StopRec) : (t.enterFor ret q r).k.kt =
    wr (wr (wr (wr (wr t.k.kt 0 ret) 1 (stopKt1 r.cause (seqCode q) (t.l.stop.isSome && q != .l) (t.c.stop.isSome && q != .c) (t.s.stop.isSome && q != .s)
      r.imprecise)) 2 r.addr) 3 r.pc) 4 0 := by
  cases q <;> rfl

/-- What K's registers hold once it has entered its handler for a stop. -/
theorem enterFor_k {t : Tile} {ret : Word} {q : Sequencer} {r : StopRec} {x : KState} (hx : x = (t.enterFor ret q r).k) :
    x.trap = true ∧ x.pc = t.tvec ∧ rd x.kt 0 = ret ∧ bits (rd x.kt 1) 7 0 = r.cause.code ∧ bits (rd x.kt 1) 9 8 = seqCode q ∧
    bit (rd x.kt 1) 13 = r.imprecise ∧ bit (rd x.kt 1) 10 = (t.l.stop.isSome && q != .l) ∧ bit (rd x.kt 1) 11 = (t.c.stop.isSome && q != .c) ∧
    bit (rd x.kt 1) 12 = (t.s.stop.isSome && q != .s) ∧ rd x.kt 2 = r.addr ∧ rd x.kt 3 = r.pc ∧ rd x.kt 4 = 0 ∧
    (∀ i, 5 ≤ i → rd x.kt i = rd t.k.kt i) ∧ x.regs = t.k.regs := by
  have kt := (congrArg KState.kt hx).trans (enterFor_kt t ret q r)
  have trap : x.trap = true := by simp only [hx, Tile.enterFor, Tile.enterTrap]
  have pc : x.pc = t.tvec := by simp only [hx, Tile.enterFor, Tile.enterTrap]
  have regs : x.regs = t.k.regs := by simp only [hx, Tile.enterFor, Tile.enterTrap]
  clear hx
  obtain ⟨b0, b1, b2, b3, b4, b5⟩ := stopKt1_fields r.cause (seqCode_lt q) (t.l.stop.isSome && q != .l) (t.c.stop.isSome && q != .c)
    (t.s.stop.isSome && q != .s) r.imprecise
  generalize stopKt1 r.cause (seqCode q) (t.l.stop.isSome && q != .l) (t.c.stop.isSome && q != .c) (t.s.stop.isSome && q != .s) r.imprecise = w at *
  obtain ⟨a0, a1, a2, a3, a4, a5⟩ := rd_wr5 t.k.kt ret w r.addr r.pc 0
  rw [kt, a0, a1, a2, a3, a4]
  exact ⟨trap, pc, rfl, b0, b1, b5, b2, b3, b4, rfl, rfl, rfl, a5, regs⟩

/-- A tile that enters its handler for a stop, and differs from another in K alone. -/
theorem enterFor_eq (t : Tile) (k : KState) (ret : Word) (q : Sequencer) (r : StopRec) :
    ({ t with k := k } : Tile).enterFor ret q r = { t with k := (({ t with k := k } : Tile).enterFor ret q r).k } := rfl

/-- K enters its handler for a stop, from a state of K with the registers of s. -/
theorem enteredFor_of {s t : State} {k : KState} {ret : Word} {q : Sequencer} {r : StopRec}
    (h : t = s.upd fun _ => ({ s.tile with k := k } : Tile).enterFor ret q r) (kt : k.kt = s.tile.k.kt) (regs : k.regs = s.tile.k.regs) :
    EnteredFor s t ret q r := by
  rw [enterFor_eq] at h
  have facts := enterFor_k (rfl : _ = (({ s.tile with k := k } : Tile).enterFor ret q r).k)
  generalize (({ s.tile with k := k } : Tile).enterFor ret q r).k = x at h facts
  have form : t = s.upd fun y => { y with k := x } := h
  obtain ⟨e0, e1, e2, e3, e4, e5, e6, e7, e8, e9, e10, e11, e12, e13⟩ := facts
  subst form
  unfold EnteredFor OnlyK
  rw [tile_upd]
  exact ⟨e0, e1, e2, e3, e4, e5, e6, e7, e8, e9, e10, e11, kt ▸ e12, e13.trans regs, rfl, sameMemory_upd_k s _⟩

/-! ### TRAP (06 R134) -/

section
variable {s : State} (a : Reg)

theorem trap_handled (h : KHandles s) : exec (.trap a) s = .next (s.upd fun _ =>
    (s.tile.enterTrap (s.tile.k.pc + 4) .swtrap .k false (s.tile.kget a) s.tile.k.pc s.kWord).setClk .k (s.tile.k.clk.tick .k)) := by
  obtain ⟨user, handler⟩ := h
  have inside : ¬ (s.tile.k.trap || s.tile.tvec == 0) = true := by
    rw [user, Bool.false_or, beq_iff_eq]
    exact handler
  refine next_upd_congr ((if_neg inside).trans ?_)
  rw [kRaise_handled s.tile .swtrap _ _ _ user handler (by decide)]

theorem trap_kills (h : ¬ KHandles s) : exec (.trap a) s = .next (s.upd fun x => { x with kill := some ⟨false, .swtrap, .k, x.k.pc⟩ }) := by
  have outside : (s.tile.k.trap || s.tile.tvec == 0) = true := by
    by_contra g
    simp only [Bool.or_eq_true, beq_iff_eq, not_or, Bool.not_eq_true] at g
    exact h g
  refine next_upd_congr ((if_pos outside).trans ?_)
  unfold Tile.kRaise
  have stall : (s.tile.lstall || Cause.swtrap == Cause.launchStall) = s.tile.lstall := by
    rw [show (Cause.swtrap == Cause.launchStall) = false from rfl, Bool.or_false]
  simp only [stall]
  exact if_pos outside

theorem trap_trapped (h : KHandles s) : ∃ t, exec (.trap a) s = .next t ∧ KTrapped s t .swtrap (s.tile.k.pc + 4) (s.tile.kget a) := by
  refine ⟨_, trap_handled a h, ?_⟩
  have facts := enterTrap_k s.tile (s.tile.k.pc + 4) .swtrap (s.tile.kget a) s.tile.k.pc s.kWord _ rfl
  have form : s.tile.enterTrap (s.tile.k.pc + 4) .swtrap .k false (s.tile.kget a) s.tile.k.pc s.kWord =
    { s.tile with k := (s.tile.enterTrap (s.tile.k.pc + 4) .swtrap .k false (s.tile.kget a) s.tile.k.pc s.kWord).k } := rfl
  rw [form]
  generalize (s.tile.enterTrap (s.tile.k.pc + 4) .swtrap .k false (s.tile.kget a) s.tile.k.pc s.kWord).k = x at facts ⊢
  obtain ⟨e0, e1, e2, e3, e4, e5, e6, e7, e8, e9, e10, e11, e12, e13, e14⟩ := facts
  unfold KTrapped OnlyK
  rw [tile_upd]
  exact ⟨e0, e1, e2, e3, e4, e5, e6, e7, e8, e9, e10, e11, e12, e13, e14, rfl, sameMemory_upd_k s fun _ => { x with clk := s.tile.k.clk.tick .k }⟩

end

/-! ### ERET (06 R134, 18 R363) -/

section
variable {s : State} (trap : s.tile.k.trap = true)
include trap

theorem eret_illegal (h : s.tile.kAddrOk (rd s.tile.k.kt 0) = false) : exec .eret s = .next (s.kFault .illegal 0) := by
  have run : exec .eret s = execEret s := rfl
  simp only [run, execEret, trap, h, Bool.not_true, Bool.not_false, Bool.false_eq_true, if_false, if_true]

variable (ok : s.tile.kAddrOk (rd s.tile.k.kt 0) = true)
include ok

theorem eret_resumes (h : s.tile.firstStop = none) :
    exec .eret s = .next (s.upd fun t => ({ t with k := { t.k with trap := false } } : Tile).kGo (rd s.tile.k.kt 0)) := by
  have run : exec .eret s = execEret s := rfl
  simp only [run, execEret, trap, ok, h, Bool.not_true, Bool.false_eq_true, if_false]

theorem eret_delivers (tvec : s.tile.tvec ≠ 0) {q : Sequencer} {r : StopRec} (h : s.tile.firstStop = some (q, r)) :
    exec .eret s = .next (s.upd fun t => t.kNext.enterFor (rd s.tile.k.kt 0) q r) := by
  have run : exec .eret s = execEret s := rfl
  simp only [run, execEret, trap, ok, h, if_neg tvec, Bool.not_true, Bool.false_eq_true, if_false]

end

theorem firstStop_none {t : Tile} (l : t.l.stop = none) (c : t.c.stop = none) (h : t.s.stop = none) : t.firstStop = none := by
  simp only [Tile.firstStop, l, c, h]

/-! ### EXIT and YIELD (06 R135, R136) -/

theorem exit_ends {s : State} (h : s.tile.k.trap = false) :
    exec .exit s = .next (s.upd fun t => { t with k := { t.k with ended := true, since := none, clk := t.k.clk.tick .k } }) :=
  next_upd_congr (if_neg (by rw [h]; decide))

theorem exit_kills {s : State} (h : s.tile.k.trap = true) : exec .exit s = .next (s.upd fun x => { x with kill := some ⟨true, .swtrap, .k, x.k.pc⟩ }) :=
  next_upd_congr (if_pos h)

theorem mem_of_mem_scoreboard {ls : List Launch} {w : Launch} (h : w ∈ scoreboard ls) : w ∈ ls := by
  obtain ⟨_, _, h⟩ := List.mem_flatMap.1 h
  exact List.mem_of_mem_filter h

/-- The launch that a YIELD of the task of launch v gives way to. -/
def State.yieldsTo (s : State) (v : Launch) : Option Launch :=
  (scoreboard s.dev.launches).find? fun w => w.id != v.id && v.prio ≤ w.prio && s.waitsFor w s.cur

theorem yieldsTo_none {s : State} {v : Launch} (h : ∀ w ∈ s.dev.launches, s.waitsFor w s.cur = true → w.prio < v.prio ∨ w.id = v.id) :
    s.yieldsTo v = none := by
  refine List.find?_eq_none.2 fun w hw found => ?_
  simp only [Bool.and_eq_true, bne_iff_ne, decide_eq_true_eq] at found
  obtain ⟨⟨other, prio⟩, waits⟩ := found
  rcases h w (mem_of_mem_scoreboard hw) waits with lower | own
  · exact absurd prio (Nat.not_le.2 lower)
  · exact other own

section
variable {s : State} {v : Launch} {i : Nat} (runs : s.runs s.cur = some (v, i))
include runs

theorem yield_goes (h : s.yieldsTo v = none) : exec .yield s = .next s.kSkip := by
  have run : exec .yield s = execYield s := rfl
  simp only [State.yieldsTo] at h
  simp only [run, execYield, runs, h]

theorem yield_stops {w : Launch} (h : s.yieldsTo v = some w) : exec .yield s = .next (s.kSkip.preempt (s.stopSet s.cur) w.id) := by
  have run : exec .yield s = execYield s := rfl
  simp only [State.yieldsTo] at h
  simp only [run, execYield, runs, h]

end

/-! ### TRAP_ENTRY (18 R361 to R363) -/

theorem trapEntry_delivers {s : State} {q : Sequencer} {r : StopRec} (task : s.tile.task.isSome = true) (live : s.tile.live = true)
    (pre : s.tile.preempt = .none) (kill : s.tile.kill = none) (user : s.tile.k.trap = false) (goes : s.tile.endedOf .k = false) (tvec : s.tile.tvec ≠ 0)
    (pend : s.tile.k.pend = none) (h : s.tile.firstStop = some (q, r)) :
    exec (.trapEntry s.cur) s = .next (s.upd fun x => ({ x with k := { x.k with pend := none } } : Tile).enterFor x.k.pc q r) := by
  have run : exec (.trapEntry s.cur) s = .next (s.trapNow s.cur) := rfl
  have there : s.tile.task.isNone = false := by rw [← Option.not_isSome, task]; rfl
  have set : (s.tile.tvec == 0) = false := by simpa using tvec
  rw [run]
  unfold State.trapNow
  simp only [← State.tile.eq_1, there, live, pre, kill, user, goes, set, pend, h, Option.isSome_none, bne_self_eq_false, Bool.not_true, Bool.or_self,
    Bool.false_eq_true, if_false]
  rfl

/-- Settles O13: TRAP and ERET by what handler K has and by what is stopped, YIELD by the launch that waits for the tile. -/
theorem kTrapsAndReturns : Obligations.KTrapsAndReturns := by
  refine ⟨fun s a => ⟨trap_trapped a, trap_kills a, fun user tvec => ⟨_, if_pos (by rw [user]; rfl), kFault_trapped s .priv 0 ⟨user, tvec⟩ (by decide)⟩,
    eret_illegal, fun trap ok l c h => ⟨_, eret_resumes trap ok (firstStop_none l c h), ?_⟩, fun q r trap ok tvec h => ⟨_, eret_delivers trap ok tvec h, ?_⟩,
    fun user => ⟨_, exit_ends user, ?_⟩, exit_kills, fun v i runs h => ⟨_, yield_goes runs (yieldsTo_none h), kSkip_went s⟩,
    fun v i w runs h => yield_stops runs h⟩,
    fun s q r task live pre kill user goes tvec pend h => ⟨_, trapEntry_delivers task live pre kill user goes tvec pend h, ?_⟩⟩
  · have only : ∀ k, OnlyK s (s.upd fun x => { x with k := k }) := fun k => by
      unfold OnlyK
      rw [tile_upd]
    refine ⟨?_, ?_, ?_, ?_, only _, sameMemory_upd_k s _⟩
    · simp [Tile.kGo]
    · simp [Tile.kGo]
    · simp [Tile.kGo]
    · simp [Tile.kGo]
  · exact enteredFor_of rfl rfl rfl
  · unfold OnlyK
    rw [tile_upd]
    exact ⟨rfl, rfl, rfl, rfl, sameMemory_upd_k s _⟩
  · exact enteredFor_of rfl rfl rfl

end Sys2Proof.Machine
end

section
/-! SUPPORT. The handler's instructions SQRD, SQRES and SQSKIP (06 R132, R133, 18 R365, R367). -/

open Sys2Proof

namespace Sys2Proof.Machine

/-! ### What SQRD reads (06 R132) -/

section
variable {t : Tile} {q : Sequencer}

/-- Items 0 to 4 of a stopped sequencer: the stop itself. -/
theorem sqItem_stop {r : StopRec} (h : t.stopOf q = some r) {item : Nat} (kb : Word) : item < 5 →
    t.sqItem q item kb.toNat = match item with
      | 0 => 1
      | 1 => r.pc
      | 2 => BitVec.ofNat 64 r.cause.code
      | 3 => r.addr
      | _ => if q = .c ∧ kb = 1 then r.word.extractLsb' 64 64 else r.word.extractLsb' 0 64 := by
  have one : kb.toNat = 1 ↔ kb = 1 := ⟨fun e => BitVec.eq_of_toNat_eq e, fun e => e ▸ rfl⟩
  intro low
  interval_cases item
  · simp only [Tile.sqItem, h]
  · simp only [Tile.sqItem, h]
  · simp only [Tile.sqItem, h]
  · simp only [Tile.sqItem, h]
  · simp only [Tile.sqItem, h, one]

/-- Items 5 to 7 of a stopped sequencer: its registers, predicates and loop counters. -/
theorem sqItem_state {r : StopRec} (h : t.stopOf q = some r) {item : Nat} (kb : Nat) : 5 ≤ item → item < 8 →
    t.sqItem q item kb = match item with
      | 5 => if q = .c then 0 else rd (t.ls q).regs (kb % 32)
      | 6 => if q = .c then (rd t.c.p (kb % 8)).extractLsb' (if kb / 8 % 2 = 1 then 64 else 0) 64 else (t.ls q).preds.zeroExtend 64
      | _ => BitVec.ofNat 64 ((rd (match q with | .l => t.l.lc | .s => t.s.lc | _ => t.c.lc) (kb % 4)).count.toNat +
          (rd (match q with | .l => t.l.lc | .s => t.s.lc | _ => t.c.lc) (kb % 4)).index.toNat * 2 ^ 32) := by
  intro low high
  cases q with
  | k => cases h
  | l => interval_cases item <;> simp only [Tile.sqItem, h] <;> rfl
  | c => interval_cases item <;> simp only [Tile.sqItem, h] <;> rfl
  | s => interval_cases item <;> simp only [Tile.sqItem, h] <;> rfl

theorem sqItem_beyond {item : Nat} (h : 8 ≤ item) (kb : Nat) : t.sqItem q item kb = 0 := by
  obtain ⟨n, rfl⟩ := Nat.exists_eq_add_of_le' h
  unfold Tile.sqItem
  cases t.stopOf q with
  | none => rfl
  | some r => rfl

theorem sqItem_running (h : t.stopOf q = none) (item kb : Nat) : t.sqItem q item kb = if item = 0 ∧ t.endedOf q = true then 2 else 0 := by
  unfold Tile.sqItem
  rw [h]
  match item with
  | 0 => simp
  | 1 | 2 | 3 | 4 | 5 | 6 | 7 => rfl
  | n + 8 => rfl

end

/-! ### Outside the handler (05 R88) -/

section
variable {s : State} {a : Reg}

theorem handler_priv (h : s.tile.k.trap = false) (d b : Reg) {i : Instr} (hi : i ∈ [Instr.sqrd d a b, .sqres a, .sqskip a]) :
    exec i s = .next (s.kFault .priv 0) := by
  have user : (!s.tile.k.trap) = true := by rw [h]; rfl
  simp only [List.mem_cons, List.not_mem_nil, or_false] at hi
  rcases hi with rfl | rfl | rfl
  · exact if_pos user
  · exact if_pos user
  · exact if_pos user

/-! ### Sequencers (06 R132, R133) -/

variable (trap : s.tile.k.trap = true)
include trap

theorem sqrd_reads (d b : Reg) {q : Sequencer} (h : seqOf ((s.tile.kget a).toNat % 4) = some q) :
    exec (.sqrd d a b) s = .next (s.kDone d (s.tile.sqItem q (bits (s.tile.kget a) 15 8) (s.tile.kget b).toNat)) := by
  have run : exec (.sqrd d a b) s = execSqrd d a b s := rfl
  have low : seqOf (bits (s.tile.kget a) 1 0) = some q := h
  simp only [run, execSqrd, trap, low, Bool.not_true, Bool.false_eq_true, if_false]

theorem sqrd_queue (d b : Reg) (h : (s.tile.kget a).toNat % 4 = 0) : exec (.sqrd d a b) s = .next (s.kDone d 0) := by
  have run : exec (.sqrd d a b) s = execSqrd d a b s := rfl
  have low : seqOf (bits (s.tile.kget a) 1 0) = none := congrArg seqOf h
  simp only [run, execSqrd, trap, low, Bool.not_true, Bool.false_eq_true, if_false]

section
variable {q : Sequencer} (h : seqOf ((s.tile.kget a).toNat % 4) = some q)
include h

theorem sqres_seq : exec (.sqres a) s = .next (s.upd fun t => (if (t.stopOf q).isSome then t.unstop q else t).kNext) := by
  have run : exec (.sqres a) s = execSqres a s := rfl
  have low : seqOf (bits (s.tile.kget a) 1 0) = some q := h
  simp only [run, execSqres, trap, low, Bool.not_true, Bool.false_eq_true, if_false]

theorem sqskip_seq : exec (.sqskip a) s = .next (s.upd fun t => (match t.stopOf q with
    | none => t
    | some r => if q = Sequencer.c then t.skipC r else t.skipLs q r).kNext) := by
  have run : exec (.sqskip a) s = execSqskip a s := rfl
  have low : seqOf (bits (s.tile.kget a) 1 0) = some q := h
  simp only [run, execSqskip, trap, low, Bool.not_true, Bool.false_eq_true, if_false] <;> rfl

theorem sq_running (stop : s.tile.stopOf q = none) {i : Instr} (hi : i ∈ [Instr.sqres a, .sqskip a]) : exec i s = .next s.kSkip := by
  rcases List.mem_pair.1 hi with rfl | rfl
  · refine (sqres_seq trap h).trans (next_upd_congr ?_)
    rw [stop]
    rfl
  · refine (sqskip_seq trap h).trans (next_upd_congr ?_)
    simp only [stop]

theorem sqskip_stopped {r : StopRec} (stop : s.tile.stopOf q = some r) :
    exec (.sqskip a) s = .next (s.upd fun t => (if q = .c then t.skipC r else t.skipLs q r).kNext) := by
  refine (sqskip_seq trap h).trans (next_upd_congr ?_)
  simp only [stop]

/-- SQRES leaves its sequencer with no stop, whether it had one or not. -/
theorem sqres_resumes (released : s.tile.stopOf q = none → s.tile.unstop q = s.tile) : exec (.sqres a) s = .next (s.upd fun t => (t.unstop q).kNext) := by
  refine (sqres_seq trap h).trans (next_upd_congr (congrArg Tile.kNext ?_))
  cases stop : s.tile.stopOf q with
  | none => exact (released stop).symm
  | some r => rfl

end

/-! ### Queues (18 R367) -/

section
variable {q : Queue} {h : Cmd} {rest : List Cmd} (seq : (s.tile.kget a).toNat % 4 = 0) (queue : queueOf (bits (s.tile.kget a) 10 8) = some q)
  (cmds : s.tile.cmds q = h :: rest) (fault : h.fault ≠ none)
include seq queue cmds fault

theorem sqres_queue : exec (.sqres a) s = .next (s.upd fun x => ({ x with q := wr x.q (qIdx q) ({ h with fault := none } :: rest) } : Tile).kNext) := by
  have run : exec (.sqres a) s = execSqres a s := rfl
  have low : seqOf (bits (s.tile.kget a) 1 0) = none := congrArg seqOf seq
  simp only [run, execSqres, trap, low, queue, Bool.not_true, Bool.false_eq_true, if_false]
  refine next_upd_congr (congrArg Tile.kNext ?_)
  simp only [cmds, List.head?_cons, if_pos (Option.isSome_iff_ne_none.2 fault), Tile.setHead, Tile.setCmds, List.drop_succ_cons, List.drop_zero]

theorem sqskip_queue : exec (.sqskip a) s = .next (s.upd fun x => ({ x with
    q := wr x.q (qIdx q) rest, qhead := wr x.qhead (qIdx q) ((rd x.qhead (qIdx q) + 1) % 16), orphans := x.orphans ++ h.posts } : Tile).kNext) := by
  have run : exec (.sqskip a) s = execSqskip a s := rfl
  have low : seqOf (bits (s.tile.kget a) 1 0) = none := congrArg seqOf seq
  have halted : s.tile.halted q = true := by simp [Tile.halted, cmds, Option.isSome_iff_ne_none, fault]
  simp only [run, execSqskip, trap, low, queue, Bool.not_true, Bool.false_eq_true, if_false]
  refine next_upd_congr (congrArg Tile.kNext ((if_pos halted).trans ?_))
  simp only [Tile.popCmd, Tile.setCmds, cmds, List.drop_succ_cons, List.drop_zero, List.head?_cons]

end

end

theorem qIdx_queueOf {e : Nat} {q : Queue} (h : queueOf e = some q) : qIdx q = e - 1 := by
  match e with
  | 0 => cases h
  | 1 | 2 | 3 | 4 | 5 | 6 | 7 => cases h; rfl
  | n + 8 => cases h

/-! ### A skipped word has no stop left -/

section
variable (t : Tile) (q : Sequencer)

theorem stopOf_lsNext : (t.lsNext q).stopOf = t.stopOf := by cases q <;> (funext p; cases p <;> rfl)

theorem stopOf_setLs (r : Reg) (v : Word) : (t.setLs q r v).stopOf = t.stopOf := by cases q <;> (funext p; cases p <;> rfl)

theorem stopOf_pushReserved (ps : List Sequencer) (pay : BitVec 32) (c : Clk) : (t.pushReserved q ps pay c).stopOf = t.stopOf := by
  rw [pushReserved_eq]
  funext p
  cases p <;> rfl

theorem stopOf_popToks (ps : List Sequencer) : (t.popToks q ps).stopOf = t.stopOf := by
  obtain ⟨z, c, a, b, form⟩ := popToks_form t q ps
  rw [form]
  funext p
  cases q <;> cases p <;> rfl

theorem stopOf_unstop : (t.unstop q).stopOf q = none := by cases q <;> rfl

theorem stopOf_skipLs (r : StopRec) : (t.skipLs q r).stopOf q = none := by
  unfold Tile.skipLs
  dsimp only
  split
  · rw [stopOf_lsNext, stopOf_unstop]
  · rw [stopOf_lsNext]
    split
    · rw [stopOf_pushReserved]
      split
      · rw [Tile.postInc, stopOf_setLs, stopOf_popToks, stopOf_unstop]
      · rw [stopOf_popToks, stopOf_unstop]
    · split
      · rw [Tile.postInc, stopOf_setLs, stopOf_popToks, stopOf_unstop]
      · rw [stopOf_popToks, stopOf_unstop]

theorem stop_loopedBack (x : CState) (rotating : Bool) (j : Nat) : (x.loopedBack rotating j).stop = x.stop := by
  unfold CState.loopedBack
  dsimp only
  split <;> split <;> rfl

theorem stop_cNext : t.cNext.c.stop = t.c.stop := by
  unfold Tile.cNext
  dsimp only
  split
  · rfl
  · exact stop_loopedBack _ _ _

theorem stop_skipC (r : StopRec) : (t.skipC r).c.stop = none := by
  unfold Tile.skipC
  dsimp only
  split
  · rw [stop_cNext]
    rfl
  · rw [stop_cNext]
    split
    · exact (congrFun (stopOf_pushReserved _ _ _ _ _) .c).trans ((congrFun (stopOf_popToks _ _ _) .c).trans rfl)
    · exact (congrFun (stopOf_popToks _ _ _) .c).trans rfl

end

/-- Settles O14: the handler's instructions outside trap mode, then on a sequencer, stopped or not, and on a halted queue. -/
theorem kHandlerInstructions : Obligations.KHandlerInstructions := by
  intro s d a b
  refine ⟨fun user tvec i hi => ⟨_, handler_priv user d b hi, kFault_trapped s .priv 0 ⟨user, tvec⟩ (by decide)⟩, fun trap =>
    ⟨fun q h => ⟨fun r stop low => ⟨_, sqrd_reads trap d b h, kDone_wrote_of s d (sqItem_stop stop _ low)⟩,
      fun r stop low high => ⟨_, sqrd_reads trap d b h, kDone_wrote_of s d (sqItem_state stop _ low high)⟩, fun none_ => ?_,
      fun stop zero => ⟨_, sqrd_reads trap d b h, kDone_wrote_of s d ?_⟩, fun stop i hi => ⟨_, sq_running trap h stop hi, kSkip_went s⟩⟩,
    fun zero => ⟨_, sqrd_queue trap d b zero, kDone_wrote s d 0⟩, fun h => ?_, fun h => ?_, fun h => ?_, fun q r named stop => ?_,
    fun r named stop => ⟨?_, stop_skipC s.tile r⟩, fun e q h rest seq code queue cmds fault => ?_⟩⟩
  · refine ⟨_, sqrd_reads trap d b h, kDone_wrote_of s d ?_⟩
    rcases none_ with beyond | ⟨stop, some_⟩
    · exact sqItem_beyond beyond _
    · exact (sqItem_running stop _ _).trans (if_neg fun e => some_ e.1)
  · rw [sqItem_running stop, zero]
    simp
  · exact sqres_resumes trap (congrArg seqOf h) fun stop => by
      change ({ s.tile with l := { s.tile.l with stop := none } } : Tile) = s.tile
      rw [← show s.tile.l.stop = none from stop]
  · exact sqres_resumes trap (congrArg seqOf h) fun stop => by
      change ({ s.tile with c := { s.tile.c with stop := none } } : Tile) = s.tile
      rw [← show s.tile.c.stop = none from stop]
  · exact sqres_resumes trap (congrArg seqOf h) fun stop => by
      change ({ s.tile with s := { s.tile.s with stop := none } } : Tile) = s.tile
      rw [← show s.tile.s.stop = none from stop]
  · refine ⟨?_, stopOf_skipLs s.tile q r⟩
    rcases named with ⟨n, rfl⟩ | ⟨n, rfl⟩
    · exact sqskip_stopped trap (congrArg seqOf n) stop
    · exact sqskip_stopped trap (congrArg seqOf n) stop
  · exact sqskip_stopped trap (congrArg seqOf named) stop
  · subst code
    have idx := qIdx_queueOf queue
    exact ⟨idx ▸ sqres_queue trap seq queue cmds fault, idx ▸ sqskip_queue trap seq queue cmds fault⟩

end Sys2Proof.Machine
end

section
/-! SUPPORT. Barrier packets of one cycle at one object (06 R117 to R119, 11 R264). -/

open Sys2Proof

namespace Sys2Proof.Machine

/-! ### Lists of one value -/

theorem eraseDups_const {α : Type} [DecidableEq α] {xs : List α} {a : α} (h : ∀ x ∈ xs, x = a) (some_ : xs ≠ []) : xs.eraseDups = [a] := by
  match xs with
  | [] => exact absurd rfl some_
  | x :: xs =>
    obtain rfl := h x (List.mem_cons_self ..)
    rw [List.eraseDups_cons]
    have rest : xs.filter (fun b => !b == x) = [] := List.filter_eq_nil_iff.2 fun b hb => by simp [h b (List.mem_cons_of_mem _ hb)]
    rw [rest]
    rfl

theorem filterMap_ne_nil {α β : Type} {f : α → Option β} {xs : List α} (h : ∀ x ∈ xs, (f x).isSome = true) (some_ : xs ≠ []) : xs.filterMap f ≠ [] := by
  match xs with
  | [] => exact absurd rfl some_
  | x :: xs =>
    obtain ⟨y, hy⟩ := Option.isSome_iff_exists.1 (h x (List.mem_cons_self ..))
    rw [List.filterMap_cons_some hy]
    exact List.cons_ne_nil _ _

/-! ### The packets that leave the network -/

theorem isLost_none {s : State} (h : s.dev.lost = []) (c : BitVec 8) (place a n : Nat) : s.isLost c place a n = false := by
  unfold State.isLost
  rw [h]
  rfl

theorem losePacket_none {s : State} (h : s.dev.lost = []) (p : Pkt) : s.losePacket p = none :=
  if_pos (by rw [isLost_none h]; rfl)

theorem foldl_losePacket {s : State} (h : s.dev.lost = []) (ps : List Pkt) : ps.foldl (fun s p => (s.losePacket p).getD s) s = s := by
  induction ps with
  | nil => rfl
  | cons p ps ih => rw [List.foldl_cons, losePacket_none h]; exact ih

/-- Packets gone from the network. -/
def State.barLeft (s : State) (ps : List Pkt) : State :=
  s.updDev fun d => { d with net := d.net.filter fun q => !(ps.any fun y => y.stamp == q.stamp) }

theorem foldl_dropPkt (s : State) (ps : List Pkt) : ps.foldl (fun s p => s.dropPkt p.stamp) s = s.barLeft ps := by
  induction ps generalizing s with
  | nil => simp [State.barLeft, State.updDev]
  | cons p ps ih =>
    rw [List.foldl_cons, ih]
    have both : ∀ q : Pkt, ((q.stamp != p.stamp) && !(ps.any fun y => y.stamp == q.stamp)) = !((p :: ps).any fun y => y.stamp == q.stamp) := by
      intro q
      rw [List.any_cons, Bool.not_or, bne, Bool.beq_comm]
    simp only [State.barLeft, State.dropPkt, State.updDev, List.filter_filter, ← both, Bool.and_comm]

theorem barLeft_updAt (s : State) (ps : List Pkt) (t : TileId) (f : Tile → Tile) : (s.updAt t f).barLeft ps = (s.barLeft ps).updAt t f := rfl

/-- The barrier packets that an event lets act at a tile. -/
def State.barMine (s : State) (t : TileId) (ns : List Nat) : List Pkt :=
  s.dev.net.filter fun p => ns.contains p.stamp && p.at_ == .spoke t && p.barUpd.isSome && !s.inputHeld p && s.barrierClear p

/-- The updates of packets, each with its source. -/
def barNew (ps : List Pkt) : List (BarUpd × Nat) := ps.filterMap fun p => p.barUpd.map fun u => (u.2, p.orig)

/-- The state in which others of the cycle are still to come where the event says so. -/
def State.barStay (s : State) (t : TileId) (more : Bool) : State :=
  if more && (s.tileAt t).live then s.updAt t fun x => { x with barOpen := some (x.barOpen.getD false) } else s

section
variable {s : State} {t : TileId} {ns : List Nat} {l : Word}

theorem barMine_again (s : State) (t : TileId) (ns : List Nat) :
    ((s.dev.net.filter fun p => ns.contains p.stamp && p.at_ == .spoke t && p.barUpd.isSome && !s.inputHeld p).filter fun p =>
      s.dev.net.contains p && s.barrierClear p) = s.barMine t ns := by
  rw [List.filter_filter]
  refine List.filter_congr fun p hp => ?_
  rw [List.contains_iff_mem.2 hp, Bool.true_and, Bool.and_comm]

/-- Barrier packets of one launch. -/
theorem barrierUpdate_launch (lost : s.dev.lost = []) (same : ∀ p ∈ s.barMine t ns, p.launch = l) (some_ : s.barMine t ns ≠ []) (more : Bool) :
    exec (.barrierUpdate t ⟨ns, more⟩) s = .next (if more then (s.barStay t more).barPackets t l (s.barMine t ns)
      else ((s.barStay t more).barPackets t l (s.barMine t ns)).barFlush t) := by
  have run : exec (.barrierUpdate t ⟨ns, more⟩) s = execBarrierUpdate t ⟨ns, more⟩ s := rfl
  rw [run]
  unfold execBarrierUpdate
  simp only [foldl_losePacket lost, barMine_again]
  have launches : ((s.barMine t ns).map fun p => p.launch).eraseDups = [l] :=
    eraseDups_const (fun x hx => by obtain ⟨p, hp, rfl⟩ := List.mem_map.1 hx; exact same p hp) (by simpa using some_)
  have all : ((s.barMine t ns).filter fun p => p.launch == l) = s.barMine t ns := List.filter_eq_self.2 fun p hp => by simp [same p hp]
  rw [launches, List.foldl_cons, List.foldl_nil, all]
  rfl

variable {a : Nat} {ps : List Pkt} (upds : ∀ p ∈ ps, ∃ u, p.barUpd = some (a, u)) (some_ : ps ≠ [])
include upds

theorem barPackets_upds : (ps.filterMap fun p => p.barUpd.map fun u => (u.1, u.2, p.orig)) = (barNew ps).map fun u => (a, u) := by
  rw [barNew, List.map_filterMap]
  refine List.filterMap_congr fun p hp => ?_
  obtain ⟨u, h⟩ := upds p hp
  rw [h]
  rfl

include some_

/-- Packets of one object at a running task leave the network and act on it together. -/
theorem barPackets_live (live : s.taskHome t l = .live) : s.barPackets t l ps = (s.barLeft ps).barMeet t l .live a (barNew ps) := by
  unfold State.barPackets
  rw [live]
  simp only [foldl_dropPkt, barPackets_upds upds, List.map_map]
  have objects : ((barNew ps).map ((fun u : Nat × BarUpd × Nat => u.1) ∘ fun u => (a, u))).eraseDups = [a] :=
    eraseDups_const (fun x hx => by obtain ⟨u, _, rfl⟩ := List.mem_map.1 hx; rfl) (by
      rw [Ne, List.map_eq_nil_iff]
      exact filterMap_ne_nil (fun p hp => by obtain ⟨u, h⟩ := upds p hp; rw [h]; rfl) some_)
  have all : (((barNew ps).map fun u => (a, u)).filter fun u => u.1 == a) = (barNew ps).map fun u => (a, u) :=
    List.filter_eq_self.2 fun x hx => by obtain ⟨u, _, rfl⟩ := List.mem_map.1 hx; exact beq_self_eq_true a
  rw [objects, List.foldl_cons, List.foldl_nil, all, List.map_map]
  have back : (barNew ps).map ((fun u : Nat × BarUpd × Nat => u.2) ∘ fun u => (a, u)) = barNew ps := List.map_id _
  rw [back]

end

/-! ### The cycle's end (06 R117, log 107) -/

theorem taskHome_live {s : State} {t : TileId} {l : Word} (h : s.taskHome t l = .live) : (s.tileAt t).live = true ∧ (s.tileAt t).launch = l := by
  unfold State.taskHome at h
  dsimp only at h
  split at h
  · cases h
  · split at h
    next here =>
      split at h
      next runs =>
        simp only [Bool.and_eq_true, beq_iff_eq] at here runs
        exact ⟨runs.2, here.2⟩
      · cases h
    · split at h
      · cases h
      · cases h

theorem postRefused_eq (y : Tile) (a : Nat) (us : List (BarUpd × Nat)) (is : List Nat) :
    ∃ q w, y.postRefused a us is = { y with evq := q, evWait := w } := by
  unfold Tile.postRefused
  induction is generalizing y with
  | nil => exact ⟨_, _, rfl⟩
  | cons i is ih =>
    obtain ⟨q, w, h⟩ := post_eq y (mkRecord (overrunDetail ((us[i]?.map fun u => u.2).getD 0) a) kindOverrun 8 0 0)
    obtain ⟨q', w', h'⟩ := ih (y.post (mkRecord (overrunDetail ((us[i]?.map fun u => u.2).getD 0) a) kindOverrun 8 0 0))
    exact ⟨q', w', by rw [List.foldl_cons, h', h]⟩

/-- A tile at the end of a cycle in which object a alone has taken in updates, us the last of them. -/
def Tile.barDone (x : Tile) (a : Nat) (us : List (BarUpd × Nat)) : Tile :=
  let bs := (x.barTaken a us).map fun u => u.1
  ({ x with barDue := [], barOpen := none, spm := x.spm.barAfter a bs } : Tile).postRefused a (x.barTaken a us) ((x.spm.bar a).refused bs)

theorem barDone_eq (x : Tile) (a : Nat) (us : List (BarUpd × Nat)) : ∃ q w, x.barDone a us =
    { x with barDue := [], barOpen := none, spm := x.spm.barAfter a ((x.barTaken a us).map fun u => u.1), evq := q, evWait := w } :=
  postRefused_eq _ a (x.barTaken a us) _

theorem spm_barDone (x : Tile) (a : Nat) (us : List (BarUpd × Nat)) :
    (x.barDone a us).spm = x.spm.barAfter a ((x.barTaken a us).map fun u => u.1) := by
  obtain ⟨q, w, h⟩ := barDone_eq x a us
  rw [h]

/-- A tile where updates us of object a wait for the cycle's end. -/
def Tile.barWait (x : Tile) (a : Nat) (us : List (BarUpd × Nat)) : Tile := { x with barDue := x.barDue ++ us.map fun u => (a, u) }

section
variable {x : Tile} {a : Nat} (only : ∀ u ∈ x.barDue, u.1 = a)
include only

theorem barDue_others : (x.barDue.filter fun u => u.1 != a) = [] := List.filter_eq_nil_iff.2 fun u hu => by simp [only u hu]

/-- Nothing waits for the cycle's end: the updates are applied at once. -/
theorem barApplied_shut (shut : x.barOpen = none) (us : List (BarUpd × Nat)) : x.barApplied a us = x.barDone a us := by
  unfold Tile.barApplied Tile.barDone
  rw [barDue_others only, ← shut]

/-- The cycle was open: the updates wait with the others, then all are applied. -/
theorem barApplied_open (us : List (BarUpd × Nat)) : ({ x.barWait a us with barOpen := none } : Tile).barApplied a [] = x.barDone a us := by
  have mine : ((us.map fun u => (a, u)).filter fun u => u.1 == a) = us.map fun u => (a, u) :=
    List.filter_eq_self.2 fun y hy => by obtain ⟨u, _, rfl⟩ := List.mem_map.1 hy; exact beq_self_eq_true a
  have others : ((us.map fun u => (a, u)).filter fun u => u.1 != a) = [] :=
    List.filter_eq_nil_iff.2 fun y hy => by obtain ⟨u, _, rfl⟩ := List.mem_map.1 hy; simp
  have taken : ({ x.barWait a us with barOpen := none } : Tile).barTaken a [] = x.barTaken a us := by
    simp only [Tile.barTaken, Tile.barWait, List.filter_append, mine, List.map_append, List.map_map, List.append_nil]
    exact congrArg _ (List.map_id _)
  unfold Tile.barApplied
  rw [taken]
  simp only [Tile.barWait, List.filter_append, others, barDue_others only, List.append_nil]
  rfl

end

section
variable {s : State} {t : TileId} {l : Word} {a : Nat}

theorem barFlush_empty (h : (s.tileAt t).barDue = []) : s.barFlush t = s.updAt t fun x => { x with barOpen := none } := by
  unfold State.barFlush
  rw [h]
  rfl

theorem barFlush_one (lost : s.dev.lost = []) (live : s.taskHome t l = .live) (only : ∀ u ∈ (s.tileAt t).barDue, u.1 = a)
    (some_ : (s.tileAt t).barDue ≠ []) : s.barFlush t = s.updAt t fun x => ({ x with barOpen := none } : Tile).barApplied a [] := by
  have object : ((s.tileAt t).barDue.map fun u => u.1).eraseDups = [a] :=
    eraseDups_const (fun y hy => by obtain ⟨u, hu, rfl⟩ := List.mem_map.1 hy; exact only u hu) (by simpa using some_)
  have home : (s.updAt t fun x => { x with barOpen := none }).taskHome t (s.tileAt t).launch = .live :=
    (taskHome_updAt s t rfl rfl rfl _).trans ((taskHome_live live).2 ▸ live)
  unfold State.barFlush
  rw [object, List.foldl_cons, List.foldl_nil, tileAt_updAt_self]
  generalize hz : (s.updAt t fun x => { x with barOpen := none }) = z at home ⊢
  have lost' : z.dev.lost = [] := hz ▸ lost
  refine (barApply_live (isLost_none lost' 1 t.val a 16) (.inl home)).trans ?_
  rw [← hz, updAt_updAt]

theorem barMeet_shut (shut : (s.tileAt t).barOpen = none) (us : List (BarUpd × Nat)) : s.barMeet t l .live a us = s.barApply t l .live a us :=
  if_neg (by rw [shut]; decide)

theorem barMeet_waits {o : Bool} (h : (s.tileAt t).barOpen = some o) (us : List (BarUpd × Nat)) :
    s.barMeet t l .live a us = s.updAt t fun x => x.barWait a us :=
  if_pos (by rw [h]; rfl)

/-- Updates that meet an object, and the cycle's end. -/
theorem barMeet_flush (lost : s.dev.lost = []) (live : s.taskHome t l = .live) (only : ∀ u ∈ (s.tileAt t).barDue, u.1 = a) {us : List (BarUpd × Nat)}
    (some_ : us ≠ []) : (s.barMeet t l .live a us).barFlush t = s.updAt t fun x => x.barDone a us := by
  cases h : (s.tileAt t).barOpen with
  | none =>
    rw [barMeet_shut h, barApply_live (isLost_none lost 1 t.val a 16) (.inl live),
      updAt_congr (f := fun x => x.barApplied a us) (g := fun x => x.barDone a us) (barApplied_shut only h us)]
    obtain ⟨q, w, form⟩ := barDone_eq (s.tileAt t) a us
    have done : (s.updAt t fun x => x.barDone a us).tileAt t = (s.tileAt t).barDone a us := tileAt_updAt_self ..
    rw [barFlush_empty (by rw [done, form]), updAt_updAt]
    exact updAt_congr (by rw [form])
  | some o =>
    rw [barMeet_waits h]
    have due : ((s.updAt t fun x => x.barWait a us).tileAt t).barDue = (s.tileAt t).barDue ++ us.map fun u => (a, u) :=
      congrArg Tile.barDue (tileAt_updAt_self s t fun x => x.barWait a us)
    have home : (s.updAt t fun x => x.barWait a us).taskHome t l = .live := (taskHome_updAt s t rfl rfl rfl l).trans live
    have ends : (s.updAt t fun x => x.barWait a us).updAt t (fun x => ({ x with barOpen := none } : Tile).barApplied a []) =
        s.updAt t fun x => x.barDone a us := (updAt_updAt ..).trans (updAt_congr (barApplied_open only us))
    have lost' : (s.updAt t fun x => x.barWait a us).dev.lost = [] := lost
    generalize (s.updAt t fun x => x.barWait a us) = z at due home ends lost' ⊢
    rw [barFlush_one (a := a) lost' home, ends]
    · rw [due]
      intro u hu
      rcases List.mem_append.1 hu with old | new
      · exact only u old
      · obtain ⟨v, _, rfl⟩ := List.mem_map.1 new
        rfl
    · rw [due]
      exact List.append_ne_nil_of_right_ne_nil _ (by simpa using some_)

end

/-! ### A target with no task of the launch (06 R118) -/

theorem barAbsent_one {s : State} {p : Pkt} {a : Nat} {v : BarUpd} (h : p.barUpd = some (a, v)) {u : TileId} (hu : u.val = p.orig)
    (live : s.taskHome u p.launch = .live) (task : ∀ i, p.task = some i → ∃ k, (s.tileAt u).task = some k ∧ k.index = i) :
    s.barAbsent [p] = (s.updDev fun d => { d with net := d.net.filter fun y => y.stamp != p.stamp }).updAt u fun y =>
      y.post (mkRecord (overrunDetail p.orig a) kindOverrun 8 0 0) := by
  have sender : tileOf p.orig = u := Fin.ext (by rw [← hu]; exact Nat.mod_eq_of_lt u.isLt)
  have present : (p.task.isSome && (s.dropPkt p.stamp).taskIndex u .live != p.task) = false := by
    cases e : p.task with
    | none => rfl
    | some i =>
      obtain ⟨k, hk, rfl⟩ := task i e
      have index : (s.dropPkt p.stamp).taskIndex u .live = some k.index := congrArg (Option.map fun k : Task => k.index) hk
      rw [index, bne_self_eq_false, Bool.and_false]
  have home : (s.dropPkt p.stamp).taskHome u p.launch = .live := live
  unfold State.barAbsent
  rw [List.foldl_cons, List.foldl_nil, h]
  change (s.dropPkt p.stamp).postTask (tileOf p.orig) _ _ _ = _
  unfold State.postTask
  rw [sender, home]
  simp only [present, Bool.false_eq_true, if_false]
  rfl

/-! ### The packets of one object in one cycle -/

section
variable {s : State} {t : TileId} {ns : List Nat} {l : Word} {a : Nat} (lost : s.dev.lost = [])
  (all : ∀ p ∈ s.barMine t ns, p.launch = l ∧ ∃ u, p.barUpd = some (a, u)) (some_ : s.barMine t ns ≠ [])
include lost all some_

/-- The state behind the packets of an event, in which nothing else has changed. -/
theorem barrierUpdate_live (live : s.taskHome t l = .live) : exec (.barrierUpdate t ⟨ns, true⟩) s = .next ((s.updAt t fun x => { x with
    barOpen := some (x.barOpen.getD false), barDue := x.barDue ++ (barNew (s.barMine t ns)).map fun u => (a, u) }).updDev fun d =>
      { d with net := s.dev.net.filter fun p => !((s.barMine t ns).any fun y => y.stamp == p.stamp) }) := by
  rw [barrierUpdate_launch lost (fun p hp => (all p hp).1) some_ true, if_pos rfl]
  have stay : s.barStay t true = s.updAt t fun x => { x with barOpen := some (x.barOpen.getD false) } :=
    if_pos (by rw [(taskHome_live live).1]; rfl)
  rw [stay, barPackets_live (fun p hp => (all p hp).2) some_ ((taskHome_updAt s t rfl rfl rfl l).trans live)]
  rw [barLeft_updAt]
  have opened : (((s.barLeft (s.barMine t ns)).updAt t fun x => { x with barOpen := some (x.barOpen.getD false) }).tileAt t).barOpen =
    some ((s.tileAt t).barOpen.getD false) := congrArg Tile.barOpen (tileAt_updAt_self ..)
  rw [barMeet_waits opened, updAt_updAt]
  rfl

theorem barrierUpdate_flushed (live : s.taskHome t l = .live) (only : ∀ u ∈ (s.tileAt t).barDue, u.1 = a) :
    exec (.barrierUpdate t ⟨ns, false⟩) s = .next ((s.barLeft (s.barMine t ns)).updAt t fun x => x.barDone a (barNew (s.barMine t ns))) := by
  rw [barrierUpdate_launch lost (fun p hp => (all p hp).1) some_ false, if_neg Bool.false_ne_true, show s.barStay t false = s from rfl,
    barPackets_live (fun p hp => (all p hp).2) some_ live]
  have new : barNew (s.barMine t ns) ≠ [] := filterMap_ne_nil (fun p hp => by obtain ⟨u, h⟩ := (all p hp).2; rw [h]; rfl) some_
  exact next_congr (barMeet_flush (s := s.barLeft (s.barMine t ns)) lost live only new)

end

/-- Settles O39: the packets of the cycle at a running task, with others to come and without, and those of an absent one. -/
theorem barrierUpdates : Obligations.BarrierUpdates := by
  intro s t ns a l
  refine fun lost all some_ => ⟨fun live => ⟨barrierUpdate_live lost all some_ live, fun only =>
    ⟨_, barrierUpdate_flushed lost all some_ live only, rfl, fun u hu => tileAt_updAt_ne _ _ _ _ hu.symm, rfl, ?_, ?_⟩⟩,
    fun p u absent due shut one hu live task => ?_⟩
  · rw [tileAt_updAt_self]
    exact spm_barDone ..
  · rw [tileAt_updAt_self]
    simp only [spm_barDone]
    rfl
  · have mine : s.barMine t ns = [p] := one
    obtain ⟨rfl, v, upd⟩ := all p (one ▸ List.mem_singleton_self p)
    rw [barrierUpdate_launch lost (fun p hp => (all p hp).1) some_ false, if_neg Bool.false_ne_true, show s.barStay t false = s from rfl, mine]
    refine next_congr ?_
    have gone : s.barPackets t p.launch [p] = s.barAbsent [p] := by
      unfold State.barPackets
      rw [absent]
    have other : u ≠ t := fun e => by
      rw [e, absent] at live
      cases live
    rw [gone, barAbsent_one upd hu live task]
    generalize hz : ((s.updDev fun d => { d with net := d.net.filter fun y => y.stamp != p.stamp }).updAt u fun y =>
      y.post (mkRecord (overrunDetail p.orig a) kindOverrun 8 0 0)) = z
    have kept : z.tileAt t = s.tileAt t := by
      rw [← hz]
      exact tileAt_updAt_ne _ _ _ _ other
    rw [barFlush_empty (by rw [kept, due]), updAt_same (by rw [kept, ← shut]), ← hz]
    rfl

end Sys2Proof.Machine
end

section
/-! SUPPORT. The heads of the engine queues: guards, semaphore waits, prefetches, joins, and the writes that C holds (06 R109, R112, R124, 07 R154, R158,
02 R28, 09 R211). -/

open Sys2Proof

namespace Sys2Proof.Machine

theorem qIdx_lt (q : Queue) : qIdx q < 7 := by cases q <;> decide

/-! ### A head that acts, leaves or is replaced -/

/-- The mark that a command has begun changes the marks only. -/
theorem acts_eq (x : Tile) (q : Queue) (c : Cmd) : x.acts q c = { x with outL := (x.acts q c).outL, outS := (x.acts q c).outS } := by
  unfold Tile.acts
  split
  · rfl
  · rfl
  · rfl
  · rfl
  · rfl
  · rfl

section
variable {x : Tile} {q : Queue} {h : Cmd} {rest : List Cmd} (cmds : x.cmds q = h :: rest)
include cmds

theorem head_cmds : (x.cmds q).head? = some h := congrArg List.head? cmds

theorem setHead_cmds (c : Cmd) : x.setHead q c = { x with q := wr x.q (qIdx q) (c :: rest) } := by
  rw [Tile.setHead, Tile.setCmds, cmds]
  rfl

theorem popCmd_cmds : x.popCmd q = { x with
    q := wr x.q (qIdx q) rest, qhead := wr x.qhead (qIdx q) ((rd x.qhead (qIdx q) + 1) % 16), orphans := x.orphans ++ h.posts } := by
  rw [Tile.popCmd, Tile.setCmds, cmds]
  rfl

theorem popCmd_acts : (x.acts q h).popCmd q = { x.acts q h with
    q := wr x.q (qIdx q) rest, qhead := wr x.qhead (qIdx q) ((rd x.qhead (qIdx q) + 1) % 16), orphans := x.orphans ++ h.posts } := by
  rw [acts_eq]
  exact popCmd_cmds (x := { x with outL := (x.acts q h).outL, outS := (x.acts q h).outS }) cmds

theorem startHead_free (w : h.wait = 0) : x.startHead q = { x.acts q h with q := wr x.q (qIdx q) ({ h with started := true, waitFrom := none } :: rest) } := by
  have none_ : ∀ y : Tile, y.smTake 0 = y := fun _ => rfl
  simp only [Tile.startHead, head_cmds cmds, w, none_]
  rw [acts_eq]
  exact setHead_cmds (x := { x with outL := (x.acts q h).outL, outS := (x.acts q h).outS }) cmds _

theorem startHead_takes (w : h.wait ≠ 0) : x.startHead q = { x.acts q h with
    q := wr x.q (qIdx q) ({ h with started := true, waitFrom := none } :: rest), sm := wr x.sm h.wait.toNat (rd x.sm h.wait.toNat - 1) } := by
  simp only [Tile.startHead, head_cmds cmds]
  rw [smTake_of_ne _ w, acts_eq]
  exact setHead_cmds (x := { x with
    outL := (x.acts q h).outL, outS := (x.acts q h).outS, sm := wr x.sm h.wait.toNat (rd x.sm h.wait.toNat - 1) }) cmds _

theorem noteWait_notes (startable : h.startable = true) (first : h.waitFrom = none) (w : h.wait ≠ 0) (zero : rd x.sm h.wait.toNat = 0) (now : Nat) :
    x.noteWait q now = { x with q := wr x.q (qIdx q) ({ h with waitFrom := some now } :: rest) } := by
  simp only [Tile.noteWait, head_cmds cmds, startable, first, smGet_of_ne _ w, zero]
  exact setHead_cmds cmds _

theorem headReady_eq (now : Nat) (sm : Option (BitVec 8)) : x.headReady q now sm = (h.startable &&
    (h.wait == 0 || decide (x.waitersAhead (qIdx q) h.wait (h.waitFrom.getD now) (x.kWaits h.wait sm) < (x.smGet h.wait).toNat))) := by
  simp only [Tile.headReady, head_cmds cmds]

end

/-! ### Guards (06 R112) -/

section
variable {s : State} {t : TileId} {q : Queue} {h : Cmd} {rest : List Cmd} (run : s.enginesRun t = true) (cmds : (s.tileAt t).cmds q = h :: rest)
include run cmds

theorem commandDecided_reads {g : BitVec 4} (guard : h.guard = some g) (decided : h.decided = false) (started : h.started = false) (fault : h.fault = none) :
    exec (.commandDecided t q) s = match rd (s.tileAt t).gd g.toNat with
      | .free => .next s
      | .yes => .next (s.updAt t fun x => x.setHead q { h with decided := true })
      | .no => .next (s.updAt t fun x => (x.acts q h).popCmd q) := by
  have ex : exec (.commandDecided t q) s = execCommandDecided t q s := rfl
  rw [ex]
  unfold execCommandDecided
  simp only [run, head_cmds cmds, guard, decided, started, fault, Option.isSome_none, Bool.or_self, Bool.not_true, Bool.false_eq_true, if_false] <;> rfl

/-! ### Starts (06 R109, 07 R154, R158) -/

/-- The start of a copy or a copy-out. -/
theorem engineCommandStart_moves (body : h.copy?.isSome = true ∨ ∃ r d l n p, h.body = .scout r d l n p) : exec (.engineCommandStart t q) s =
    if (s.tileAt t).headReady q s.dev.now (s.smwaitOf t) then .next (s.updAt t fun x => x.startHead q)
    else .next (s.updAt t fun x => x.noteWait q s.dev.now) := by
  have ex : exec (.engineCommandStart t q) s = execEngineCommandStart t q s := rfl
  rw [ex]
  unfold execEngineCommandStart
  simp only [head_cmds cmds, run, Bool.not_true, Bool.false_eq_true, if_false]
  unfold Cmd.copy? at body
  cases e : h.body <;> simp only [e, Option.isSome_none, Option.isSome_some, Bool.false_eq_true, reduceCtorEq, exists_false, or_self] at body ⊢

theorem engineCommandStart_prefetch {ea : Word} {n : Nat} (body : h.body = .prefetch ea n) :
    exec (.engineCommandStart t q) s = .next (s.updAt t fun x => (x.acts q h).popCmd q) := by
  have ex : exec (.engineCommandStart t q) s = execEngineCommandStart t q s := rfl
  rw [ex]
  unfold execEngineCommandStart
  simp only [head_cmds cmds, run, body, Bool.not_true, Bool.false_eq_true, if_false]

section
variable (body : h.copy?.isSome = true ∨ ∃ r d l n p, h.body = .scout r d l n p)
include body

theorem engineCommandStart_starts (ready : (s.tileAt t).headReady q s.dev.now (s.smwaitOf t) = true) :
    exec (.engineCommandStart t q) s = .next (s.updAt t fun x => x.startHead q) :=
  (engineCommandStart_moves run cmds body).trans (if_pos ready)

theorem engineCommandStart_notes (wait : (s.tileAt t).headReady q s.dev.now (s.smwaitOf t) = false) :
    exec (.engineCommandStart t q) s = .next (s.updAt t fun x => x.noteWait q s.dev.now) :=
  (engineCommandStart_moves run cmds body).trans (if_neg (by rw [wait]; decide))

end

end

/-! ### Joins (06 R124) -/

/-- A join leaves a queue that it names. -/
def Tile.popNamed (mask : BitVec 7) (x : Tile) (q : Queue) : Tile := if mask.getLsbD (qIdx q) then x.popCmd q else x

theorem popNamed_queue (mask : BitVec 7) (x : Tile) (q : Queue) (e : Nat) :
    rd (x.popNamed mask q).q e = if qIdx q = e ∧ mask.getLsbD e = true then (rd x.q e).drop 1 else rd x.q e := by
  unfold Tile.popNamed
  by_cases same : qIdx q = e
  · subst same
    cases m : mask.getLsbD (qIdx q) with
    | false => exact (if_neg fun named => Bool.false_ne_true named.2).symm
    | true => exact (rd_wr_self _ _ _ (qIdx_lt q)).trans (if_pos ⟨rfl, rfl⟩).symm
  · have other : ¬ (qIdx q = e ∧ mask.getLsbD e = true) := fun named => same named.1
    rw [if_neg other]
    cases mask.getLsbD (qIdx q) with
    | false => rfl
    | true => exact rd_wr_ne _ _ _ _ same

theorem popNamed_eq (mask : BitVec 7) (x : Tile) (q : Queue) : ∃ y h o, x.popNamed mask q = { x with q := y, qhead := h, orphans := o } := by
  unfold Tile.popNamed
  split
  · exact ⟨_, _, _, rfl⟩
  · exact ⟨_, _, _, rfl⟩

theorem foldl_popNamed (mask : BitVec 7) (x : Tile) (qs : List Queue) :
    ∃ y h o, qs.foldl (Tile.popNamed mask) x = { x with q := y, qhead := h, orphans := o } := by
  induction qs generalizing x with
  | nil => exact ⟨_, _, _, rfl⟩
  | cons q qs ih =>
    obtain ⟨y, h, o, one⟩ := popNamed_eq mask x q
    obtain ⟨y', h', o', all⟩ := ih (x.popNamed mask q)
    exact ⟨y', h', o', by rw [List.foldl_cons, all, one]⟩

/-- A join leaves each queue that it names, once. -/
theorem queues_popNamed (mask : BitVec 7) (x : Tile) {e : Nat} (he : e < 7) :
    rd (queues.foldl (Tile.popNamed mask) x).q e = if mask.getLsbD e then (rd x.q e).drop 1 else rd x.q e := by
  simp only [queues, List.foldl_cons, List.foldl_nil, popNamed_queue, qIdx]
  interval_cases e <;> simp

theorem smSignal_eq (x : Tile) (n : BitVec 8) : x.smSignal n = { x with sm := (x.smSignal n).sm } := by
  unfold Tile.smSignal Tile.smSet
  split
  · rfl
  · split <;> rfl

theorem sm_smSignal_congr {x y : Tile} (h : x.sm = y.sm) (n : BitVec 8) : (x.smSignal n).sm = (y.smSignal n).sm := by
  unfold Tile.smSignal Tile.smSet Tile.smGet
  rw [h]
  split
  · exact h
  · split
    · exact h
    · rfl

theorem joinComplete_leaves {s : State} {t : TileId} {q : Queue} {h : Cmd} {rest : List Cmd} (run : s.enginesRun t = true)
    (cmds : (s.tileAt t).cmds q = h :: rest) {id : Nat} {mask : BitVec 7} {sem : BitVec 8} (body : h.body = .join id mask sem)
    (gathers : mask.getLsbD 3 = true → (s.tileAt t).gathersBefore id = false)
    (heads : ∀ e, e < 7 → mask.getLsbD e = true → joinAt (rd (s.tileAt t).q e) id = true) :
    exec (.qfenceJoinComplete t q) s = .next (s.updAt t fun x => (queues.foldl (Tile.popNamed mask) x).smSignal sem) := by
  have ex : exec (.qfenceJoinComplete t q) s = execQfenceJoinComplete t q s := rfl
  have all : (List.range 7).all (fun e => !mask.getLsbD e || joinAt (rd (s.tileAt t).q e) id) = true := by
    rw [List.all_eq_true]
    intro e he
    cases m : mask.getLsbD e with
    | false => rfl
    | true => exact heads e (List.mem_range.1 he) m
  have clear : (mask.getLsbD 3 && (s.tileAt t).gathersBefore id) = false := by
    cases m : mask.getLsbD 3 with
    | false => rfl
    | true => exact gathers m
  rw [ex]
  unfold execQfenceJoinComplete
  simp only [head_cmds cmds, body, run, all, clear, Bool.not_false, Bool.and_self, if_true]
  rfl

/-! ### Writes that C holds (02 R28, 09 R211) -/

/-- Whether a held write is one of the codebook. -/
def Held.isBook : Held → Bool
  | .codebook _ => true
  | _ => false

section
variable {s : State} {t : TileId} {w : Held} (held : (s.tileAt t).c.held = some w)
include held

theorem releaseHeld_waits (back : (s.tileAt t).heldBack w = true) (book : Bool) : s.releaseHeld t book = s := by
  simp only [State.releaseHeld, held, back, Bool.or_true, Bool.true_or, if_true]

theorem releaseHeld_writes (live : (s.tileAt t).live = true) (free : (s.tileAt t).heldBack w = false) :
    s.releaseHeld t w.isBook = s.updAt t fun x =>
      ({ x with c := { x.c.applyHeld w with held := none, heldPush := 0 } } : Tile).pushReserved .c (peersOf .c x.c.heldPush) 0 x.c.clk := by
  unfold State.releaseHeld
  simp only [held]
  refine if_neg ?_
  rw [free, live]
  cases w with
  | codebook b => exact Bool.false_ne_true
  | tile n v => exact Bool.false_ne_true
  | acc n v => exact Bool.false_ne_true

end

/-- Settles O30: each event at a queue by the head it finds, and the held write by what still uses the register. -/
theorem engineQueues : Obligations.EngineQueues := by
  intro s t q h rest
  refine fun run => ⟨fun cmds => ⟨fun g guard decided started fault => ?_, fun body startable => ⟨fun w => ?_, fun w ahead => ?_, fun w zero first => ?_⟩,
    fun ea n body => ?_, fun id mask sem body gathers heads => ?_⟩, fun live w held => ⟨fun back => ?_, fun free => ?_⟩⟩
  · rw [commandDecided_reads run cmds guard decided started fault]
    refine ⟨fun yes => ?_, fun no => ?_, fun free => ?_⟩
    · rw [yes]
      exact next_congr (updAt_congr (setHead_cmds cmds _))
    · rw [no]
      exact next_congr (updAt_congr (popCmd_acts cmds))
    · rw [free]
  · refine (engineCommandStart_starts run cmds body ?_).trans (next_congr (updAt_congr (startHead_free cmds w)))
    rw [headReady_eq cmds, startable, w]
    rfl
  · refine (engineCommandStart_starts run cmds body ?_).trans (next_congr (updAt_congr (startHead_takes cmds w)))
    rw [headReady_eq cmds, startable, smGet_of_ne _ w, decide_eq_true ahead, Bool.or_true, Bool.and_self]
  · refine (engineCommandStart_notes run cmds body ?_).trans (next_congr (updAt_congr (noteWait_notes cmds startable first w zero _)))
    rw [headReady_eq cmds, smGet_of_ne _ w, zero, beq_eq_false_iff_ne.2 w]
    simp
  · exact (engineCommandStart_prefetch run cmds body).trans (next_congr (updAt_congr (popCmd_acts cmds)))
  · obtain ⟨y, qh, o, popped⟩ := foldl_popNamed mask (s.tileAt t) queues
    refine ⟨(queues.foldl (Tile.popNamed mask) (s.tileAt t)).smSignal sem, joinComplete_leaves run cmds body gathers heads, fun e he => ?_, ?_, ?_⟩
    · rw [smSignal_eq]
      exact queues_popNamed mask (s.tileAt t) he
    · exact sm_smSignal_congr (by rw [popped]) sem
    · rw [smSignal_eq, popped]
  · cases w with
    | codebook b => exact next_congr (releaseHeld_waits held back true)
    | tile n v => exact next_congr (releaseHeld_waits held back false)
    | acc n v => exact next_congr (releaseHeld_waits held back false)
  · cases w with
    | codebook b => exact next_congr ((releaseHeld_writes held live free).trans (updAt_congr rfl))
    | tile n v => exact next_congr ((releaseHeld_writes held live free).trans (updAt_congr rfl))
    | acc n v => exact next_congr ((releaseHeld_writes held live free).trans (updAt_congr rfl))

end Sys2Proof.Machine
end

section
/-! SUPPORT. What the issue of a word of L or S leaves of its tile, and what the word comes to by its body's outcome (04 R76, R77, 07 R137, R139). -/

open Sys2Proof

namespace Sys2Proof.Machine

/-! ### What the issue of a word leaves -/

theorem popFor_form (t : Tile) (q : Sequencer) (ps : List Sequencer) : ∃ z a b c u, t.popFor q ps =
    (({ t with tok := z, outL := a, outS := b } : Tile).setLsState q { t.ls q with trail := u }).setClk q c := by
  have popped : ∀ u, ∃ z a b c, (t.setLsState q { t.ls q with trail := u }).popToks q ps =
      (({ t with tok := z, outL := a, outS := b } : Tile).setLsState q { t.ls q with trail := u }).setClk q c := fun u => by
    obtain ⟨z, c, a, b, h⟩ := popToks_form (t.setLsState q { t.ls q with trail := u }) q ps
    exact ⟨z, a, b, c, h.trans (by cases q <;> rfl)⟩
  obtain ⟨z, a, b, c, h⟩ := popped _
  exact ⟨z, a, b, c, _, h⟩

/-- Of the stepping tile the issue of a word changes the token queues, the marks, and its sequencer's clock and trail. -/
theorem lsIssue_form (s : State) (q : Sequencer) (f : LSF) : ∃ z a b c u, (s.lsIssue q f).tile =
    (({ s.tile with tok := z, outL := a, outS := b } : Tile).setLsState q { s.tile.ls q with trail := u }).setClk q c := by
  obtain ⟨z, a, b, c, u, h⟩ := popFor_form s.tile q (peersOf q f.pop)
  unfold State.lsIssue
  rw [tile_upd]
  split
  · exact ⟨z, a, b, c, u, h⟩
  · obtain ⟨z', a', b', e⟩ : ∃ z' a' b', (s.tile.popFor q (peersOf q f.pop)).reserve q (peersOf q f.push) =
      { s.tile.popFor q (peersOf q f.pop) with tok := z', outL := a', outS := b' } := ⟨_, _, _, reserve_eq ..⟩
    rw [e, h]
    exact ⟨z', a', b', c, u, by cases q <;> rfl⟩

section
variable (s : State) (q : Sequencer) (f : LSF)

theorem lsIssue_frame : let x := (s.lsIssue q f).tile
    x = { s.tile with tok := x.tok, outL := x.outL, outS := x.outS, k := x.k, l := x.l, c := x.c, s := x.s } := by
  obtain ⟨z, a, b, c, u, h⟩ := lsIssue_form s q f
  rw [h]
  cases q <;> rfl

theorem ls_lsIssue : let x := (s.lsIssue q f).tile.ls q
    x = { s.tile.ls q with clk := x.clk, trail := x.trail } := by
  obtain ⟨z, a, b, c, u, h⟩ := lsIssue_form s q f
  rw [h]
  cases q <;> rfl

@[simp] theorem reqs_lsIssue : (s.lsIssue q f).tile.reqs = s.tile.reqs := (congrArg Tile.reqs (lsIssue_frame s q f) :)

@[simp] theorem regspace_lsIssue : (s.lsIssue q f).tile.regspace = s.tile.regspace := (congrArg Tile.regspace (lsIssue_frame s q f) :)

@[simp] theorem rvalid_lsIssue : (s.lsIssue q f).tile.rvalid = s.tile.rvalid := (congrArg Tile.rvalid (lsIssue_frame s q f) :)

@[simp] theorem chans_lsIssue : (s.lsIssue q f).tile.chans = s.tile.chans := (congrArg Tile.chans (lsIssue_frame s q f) :)

@[simp] theorem q_lsIssue : (s.lsIssue q f).tile.q = s.tile.q := (congrArg Tile.q (lsIssue_frame s q f) :)

@[simp] theorem task_lsIssue : (s.lsIssue q f).tile.task = s.tile.task := (congrArg Tile.task (lsIssue_frame s q f) :)

@[simp] theorem regs_lsIssue : ((s.lsIssue q f).tile.ls q).regs = (s.tile.ls q).regs := (congrArg LSState.regs (ls_lsIssue s q f) :)

@[simp] theorem preds_lsIssue : ((s.lsIssue q f).tile.ls q).preds = (s.tile.ls q).preds := (congrArg LSState.preds (ls_lsIssue s q f) :)

@[simp] theorem pc_lsIssue : ((s.lsIssue q f).tile.ls q).pc = (s.tile.ls q).pc := (congrArg LSState.pc (ls_lsIssue s q f) :)

@[simp] theorem lc_lsIssue : ((s.lsIssue q f).tile.ls q).lc = (s.tile.ls q).lc := (congrArg LSState.lc (ls_lsIssue s q f) :)

@[simp] theorem areg_lsIssue (r : Reg) : (s.lsIssue q f).tile.areg q r = s.tile.areg q r := by simp [Tile.areg]

@[simp] theorem pred_lsIssue (p : BitVec 3) : (s.lsIssue q f).tile.pred q p = s.tile.pred q p := by simp [Tile.pred]

end

/-! ### What a word that finds nothing to wait for comes to, by its body's outcome -/

theorem consumed_none (s : State) (t : TileId) (c : Cause) : s.consumed t c none = s := ite_self s

section
variable {s s2 : State} {q : Sequencer} {f : LSF} {regs : List Reg} {preds : List (BitVec 3)} {body : State → Issue} (h : LsReady s q f regs preds)
include h

theorem lsRun_next {pay : BitVec 32} (e : body (s.lsIssue q f) = .next s2 pay) : s.lsRun q f regs preds body = s2.lsEnd s q f pay := by
  rw [lsRun_ready _ _ _ _ _ _ h, e]

theorem lsRun_pending (e : body (s.lsIssue q f) = .pending s2) : s.lsRun q f regs preds body = s2.lsGoOn q := by
  rw [lsRun_ready _ _ _ _ _ _ h, e]

theorem lsRun_stall (e : body (s.lsIssue q f) = .stall s2) : s.lsRun q f regs preds body = s2.upd fun t => t.lsHold q s.dev.now := by
  rw [lsRun_ready _ _ _ _ _ _ h, e]

theorem lsRun_jump {pay : BitVec 32} {target : Word} (e : body (s.lsIssue q f) = .jump (s.lsIssue q f) pay target)
    (inside : s.tile.inStream q target = true) : s.lsRun q f regs preds body = s.lsBranched q f pay target := by
  rw [lsRun_ready _ _ _ _ _ _ h, e]
  exact if_pos inside

theorem lsRun_loop {lc : Vector Loop 4} {target : Word} (e : body (s.lsIssue q f) = .loop s2 lc target) (inside : s.tile.inStream q target = true) :
    s.lsRun q f regs preds body = s2.upd fun t => (t.pushReserved q (peersOf q f.push) 0 (s.lsClk q f)).lsGo q lc target := by
  rw [lsRun_ready _ _ _ _ _ _ h, e]
  exact if_pos inside

section
variable (may : s.tile.mayStop q = true)
include may

/-- A cause that meets no lost data stops the sequencer with nothing done. -/
theorem lsRun_fault {c : Cause} {a : Word} (e : body (s.lsIssue q f) = .fault c a none) :
    s.lsRun q f regs preds body = s.lsStop q (peersOf q f.push) c a := by
  rw [lsRun_ready _ _ _ _ _ _ h, e]
  exact (if_pos may).trans (by rw [consumed_none])

theorem lsRun_jump_outside {pay : BitVec 32} {target : Word} (e : body (s.lsIssue q f) = .jump s2 pay target)
    (outside : s.tile.inStream q target = false) : s.lsRun q f regs preds body = s.lsStop q (peersOf q f.push) .illegal 0 := by
  rw [lsRun_ready _ _ _ _ _ _ h, e]
  exact (if_neg (by rw [outside]; decide)).trans (if_pos may)

end

end

end Sys2Proof.Machine
end

section
/-! SUPPORT. Address arithmetic, compares, branches and loops of L and S (07 R150 to R153, 09 R203, R205). -/

open Sys2Proof

namespace Sys2Proof.Machine

/-! ### Arithmetic and compares (07 R150, R151) -/

theorem upd_congr {s : State} {f g : Tile → Tile} (h : f s.tile = g s.tile) : s.upd f = s.upd g := congrArg (s.setTileAt s.cur) h

section
variable {s : State} {q : Sequencer} {f : LSF}

theorem lsSet_done {srcs : List Reg} {v : Tile → Word} {w : Word} (e : v (s.lsIssue q f).tile = w) (h : LsReady s q f (f.base :: srcs) []) :
    s.lsSet q f srcs v = s.lsDone q f 0 fun t => t.setLs q f.base w := by
  subst e
  exact lsRun_next h (congrArg (Issue.next · 0) (upd_congr rfl))

theorem predOf_eq (f : LSF) : predOf f = BitVec.ofNat 3 f.vreg.toNat := by
  apply BitVec.eq_of_toNat_eq
  simp [predOf]

theorem lsCmp_done {v : Word → Word → Bool} {c : Bool} (e : v ((s.lsIssue q f).tile.areg q f.index) ((s.lsIssue q f).tile.areg q (abOf f)) = c)
    (h : LsReady s q f [f.index, abOf f] [predOf f]) :
    s.lsCmp q f v = s.lsDone q f (if c then 1 else 0) fun t => t.setPred q (predOf f) c := by
  subst e
  exact lsRun_next h rfl

end

/-- Settles O15: each row is the shared operation of its form, whose value is read off before the issue. -/
theorem lsArithmetic : Obligations.LsArithmetic := by
  unfold Obligations.LsArithmetic
  intro s f
  simp only [← abOf_eq, ← predOf_eq]
  refine ⟨fun h => ?_, fun h => ?_, fun h => ?_, fun h => ?_, fun h => ?_, fun h => ?_, fun h => ?_, fun h => ?_, fun h => ?_, fun h => ?_, fun h => ?_,
    fun h => ?_, fun h => ?_, fun h => ?_, fun h => ?_, fun h => ?_, fun h => ?_, fun h => ?_⟩
  case refine_1 | refine_2 | refine_5 | refine_6 | refine_11 | refine_12 => exact next_congr (lsSet_done (by simp) h)
  case refine_3 | refine_4 => exact next_congr (lsSet_done (by simp [dispOf, BitVec.signExtend]) h)
  case refine_7 | refine_8 => exact next_congr (lsSet_done (by simp [ofNat_toNat_mul]) h)
  case refine_9 | refine_10 => exact next_congr (lsSet_done (by simp [ofNat_mul_two_pow, bits]) h)
  case refine_13 | refine_14 => exact next_congr (lsSet_done rfl h)
  case refine_15 | refine_16 => exact next_congr (lsCmp_done (by simp [BitVec.slt]) h)
  case refine_17 | refine_18 => exact next_congr (lsCmp_done (by simp [beq_eq_decide]) h)

/-! ### Branches, jumps and loops (07 R152, R153, 09 R203, R205) -/

section
variable {s : State} {q : Sequencer} {f : LSF}

theorem lsTarget_eq (t : Tile) (q : Sequencer) (f : LSF) : t.lsTarget q f = (t.ls q).pc + 8 * BitVec.ofInt 64 f.imm.toInt := rfl

@[simp] theorem lsTarget_lsIssue (s : State) (q : Sequencer) (f : LSF) : (s.lsIssue q f).tile.lsTarget q f = s.tile.lsTarget q f := by
  simp [Tile.lsTarget]

theorem lsCond_iff (t : Tile) (q : Sequencer) (f : LSF) : t.lsCond q f = true ↔ predOf f = 0 ∨ t.pred q (predOf f) ≠ f.vreg.getLsbD 3 := by
  simp [Tile.lsCond, bit]

@[simp] theorem lsCond_lsIssue (s : State) (q : Sequencer) (f : LSF) : (s.lsIssue q f).tile.lsCond q f = s.tile.lsCond q f := by
  simp [Tile.lsCond]

section
variable (h : LsReady s q f [] [predOf f])
include h

theorem lsBranch_taken (c : s.tile.lsCond q f = true) (inside : s.tile.inStream q (s.tile.lsTarget q f) = true) :
    s.lsBranch q f = s.lsBranched q f 1 (s.tile.lsTarget q f) := lsRun_jump h (by simp [c]) inside

theorem lsBranch_outside (c : s.tile.lsCond q f = true) (outside : s.tile.inStream q (s.tile.lsTarget q f) = false) (may : s.tile.mayStop q = true) :
    s.lsBranch q f = s.lsStop q (peersOf q f.push) .illegal 0 := lsRun_jump_outside (s2 := s.lsIssue q f) (pay := 1) h may (by simp [c]) outside

theorem lsBranch_untaken (c : s.tile.lsCond q f = false) : s.lsBranch q f = s.lsDone q f 0 id := by
  refine (lsRun_next (s2 := s.lsIssue q f) (pay := 0) h (by simp [c])).trans ?_
  simp [State.lsDone, State.upd, State.updAt]

end

section
variable (h : LsReady s q f [] [])
include h

theorem lsJump_inside (inside : s.tile.inStream q (s.tile.lsTarget q f) = true) : s.lsJump q f = s.lsBranched q f 0 (s.tile.lsTarget q f) :=
  lsRun_jump h (by simp) inside

theorem lsJump_outside (outside : s.tile.inStream q (s.tile.lsTarget q f) = false) (may : s.tile.mayStop q = true) :
    s.lsJump q f = s.lsStop q (peersOf q f.push) .illegal 0 :=
  lsRun_jump_outside (s2 := s.lsIssue q f) (pay := 0) h may (by simp) outside

end

/-- The trip word of a LOOP has no reserved bit set (09 R203). -/
def tripOk (w : Word) : Bool := bits w 63 48 == 0 && bits w 31 24 == 0

theorem tripOk_iff (w : Word) : tripOk w = true ↔ w.toNat / 2 ^ 48 = 0 ∧ w.toNat / 2 ^ 24 % 256 = 0 := by
  have top : w.toNat >>> 48 < 2 ^ 16 := by rw [Nat.shiftRight_eq_div_pow]; omega
  simp only [tripOk, bits, Bool.and_eq_true, beq_iff_eq]
  rw [Nat.mod_eq_of_lt top, Nat.shiftRight_eq_div_pow, Nat.shiftRight_eq_div_pow]
  rfl

theorem lsLoop_body (s : State) (q : Sequencer) (f : LSF) : s.lsLoop q f = s.lsRun q f [f.base] [] fun z =>
    if tripOk (z.tile.areg q f.base) then
      (match startLoop (z.tile.ls q).lc (z.tile.ls q).pc (f.vreg.toNat % 4) ((z.tile.areg q f.base).toNat % 2 ^ 24)
          ((z.tile.areg q f.base).extractLsb' 32 16).toInt 8 f.imm.toNat none with
        | none => .fault .illegal 0 none
        | some (lc, pc, _) => .loop z lc pc)
    else .fault .illegal 0 none := by
  unfold State.lsLoop
  congr 1
  funext z
  cases a : bits (z.tile.areg q f.base) 63 48 == 0 <;> cases b : bits (z.tile.areg q f.base) 31 24 == 0 <;> (simp [tripOk, bne, a, b] <;> rfl)

section
variable (h : LsReady s q f [f.base] [])
include h

theorem lsLoop_starts (ok : tripOk (s.tile.areg q f.base) = true) {lc : Vector Loop 4} {pc : Word} {n : Nat}
    (e : startLoop (s.tile.ls q).lc (s.tile.ls q).pc (f.vreg.toNat % 4) ((s.tile.areg q f.base).toNat % 2 ^ 24)
      ((s.tile.areg q f.base).extractLsb' 32 16).toInt 8 f.imm.toNat none = some (lc, pc, n)) (inside : s.tile.inStream q pc = true) :
    s.lsLoop q f = (s.lsIssue q f).upd fun t => (t.pushReserved q (peersOf q f.push) 0 (s.lsClk q f)).lsGo q lc pc := by
  rw [lsLoop_body]
  exact lsRun_loop h (by simp only [areg_lsIssue, lc_lsIssue, pc_lsIssue, ok, if_true, e]) inside

theorem lsLoop_illegal (bad : tripOk (s.tile.areg q f.base) = false) (may : s.tile.mayStop q = true) :
    s.lsLoop q f = s.lsStop q (peersOf q f.push) .illegal 0 := by
  rw [lsLoop_body]
  exact lsRun_fault h may (by rw [areg_lsIssue, bad]; rfl)

end
end

/-- Settles O16: the words of L and of S are one operation each, whose ways are stated above. -/
theorem lsBranchesAndLoops : Obligations.LsBranchesAndLoops := by
  intro s f q br jp lp words
  have meanings : exec br s = .next (s.lsBranch q f) ∧ exec jp s = .next (s.lsJump q f) ∧ exec lp s = .next (s.lsLoop q f) := by
    rcases words with ⟨rfl, rfl, rfl, rfl⟩ | ⟨rfl, rfl, rfl, rfl⟩
    · exact ⟨rfl, rfl, rfl⟩
    · exact ⟨rfl, rfl, rfl⟩
  obtain ⟨branch, jump, loop⟩ := meanings
  simp only [branch, jump, loop, ← predOf_eq, ← lsTarget_eq, ← lsCond_iff]
  refine ⟨fun h c i => next_congr (lsBranch_taken h c i), fun h c o may => next_congr (lsBranch_outside h c o may),
    fun h c => next_congr (lsBranch_untaken h (Bool.not_eq_true _ ▸ c)), fun h i => next_congr (lsJump_inside h i),
    fun h o may => next_congr (lsJump_outside h o may), fun lc pc n h hi mid e i => next_congr (lsLoop_starts h ((tripOk_iff _).2 ⟨hi, mid⟩) e i),
    fun h bad may => next_congr (lsLoop_illegal h (Bool.eq_false_iff.2 fun ok => ?_) may)⟩
  obtain ⟨hi, mid⟩ := (tripOk_iff _).1 ok
  exact bad.elim (· hi) (· mid)

end Sys2Proof.Machine
end

section
/-! SUPPORT. An access's plan leaves the lost units under the register space as they are (log 110). -/

open Sys2Proof

namespace Sys2Proof.Machine

/-- z has the lost units and the valid bits of the stepping tile's register space that s has. -/
def State.SameLosses (s z : State) : Prop := z.dev.lost = s.dev.lost ∧ z.cur = s.cur ∧ z.tile.rvalid = s.tile.rvalid

theorem State.SameLosses.refl (s : State) : s.SameLosses s := ⟨rfl, rfl, rfl⟩

theorem State.SameLosses.trans {s x y : State} (h : s.SameLosses x) (g : x.SameLosses y) : s.SameLosses y := by
  obtain ⟨lost, cur, valid⟩ := h
  obtain ⟨lost', cur', valid'⟩ := g
  exact ⟨lost'.trans lost, cur'.trans cur, valid'.trans valid⟩

theorem State.SameLosses.regPart_iff {s z : State} (h : s.SameLosses z) (rs : List (Nat × Nat)) : z.regPart rs = none ↔ s.regPart rs = none := by
  obtain ⟨lost, cur, valid⟩ := h
  simp only [State.regPart, Option.map_eq_none_iff, lost, cur, Tile.valid, valid]

theorem sameLosses_updDev (s : State) {f : Device → Device} (lost : (f s.dev).lost = s.dev.lost) (tiles : (f s.dev).tiles = s.dev.tiles) :
    s.SameLosses (s.updDev f) := by
  refine ⟨lost, rfl, ?_⟩
  unfold State.tile State.tileAt
  rw [dev_updDev, tiles]
  rfl

theorem sameLosses_updAt (s : State) (t : TileId) {f : Tile → Tile} (valid : (f (s.tileAt t)).rvalid = (s.tileAt t).rvalid) : s.SameLosses (s.updAt t f) := by
  refine ⟨rfl, rfl, ?_⟩
  unfold State.tile
  rw [cur_updAt, tileAt_updAt]
  split
  next h => rw [← h, valid]
  next => rfl

theorem sameLosses_lsIssue (s : State) (q : Sequencer) (f : LSF) : s.SameLosses (s.lsIssue q f) := ⟨rfl, rfl, rvalid_lsIssue s q f⟩

theorem sameLosses_bindTag (s : State) (tag : BitVec 12) : s.SameLosses (s.bindTag tag) := by
  unfold State.bindTag
  split
  · exact .refl s
  · split
    · exact sameLosses_updDev s rfl rfl
    · exact .refl s

theorem sameLosses_leafAt {s z : State} {t : TileId} {tag : BitVec 12} {va : Word} {l : Leaf} (e : s.leafAt t tag va = .ok (l, z)) : s.SameLosses z := by
  unfold State.leafAt at e
  split at e
  · split at e
    · cases e
    · cases e
      exact sameLosses_updAt s t rfl
  · split at e
    · cases e
    · cases e
      exact (sameLosses_bindTag s tag).trans (sameLosses_updAt _ t rfl)

theorem sameLosses_noteRequest (s : State) (t : TileId) (g : Target) : s.SameLosses (s.noteRequest t g) := by
  unfold State.noteRequest State.noteSent
  split
  · split
    · exact sameLosses_updDev s rfl rfl
    · exact sameLosses_updDev s rfl rfl
  · exact .refl s

theorem sameLosses_resolve {s z : State} {t : TileId} {sp : Space} {k : Acc} {va : Word} {n : Nat} {post : Bool} {w : Where}
    (e : s.resolve t sp k va n post = .ok (w, z)) : s.SameLosses z := by
  unfold State.resolve at e
  dsimp only at e
  split at e
  · split at e
    · cases e
      exact .refl s
    · cases e
  · split at e
    · cases e
      exact .refl s
    · cases e
  · split at e
    · cases e
    next found =>
      split at e
      · cases e
      · split at e
        · cases e
        · cases e
          exact (sameLosses_leafAt found).trans (sameLosses_noteRequest ..)

/-- z comes from an access's plan with the losses that s has. -/
def Plan.SameLosses (s : State) : Plan → Prop
  | .ok _ z => s.SameLosses z
  | _ => True

theorem Plan.SameLosses.add {s : State} {p : Plan} (h : p.SameLosses s) (t : TileId) (sp : Space) (k : Acc) (va : Word) (n off v : Nat) (post : Bool) :
    (p.add t sp k va n off v post).SameLosses s := by
  unfold Plan.add
  split
  next ps x =>
    split
    · trivial
    next found =>
      split
      · trivial
      · dsimp only
        split
        · trivial
        · exact State.SameLosses.trans h (sameLosses_resolve found)
  · exact h

theorem sameLosses_planElems {s z : State} {q : Sequencer} {sp : Space} {k : Acc} {f : LSF} {v : Nat} {ps : List Piece}
    (e : s.planElems q sp k f v = .ok ps z) : s.SameLosses z := by
  have kept : (s.planElems q sp k f v).SameLosses s := by
    unfold State.planElems
    refine List.foldlRecOn _ _ (motive := Plan.SameLosses s) (State.SameLosses.refl s) fun p h e _ => ?_
    dsimp only
    split
    · exact h
    · split
      · split
        · trivial
        · exact h.add ..
      · exact h
  rw [e] at kept
  exact kept

end Sys2Proof.Machine
end

section
/-! SUPPORT. Loads, gathers, atomics, stores and scatters of L and S (07 R138, R141 to R149, R168, 11 R262). -/

open Sys2Proof

namespace Sys2Proof.Machine

/-! ### What the operands of a memory word are once it has issued -/

section
variable (s : State) (q : Sequencer) (f : LSF)

theorem rread_congr {t u : Tile} (m : t.regspace = u.regspace) (v : t.rvalid = u.rvalid) (a n : Nat) : t.rread a n = u.rread a n := by
  have byte : ∀ b, t.rbyte b = u.rbyte b := fun b => by
    unfold Tile.rbyte Tile.valid
    rw [m, v]
  induction n generalizing a with
  | zero => rfl
  | succ n ih => rw [Tile.rread, Tile.rread, byte, ih]

@[simp] theorem rread_lsIssue (a n : Nat) : (s.lsIssue q f).tile.rread a n = s.tile.rread a n :=
  rread_congr (regspace_lsIssue s q f) (rvalid_lsIssue s q f) a n

@[simp] theorem indexOf_lsIssue : (s.lsIssue q f).tile.indexOf q f = s.tile.indexOf q f := by simp [Tile.indexOf]

@[simp] theorem lsEa_lsIssue (m : AMode) : (s.lsIssue q f).tile.lsEa q m f = s.tile.lsEa q m f := by cases m <;> simp [Tile.lsEa]

@[simp] theorem ctx_lsIssue : (s.lsIssue q f).tile.ctx = s.tile.ctx := by simp [Tile.ctx]

@[simp] theorem outstanding_lsIssue (o : Sequencer) : (s.lsIssue q f).tile.outstanding o = s.tile.outstanding o := by simp [Tile.outstanding]

@[simp] theorem storeRoom_lsIssue (sp : Space) : (s.lsIssue q f).tile.storeRoom sp = s.tile.storeRoom sp := by
  unfold Tile.storeRoom Tile.forwarding
  rw [outstanding_lsIssue, reqs_lsIssue]

@[simp] theorem gatherRoom_lsIssue : (s.lsIssue q f).tile.gatherRoom = s.tile.gatherRoom := by simp [Tile.gatherRoom]

end

/-! ### Loads (07 R142 to R144) -/

/-- The pieces of a load of a line: one for each of its sectors. -/
def linePieces (name : Word) (off w : Nat) : List Piece :=
  (List.range (w / 32)).map fun i => ⟨.line name, off + 32 * i, 32, 32 * i, name, .rc, false, false, 0⟩

/-- Where a load of a line begins in it (07 R144). -/
def Tile.lineOff (t : Tile) (m : AMode) (f : LSF) : Word := t.indexOf .l f + (match m with | .offset => dispOf f | .postInc => 0)

section
variable {s s2 : State} {f : LSF} {m : AMode} {wd : Width} {sp : Space} {ps : List Piece} (h : LsReady s .l f (addrRegsOf f) [])
  (room : s.tile.outstanding .l < 64)
include h room

theorem lsLoad_goes (al : (s.tile.lsEa .l m f).toNat % 32 = 0) (inside : sp.checkSpm (s.tile.lsEa .l m f) (widthBytes wd) = true)
    (plan : (s.lsIssue .l f).planSectors s.cur sp .read (s.tile.lsEa .l m f) (widthBytes wd) 0 false = .ok ps s2) :
    s.lsLoad sp m wd f = ((s2.upd fun t => t.postInc .l m f).launchReq s .l f (.load f.vreg) ps false false).lsGoOn .l := by
  unfold State.lsLoad
  refine lsRun_pending h ?_
  simp only [outstanding_lsIssue, lsEa_lsIssue, cur_lsIssue, Nat.not_le.2 room, al, inside, plan, ne_eq, not_true, Bool.not_true, Bool.false_eq_true, if_false]

theorem lsLoad_misaligned (mis : (s.tile.lsEa .l m f).toNat % 32 ≠ 0) (may : s.tile.mayStop .l = true) :
    s.lsLoad sp m wd f = s.lsStop .l (peersOf .l f.push) .align (s.tile.lsEa .l m f) := by
  unfold State.lsLoad
  refine lsRun_fault h may ?_
  simp only [outstanding_lsIssue, lsEa_lsIssue, Nat.not_le.2 room, if_false, ne_eq, mis, not_false_eq_true, if_true]

theorem lsLoadName_goes (al : (s.tile.lineOff m f).toNat % widthBytes wd = 0) (inside : (s.tile.lineOff m f).toNat + widthBytes wd ≤ 128) {v : Nat}
    (read : (s.lsIssue .l f).readLine s.tile.ctx (s.tile.areg .l f.base) (s.tile.lineOff m f).toNat (widthBytes wd) = .ok v) :
    s.lsLoadName m wd f = (((s.lsIssue .l f).upd fun t => t.postInc .l m f).launchReq s .l f (.load f.vreg)
      (linePieces (s.tile.areg .l f.base) (s.tile.lineOff m f).toNat (widthBytes wd)) false false).lsGoOn .l := by
  have fits : ¬ ((s.tile.lineOff m f).toNat % widthBytes wd ≠ 0 ∨ 128 < (s.tile.lineOff m f).toNat + widthBytes wd) := by omega
  unfold State.lsLoadName
  refine lsRun_pending h ?_
  unfold Tile.lineOff at fits read ⊢
  simp only [outstanding_lsIssue, indexOf_lsIssue, areg_lsIssue, ctx_lsIssue, Nat.not_le.2 room, if_false]
  rw [if_neg (by cases m <;> exact fits)]
  cases m <;> (simp only at read ⊢; rw [read]; rfl)

end

/-! ### Gathers and atomics (07 R148, R149, R168) -/

section
variable {s s2 : State} {f : LSF} {sp : Space} {ps : List Piece}

theorem lsGather_done (h : LsReady s .l f (addrRegsOf f) []) (room : s.tile.outstanding .l < 64) (gathers : s.tile.gatherRoom = true)
    (free : (s.lsIssue .l f).tile.loadOver (128 * bits f.imm 10 0) (4 * (128 / gatherSize f)) = false)
    (kept : s.regLost (128 * bits f.imm 10 0) (4 * (128 / gatherSize f)) = none) (plan : (s.lsIssue .l f).planElems .l sp .read f 0 = .ok ps s2)
    (whole : ps = [] ∨ s2.regPart (landsAt f.vreg.toNat ps) = none) :
    s.lsGather sp f = if ps = [] then s2.lsEnd s .l f 0 else (s2.launchReq s .l f (.load f.vreg) ps false false).lsGoOn .l := by
  have wait : ¬ ((decide (64 ≤ s.tile.outstanding .l) || !s.tile.gatherRoom ||
      (s.lsIssue .l f).tile.loadOver (128 * bits f.imm 10 0) (4 * (128 / gatherSize f))) = true) := by
    simp [gathers, free, room]
  unfold State.lsGather
  cases ps with
  | nil =>
    refine lsRun_next h ?_
    simp only [outstanding_lsIssue, gatherRoom_lsIssue, if_neg wait, kept, plan]
  | cons p ps =>
    have before : s.regPart (landsAt f.vreg.toNat (p :: ps)) = none :=
      (((sameLosses_lsIssue s .l f).trans (sameLosses_planElems plan)).regPart_iff _).1 (whole.resolve_left (List.cons_ne_nil p ps))
    refine lsRun_pending h ?_
    simp only [outstanding_lsIssue, gatherRoom_lsIssue, if_neg wait, kept, plan, before]

theorem lsAtomic_goes {op : BitVec 4} (h : LsReady s .s f (f.vreg.extractLsb' 0 5 :: f.vreg.extractLsb' 5 5 :: addrRegsOf f) [])
    (rel : s.sysRelease f (anyOrdered ps) = none) (al : (s.tile.lsEa .s .offset f).toNat % atomWidth op = 0)
    (plan : (Plan.ok [] (s.lsIssue .s f)).add s.cur sp .rmw (s.tile.lsEa .s .offset f) (atomWidth op) 0 0 false = .ok ps s2) :
    s.lsAtomic sp op f =
      (s2.launchReq s .s f (.atomic (f.vreg.extractLsb' 0 5) op (s.tile.areg .s (f.vreg.extractLsb' 5 5))) ps false false).lsGoOn .s := by
  unfold State.lsAtomic
  refine lsRun_pending h ?_
  simp only [lsEa_lsIssue, areg_lsIssue, cur_lsIssue, al, ne_eq, not_true, if_false, plan, rel]

/-! ### Stores and scatters (07 R138, R141 to R143, R148, 11 R262) -/

/-- A store that the word of state s has put in flight in state x: one to the scratchpad, or wholly at another device, has made its pushes. -/
def State.lsStored (x s : State) (f : LSF) (sp : Space) (ps : List Piece) : State :=
  if sp = .spm ∨ (∀ p ∈ ps, ∃ d, p.tgt = .remote d) then (x.launchReq s .s f .store ps true false).lsEnd s .s f 0
  else (x.launchReq s .s f .store ps false false).lsGoOn .s

theorem far_iff (p : Piece) : p.far = true ↔ ∃ d, p.tgt = .remote d := by
  unfold Piece.far
  cases p.tgt <;> simp

theorem accepted_iff (sp : Space) (ps : List Piece) : (sp = .spm || ps.all Piece.far) = true ↔ sp = .spm ∨ ∀ p ∈ ps, ∃ d, p.tgt = .remote d := by
  simp only [Bool.or_eq_true, decide_eq_true_eq, List.all_eq_true, far_iff]

theorem lsRun_accept {body : State → Issue} {regs : List Reg} {x : State} (h : LsReady s .s f regs []) (rel : s.sysRelease f (anyOrdered ps) = none)
    (e : body (s.lsIssue .s f) = x.lsAccept s f sp ps) : s.lsRun .s f regs [] body = x.lsStored s f sp ps := by
  unfold State.lsAccept at e
  rw [rel] at e
  unfold State.lsStored
  by_cases now : sp = .spm ∨ ∀ p ∈ ps, ∃ d, p.tgt = .remote d
  · rw [if_pos now]
    exact lsRun_next h (e.trans (if_pos ((accepted_iff sp ps).2 now)))
  · rw [if_neg now]
    exact lsRun_pending h (e.trans (if_neg fun y => now ((accepted_iff sp ps).1 y)))

section
variable {m : AMode} {wd : Width} (h : LsReady s .s f (addrRegsOf f) []) (room : s.tile.storeRoom sp = true)
  (kept : s.regLost (128 * f.vreg.toNat) (widthBytes wd) = none)
include h room kept

theorem lsStore_accepted (rel : s.sysRelease f (anyOrdered ps) = none) (al : (s.tile.lsEa .s m f).toNat % 32 = 0)
    (inside : sp.checkSpm (s.tile.lsEa .s m f) (widthBytes wd) = true)
    (plan : (s.lsIssue .s f).planSectors s.cur sp .write (s.tile.lsEa .s m f) (widthBytes wd) (s.tile.rread (128 * f.vreg.toNat) (widthBytes wd))
      (sp == .far) = .ok ps s2) :
    s.lsStore sp m wd f = (s2.upd fun t => t.postInc .s m f).lsStored s f sp ps := by
  unfold State.lsStore
  refine lsRun_accept h rel ?_
  simp only [storeRoom_lsIssue, lsEa_lsIssue, rread_lsIssue, cur_lsIssue, room, kept, al, inside, plan, ne_eq, not_true, Bool.not_true, Bool.false_eq_true,
    if_false]

theorem lsStore_misaligned (mis : (s.tile.lsEa .s m f).toNat % 32 ≠ 0) (may : s.tile.mayStop .s = true) :
    s.lsStore sp m wd f = s.lsStop .s (peersOf .s f.push) .align (s.tile.lsEa .s m f) := by
  unfold State.lsStore
  refine lsRun_fault h may ?_
  simp only [storeRoom_lsIssue, lsEa_lsIssue, room, kept, Bool.not_true, Bool.false_eq_true, if_false, ne_eq, mis, not_false_eq_true, if_true]

end

theorem lsScatter_accepted (h : LsReady s .s f (addrRegsOf f) []) (rel : s.sysRelease f (ps = [] || anyOrdered ps) = none) (room : s.tile.storeRoom sp = true)
    (gathers : s.tile.gatherRoom = true) (offs : s.regLost (128 * bits f.imm 10 0) (4 * (128 / gatherSize f)) = none)
    (kept : s.regLost (128 * f.vreg.toNat) 128 = none)
    (plan : (s.lsIssue .s f).planElems .s sp .write f (s.tile.rread (128 * f.vreg.toNat) 128) = .ok ps s2) :
    s.lsScatter sp f = if ps = [] then s2.lsEnd s .s f 0 else s2.lsStored s f sp ps := by
  unfold State.lsScatter
  cases ps with
  | nil =>
    refine lsRun_next h ?_
    have any : s.sysRelease f true = none := rel
    simp only [storeRoom_lsIssue, gatherRoom_lsIssue, rread_lsIssue, room, gathers, offs, kept, plan, any, Bool.not_true, Bool.or_self, Bool.false_eq_true,
      if_false, Option.or_none]
  | cons p ps =>
    refine lsRun_accept h rel ?_
    simp only [storeRoom_lsIssue, gatherRoom_lsIssue, rread_lsIssue, room, gathers, offs, kept, plan, Bool.not_true, Bool.or_self, Bool.false_eq_true,
      if_false, Option.or_none]

end

theorem extract_low_eq (v : BitVec 11) : v.extractLsb' 0 5 = BitVec.ofNat 5 v.toNat := by
  apply BitVec.eq_of_toNat_eq
  simp

theorem extract_mid_eq (v : BitVec 11) : v.extractLsb' 5 5 = BitVec.ofNat 5 (v.toNat / 32) := by
  apply BitVec.eq_of_toNat_eq
  simp [Nat.shiftRight_eq_div_pow]

/-- Settles O18: the words of each row are one operation in five spaces, in two for gathers and in three for atomics. -/
theorem lsLoadsGathersAtomics : Obligations.LsLoadsGathersAtomics := by
  intro s s2 f m wd op ps
  simp only [← extract_low_eq, ← extract_mid_eq]
  refine ⟨fun p hp h room => ?_, fun h room al inside v read => ?_, fun p hp h room gathers free kept plan whole => ?_, fun p hp h rel al plan => ?_⟩
  · have load : exec p.2 s = .next (s.lsLoad p.1 m wd f) := by
      simp only [List.mem_cons, List.not_mem_nil, or_false] at hp
      rcases hp with rfl | rfl | rfl | rfl | rfl <;> rfl
    rw [load]
    exact ⟨fun al inside plan => next_congr (lsLoad_goes h room al inside plan), fun mis may => next_congr (lsLoad_misaligned h room mis may)⟩
  · cases m
    · exact next_congr (lsLoadName_goes h room al inside read)
    · exact next_congr (lsLoadName_goes h room al inside read)
  · have gather : exec p.2 s = .next (s.lsGather p.1 f) := by
      simp only [List.mem_cons, List.not_mem_nil, or_false] at hp
      rcases hp with rfl | rfl <;> rfl
    exact gather.trans (next_congr (lsGather_done h room gathers free kept plan whole))
  · have atomic : exec p.2 s = .next (s.lsAtomic p.1 op f) := by
      simp only [List.mem_cons, List.not_mem_nil, or_false] at hp
      rcases hp with rfl | rfl | rfl <;> rfl
    exact atomic.trans (next_congr (lsAtomic_goes h rel al plan))

/-- Settles O19: the stores are one operation in five spaces, the scatters one in two. -/
theorem lsStoresAndScatters : Obligations.LsStoresAndScatters := by
  intro s s2 f m wd ps
  refine ⟨fun p hp h rel room kept => ?_, fun p hp h rel room gathers offs kept plan => ?_⟩
  · have store : exec p.2 s = .next (s.lsStore p.1 m wd f) := by
      simp only [List.mem_cons, List.not_mem_nil, or_false] at hp
      rcases hp with rfl | rfl | rfl | rfl | rfl <;> rfl
    rw [store]
    exact ⟨fun al inside plan => next_congr (lsStore_accepted h room kept rel al inside (beq_eq_decide p.1 Space.far ▸ plan)),
      fun mis may => next_congr (lsStore_misaligned h room kept mis may)⟩
  · have scatter : exec p.2 s = .next (s.lsScatter p.1 f) := by
      simp only [List.mem_cons, List.not_mem_nil, or_false] at hp
      rcases hp with rfl | rfl <;> rfl
    exact scatter.trans (next_congr (lsScatter_accepted h rel room gathers offs kept plan))

end Sys2Proof.Machine
end

section
/-! SUPPORT. The engine commands of L and S at issue: descriptors, prefetches and sends (07 R154 to R161). -/

open Sys2Proof

namespace Sys2Proof.Machine

/-! ### What a command word reads once it has issued -/

section
variable (s : State) (q : Sequencer) (f : LSF)

@[simp] theorem queueSpace_lsIssue (e : Queue) : (s.lsIssue q f).tile.queueSpace e = s.tile.queueSpace e := by
  unfold Tile.queueSpace Tile.cmds
  rw [q_lsIssue]

@[simp] theorem faccOpen_lsIssue : (s.lsIssue q f).tile.faccOpen = s.tile.faccOpen := by simp [Tile.faccOpen]

/-- The tag of a command: the low bits of its word's address (07 R154). -/
theorem tag_lsIssue_l : (s.lsIssue .l f).tile.l.pc.setWidth 32 = BitVec.ofNat 32 s.tile.l.pc.toNat :=
  (congrArg (·.setWidth 32) (pc_lsIssue s .l f)).trans (BitVec.ofNat_toNat ..).symm

theorem tag_lsIssue_s : (s.lsIssue .s f).tile.s.pc.setWidth 32 = BitVec.ofNat 32 s.tile.s.pc.toNat :=
  (congrArg (·.setWidth 32) (pc_lsIssue s .s f)).trans (BitVec.ofNat_toNat ..).symm

end

/-! ### Descriptors and prefetches (07 R154 to R160) -/

section
variable {s : State} {f : LSF} {e : Queue} {n : Nat} {check : Nat → DescRes} (h : LsReady s .l f [] []) (space : s.tile.queueSpace e = true)
  (facc : s.tile.faccOpen = false) (free : (s.lsIssue .l f).tile.loadOver (128 * f.vreg.toNat) n = false) (kept : s.regLost (128 * f.vreg.toNat) n = none)
include h space facc free kept

theorem lsDesc_enters {body : CmdBody} {fl : DescFlags} {wait sig : BitVec 8} (ok : check (s.tile.rread (128 * f.vreg.toNat) n) = .ok (body, fl, wait, sig)) :
    s.lsDesc f e n check = s.lsDone .l f 0 fun t => t.pushCmd e (newCmd body (BitVec.ofNat 32 s.tile.l.pc.toNat) fl.guard wait sig fl.r (s.lsClk .l f)) := by
  unfold State.lsDesc
  refine lsRun_next h (pay := 0) ?_
  simp only [queueSpace_lsIssue, faccOpen_lsIssue, rread_lsIssue, space, facc, free, kept, ok, Bool.not_true, Bool.or_self, Bool.false_eq_true, if_false]
  refine congrArg (Issue.next · 0) (upd_congr ?_)
  rw [tag_lsIssue_l]
  rfl

theorem lsDesc_stops {c : Cause} {a : Word} (may : s.tile.mayStop .l = true) (bad : check (s.tile.rread (128 * f.vreg.toNat) n) = .error (c, a)) :
    s.lsDesc f e n check = s.lsStop .l (peersOf .l f.push) c a := by
  unfold State.lsDesc
  refine lsRun_fault h may ?_
  simp only [queueSpace_lsIssue, faccOpen_lsIssue, rread_lsIssue, space, facc, free, kept, bad, Bool.not_true, Bool.or_self, Bool.false_eq_true, if_false]

end

theorem pfh_enters {s : State} {f : LSF} (h : LsReady s .l f (addrRegsOf f) []) (space : s.tile.queueSpace .copy = true) (facc : s.tile.faccOpen = false) :
    exec (.pfh f) s = .next (s.lsDone .l f 0 fun t => t.pushCmd .copy
      (newCmd (.prefetch (s.tile.lsEa .l .offset f) (f.vreg.toNat + 1)) (BitVec.ofNat 32 s.tile.l.pc.toNat) none 0 0 false (s.lsClk .l f))) := by
  have ex : exec (.pfh f) s = execPfh f s := rfl
  rw [ex]
  refine next_congr (lsRun_next h ?_)
  simp only [queueSpace_lsIssue, faccOpen_lsIssue, lsEa_lsIssue, space, facc, Bool.not_true, Bool.or_self, Bool.false_eq_true, if_false]
  rw [tag_lsIssue_l]
  rfl

/-! ### Sends (07 R161) -/

/-- A word of S whose release waits for nothing is run as any other. -/
theorem sRun_released {s : State} {f : LSF} (rel : s.sysRelease f true = none) (regs : List Reg) (preds : List (BitVec 3)) (body : State → Issue) :
    s.sRun f regs preds body = s.lsRun .s f regs preds body := by
  unfold State.sRun
  rw [rel]

section
variable {s : State} {f : LSF} (h : LsReady s .s f (addrRegsOf f) []) (rel : s.sysRelease f true = none) (space : s.tile.queueSpace .send = true) (r : Option Nat)
include h rel space

theorem lsSend_enters (ok : sendOk (s.tile.areg .s f.base) f.vreg.toNat r = true) {seq : Tile → BitVec 16} {n : BitVec 16}
    (hn : seq (s.lsIssue .s f).tile = n) : let w := s.tile.areg .s f.base
    s.lsSend f r seq = s.lsDone .s f 0 fun t => t.pushCmd .send (newCmd (.send w n f.vreg.toNat r) (BitVec.ofNat 32 s.tile.s.pc.toNat)
      (if w.getLsbD 37 then some (w.extractLsb' 38 4) else none) (w.extractLsb' 20 8) (w.extractLsb' 28 8) (w.getLsbD 36) (s.lsClk .s f)) := by
  unfold State.lsSend
  rw [sRun_released rel]
  refine lsRun_next h ?_
  simp only [queueSpace_lsIssue, areg_lsIssue, space, ok, hn, Bool.not_true, Bool.false_eq_true, if_false]
  rw [tag_lsIssue_s]
  rfl

theorem lsSend_illegal (bad : sendOk (s.tile.areg .s f.base) f.vreg.toNat r = false) (may : s.tile.mayStop .s = true) (seq : Tile → BitVec 16) :
    s.lsSend f r seq = s.lsStop .s (peersOf .s f.push) .illegal 0 := by
  unfold State.lsSend
  rw [sRun_released rel]
  refine lsRun_fault h may ?_
  simp only [queueSpace_lsIssue, areg_lsIssue, space, bad, Bool.not_true, Bool.not_false, Bool.false_eq_true, if_false, if_true]

end

/-- Settles O20: the descriptors are one operation with the check of each, the sends one with the sequence of each. -/
theorem lsEngineCommands : Obligations.LsEngineCommands := by
  intro s f
  refine ⟨fun p hp h space facc free kept => ?_, fun h space facc => pfh_enters h space facc, fun p hp h rel space => ?_⟩
  · have desc : exec p.1 s = .next (s.lsDesc f p.2.1 p.2.2.1 p.2.2.2) := by
      simp only [List.mem_cons, List.not_mem_nil, or_false] at hp
      rcases hp with rfl | rfl | rfl | rfl <;> rfl
    rw [desc]
    exact ⟨fun body fl wait sig ok => next_congr (lsDesc_enters h space facc free kept ok),
      fun c a may bad => next_congr (lsDesc_stops h space facc free kept may bad)⟩
  · have send : ∃ seq : Tile → BitVec 16, exec p.1 s = .next (s.lsSend f p.2.1 seq) ∧ seq (s.lsIssue .s f).tile = BitVec.ofNat 16 p.2.2.toNat := by
      simp only [List.mem_cons, List.not_mem_nil, or_false] at hp
      rcases hp with rfl | rfl
      · exact ⟨_, rfl, by rw [indexOf_lsIssue, BitVec.ofNat_toNat]⟩
      · exact ⟨_, rfl, by rw [indexOf_lsIssue, BitVec.ofNat_toNat]⟩
    obtain ⟨seq, ex, hn⟩ := send
    rw [ex]
    exact ⟨fun ok => next_congr (lsSend_enters h rel space p.2.1 ok hn), fun bad may => next_congr (lsSend_illegal h rel space p.2.1 bad may seq)⟩

end Sys2Proof.Machine
end

section
/-! SUPPORT. CHSEND and CHRECV, and the send that leaves for the receiver's tile (07 R138, R163, R164, 12 R287, R288). -/

open Sys2Proof

namespace Sys2Proof.Machine

theorem chanOf_eq (f : LSF) : chanOf f = f.imm.toNat % 64 := rfl

@[simp] theorem launch_lsIssue (s : State) (q : Sequencer) (f : LSF) : (s.lsIssue q f).tile.launch = s.tile.launch := by simp [Tile.launch]

theorem chanDecl_lsIssue (s : State) (q : Sequencer) (f : LSF) (l : Word) (c : Nat) : (s.lsIssue q f).chanDecl l c = s.chanDecl l c := rfl

/-- A request that is left to the network is put in flight only. -/
theorem cur_launchReq (s before : State) (q : Sequencer) (f : LSF) (kind : ReqKind) (ps : List Piece) (finished : Bool) :
    (s.launchReq before q f kind ps finished true).cur = s.cur := rfl

/-! ### CHSEND (07 R138, R163, 12 R287) -/

/-- The state in which CHSEND has taken its data, its request in flight. -/
def State.chanTaken (s : State) (f : LSF) (bytes : Nat) : State :=
  ((s.lsIssue .s f).upd fun t => { t with chans := wr t.chans (chanOf f) { rd s.tile.chans (chanOf f) with stallS := none } }).launchReq s .s f
    (.chsend (chanOf f) (leBytes bytes (s.tile.rread (128 * f.vreg.toNat) bytes))) [] false true

section
variable {s : State} {f : LSF} (h : LsReady s .s f [] []) (rel : s.sysRelease f true = none)
include h rel

theorem chsend_denied (other : (rd s.tile.chans (chanOf f)).sender = false) (may : s.tile.mayStop .s = true) :
    exec (.chsend f) s = .next (s.lsStop .s (peersOf .s f.push) .accessDenied 0) := by
  have ex : exec (.chsend f) s = execChsend f s := rfl
  rw [ex]
  unfold execChsend
  rw [sRun_released rel]
  refine next_congr (lsRun_fault h may ?_)
  simp only [chans_lsIssue, other, Bool.not_false, if_true]

section
variable {l : Launch} {k : ChanDecl} (decl : s.chanDecl s.tile.launch (chanOf f) = some (l, k)) (sender : (rd s.tile.chans (chanOf f)).sender = true)
include decl sender

theorem chsend_stalls (none_ : (rd s.tile.chans (chanOf f)).free = 0) :
    exec (.chsend f) s = .next (s.upd fun t => ({ t with chans := wr t.chans (chanOf f) { rd s.tile.chans (chanOf f) with
      stallS := some ((rd s.tile.chans (chanOf f)).stallS.getD s.dev.now) } } : Tile).lsHold .s s.dev.now) := by
  have ex : exec (.chsend f) s = execChsend f s := rfl
  rw [ex]
  unfold execChsend
  rw [sRun_released rel]
  refine next_congr ((lsRun_stall h ?_).trans (upd_upd ..))
  simp only [chans_lsIssue, launch_lsIssue, chanDecl_lsIssue, decl, sender, none_, Bool.not_true, Bool.false_eq_true, if_false, if_true]

theorem chsend_goes (free : (rd s.tile.chans (chanOf f)).free ≠ 0) (sound : (rd s.tile.chans (chanOf f)).fault = false)
    (slot : ((s.lsIssue .s f).tile.sends (chanOf f)).length < (rd s.tile.chans (chanOf f)).free.toNat)
    (kept : s.regLost (128 * f.vreg.toNat) k.bytes = none) {u : TileId} (dst : l.tileOfTask k.dst = some u) :
    exec (.chsend f) s = .next ((if s.defer then s.chanTaken f k.bytes else (s.chanTaken f k.bytes).chanSend s.cur (chanOf f)).lsGoOn .s) := by
  have ex : exec (.chsend f) s = execChsend f s := rfl
  rw [ex]
  unfold execChsend
  rw [sRun_released rel]
  refine next_congr (lsRun_pending h ?_)
  simp only [chans_lsIssue, launch_lsIssue, chanDecl_lsIssue, rread_lsIssue, decl, sender, free, sound, Nat.not_le.2 slot, kept, dst, Option.isNone_some,
    decide_false, Bool.or_self, Bool.not_true, Bool.false_eq_true, if_false, State.chanTaken, cur_launchReq, cur_upd, cur_lsIssue]

end

end

/-- The oldest send of a channel, which no release holds, takes a slot, counts it and leaves for the receiver's tile (12 R287). -/
theorem chanSend_injects {s : State} {t : TileId} {c : Nat} {r : Req} {more : List Req} {data : List Byte} {l : Launch} {k : ChanDecl} {u : TileId}
    (decl : s.chanDecl (s.tileAt t).launch c = some (l, k)) (sends : (s.tileAt t).sends c = r :: more) (kind : r.kind = .chsend c data)
    (free : (rd (s.tileAt t).chans c).free ≠ 0) (held : (s.tileAt t).listHeld r = false) (dst : l.tileOfTask k.dst = some u) :
    let h := rd (s.tileAt t).chans c
    s.chanSend t c = (s.sendTo t u 1 (BitVec.ofNat 16 h.sent.toNat) 1 (.slot c h.sent data) r.clk).updAt t fun x =>
      { x.endReq r 0 with chans := wr x.chans c { h with free := h.free - 1, sent := h.sent + 1 } } := by
  unfold State.chanSend
  simp only [sends, List.head?_cons, kind, decl, free, held, decide_false, Bool.or_self, Bool.false_eq_true, if_false, dst, BitVec.ofNat_toNat]

/-! ### CHRECV (07 R164, 12 R287, R288) -/

section
variable {s : State} {f : LSF} (h : LsReady s .l f [] [])
include h

theorem chrecv_denied (other : (rd s.tile.chans (chanOf f)).receiver = false) (may : s.tile.mayStop .l = true) :
    exec (.chrecv f) s = .next (s.lsStop .l (peersOf .l f.push) .accessDenied 0) := by
  have ex : exec (.chrecv f) s = execChrecv f s := rfl
  rw [ex]
  unfold execChrecv
  refine next_congr (lsRun_fault h may ?_)
  simp only [chans_lsIssue, other, Bool.not_false, if_true]

section
variable {l : Launch} {k : ChanDecl} (decl : s.chanDecl s.tile.launch (chanOf f) = some (l, k)) (receiver : (rd s.tile.chans (chanOf f)).receiver = true)
include decl receiver

theorem chrecv_stalls (none_ : (rd s.tile.chans (chanOf f)).received = (rd s.tile.chans (chanOf f)).consumed) :
    exec (.chrecv f) s = .next (s.upd fun t => ({ t with chans := wr t.chans (chanOf f) { rd s.tile.chans (chanOf f) with
      stallR := some ((rd s.tile.chans (chanOf f)).stallR.getD s.dev.now) } } : Tile).lsHold .l s.dev.now) := by
  have ex : exec (.chrecv f) s = execChrecv f s := rfl
  rw [ex]
  unfold execChrecv
  refine next_congr ((lsRun_stall h ?_).trans (upd_upd ..))
  simp only [chans_lsIssue, launch_lsIssue, chanDecl_lsIssue, decl, receiver, none_, Bool.not_true, Bool.false_eq_true, if_false, if_true]

/-- A slot that has arrived leaves the ring for the register, is counted, and its count goes back to the sender. -/
theorem chrecv_takes (arrived : (rd s.tile.chans (chanOf f)).received ≠ (rd s.tile.chans (chanOf f)).consumed) (facc : s.tile.faccOpen = false)
    (free : (s.lsIssue .l f).tile.loadOver (128 * f.vreg.toNat) k.bytes = false) {a : Nat}
    (ha : k.ring + k.bytes * ((rd s.tile.chans (chanOf f)).consumed.toNat % k.slots) = a) (kept : s.isLost 1 s.cur.val a k.bytes = false) {u : TileId}
    (src : l.tileOfTask k.src = some u) : let n := (rd s.tile.chans (chanOf f)).consumed + 1
    exec (.chrecv f) s = .next (((((s.lsIssue .l f).upd fun t =>
        { (t.rwrite (128 * f.vreg.toNat) k.bytes ((t.spmView t.l.clk).readN a k.bytes)).mark .l (t.l.clk.l + 1) with
          chans := wr t.chans (chanOf f) { rd s.tile.chans (chanOf f) with consumed := n, stallR := none } }).heal 2 s.cur.val (128 * f.vreg.toNat) k.bytes).sendTo
      s.cur u 2 (BitVec.ofNat 16 n.toNat) 2 (.ret (chanOf f) n) (s.lsClk .l f)).lsEnd s .l f (rd s.tile.chans (chanOf f)).consumed) := by
  have ex : exec (.chrecv f) s = execChrecv f s := rfl
  have kept' : (s.lsIssue .l f).isLost 1 s.cur.val a k.bytes = false := kept
  rw [ex]
  unfold execChrecv
  refine next_congr (lsRun_next h ?_)
  simp only [chans_lsIssue, launch_lsIssue, chanDecl_lsIssue, faccOpen_lsIssue, cur_lsIssue, decl, receiver, arrived, facc, free, ha, kept', src,
    BitVec.ofNat_toNat, Bool.or_self, Bool.not_true, Bool.false_eq_true, if_false, cur_upd, cur_heal]
  rfl

end

end

/-- Settles O21: each instruction by what its end of the channel and its counters are, and the send that leaves. -/
theorem channelInstructions : Obligations.ChannelInstructions := by
  intro s f l k u
  refine ⟨fun h rel other may => chsend_denied h rel other may, fun h other may => chrecv_denied h other may, fun decl =>
    ⟨fun h rel sender free sound slot kept dst => chsend_goes h rel decl sender free sound slot kept dst,
      fun r more data sends kind free held dst => chanSend_injects decl sends kind free held dst,
      fun h rel sender none_ => chsend_stalls h rel decl sender none_, fun h receiver none_ => chrecv_stalls h decl receiver none_,
      fun h receiver arrived facc free kept src => chrecv_takes h decl receiver arrived facc free rfl kept src⟩⟩

end Sys2Proof.Machine
end

section
/-! SUPPORT. Work lists, FACC and lookups of L and S (07 R165 to R167, R169, 10 R239, R240). -/

open Sys2Proof

namespace Sys2Proof.Machine

/-! ### Work lists (07 R165, R166, 10 R239, R240) -/

theorem listOf_lsIssue (s : State) (q : Sequencer) (f : LSF) : (s.lsIssue q f).tile.listOf q f = s.tile.listOf q f := by simp [Tile.listOf]

theorem workList_lsIssue (s : State) (q : Sequencer) (f : LSF) (d : DieId) (l : Word) (n : Nat) : (s.lsIssue q f).workList d l n = s.workList d l n := rfl

theorem launch?_lsIssue (s : State) (q : Sequencer) (f : LSF) (l : Word) : (s.lsIssue q f).launch? l = s.launch? l := rfl

section
variable {s : State} {f : LSF} {w : WorkList} {l : Launch} (launch : s.launch? s.tile.launch = some l)
include launch

section
variable (h : LsReady s .s f (addrRegsOf f) []) (rel : s.sysRelease f true = none)
  (list : s.workList (dieOf s.cur) s.tile.launch (s.tile.listOf .s f) = some w)
include h rel list

theorem wlapp_quiescent (done : l.quiescent = true) (may : s.tile.mayStop .s = true) :
    exec (.wlapp f) s = .next (s.lsStop .s (peersOf .s f.push) .launchStall 0) := by
  have ex : exec (.wlapp f) s = execWlapp f s := rfl
  rw [ex]
  unfold execWlapp
  rw [sRun_released rel]
  refine next_congr (lsRun_fault h may ?_)
  simp only [cur_lsIssue, launch_lsIssue, listOf_lsIssue, workList_lsIssue, launch?_lsIssue, list, launch, done, if_true]

/-- An append for which its list has room goes in flight, and reaches the die's unit at once where its turn lets it. -/
theorem wlapp_goes (running : l.quiescent = false)
    (room : w.items.length + (s.lsIssue .s f).listReqs (dieOf s.cur) s.tile.launch (s.tile.listOf .s f) true < w.cap) :
    let z := (s.lsIssue .s f).launchReq s .s f (.wlapp (dieOf s.cur) (s.tile.listOf .s f) (s.tile.areg .s f.base)) [] false true
    exec (.wlapp f) s = .next ((if s.defer then z else z.appendArrives s.cur).lsGoOn .s) := by
  have ex : exec (.wlapp f) s = execWlapp f s := rfl
  rw [ex]
  unfold execWlapp
  rw [sRun_released rel]
  refine next_congr (lsRun_pending h ?_)
  simp only [cur_lsIssue, launch_lsIssue, listOf_lsIssue, workList_lsIssue, launch?_lsIssue, areg_lsIssue, list, launch, running, Nat.not_le.2 room,
    Bool.false_eq_true, if_false, cur_launchReq]

end

section
variable (h : LsReady s .l f (addrRegsOf f) [predOf f]) (list : s.workList (dieOf s.cur) s.tile.launch (s.tile.listOf .l f) = some w)
include h list

theorem wlpop_quiescent (done : l.quiescent = true) : exec (.wlpop f) s = .next (s.lsDone .l f 0xFFFFFFFF fun t =>
    (t.setLs .l f.base (BitVec.allOnes 64)).setPred .l (predOf f) false) := by
  have ex : exec (.wlpop f) s = execWlpop f s := rfl
  rw [ex]
  unfold execWlpop
  refine next_congr (lsRun_next h ?_)
  simp only [cur_lsIssue, launch_lsIssue, listOf_lsIssue, workList_lsIssue, launch?_lsIssue, list, launch, done, if_true]
  rfl

/-- A pop for which its list holds an item goes in flight, and reaches the die's unit at once where its turn lets it. -/
theorem wlpop_goes (running : l.quiescent = false) (facc : s.tile.faccOpen = false)
    (item : (s.lsIssue .l f).listReqs (dieOf s.cur) s.tile.launch (s.tile.listOf .l f) false < w.items.length) :
    let z := (s.lsIssue .l f).launchReq s .l f (.wlpop f.base (dieOf s.cur) (s.tile.listOf .l f) (predOf f)) [] false true
    exec (.wlpop f) s = .next ((if s.defer then z else z.popArrives s.cur).lsGoOn .l) := by
  have ex : exec (.wlpop f) s = execWlpop f s := rfl
  rw [ex]
  unfold execWlpop
  refine next_congr (lsRun_pending h ?_)
  simp only [cur_lsIssue, launch_lsIssue, listOf_lsIssue, workList_lsIssue, launch?_lsIssue, faccOpen_lsIssue, list, launch, running, facc, item,
    Bool.false_eq_true, if_false, if_true, cur_launchReq]
  rfl

end

end

/-! ### FACC (07 R169) -/

/-- The address of a FACC: its offset is in 17 bits. -/
def Tile.faccEa (t : Tile) (f : LSF) : Word := t.areg .l f.base + t.indexOf .l f + (f.imm.extractLsb' 0 17).signExtend 64

/-- The status predicate of a FACC. -/
def faccPred (f : LSF) : BitVec 3 := f.imm.extractLsb' 17 3

theorem faccPred_eq (f : LSF) : faccPred f = BitVec.ofNat 3 (f.imm.toNat / 2 ^ 17) := by
  apply BitVec.eq_of_toNat_eq
  simp [faccPred, Nat.shiftRight_eq_div_pow]

theorem facc_goes {s s2 : State} {f : LSF} {ps : List Piece}
    (h : LsReady s .l f (f.vreg.extractLsb' 0 5 :: f.vreg.extractLsb' 5 5 :: addrRegsOf f) [faccPred f]) (open_ : s.tile.faccOpen = false)
    (al : (s.tile.faccEa f).toNat % (if bit f.vreg 10 then 8 else 4) = 0)
    (plan : (Plan.ok [] (s.lsIssue .l f)).add s.cur .far .rmw (s.tile.faccEa f) (if bit f.vreg 10 then 8 else 4) 0 0 false = .ok ps s2) :
    exec (.facc f) s = .next ((s2.launchReq s .l f (.facc (f.vreg.extractLsb' 0 5) (bit f.vreg 10) (s.tile.areg .l (f.vreg.extractLsb' 5 5)) (faccPred f))
      ps false false).lsGoOn .l) := by
  have ex : exec (.facc f) s = execFacc f s := rfl
  rw [ex]
  unfold execFacc
  refine next_congr (lsRun_pending h ?_)
  unfold Tile.faccEa at al plan
  simp only [cur_lsIssue, faccOpen_lsIssue, areg_lsIssue, indexOf_lsIssue, open_, al, plan, ne_eq, not_true, Bool.false_eq_true, if_false]
  rfl

/-! ### Lookups (07 R167, 17 R347, log 112) -/

section
variable {s : State} {f : LSF} (h : LsReady s .s f [f.base] []) (rel : s.sysRelease f true = none)
  (first : (s.lsIssue .s f).tile.releaseWaits .s f = false) (acquired : (s.lsIssue .s f).tile.acquireBefore .s = false) (interior : Bool)
include h rel first acquired

/-- S stands at its word while the request is in the network. -/
theorem lsLook_away (away : s.defer = true) : s.lsLook f interior = (s.bindTag s.tile.ctx).upd fun t =>
    let t := t.lsHold .s s.dev.now
    t.setLsState .s { t.ls .s with sent := some ((t.ls .s).sent.getD (s.dev.now, 0)) } := by
  unfold State.lsLook
  rw [sRun_released rel, lsRun_ready _ _ _ _ _ _ h]
  simp only [first, acquired, away, Bool.or_self, Bool.false_eq_true, if_false, if_true]

theorem lsLook_answered (here : s.defer = false) (kept : s.regLost (128 * f.vreg.toNat) 128 = none) {name : Word} {s2 : State}
    (found : (s.lsIssue .s f).lookup s.tile.ctx (s.tile.vreg f.vreg.toNat) interior = .ok name s2) :
    s.lsLook f interior = (s2.upd fun t => (t.setLs .s f.base name).mark .s (t.s.clk.s + 1)).lsEnd s .s f (BitVec.ofNat 32 name.toNat) := by
  have line : (s.lsIssue .s f).tile.vreg f.vreg.toNat = s.tile.vreg f.vreg.toNat := congrArg (BitVec.ofNat 1024) (rread_lsIssue ..)
  unfold State.lsLook
  rw [sRun_released rel]
  refine lsRun_next h ?_
  simp only [first, acquired, here, kept, line, ctx_lsIssue, found, Bool.or_self, Bool.false_eq_true, if_false, BitVec.ofNat_toNat]

end

/-- Settles O22: appends and pops by their launch's quiescence, FACC, and the lookups as one operation. -/
theorem listsFaccAndLookups : Obligations.ListsFaccAndLookups := by
  intro s s2 f w l ps name
  simp only [← predOf_eq, ← faccPred_eq, ← extract_low_eq, ← extract_mid_eq]
  refine ⟨fun h rel list launch => ⟨fun done may => wlapp_quiescent launch h rel list done may, fun running room => wlapp_goes launch h rel list running room⟩,
    fun h list launch => ⟨fun done => wlpop_quiescent launch h list done, fun running facc item => wlpop_goes launch h list running facc item⟩,
    fun h open_ al plan => facc_goes h open_ al plan, fun p hp h rel first acquired => ?_⟩
  have look : exec p.1 s = .next (s.lsLook f p.2) := by
    simp only [List.mem_cons, List.not_mem_nil, or_false] at hp
    rcases hp with rfl | rfl <;> rfl
  have released : (s.lsIssue .s f).tile.releaseWaits .s f = false := by
    rw [Tile.releaseWaits, beq_eq_decide]
    rcases first with none_ | shut
    · simp [none_]
    · rw [shut, Bool.and_false]
  rw [look]
  exact ⟨fun away => next_congr (lsLook_away h rel released acquired p.2 away),
    fun here kept found => next_congr (lsLook_answered h rel released acquired p.2 here kept found)⟩

end Sys2Proof.Machine
end

section
/-! SUPPORT. The end of a flow send, and why the statement about copies and sends fails (07 R154, R162). -/

open Sys2Proof

namespace Sys2Proof.Machine

/-- A send that its Spoke has accepted completes: its record, its signal, and it leaves its queue. -/
theorem flowSendComplete_completes {s : State} {t : TileId} {h : Cmd} {rest : List Cmd} {w : Word} {seq : BitVec 16} {r1 : Nat} {r2 : Option Nat}
    (run : s.enginesRun t = true) (cmds : (s.tileAt t).cmds .send = h :: rest) (body : h.body = .send w seq r1 r2) (injected : h.injected = true)
    (post : (s.tileAt t).mayPost h = true) (accepted : ∀ p ∈ s.dev.net, p.orig = t.val → p.own = none) :
    exec (.flowSendComplete t) s = .next (s.updAt t fun x => x.completeCmd .send (sendHeader t s.devNum w seq)) := by
  have ex : exec (.flowSendComplete t) s = execFlowSendComplete t s := rfl
  have left : (s.dev.net.any fun p => p.orig == t.val && p.own.isSome) = false := by
    rw [List.any_eq_false]
    intro p hp
    by_cases own : p.orig = t.val
    · simp [accepted p hp own]
    · simp [own]
  rw [ex]
  unfold execFlowSendComplete
  simp only [head_cmds cmds, body, run, injected, post, left, Bool.not_false, Bool.and_self, if_true]

theorem orphans_smSignal (x : Tile) (n : BitVec 8) : (x.smSignal n).orphans = x.orphans := (congrArg Tile.orphans (smSignal_eq x n) :)

theorem cmds_smSignal (x : Tile) (n : BitVec 8) (q : Queue) : (x.smSignal n).cmds q = x.cmds q := (congrArg (Tile.cmds · q) (smSignal_eq x n) :)

/-- The posted writes of a command that leaves its queue stay with its tile (07 R154). -/
theorem orphans_completeCmd {x : Tile} {q : Queue} {h : Cmd} {rest : List Cmd} (cmds : x.cmds q = h :: rest) (record : h.record = false) (detail : Word) :
    (x.completeCmd q detail).orphans = x.orphans ++ h.posts := by
  unfold Tile.completeCmd
  simp only [head_cmds cmds, record, Bool.false_eq_true, if_false]
  rw [popCmd_cmds ((cmds_smSignal x h.signal q).trans cmds), orphans_smSignal]

/-- A send that its Spoke has accepted, in whose command a posted write stands. -/
def postedSend : Cmd := { newCmd (.send 0 0 0 none) 0 none 0 0 false Clk.zero with injected := true, posts := [default] }

/-- Tile 0 runs a task, with that send at the head of its queue. -/
def sendingState : State :=
  State.reset.updAt 0 fun x => { x with task := some default, live := true, pmap := 16, q := wr x.q (qIdx .send) [postedSend] }

theorem sendingState_tile : sendingState.tileAt 0 =
    { Tile.reset with task := some default, live := true, pmap := 16, q := wr Tile.reset.q (qIdx .send) [postedSend] } := by
  rw [sendingState, tileAt_updAt_self, tileAt_reset]

theorem sendingState_runs : sendingState.enginesRun 0 = true := by
  unfold State.enginesRun State.runsOn
  rw [sendingState_tile]
  rfl

theorem sendingState_cmds : (sendingState.tileAt 0).cmds .send = [postedSend] := by
  rw [sendingState_tile]
  rfl

/-- Refutes O31: its clause about the end of a send lets only the queue, the semaphores and the event queue change, but does not ask, as its clauses about
copies and copy-outs do, that no posted write stands in the command. Such a write stays with the tile when the command leaves (Tile.orphans). -/
theorem not_copiesAndSends : ¬ Obligations.CopiesAndSends := by
  intro claim
  obtain ⟨-, sends⟩ := claim
  obtain ⟨-, complete⟩ := sends sendingState 0 postedSend [] 0 0 0 none sendingState_runs sendingState_cmds rfl
  obtain ⟨y, leaves, -, -, -, frame⟩ := complete rfl (fun p hp => nomatch hp) (fun record => nomatch record)
  have ends := flowSendComplete_completes sendingState_runs sendingState_cmds rfl rfl rfl fun p hp => nomatch hp
  have same : y = (sendingState.tileAt 0).completeCmd .send (sendHeader 0 sendingState.devNum 0 0) := by
    have states := Host.Outcome.next.inj (leaves.symm.trans ends)
    have tiles := congrArg (State.tileAt · 0) states
    simpa using tiles
  have kept : y.orphans = [] := by
    rw [frame, sendingState_tile]
    rfl
  rw [same, orphans_completeCmd sendingState_cmds rfl, sendingState_tile] at kept
  cases kept

end Sys2Proof.Machine
end

section
/-! SUPPORT. Elements of vector registers under the lane mask (02 R19, 04 R74, 08 R173). -/

open Sys2Proof

namespace Sys2Proof.Machine

/-! ### Numbers written in digits of w bits -/

theorem mod_div_mod_two_pow (v : Nat) {a b n : Nat} (h : a + b ≤ n) : v % 2 ^ n / 2 ^ a % 2 ^ b = v / 2 ^ a % 2 ^ b := by
  apply Nat.eq_of_testBit_eq
  intro i
  simp only [Nat.testBit_mod_two_pow, Nat.testBit_div_two_pow]
  by_cases hi : i < b
  · simp [hi, show i + a < n by omega]
  · simp [hi]

theorem toNat_ofNat_digit {m : Nat} (v : Nat) {a b : Nat} (h : a + b ≤ m) : (BitVec.ofNat m v).toNat / 2 ^ a % 2 ^ b = v / 2 ^ a % 2 ^ b := by
  rw [BitVec.toNat_ofNat, mod_div_mod_two_pow v h]

section
variable {α : Type} {w : Nat} {d : α → Nat} (small : ∀ x, d x < 2 ^ w)
include small

theorem foldr_digits_lt (l : List α) : l.foldr (fun x a => d x + a * 2 ^ w) 0 < 2 ^ (w * l.length) := by
  induction l with
  | nil => simp
  | cons x l ih =>
    calc d x + l.foldr (fun x a => d x + a * 2 ^ w) 0 * 2 ^ w
        < (l.foldr (fun x a => d x + a * 2 ^ w) 0 + 1) * 2 ^ w := by linarith [small x]
      _ ≤ 2 ^ (w * l.length) * 2 ^ w := Nat.mul_le_mul_right _ ih
      _ = 2 ^ (w * (l.length + 1)) := by rw [← pow_add, Nat.mul_succ]

/-- The digit at place e is that of item e. -/
theorem digit_foldr (l : List α) (e : Nat) :
    l.foldr (fun x a => d x + a * 2 ^ w) 0 / 2 ^ (w * e) % 2 ^ w = (l[e]?.map d).getD 0 := by
  induction l generalizing e with
  | nil => simp
  | cons x l ih =>
    cases e with
    | zero => simp [Nat.mod_eq_of_lt (small x)]
    | succ e =>
      rw [List.foldr_cons, Nat.mul_succ, Nat.add_comm (w * e), pow_add, ← Nat.div_div_eq_div_mul, Nat.add_mul_div_right _ _ (Nat.two_pow_pos w),
        Nat.div_eq_of_lt (small x), Nat.zero_add, ih, List.getElem?_cons_succ]

end

/-! ### Elements of a register -/

theorem elemAt_lt (w : Nat) (v : Vec) (e : Nat) : elemAt w v e < 2 ^ (8 * w) := Nat.mod_lt _ (Nat.two_pow_pos _)

/-- An element lies in the register's 1024 bits. -/
theorem elem_fits {w e : Nat} (he : e < 128 / w) : 8 * w * e + 8 * w ≤ 1024 := by
  have : (e + 1) * w ≤ 128 := (Nat.mul_le_mul_right w he).trans (Nat.div_mul_le_self 128 w)
  linarith

theorem nbits_eq_elemAt {w e : Nat} (v : Vec) : nbits v.toNat (8 * w * e) (8 * w) = elemAt w v e := by
  rw [nbits, Nat.shiftRight_eq_div_pow, elemAt]

theorem elemAt_ofNat {w e : Nat} (he : e < 128 / w) (n : Nat) : elemAt w (BitVec.ofNat 1024 n) e = n / 2 ^ (8 * w * e) % 2 ^ (8 * w) :=
  toNat_ofNat_digit n (elem_fits he)

theorem testBit_elemAt (w : Nat) (v : Vec) (e i : Nat) : (elemAt w v e).testBit i = (decide (i < 8 * w) && v.getLsbD (8 * w * e + i)) := by
  rw [elemAt, Nat.testBit_mod_two_pow, Nat.testBit_div_two_pow, Nat.add_comm i, BitVec.testBit_toNat]

@[simp] theorem length_elems (w : Nat) (v : Vec) : (elems w v).length = 128 / w := by simp [elems]

@[simp] theorem getElem_elems {w e : Nat} {v : Vec} (h : e < (elems w v).length) : (elems w v)[e] = elemAt w v e := by
  simp [elems, nbits_eq_elemAt]

theorem elemAt_pack {w e : Nat} (he : e < 128 / w) (l : List Nat) : elemAt w (pack w l) e = l.getD e 0 % 2 ^ (8 * w) := by
  rw [pack, elemAt_ofNat he, digit_foldr (fun x => Nat.mod_lt x (Nat.two_pow_pos _)), List.getD_eq_getElem?_getD]
  cases l[e]? with
  | none => simp
  | some x => rfl

theorem elemAt_splat {w e : Nat} (he : e < 128 / w) (x : Nat) : elemAt w (splat w x) e = x % 2 ^ (8 * w) := by
  rw [splat, elemAt_pack he, List.getD_eq_getElem?_getD, List.getElem?_replicate_of_lt he, Option.getD_some]

/-! ### Elements that two, one or three operands give -/

section
variable {w e : Nat} (he : e < 128 / w)
include he

theorem getD_elems (a : Vec) : (elems w a).getD e 0 = elemAt w a e := by simp [List.getD_eq_getElem?_getD, he]

theorem getD_map_elems (f : Nat → Nat) (a : Vec) : ((elems w a).map f).getD e 0 = f (elemAt w a e) := by
  simp [List.getD_eq_getElem?_getD, he]

theorem getD_zipWith_elems {β : Type} (f : Nat → Nat → β) (a b : Vec) (z : β) :
    (List.zipWith f (elems w a) (elems w b)).getD e z = f (elemAt w a e) (elemAt w b e) := by
  simp [List.getD_eq_getElem?_getD, he]

theorem getD_zip3_elems (f : Nat → Nat → Nat → Nat) (a b c : Vec) :
    (zip3 f (elems w a) (elems w b) (elems w c)).getD e 0 = f (elemAt w a e) (elemAt w b e) (elemAt w c e) := by
  simp [zip3, List.zip, List.getD_eq_getElem?_getD, he]

theorem getD_map_range (f : Nat → Nat) : ((List.range (128 / w)).map f).getD e 0 = f e := by
  simp [List.getD_eq_getElem?_getD, List.getElem?_range he]

end

/-! ### Lane masks -/

/-- Bit i of a spread mask is that of its element. -/
theorem testBit_spread {n w : Nat} (hw : 0 < w) (f : Nat → Bool) {i : Nat} (hi : i < n * w) : (spread n w f).testBit i = f (i / w) := by
  have digit := digit_foldr (w := w) (d := fun e => if f e then 2 ^ w - 1 else 0)
    (fun e => by have := Nat.two_pow_pos w; split <;> omega) (List.range n) (i / w)
  rw [List.getElem?_range ((Nat.div_lt_iff_lt_mul hw).2 hi)] at digit
  have bit := congrArg (Nat.testBit · (i % w)) digit
  simp only [Nat.testBit_mod_two_pow, Nat.mod_lt i hw, decide_true, Bool.true_and, Nat.testBit_div_two_pow, Nat.mod_add_div, Option.map_some,
    Option.getD_some] at bit
  rw [spread, bit]
  cases f (i / w) <;> simp [Nat.testBit_two_pow_sub_one, Nat.mod_lt i hw]

theorem div_eq_of_place {w e i : Nat} (hi : i < w) : (w * e + i) / w = e := by
  rw [Nat.mul_add_div (by omega), Nat.div_eq_of_lt hi, Nat.add_zero]

theorem elemAt_mergeLanes {w e : Nat} (he : e < 128 / w) (m : Mask) (zero : Bool) (new old : Vec) :
    elemAt w (mergeLanes m w zero new old) e = if active m w e then elemAt w new e else if zero then 0 else elemAt w old e := by
  apply Nat.eq_of_testBit_eq
  intro i
  by_cases hi : i < 8 * w
  · have lane : (spread (128 / w) (8 * w) (active m w)).testBit (8 * w * e + i) = active m w e := by
      rw [testBit_spread (by omega) _ (by nlinarith), div_eq_of_place hi]
    have fits := elem_fits he
    have inReg : 8 * w * e + i < 1024 := by omega
    cases h : active m w e <;> cases zero <;> simp [testBit_elemAt, mergeLanes, BitVec.getLsbD_ofNat, lane, h, hi, inReg, -BitVec.getLsbD_eq_getElem]
  · have wide (x : Nat) (h : x < 2 ^ (8 * w)) : x.testBit i = false :=
      Nat.testBit_lt_two_pow (h.trans_le (Nat.pow_le_pow_right (by decide) (by omega)))
    rw [wide _ (elemAt_lt ..), wide]
    split
    · exact elemAt_lt ..
    · split
      · exact Nat.two_pow_pos _
      · exact elemAt_lt ..

theorem getLsbD_mergePred {w i : Nat} (hw : 0 < w) (hi : i < 128 / w * w) (m : Mask) (zero : Bool) (f : Nat → Bool) (old : Mask) :
    (mergePred m w zero f old).getLsbD i = if active m w (i / w) then f (i / w) else if zero then false else old.getLsbD i := by
  have inMask : i < 128 := hi.trans_le (Nat.div_mul_le_self 128 w)
  have lane := testBit_spread hw (active m w) hi
  cases h : active m w (i / w) <;> cases zero <;>
    simp [mergePred, BitVec.getLsbD_ofNat, lane, h, testBit_spread hw f hi, inMask, -BitVec.getLsbD_eq_getElem]

theorem getLsbD_mergeBits {i : Nat} (hi : i < 128) (m : Mask) (zero : Bool) (new old : Mask) :
    (mergeBits m zero new old).getLsbD i = if m.getLsbD i then new.getLsbD i else if zero then false else old.getLsbD i := by
  cases h : m.getLsbD i <;> cases zero <;> simp [mergeBits, h, hi, -BitVec.getLsbD_eq_getElem]

end Sys2Proof.Machine
end

section
/-! SUPPORT. What a vector slot writes element by element: bit patterns and integers (08 R178, R181, R194). -/

open Sys2Proof

namespace Sys2Proof.Machine

@[simp] theorem elemAt_mod (w : Nat) (v : Vec) (e : Nat) : elemAt w v e % 2 ^ (8 * w) = elemAt w v e := Nat.mod_eq_of_lt (elemAt_lt w v e)

section
variable {x : SlotIn} {w : Nat} {new : Nat → Nat}

theorem writes_pack {l : List Nat} (h : x.eval = .ok (x.out w (pack w l))) (value : ∀ e, e < 128 / w → l.getD e 0 % 2 ^ (8 * w) = new e) :
    x.writes w new :=
  ⟨_, h, fun e he => by rw [elemAt_mergeLanes he, elemAt_pack he, value e he]⟩

theorem bitwise1_writes {f : Nat → Nat} (h : x.eval = .ok (x.bitwise1 w f)) (value : ∀ e, f (elemAt w x.va e) % 2 ^ (8 * w) = new e) :
    x.writes w new :=
  writes_pack h fun e he => by rw [getD_map_elems he, value]

theorem bitwise2_writes {f : Nat → Nat → Nat} (h : x.eval = .ok (x.bitwise2 w f))
    (value : ∀ e, f (elemAt w x.va e) (elemAt w (x.vb w) e) % 2 ^ (8 * w) = new e) : x.writes w new :=
  writes_pack h fun e he => by rw [getD_zipWith_elems he, value]

/-- An integer operation on elements a and b, which are the words A and B. -/
theorem i2_writes {f : (n : Nat) → BitVec n → BitVec n → BitVec n} (h : x.eval = .ok (x.i2 f))
    (value : ∀ e, ∀ A B : BitVec (8 * x.iw), elemAt x.iw x.va e = A.toNat → elemAt x.iw (x.vb x.iw) e = B.toNat → (f _ A B).toNat = new e) :
    x.writes x.iw new := by
  refine bitwise2_writes h fun e => ?_
  rw [Nat.mod_eq_of_lt (BitVec.isLt _)]
  exact value e _ _ (by simp) (by simp)

end

/-! ### Signed operations on words -/

section
variable {n : Nat} (A B : BitVec n)

theorem toNat_eq_toInt_mod : A.toNat = (A.toInt % 2 ^ n).toNat := by
  rw [← Nat.cast_two, ← Nat.cast_pow, ← BitVec.toNat_ofInt, BitVec.ofInt_toInt]

theorem toNat_sub_int : (A - B).toNat = (((A.toNat : Int) - B.toNat) % 2 ^ n).toNat := by
  have wraps : ((2 ^ n - B.toNat + A.toNat : Nat) : Int) = A.toNat - B.toNat + 2 ^ n := by
    have := B.isLt
    push_cast [this.le]
    ring
  rw [BitVec.toNat_sub, ← Int.toNat_natCast (_ % _), Int.natCast_emod, wraps, Nat.cast_pow, Nat.cast_two, Int.add_emod_right]

/-- The high half of a product is its quotient by 2^n. -/
theorem toNat_mulHighS : (mulHighS n A B).toNat = (A.toInt * B.toInt / 2 ^ n % 2 ^ n).toNat := by
  have product : A.signExtend (2 * n) * B.signExtend (2 * n) = BitVec.ofInt (2 * n) (A.toInt * B.toInt) := by
    rw [BitVec.ofInt_mul]
    rfl
  have pos : (0 : Int) < 2 ^ n := by positivity
  have low (z : Int) : z % 2 ^ (2 * n) / 2 ^ n % 2 ^ n = z / 2 ^ n % 2 ^ n := by
    conv_rhs => rw [← Int.emod_add_mul_ediv z (2 ^ (2 * n)), two_mul, pow_add, mul_assoc, Int.add_mul_ediv_left _ _ pos.ne',
      Int.add_mul_emod_self_left]
    rw [two_mul, pow_add]
  have whole : (0 : Int) ≤ A.toInt * B.toInt % 2 ^ (2 * n) := Int.emod_nonneg _ (by positivity)
  rw [mulHighS, product, BitVec.extractLsb'_toNat, BitVec.toNat_ofInt, Nat.shiftRight_eq_div_pow, ← low]
  apply Int.ofNat_inj.1
  push_cast
  rw [Int.toNat_of_nonneg whole, Int.toNat_of_nonneg (Int.emod_nonneg _ pos.ne')]

theorem toNat_sshiftRight (k : Nat) : (A.sshiftRight k).toNat = (A.toInt / 2 ^ k % 2 ^ n).toNat := by
  rw [toNat_eq_toInt_mod, BitVec.toInt_sshiftRight, Int.shiftRight_eq_div_pow]
  norm_num

theorem toNat_min_signed : (if B.slt A then B else A).toNat = if A.toInt ≤ B.toInt then A.toNat else B.toNat := by
  by_cases h : A.toInt ≤ B.toInt
  · simp [BitVec.slt, h, Int.not_lt.2 h]
  · simp [BitVec.slt, h, Int.not_le.1 h]

theorem toNat_max_signed : (if A.slt B then B else A).toNat = if A.toInt ≤ B.toInt then B.toNat else A.toNat := by
  obtain h | h | h := lt_trichotomy A.toInt B.toInt
  · simp [BitVec.slt, h, h.le]
  · rw [BitVec.eq_of_toInt_eq h]
    simp
  · simp [BitVec.slt, h.not_gt, h.not_ge]

end

theorem ones_xor {a : Nat} (h : a < 2 ^ 32) : 0xFFFFFFFF ^^^ a = 0xFFFFFFFF - a := by
  have flip := congrArg BitVec.toNat (BitVec.allOnes_xor (x := BitVec.ofNat 32 a))
  rwa [BitVec.toNat_xor, BitVec.toNat_not, BitVec.toNat_ofNat, Nat.mod_eq_of_lt h] at flip

/-- Settles O24: each row is the shared operation of its form, whose value at an element is read off. -/
theorem vectorIntegerElements : Obligations.VectorIntegerElements := by
  intro x w
  have iw : w = x.iw := rfl
  clear_value w
  subst iw
  intro fw n a b sa sb int gives
  have sign : 2 * 2 ^ (8 * x.fw - 1) = 2 ^ (8 * x.fw) := by
    unfold SlotIn.fw
    split <;> rfl
  refine ⟨fun h => ?_, fun h => ?_, fun h => ?_, fun h => ?_, fun h => ?_, fun h => ?_, fun h => ?_, fun h => ?_, fun h => ?_, fun h => ?_, fun h => ?_,
    fun h => ?_, fun h => ?_, fun h => ?_, fun h => ?_, fun h => ?_, fun h => ?_, fun h => ?_⟩
  case refine_1 | refine_2 | refine_3 | refine_4 | refine_9 | refine_10 | refine_11 | refine_12 | refine_13 =>
    refine i2_writes (by rw [SlotIn.eval, h]) fun e A B ha hb => ?_
    simp [a, b, sa, sb, n, int, ha, hb, toNat_sub_int, toNat_mulHighS, toNat_sshiftRight, toNat_min_signed, toNat_max_signed, Nat.shiftLeft_eq,
      Nat.shiftRight_eq_div_pow, -BitVec.toNat_sub]
  case refine_5 => exact bitwise2_writes (by rw [SlotIn.eval, h]) fun e => Nat.mod_eq_of_lt (Nat.and_lt_two_pow _ (elemAt_lt ..))
  case refine_6 => exact bitwise2_writes (by rw [SlotIn.eval, h]) fun e => Nat.mod_eq_of_lt (Nat.or_lt_two_pow (elemAt_lt ..) (elemAt_lt ..))
  case refine_7 => exact bitwise2_writes (by rw [SlotIn.eval, h]) fun e => Nat.mod_eq_of_lt (Nat.xor_lt_two_pow (elemAt_lt ..) (elemAt_lt ..))
  case refine_8 =>
    refine bitwise1_writes (by rw [SlotIn.eval, h]) fun e => ?_
    rw [ones_xor (elemAt_lt 4 x.va e)]
    exact Nat.mod_eq_of_lt (by omega)
  case refine_14 =>
    exact bitwise1_writes (by rw [SlotIn.eval, h]) fun e => elemAt_mod ..
  case refine_15 =>
    exact bitwise1_writes (by rw [SlotIn.eval, h]) fun e => by simp [a]
  case refine_16 =>
    exact bitwise1_writes (w := x.fw) (by rw [SlotIn.eval, h]) fun e =>
      Nat.mod_eq_of_lt ((Nat.mod_lt _ (Nat.two_pow_pos _)).trans_le (Nat.pow_le_pow_right (by decide) (Nat.sub_le ..)))
  case refine_17 =>
    refine bitwise1_writes (w := x.fw) (by rw [SlotIn.eval, h]) fun e => ?_
    rw [sign, Nat.mod_mod]
    rfl
  case refine_18 =>
    refine bitwise2_writes (w := x.fw) (by rw [SlotIn.eval, h]) fun e => Nat.mod_eq_of_lt ?_
    have low := Nat.mod_lt (elemAt x.fw x.va e) (Nat.two_pow_pos (8 * x.fw - 1))
    have high : elemAt x.fw (x.vb x.fw) e / 2 ^ (8 * x.fw - 1) < 2 := Nat.div_lt_of_lt_mul (by rw [Nat.mul_comm, sign]; exact elemAt_lt ..)
    have := Nat.mul_le_mul_right (2 ^ (8 * x.fw - 1)) (Nat.le_of_lt_succ high)
    omega

end Sys2Proof.Machine
end

section
/-! SUPPORT. What compares and predicate logic write (08 R173, R178 to R180). -/

open Sys2Proof

namespace Sys2Proof.Machine

theorem iw_cases (x : SlotIn) : x.iw = 4 ∨ x.iw = 2 ∨ x.iw = 1 ∨ x.iw = 8 := by
  unfold SlotIn.iw
  split <;> simp

theorem fw_cases (x : SlotIn) : x.fw = 4 ∨ x.fw = 2 := by
  unfold SlotIn.fw
  split <;> simp

/-- Elements fill a register without a rest. -/
theorem iw_whole (x : SlotIn) : 0 < x.iw ∧ 128 / x.iw * x.iw = 128 := by
  obtain h | h | h | h := iw_cases x <;> simp [h]

theorem fw_whole (x : SlotIn) : 0 < x.fw ∧ 128 / x.fw * x.fw = 128 := by
  obtain h | h := fw_cases x <;> simp [h]

section
variable {x : SlotIn} {out : Nat → Bool}

theorem decides_of_bits {m : Mask} {w : Nat} (h : x.eval = .ok (.prd (x.s.f.vd.setWidth 3) m)) (bits : ∀ i, i < 128 → m.getLsbD i =
    if active x.m w (i / w) then out (i / w) else if x.zero then false else (x.t.c.pget (x.s.f.vd.setWidth 3).toNat).getLsbD i) : x.decides w out := by
  refine ⟨m, by rw [h, BitVec.ofNat_toNat], fun i hi => ?_⟩
  rw [bits i hi, BitVec.toNat_setWidth]

/-- A compare of w bytes writes the outcomes of its elements. -/
theorem decides_of_outcomes {w : Nat} {f : Nat → Bool} (whole : 0 < w ∧ 128 / w * w = 128)
    (h : x.eval = .ok (.prd (x.s.f.vd.setWidth 3) (mergePred x.m w x.zero f (x.t.c.pget (x.s.f.vd.setWidth 3 : BitVec 3).toNat))))
    (value : ∀ e, e < 128 / w → f e = out e) : x.decides w out := by
  obtain ⟨pos, all⟩ := whole
  refine decides_of_bits h fun i hi => ?_
  rw [← all] at hi
  rw [getLsbD_mergePred pos hi, value _ ((Nat.div_lt_iff_lt_mul pos).2 hi)]

theorem cmpI_decides (h : x.eval = .ok x.cmpI)
    (value : ∀ e, cmpInt x.s.op (8 * x.iw) (elemAt x.iw x.va e) (elemAt x.iw (x.vb x.iw) e) = out e) : x.decides x.iw out :=
  decides_of_outcomes (iw_whole x) h fun e he => (getD_zipWith_elems he ..).trans (value e)

theorem cmpF_decides (h : x.eval = .ok x.cmpF)
    (value : ∀ e, cmpFloat x.s.op (x.fmt.val (elemAt x.fw x.va e)) (x.fmt.val (elemAt x.fw (x.vb x.fw) e)) = out e) : x.decides x.fw out :=
  decides_of_outcomes (fw_whole x) h fun e he => (getD_zipWith_elems he ..).trans (value e)

theorem plog_decides {f : Mask → Mask → Mask} (h : x.eval = .ok (x.plog f))
    (value : ∀ i, i < 128 → (f (x.t.c.pget x.s.f.va.toNat) (x.t.c.pget x.s.f.vb.toNat)).getLsbD i = out i) : x.decides 1 out := by
  refine decides_of_bits h fun i hi => ?_
  rw [getLsbD_mergeBits hi, value i hi, Nat.div_one, active, Nat.mul_one]

end

/-- Settles O26: integer compares, float compares and predicate logic are one operation each. -/
theorem vectorComparesAndPredicates : Obligations.VectorComparesAndPredicates := by
  intro x iw fw g ia ib fa fb pa pb logic
  refine ⟨fun h => cmpI_decides (by rw [SlotIn.eval, h]) fun e => ?_, fun h => cmpI_decides (by rw [SlotIn.eval, h]) fun e => ?_, fun h => ?_, fun h => ?_,
    fun h => ?_, fun h => ?_, fun h => ?_, fun h => ?_, fun h => ?_, fun h => ?_⟩
  case refine_1 => exact (congrArg (cmpInt · _ _ _) h).trans (beq_eq_decide _ _)
  case refine_2 => exact congrArg (cmpInt · _ _ _) h
  case refine_3 | refine_4 | refine_5 | refine_6 => exact cmpF_decides (by rw [SlotIn.eval, h]) fun e => by rw [h]; rfl
  case refine_7 => exact plog_decides (by rw [SlotIn.eval, h]) fun i hi => BitVec.getLsbD_and
  case refine_8 => exact plog_decides (by rw [SlotIn.eval, h]) fun i hi => BitVec.getLsbD_or
  case refine_9 => exact plog_decides (by rw [SlotIn.eval, h]) fun i hi => BitVec.getLsbD_xor
  case refine_10 => exact plog_decides (by rw [SlotIn.eval, h]) fun i hi => by simp [pa, hi, -BitVec.getLsbD_eq_getElem]

end Sys2Proof.Machine
end

section
/-! SUPPORT. Floating-point and complex instructions of a vector slot (08 R176, R190, R194). -/

open Sys2Proof

namespace Sys2Proof.Machine

section
variable {x : SlotIn}

theorem f2_writes {f : FVal → FVal → FVal} (h : x.eval = .ok (x.f2 f)) : x.writes x.fw fun e =>
    x.fmt.enc .rne (f (x.fmt.val (elemAt x.fw x.va e)) (x.fmt.val (elemAt x.fw (x.vb x.fw) e))) % 2 ^ (8 * x.fw) :=
  writes_pack h fun e he => by rw [getD_zipWith_elems he]

theorem f3_writes {f : FVal → FVal → FVal → FVal} (h : x.eval = .ok (x.f3 f)) : x.writes x.fw fun e =>
    x.fmt.enc .rne (f (x.fmt.val (elemAt x.fw x.va e)) (x.fmt.val (elemAt x.fw (x.vb x.fw) e)) (x.fmt.val (elemAt x.fw x.old e))) % 2 ^ (8 * x.fw) :=
  writes_pack h fun e he => by rw [getD_zip3_elems he]

theorem sf_writes {f : FVal → FVal} (h : x.eval = .ok (x.sf f)) : x.writes x.fw fun e =>
    x.fmt.enc .rne (f (x.fmt.val (elemAt x.fw x.va e))) % 2 ^ (8 * x.fw) :=
  writes_pack h fun e he => by rw [getD_map_elems he]

/-! ### Complex numbers are pairs of words -/

theorem elemAt_low (v : Vec) (e : Nat) : elemAt 8 v e % 2 ^ 32 = elemAt 4 v (2 * e) := by
  rw [elemAt, elemAt, Nat.mod_mod_of_dvd _ (pow_dvd_pow 2 (by decide)), show 8 * 8 * e = 8 * 4 * (2 * e) by ring]

theorem elemAt_high (v : Vec) (e : Nat) : elemAt 8 v e / 2 ^ 32 = elemAt 4 v (2 * e + 1) := by
  rw [elemAt, elemAt, show 8 * 4 * (2 * e + 1) = 8 * 8 * e + 32 by ring, pow_add, ← Nat.div_div_eq_div_mul, show 2 ^ (8 * 8) = 2 ^ 32 * 2 ^ (8 * 4) by rfl,
    Nat.mod_mul_right_div_self]

/-- The parts of operand vb of the complex family. -/
theorem vbc_parts (x : SlotIn) {e : Nat} (he : e < 128 / 8) :
    elemAt 8 x.vbc e % 2 ^ 32 = (match x.lit with | some l => l.toNat | none => elemAt 4 (x.t.cread x.s.f.vb.toNat) (2 * e)) ∧
    elemAt 8 x.vbc e / 2 ^ 32 = (match x.lit with | some _ => 0 | none => elemAt 4 (x.t.cread x.s.f.vb.toNat) (2 * e + 1)) := by
  unfold SlotIn.vbc
  cases x.lit with
  | some l =>
    rw [elemAt_splat he, Nat.mod_eq_of_lt (l.isLt.trans (by decide))]
    exact ⟨Nat.mod_eq_of_lt l.isLt, Nat.div_eq_of_lt l.isLt⟩
  | none => exact ⟨elemAt_low .., elemAt_high ..⟩

end

end Sys2Proof.Machine
end

section
/-! SUPPORT. Conversions of a vector slot, and VCVTO's list of outliers (08 R185 to R187, 02 R36, R37). -/

open Sys2Proof

namespace Sys2Proof.Machine

/-! ### A number with k bits from bit i on replaced -/

/-- The bits of old below i and from i + k on, and part between them. -/
def placed (old part i k : Nat) : Nat := old % 2 ^ i + (part + old / 2 ^ i / 2 ^ k * 2 ^ k) * 2 ^ i

section
variable {old part i k : Nat}

theorem placed_eq : (old - nbits old i k * 2 ^ i) + part * 2 ^ i = placed old part i k := by
  have kept : old = old % 2 ^ i + old / 2 ^ i / 2 ^ k * 2 ^ k * 2 ^ i + nbits old i k * 2 ^ i := by
    rw [nbits, Nat.shiftRight_eq_div_pow]
    conv_lhs => rw [← Nat.mod_add_div' old (2 ^ i), ← Nat.mod_add_div' (old / 2 ^ i) (2 ^ k)]
    ring
  rw [Nat.sub_eq_of_eq_add kept, placed]
  ring

theorem placed_mod : placed old part i k % 2 ^ i = old % 2 ^ i := by rw [placed, Nat.add_mul_mod_self_right, Nat.mod_mod]

theorem placed_div : placed old part i k / 2 ^ i = part + old / 2 ^ i / 2 ^ k * 2 ^ k := by
  rw [placed, Nat.add_mul_div_right _ _ (Nat.two_pow_pos i), Nat.div_eq_of_lt (Nat.mod_lt _ (Nat.two_pow_pos i)), Nat.zero_add]

variable (small : part < 2 ^ k)
include small

theorem placed_above : placed old part i k / 2 ^ i / 2 ^ k = old / 2 ^ i / 2 ^ k := by
  rw [placed_div, Nat.add_mul_div_right _ _ (Nat.two_pow_pos k), Nat.div_eq_of_lt small, Nat.zero_add]

theorem placed_digit {a b : Nat} (h : a + b ≤ k) : placed old part i k / 2 ^ i / 2 ^ a % 2 ^ b = part / 2 ^ a % 2 ^ b := by
  rw [placed_div, ← mod_div_mod_two_pow _ h, Nat.add_mul_mod_self_right, Nat.mod_eq_of_lt small]

theorem toNat_ofNat_placed {m : Nat} (h : i + k ≤ m) (v : BitVec m) : (BitVec.ofNat m (placed v.toNat part i k)).toNat = placed v.toNat part i k := by
  have above : v.toNat / 2 ^ i / 2 ^ k < 2 ^ (m - (i + k)) := by
    rw [Nat.div_div_eq_div_mul, ← pow_add]
    exact Nat.div_lt_of_lt_mul (by rw [← pow_add, Nat.add_sub_cancel' h]; exact v.isLt)
  have inner : part + v.toNat / 2 ^ i / 2 ^ k * 2 ^ k < 2 ^ (m - i) := by
    rw [show m - i = m - (i + k) + k by omega, pow_add]
    nlinarith [Nat.two_pow_pos k]
  have fits : placed v.toNat part i k < 2 ^ m := by
    rw [placed, show 2 ^ m = 2 ^ i * 2 ^ (m - i) by rw [← pow_add, Nat.add_sub_cancel' (Nat.le_trans (Nat.le_add_right i k) h)]]
    nlinarith [Nat.two_pow_pos i, Nat.mod_lt v.toNat (Nat.two_pow_pos i)]
  rw [BitVec.toNat_ofNat, Nat.mod_eq_of_lt fits]

end

/-! ### The destination register of a conversion -/

section
variable {x : SlotIn} {p : CvtPlan}

/-- What a legal conversion's plan is (08 R185). -/
theorem cvtPlan_some (h : x.cvtPlan = some p) : ∃ part, part < max p.src.width p.dst.width / min p.src.width p.dst.width ∧
    p.n = 1024 / max p.src.width p.dst.width ∧ p.dof = (if p.dst.width < p.src.width then part * p.n else 0) ∧
    (x.s.op = .vcvto → cvtoOk p.src p.dst = true) := by
  unfold SlotIn.cvtPlan at h
  cases sel : x.t.c.ftSel (bits x.s.f.vb 6 0) with
  | none => simp [sel] at h
  | some entry =>
    cases src : numFmt (bits entry 14 10) with
    | none => simp [sel, src] at h
    | some f =>
      cases dst : numFmt (bits entry 24 20) with
      | none => simp [sel, src, dst] at h
      | some g =>
        simp only [sel, src, dst, Option.ite_none_left_eq_some, Option.some.injEq] at h
        obtain ⟨legal, rfl⟩ := h
        simp only [Bool.or_eq_true, not_or, decide_eq_true_eq, Nat.not_le] at legal
        obtain ⟨⟨part, list⟩, -⟩ := legal
        exact ⟨_, part, rfl, rfl, fun op => by simpa [op] using list⟩

theorem cvtPlan_fits (h : x.cvtPlan = some p) : p.dst.width * p.dof + p.dst.width * p.n ≤ 1024 := by
  obtain ⟨part, bound, count, place, -⟩ := cvtPlan_some h
  have all : p.n * max p.src.width p.dst.width ≤ 1024 := count ▸ Nat.div_mul_le_self ..
  rw [place]
  split
  next narrow =>
    rw [max_eq_left narrow.le, min_eq_right narrow.le] at bound
    rw [max_eq_left narrow.le] at all
    calc p.dst.width * (part * p.n) + p.dst.width * p.n = p.n * ((part + 1) * p.dst.width) := by ring
      _ ≤ p.n * p.src.width := Nat.mul_le_mul_left _ ((Nat.mul_le_mul_right _ bound).trans (Nat.div_mul_le_self ..))
      _ ≤ 1024 := all
  next wide =>
    rw [max_eq_right (Nat.le_of_not_lt wide)] at all
    linarith

theorem cvtPlan_float (h : x.cvtPlan = some p) (op : x.s.op = .vcvto) : ∃ g, p.dst = .float g := by
  obtain ⟨-, -, -, -, ok⟩ := cvtPlan_some h
  specialize ok op
  unfold cvtoOk at ok
  split at ok
  next dst => exact ⟨_, dst⟩
  · cases ok

/-- The register whose bits outside the converted elements stay: with merge the old destination (08 R185). -/
def SlotIn.cvtOld (x : SlotIn) : Vec := if bit x.s.f.vb 10 then x.old else 0#1024

/-- Element e of a conversion's result. -/
def SlotIn.cvtElem (x : SlotIn) (p : CvtPlan) (y : Nat → Nat) (e : Nat) : Nat :=
  if p.active x.m e then y e % 2 ^ p.dst.width else if x.zero then 0 else nbits x.old.toNat (p.dof * p.dst.width + e * p.dst.width) p.dst.width

/-- The elements of a conversion's result as one number. -/
def SlotIn.cvtPart (x : SlotIn) (p : CvtPlan) (y : Nat → Nat) : Nat :=
  (List.range p.n).foldr (fun e a => x.cvtElem p y e + a * 2 ^ p.dst.width) 0

theorem cvtElem_lt (y : Nat → Nat) (e : Nat) : x.cvtElem p y e < 2 ^ p.dst.width := by
  unfold SlotIn.cvtElem
  split
  · exact Nat.mod_lt _ (Nat.two_pow_pos _)
  · split
    · exact Nat.two_pow_pos _
    · exact Nat.mod_lt _ (Nat.two_pow_pos _)

theorem cvtPart_lt (y : Nat → Nat) : x.cvtPart p y < 2 ^ (p.dst.width * p.n) := by
  have := foldr_digits_lt (cvtElem_lt (x := x) (p := p) y) (List.range p.n)
  rwa [List.length_range] at this

theorem toNat_cvtReg (h : x.cvtPlan = some p) (y : Nat → Nat) :
    (x.cvtReg p y).toNat = placed x.cvtOld.toNat (x.cvtPart p y) (p.dst.width * p.dof) (p.dst.width * p.n) := by
  have reg : x.cvtReg p y = BitVec.ofNat 1024 (placed x.cvtOld.toNat (x.cvtPart p y) (p.dst.width * p.dof) (p.dst.width * p.n)) := by
    rw [← placed_eq, SlotIn.cvtOld, Nat.mul_comm _ p.dof, Nat.mul_comm _ p.n]
    cases merge : bit x.s.f.vb 10 with
    | true => simp only [SlotIn.cvtReg, merge, if_true]; rfl
    | false => simp only [SlotIn.cvtReg, merge, Bool.false_eq_true, if_false, BitVec.toNat_zero, Nat.zero_sub]; rfl
  rw [reg, toNat_ofNat_placed (cvtPart_lt y) (cvtPlan_fits h)]

theorem toNat_cvtOld (x : SlotIn) (f : Nat → Nat) (zero : f 0 = 0) : f x.cvtOld.toNat = if bit x.s.f.vb 10 then f x.old.toNat else 0 := by
  unfold SlotIn.cvtOld
  split
  · rfl
  · rw [BitVec.toNat_zero, zero]

/-- Each element of the result, and the bits below and above them. -/
theorem cvtReg_parts (h : x.cvtPlan = some p) (y : Nat → Nat) :
    (∀ e, e < p.n → (x.cvtReg p y).toNat / 2 ^ (p.dst.width * p.dof) / 2 ^ (p.dst.width * e) % 2 ^ p.dst.width =
      if p.active x.m e then y e % 2 ^ p.dst.width else if x.zero then 0
        else x.old.toNat / 2 ^ (p.dst.width * p.dof) / 2 ^ (p.dst.width * e) % 2 ^ p.dst.width) ∧
    (x.cvtReg p y).toNat % 2 ^ (p.dst.width * p.dof) = (if bit x.s.f.vb 10 then x.old.toNat % 2 ^ (p.dst.width * p.dof) else 0) ∧
    (x.cvtReg p y).toNat / 2 ^ (p.dst.width * p.dof) / 2 ^ (p.dst.width * p.n) =
      (if bit x.s.f.vb 10 then x.old.toNat / 2 ^ (p.dst.width * p.dof) / 2 ^ (p.dst.width * p.n) else 0) := by
  rw [toNat_cvtReg h]
  refine ⟨fun e he => ?_, ?_, ?_⟩
  · rw [placed_digit (cvtPart_lt y) (by nlinarith), SlotIn.cvtPart, digit_foldr (cvtElem_lt y), List.getElem?_range he, Option.map_some, Option.getD_some,
      SlotIn.cvtElem, nbits, Nat.shiftRight_eq_div_pow, pow_add, ← Nat.div_div_eq_div_mul, Nat.mul_comm p.dof, Nat.mul_comm e]
  · rw [placed_mod, toNat_cvtOld x (· % 2 ^ (p.dst.width * p.dof)) (Nat.zero_mod _)]
  · rw [placed_above (cvtPart_lt y), toNat_cvtOld x (· / 2 ^ (p.dst.width * p.dof) / 2 ^ (p.dst.width * p.n)) (by simp)]

theorem eval_cvt (op : x.s.op = .vcvt ∨ x.s.op = .vcvts) : x.eval = x.cvt := by
  obtain op | op := op <;> rw [SlotIn.eval, op]

theorem eval_cvto (op : x.s.op = .vcvto) : x.eval = x.cvto := by rw [SlotIn.eval, op]

theorem cvt_ok (h : x.cvtPlan = some p) : x.cvt = .ok (.one x.s.f.vd.toNat (x.cvtReg p fun e => p.dst.enc
    (x.rnd p (if x.s.op = .vcvts then nbits (x.t.cread (x.s.f.vd.toNat + 1)).toNat 160 32 else 0) e) (x.srcVal p e))) := by
  rw [SlotIn.cvt, h]

end

/-! ### The list of outliers (02 R36) -/

section
variable (live beyond : Nat → Bool) (enc big : Nat → Nat) (entry : Nat → Nat → Nat × Nat × Nat) (limit start : Nat)

/-- What VCVTO does with element e: live and beyond say whether it is active and whether it is an outlier, enc and big what it becomes, entry what
enters the list. -/
def outlierStep (a : Outliers) (e : Nat) : Outliers :=
  if !live e then { a with out := a.out ++ [0] }
  else if !beyond e then { a with out := a.out ++ [enc e] }
  else if a.count < limit then { out := a.out ++ [0], count := a.count + 1, sat := a.sat, entries := a.entries ++ [entry e a.count] }
  else { a with out := a.out ++ [big e], sat := true }

/-- The outliers among the first n elements, in order. -/
def outliers (n : Nat) : List Nat := (List.range n).filter fun e => live e && beyond e

/-- What element e becomes: the list has room for limit - start. -/
def outlierVal (e : Nat) : Nat :=
  if live e = false then 0
  else if beyond e = false then enc e
  else if (outliers live beyond e).length < limit - start then 0 else big e

theorem outliers_succ (n : Nat) : outliers live beyond (n + 1) = outliers live beyond n ++ if live n && beyond n then [n] else [] := by
  rw [outliers, List.range_succ, List.filter_append, List.filter_singleton]
  cases live n && beyond n <;> rfl

/-- Those that the list takes are those before which fewer than r outliers stand. -/
theorem mem_take_outliers {r e : Nat} (n : Nat) : e ∈ (outliers live beyond n).take r ↔
    e < n ∧ (live e && beyond e) = true ∧ (outliers live beyond e).length < r := by
  induction n with
  | zero => simp [outliers]
  | succ n ih =>
    rw [outliers_succ, List.take_append, List.mem_append, ih]
    cases out : live n && beyond n with
    | false =>
      have other : e = n → (live e && beyond e) = false := fun same => same ▸ out
      grind
    | true =>
      by_cases room : (outliers live beyond n).length < r
      · rw [List.take_of_length_le (by simp; omega)]
        grind
      · rw [Nat.sub_eq_zero_of_le (Nat.not_lt.1 room)]
        grind

theorem foldl_outlierStep (n : Nat) : (List.range n).foldl (outlierStep live beyond enc big entry limit) ⟨[], [], start, false⟩ =
    { out := (List.range n).map (outlierVal live beyond enc big limit start)
      entries := ((outliers live beyond n).take (limit - start)).zipIdx.map fun y => entry y.1 (start + y.2)
      count := start + min (outliers live beyond n).length (limit - start)
      sat := decide (limit - start < (outliers live beyond n).length) } := by
  induction n with
  | zero => simp [outliers]
  | succ n ih =>
    rw [List.range_succ, List.foldl_append, ih, List.foldl_cons, List.foldl_nil, outliers_succ, List.map_append, outlierStep, List.map_singleton,
      outlierVal]
    cases hl : live n with
    | false => simp
    | true =>
      cases hb : beyond n with
      | false => simp
      | true =>
        by_cases room : (outliers live beyond n).length < limit - start
        · have space : start + min (outliers live beyond n).length (limit - start) < limit := by omega
          simp only [Bool.not_true, Bool.false_eq_true, Bool.true_eq_false, Bool.and_self, if_true, if_false, room, space, List.length_append,
            List.length_singleton, Outliers.mk.injEq, true_and]
          refine ⟨?_, by omega, decide_eq_decide.2 (by omega)⟩
          rw [List.take_of_length_le room.le, List.take_of_length_le (by rw [List.length_append]; exact room), List.zipIdx_append, List.map_append,
            min_eq_left room.le, Nat.zero_add]
          rfl
        · have full : ¬ start + min (outliers live beyond n).length (limit - start) < limit := by omega
          simp only [Bool.not_true, Bool.false_eq_true, Bool.true_eq_false, Bool.and_self, if_true, if_false, room, full, List.length_append,
            List.length_singleton, Outliers.mk.injEq, true_and]
          refine ⟨?_, by omega, (decide_eq_true (by omega)).symm⟩
          rw [List.take_append_of_le_length (by omega)]

end

/-! ### VCVTO -/

section
variable {x : SlotIn} {p : CvtPlan} {g : FFmt}

/-- The list descriptor of VCVTO, in the register behind its destination. -/
def SlotIn.listDesc (x : SlotIn) : Nat := (x.t.cread (x.s.f.vd.toNat + 1)).toNat

/-- The list is misaligned, leaves the register space, or its flags are no legal ones (02 R36). -/
def badList (l : Nat) : Prop := nbits l 0 32 % 8 ≠ 0 ∨ 0x40000 < nbits l 0 32 + 8 * nbits l 32 32 ∨ 2 ≤ nbits l 128 32

/-- The source of element e has no encoding in the destination format g (02 R37). -/
def SlotIn.beyond (x : SlotIn) (p : CvtPlan) (g : FFmt) (e : Nat) : Bool :=
  g.overflows (x.rnd p (nbits x.listDesc 160 32) e) (x.srcVal p e) || (g == fE2M1 && (x.srcVal p e).isNan)

/-- The list entry of element e, the k-th of the list. -/
def SlotIn.listEntry (x : SlotIn) (p : CvtPlan) (e k : Nat) : Nat × Nat × Nat :=
  (nbits x.listDesc 0 32 + 8 * k, 8, (nbits x.listDesc 96 32 + e) % 2 ^ 32 + f32enc (x.srcVal p e) * 2 ^ 32)

/-- What VCVTO writes for element e. -/
def SlotIn.cvtoVal (x : SlotIn) (p : CvtPlan) (g : FFmt) : Nat → Nat :=
  outlierVal (p.active x.m) (x.beyond p g) (fun e => g.enc (x.rnd p (nbits x.listDesc 160 32) e) (x.srcVal p e))
    (fun e => if (x.srcVal p e).isNan then 0 else g.signBit (x.srcVal p e).neg? + g.maxEnc) (nbits x.listDesc 32 32) (nbits x.listDesc 64 32)

theorem cvto_bad (h : x.cvtPlan = some p) (dst : p.dst = .float g) (bad : badList x.listDesc) :
    x.cvto = .error (.align, BitVec.ofNat 64 (nbits x.listDesc 0 32)) := by
  simp only [SlotIn.cvto, h, dst]
  exact if_pos bad

theorem cvto_ok (h : x.cvtPlan = some p) (dst : p.dst = .float g) (good : ¬ badList x.listDesc) :
    let all := outliers (p.active x.m) (x.beyond p g) p.n
    let start := nbits x.listDesc 64 32
    let room := nbits x.listDesc 32 32 - start
    ∃ y : Nat → Nat, (∀ e, e < p.n → y e = x.cvtoVal p g e) ∧ x.cvto = .ok { SlotOut.one x.s.f.vd.toNat (x.cvtReg p y) with
      mem := ((all.take room).zipIdx.map fun z => x.listEntry p z.1 (start + z.2)) ++
        [(128 * (x.s.f.vd.toNat + 1) + 8, 4, start + min all.length room),
          (128 * (x.s.f.vd.toNat + 1) + 16, 4, if room < all.length then 1 else nbits x.listDesc 128 32)] } := by
  intro all start room
  refine ⟨fun e => ((List.range p.n).map (x.cvtoVal p g)).getD e 0, fun e he => ?_, ?_⟩
  · simp [List.getD_eq_getElem?_getD, List.getElem?_range he]
  · have run := foldl_outlierStep (p.active x.m) (x.beyond p g) (fun e => g.enc (x.rnd p (nbits x.listDesc 160 32) e) (x.srcVal p e))
      (fun e => if (x.srcVal p e).isNan then 0 else g.signBit (x.srcVal p e).neg? + g.maxEnc) (x.listEntry p) (nbits x.listDesc 32 32) start p.n
    simp only [SlotIn.cvto, h, dst]
    split
    next bad => exact absurd bad good
    · generalize fold : List.foldl _ _ _ = a
      rw [fold.symm.trans run]
      simp only [decide_eq_true_eq]
      rfl

/-- Element e of VCVTO's result, by the list's members instead of their number. -/
theorem cvtoVal_eq {e : Nat} (he : e < p.n) (live : p.active x.m e = true) : x.cvtoVal p g e =
    if x.beyond p g e = false then g.enc (x.rnd p (nbits x.listDesc 160 32) e) (x.srcVal p e)
    else if e ∈ (outliers (p.active x.m) (x.beyond p g) p.n).take (nbits x.listDesc 32 32 - nbits x.listDesc 64 32) ∨ (x.srcVal p e).isNan then 0
    else g.signBit (x.srcVal p e).neg? + g.maxEnc := by
  cases out : x.beyond p g e with
  | false => simp [SlotIn.cvtoVal, outlierVal, live, out]
  | true =>
    simp only [SlotIn.cvtoVal, outlierVal, live, out, mem_take_outliers, he, Bool.and_self, true_and, Bool.true_eq_false, if_false]
    split
    next room => rw [if_pos (.inl room)]
    next full => simp [full]

end

/-- Settles O25: each float row is the shared operation of its form, complex products work on pairs of words, and conversions write what their plan says;
VCVTO's list is that of the elements that it finds to be outliers. -/
theorem vectorFloatElements : Obligations.VectorFloatElements := by
  intro x w g a b c gives
  refine ⟨fun h => ?_, fun h => ?_, fun h => ?_, fun h => ?_, fun h => ?_, fun h => ?_, fun h => ?_, fun h => ?_, fun h => ?_, fun h => ?_, fun h => ?_,
    fun h => ?_, fun h => ?_, fun h => ?_, fun h => ?_, fun h => ?_, ?_, fun op => ?_⟩
  case refine_1 | refine_2 | refine_3 | refine_6 | refine_7 | refine_8 => exact f2_writes (by rw [SlotIn.eval, h])
  case refine_4 | refine_5 => exact f3_writes (by rw [SlotIn.eval, h])
  case refine_9 | refine_10 | refine_11 | refine_12 | refine_13 | refine_14 | refine_15 | refine_16 => exact sf_writes (by rw [SlotIn.eval, h])
  case refine_17 =>
    refine ⟨fun h => writes_pack (by rw [SlotIn.eval, h]; rfl) fun e he => ?_, fun h => writes_pack (by rw [SlotIn.eval, h]; rfl) fun e he => ?_⟩
    all_goals
      obtain ⟨re, im⟩ := vbc_parts x he
      rw [getD_zip3_elems he]
      simp only [elemAt_low, elemAt_high, re, im]
      rfl
  case refine_18 =>
    refine ⟨fun illegal => ?_, fun p hp => ?_⟩
    · rcases op with op | op | op
      · rw [eval_cvt (.inl op), SlotIn.cvt, illegal]
      · rw [eval_cvt (.inr op), SlotIn.cvt, illegal]
      · rw [eval_cvto op, SlotIn.cvto, illegal]
    intro d low at_ enc kept l addr limit bad
    refine ⟨fun plain => ?_, fun op bad => ?_, fun g op good dst => ?_⟩
    · exact ⟨_, (eval_cvt (by tauto)).trans (cvt_ok hp), cvtReg_parts hp _⟩
    · obtain ⟨g, dst⟩ := cvtPlan_float hp op
      exact (eval_cvto op).trans (cvto_bad hp dst bad)
    · intro out all room
      obtain ⟨y, value, eval⟩ := cvto_ok hp dst good
      refine ⟨_, (eval_cvto op).trans eval, fun e he => ((cvtReg_parts hp y).1 e he).trans ?_⟩
      rw [value e he]
      cases live : p.active x.m e with
      | false => rfl
      | true =>
        have same : out e = x.beyond p g e := by rw [show out e = (p.active x.m e && x.beyond p g e) from rfl, live, Bool.true_and]
        have encodes : enc (nbits l 160 32) e = g.enc (x.rnd p (nbits l 160 32) e) (x.srcVal p e) % 2 ^ p.dst.width :=
          congrArg (fun f : NumFmt => f.enc (x.rnd p (nbits l 160 32) e) (x.srcVal p e) % 2 ^ p.dst.width) dst
        rw [cvtoVal_eq he live, if_pos rfl, if_neg (not_not.2 rfl), same, encodes, apply_ite (· % 2 ^ p.dst.width), apply_ite (· % 2 ^ p.dst.width),
          Nat.zero_mod]
        rfl

end Sys2Proof.Machine
end

section
/-! SUPPORT. Permutations, packing, reductions, row statistics, the codebook and the generator (08 R181 to R184, R188, R191 to R193, R195). -/

open Sys2Proof

namespace Sys2Proof.Machine

/-! ### Elements chosen by their place -/

theorem zipIdx_elems (w : Nat) (v : Vec) : (elems w v).zipIdx = (List.range (128 / w)).map fun i => (elemAt w v i, i) := by
  apply List.ext_getElem <;> simp

theorem filterMap_ite {α β : Type} (c : α → Bool) (f : α → β) (l : List α) :
    (l.filterMap fun i => if c i then some (f i) else none) = (l.filter c).map f := by
  induction l with
  | nil => rfl
  | cons i l ih => cases h : c i <;> simp [h, ih]

/-- The elements whose place is chosen, in order. -/
theorem filterMap_zipIdx_elems (w : Nat) (v : Vec) (c : Nat → Bool) :
    ((elems w v).zipIdx.filterMap fun p => if c p.2 then some p.1 else none) = ((List.range (128 / w)).filter c).map (elemAt w v) := by
  rw [zipIdx_elems, List.filterMap_map, ← filterMap_ite]
  rfl

theorem getD_map_elemAt_lt {w z : Nat} (hz : z < 2 ^ (8 * w)) (v : Vec) (l : List Nat) (e : Nat) : (l.map (elemAt w v)).getD e z < 2 ^ (8 * w) := by
  rw [List.getD_eq_getElem?_getD, List.getElem?_map]
  cases l[e]? with
  | none => exact hz
  | some i => exact elemAt_lt w v i

theorem headD_elems {w : Nat} (h : 0 < 128 / w) (v : Vec) : (elems w v).headD 0 = elemAt w v 0 := by
  rw [List.headD_eq_head?_getD, List.head?_eq_getElem?, ← List.getD_eq_getElem?_getD, getD_elems h]

theorem elemAt_fillAbsent {e : Nat} (he : e < 32) (v : Vec) (l : List Nat) :
    elemAt 4 (fillAbsent (l.map (elemAt 4 v))) e = (l.map (elemAt 4 v)).getD e 0xFFFFFFFF := by
  rw [fillAbsent, elemAt_pack he]
  refine Eq.trans ?_ (Nat.mod_eq_of_lt (getD_map_elemAt_lt (by decide) v l e))
  simp only [List.getD_eq_getElem?_getD, List.getElem?_append, List.length_map]
  split
  next inside => rw [List.getElem?_eq_getElem (by simpa using inside), Option.getD_some, Option.getD_some]
  next outside => rw [List.getElem?_replicate_of_lt (by omega), List.getElem?_eq_none (by simpa using outside), Option.getD_some, Option.getD_none]

section
variable {x : SlotIn}

/-! ### VBCAST, VSHUF, VROT and VIOTA -/

theorem iw_places (x : SlotIn) : 0 < 128 / x.iw := by
  obtain h | h | h | h := iw_cases x <;> simp [h]

theorem vbcast_writes (h : x.s.op = .vbcast) : x.writes x.iw fun _ => elemAt x.iw (x.vb x.iw) 0 := by
  refine writes_pack (by rw [SlotIn.eval, h, SlotIn.perm]) fun e he => ?_
  simp only [h]
  rw [List.getD_eq_getElem?_getD, List.getElem?_replicate_of_lt he, Option.getD_some, headD_elems (iw_places x), elemAt_mod]

theorem vshuf_writes (h : x.s.op = .vshuf) : x.writes x.iw fun e =>
    if elemAt x.iw (x.vb x.iw) e < 128 / x.iw then elemAt x.iw x.va (elemAt x.iw (x.vb x.iw) e) else 0 := by
  refine writes_pack (by rw [SlotIn.eval, h, SlotIn.perm]) fun e he => ?_
  simp only [h]
  rw [getD_map_elems he]
  split
  next inside => rw [getD_elems inside, elemAt_mod]
  · exact Nat.zero_mod _

theorem vrot_writes (h : x.s.op = .vrot) : x.writes x.iw fun e => elemAt x.iw x.va ((e + elemAt x.iw (x.vb x.iw) 0) % (128 / x.iw)) := by
  refine writes_pack (by rw [SlotIn.eval, h, SlotIn.perm]) fun e he => ?_
  simp only [h]
  rw [getD_map_range he, getD_elems (Nat.mod_lt _ (iw_places x)), headD_elems (iw_places x), elemAt_mod]

theorem viota_writes (h : x.s.op = .viota) : x.writes x.iw fun e => (elemAt x.iw (x.vb x.iw) 0 + e) % 2 ^ (8 * x.iw) := by
  refine writes_pack (by rw [SlotIn.eval, h, SlotIn.perm]) fun e he => ?_
  simp only [h]
  rw [getD_map_range he, headD_elems (iw_places x)]

/-! ### Rows -/

theorem length_row (x : SlotIn) : x.row.length = x.rows * (128 / x.fw) := by
  simp [SlotIn.row, List.length_flatMap]

theorem row_short (x : SlotIn) : x.row.length < 2 ^ 32 := by
  have rows : x.rows ≤ 64 := bits_lt x.s.f.vb 5 0
  have lanes : 128 / x.fw ≤ 128 := Nat.div_le_self ..
  rw [length_row]
  calc x.rows * (128 / x.fw) ≤ 64 * 128 := Nat.mul_le_mul rows lanes
    _ < 2 ^ 32 := by decide

theorem rowStat_n_le (row : List (Option FVal)) : (rowStat row).n ≤ row.length := by
  have count := List.length_filterMap_le id row
  unfold rowStat
  dsimp only
  split
  next => exact Nat.zero_le _
  next =>
    split
    · exact count
    · split <;> exact count

/-! ### Packing and partition -/

theorem vcompr_eq (x : SlotIn) : x.vcompr = .one x.s.f.vd.toNat
    (pack x.iw (((List.range (128 / x.iw)).filter fun j => active x.m x.iw j).map (elemAt x.iw x.va))) := by
  rw [← filterMap_zipIdx_elems]
  rfl

theorem vpart_eq (x : SlotIn) :
    let yes := (List.range 32).filter fun j => active x.m 4 j
    let no := (List.range 32).filter fun j => !active x.m 4 j
    x.vpart = ⟨[(x.s.f.vd.toNat, fillAbsent (yes.map (elemAt 4 x.va))), (x.s.f.vd.toNat + 1, fillAbsent (no.map (elemAt 4 x.va))),
      (x.s.f.vd.toNat + 2, pack 4 [yes.length, no.length])], false, none, []⟩ := by
  intro yes no
  have taken := filterMap_zipIdx_elems 4 x.va (active x.m 4)
  have left : ((elems 4 x.va).zipIdx.filterMap fun p => if active x.m 4 p.2 then none else some p.1) = no.map (elemAt 4 x.va) := by
    rw [← filterMap_zipIdx_elems 4 x.va fun j => !active x.m 4 j]
    congr 1
    funext p
    cases active x.m 4 p.2 <;> rfl
  rw [SlotIn.vpart]
  simp only [taken, left, List.length_map]
  rfl

theorem elemAt_pack_map {w e : Nat} (he : e < 128 / w) (v : Vec) (l : List Nat) :
    elemAt w (pack w (l.map (elemAt w v))) e = (l.map (elemAt w v)).getD e 0 := by
  rw [elemAt_pack he, Nat.mod_eq_of_lt (getD_map_elemAt_lt (Nat.two_pow_pos _) v l e)]

theorem length_filter_range_lt (c : Nat → Bool) : ((List.range 32).filter c).length < 2 ^ (8 * 4) :=
  ((List.length_filter_le ..).trans_eq List.length_range).trans_lt (by decide)

/-- Lane l of the i-th register that VRAND writes. -/
theorem elemAt_random {e : Nat} (he : e < 16) (i v : Nat) :
    elemAt 8 (pack 8 ((List.range 16).map fun l => (rngWord x.key.seed (rngCounter x.key.cbase x.key.task v (16 * i + l))).toNat)) e =
      (rngWord x.key.seed (rngCounter x.key.cbase x.key.task v (16 * i + e))).toNat := by
  rw [elemAt_pack he]
  refine (congrArg (· % 2 ^ (8 * 8)) (getD_map_range (w := 8) he _)).trans (Nat.mod_eq_of_lt (BitVec.isLt _))

/-! ### VRSOFT -/

theorem rsoft_pred (x : SlotIn) : x.rsoft.pred = if x.s.f.vb.toNat / 256 = 0 then none
    else some (x.s.f.vb.extractLsb' 8 3, if (rowSoft x.row).2 then BitVec.allOnes 128 else 0) := by
  have field : x.s.f.vb.extractLsb' 8 3 = 0 ↔ x.s.f.vb.toNat / 256 = 0 := by
    have small := x.s.f.vb.isLt
    rw [← BitVec.toNat_inj, BitVec.extractLsb'_toNat, Nat.shiftRight_eq_div_pow, show (0 : BitVec 3).toNat = 0 from rfl]
    omega
  simp only [SlotIn.rsoft, field]

theorem rsoft_reg {i : Nat} {r : Nat × Vec} (h : x.rsoft.regs[i]? = some r) :
    r = (x.s.f.vd.toNat + i, pack x.fw ((((rowSoft x.row).1.drop (128 / x.fw * i)).take (128 / x.fw)).map fun v => x.fmt.enc .rne v)) := by
  simp only [SlotIn.rsoft, List.getElem?_map, Option.map_eq_some_iff] at h
  obtain ⟨j, hj, rfl⟩ := h
  obtain ⟨-, rfl⟩ := List.getElem?_eq_some_iff.1 hj
  rw [List.getElem_range]

theorem rsoft_elem {i e : Nat} {v : Vec} {z : FVal} (reg : x.rsoft.regs[i]? = some (x.s.f.vd.toNat + i, v)) (he : e < 128 / x.fw)
    (place : (rowSoft x.row).1[128 / x.fw * i + e]? = some z) : elemAt x.fw v e = x.fmt.enc .rne z % 2 ^ (8 * x.fw) := by
  have value : v = _ := congrArg Prod.snd (rsoft_reg reg)
  rw [value, elemAt_pack he]
  simp [List.getD_eq_getElem?_getD, List.getElem?_take_of_lt he, place]

end

/-- Settles O27: what each row leaves is a register packed from a list, whose element is read off at its place. -/
theorem vectorMovesAndReductions : Obligations.VectorMovesAndReductions := by
  intro x w n d a b word
  refine ⟨vbcast_writes, vshuf_writes, vrot_writes, viota_writes, fun h => ?_, fun h => ?_, fun h => ?_, fun p hp h => ?_, fun h big => ?_, fun h small => ?_,
    fun h => ?_, fun h => ?_, fun h => ?_⟩
  case refine_1 =>
    refine ⟨mergeLanes x.m 1 false x.va (x.vb 4), by rw [SlotIn.eval, h]; rfl, fun i hi => ?_⟩
    rw [elemAt_mergeLanes hi, active, Nat.mul_one]
    rfl
  case refine_2 => exact ⟨_, by rw [SlotIn.eval, h, vcompr_eq]; rfl, fun e he => elemAt_pack_map he ..⟩
  case refine_3 =>
    refine ⟨_, _, _, by rw [SlotIn.eval, h, vpart_eq], fun e he => ⟨elemAt_fillAbsent he .., elemAt_fillAbsent he ..⟩, ?_, ?_, fun e two he => ?_⟩
    · exact (elemAt_pack (by decide) _).trans (Nat.mod_eq_of_lt (length_filter_range_lt _))
    · exact (elemAt_pack (by decide) _).trans (Nat.mod_eq_of_lt (length_filter_range_lt _))
    · rw [elemAt_pack he, List.getD_eq_getElem?_getD, List.getElem?_eq_none two]
      rfl
  case refine_4 =>
    simp only [List.mem_cons, List.not_mem_nil, or_false] at hp
    obtain rfl | rfl | rfl := hp
    all_goals
      simp only at h
      exact ⟨_, by rw [SlotIn.eval, h]; simp only [SlotIn.red, h]; rfl, fun e he => elemAt_splat he _⟩
  case refine_5 =>
    rw [SlotIn.eval, h, SlotIn.cbdec]
    exact if_pos big
  case refine_6 =>
    refine writes_pack (by rw [SlotIn.eval, h, SlotIn.cbdec]; exact if_neg (Nat.not_le.2 small)) fun e he => ?_
    have row : nbits word 8 3 = word / 256 := by
      rw [nbits, Nat.shiftRight_eq_div_pow]
      omega
    rw [← row]
    exact congrArg (· % 2 ^ (8 * 2)) (getD_map_range (w := 2) he _)
  case refine_7 =>
    refine ⟨_, _, by rw [SlotIn.eval, h]; rfl, fun e he => ?_⟩
    intro lane act
    rw [elemAt_mergeLanes he, elemAt_mergeLanes he, if_pos act, if_pos act]
    exact ⟨(elemAt_random he 0 word).trans (by rw [Nat.mul_zero, Nat.zero_add]; rfl), elemAt_random he 1 word⟩
  case refine_8 =>
    refine ⟨_, by rw [SlotIn.eval, h]; rfl, elemAt_pack (e := 0) (w := 4) (by decide) _, elemAt_pack (e := 1) (w := 4) (by decide) _,
      ?_, ?_, fun e four he => ?_⟩
    · have flag : nbits x.old.toNat 64 32 = elemAt 4 x.old 2 := nbits_eq_elemAt (w := 4) (e := 2) x.old
      have small := elemAt_lt 4 x.old 2
      rw [elemAt_pack (by decide), flag]
      refine Nat.mod_eq_of_lt ?_
      simp only [List.getD_cons_succ, List.getD_cons_zero]
      split
      · exact Nat.or_lt_two_pow small (by decide)
      · exact small
    · exact (elemAt_pack (by decide) _).trans (Nat.mod_eq_of_lt ((rowStat_n_le x.row).trans_lt (row_short x)))
    · rw [elemAt_pack he, List.getD_eq_getElem?_getD, List.getElem?_eq_none four]
      rfl
  case refine_9 =>
    refine ⟨_, by rw [SlotIn.eval, h], ?_, rfl, rsoft_pred x, fun i v reg e he z place => rsoft_elem reg he place⟩
    simp [SlotIn.rsoft, d]

end Sys2Proof.Machine
end

section
/-! SUPPORT. Control instructions of slot A (08 R189, R196, R197, 09 R200, R203, R206, R208, R209, R211, R215). -/

open Sys2Proof

namespace Sys2Proof.Machine

/-! ### Branches -/

theorem branch_eq (c : CState) (lit : Option (BitVec 32)) (taken pays : Bool) : CtlOut.branch c c.pc lit taken pays =
    ⟨c, none, if taken then some (c.pc + 16 * BitVec.ofInt 64 (lit.getD 0).toInt, true) else none, if taken && pays then 1 else 0⟩ := by
  rw [CtlOut.branch, BitVec.mul_comm, Bool.and_comm]
  rfl

theorem cbrTaken_any (m : Mask) : cbrTaken 1 m = decide (m ≠ 0) := by simp [cbrTaken, bne, beq_eq_decide]

theorem cbrTaken_all (m : Mask) : cbrTaken 2 m = decide (m = BitVec.allOnes 128) := by simp [cbrTaken, beq_eq_decide]

section
variable {t : Tile} {x : Slot} (lit : Option (BitVec 32)) (pay : BitVec 32)

theorem control_cj (h : x.op = .cj) : t.control x lit pay = some (.branch t.c t.c.pc lit true false) := by simp only [Tile.control, h]

theorem control_cbrt (h : x.op = .cbrt) :
    t.control x lit pay = some (.branch t.c t.c.pc lit (decide (pay ≠ 0) != x.f.vd.getLsbD 0) true) := by
  have nonzero : (pay != 0) = decide (pay ≠ 0) := by simp [bne, beq_eq_decide]
  simp only [Tile.control, h, nonzero]
  rfl

theorem control_cbr (h : x.op = .cbr) {mode : Nat} (hm : x.f.vd.toNat % 4 = mode) {taken : Bool} (ht : cbrTaken mode (t.c.mask x.f) = taken) :
    t.control x lit pay = some (.branch t.c t.c.pc lit taken true) := by
  simp only [Tile.control, h, ← ht, ← hm]
  rfl

/-! ### Loops -/

theorem control_loop (h : x.op = .loopC) : t.control x lit pay = t.c.startLoopC t.loopmode x (lit.getD 0) pay := by simp only [Tile.control, h]

/-- The predicates after a pipelined loop has cleared those of its later stages. -/
theorem rd_clearStages (p : Vector Mask 8) (k : Nat) {i : Nat} (hi : i < 8) :
    rd ((List.range k).foldl (fun v i => wr v (5 + i) 0) p) i = if 5 ≤ i ∧ i < 5 + k then 0 else rd p i := by
  induction k with
  | zero => exact (if_neg (by omega)).symm
  | succ k ih =>
    rw [List.range_succ, List.foldl_append, List.foldl_cons, List.foldl_nil]
    by_cases last : 5 + k = i
    · rw [last, rd_wr_self _ _ _ hi, if_pos (by omega)]
    · rw [rd_wr_ne _ _ _ _ last, ih]
      exact if_congr (by omega) rfl rfl

/-- A LOOP that is not refused sets its counter and, with P = 1, the stage predicates (09 R203, R208). -/
theorem startLoopC_starts {c : CState} {mode pipe : Bool} {l : BitVec 32} (allowed : (x.f.vd.getLsbD 4 && mode) = false)
    (pipelined : (x.f.vd.getLsbD 4 && c.rot.stages != 0) = pipe) {lc : Vector Loop 4} {pc : Word} {n : Nat}
    (starts : startLoop c.lc c.pc (x.f.vd.toNat % 4) (if x.f.vd.getLsbD 3 then pay.toNat % 2 ^ 24 else x.f.va.toNat)
      (if x.f.vd.getLsbD 3 then (pay.extractLsb' 24 8 : BitVec 8).toInt else 1) 16 l.toNat (if pipe then some (c.rot.stages - 1) else none) =
        some (lc, pc, n)) :
    c.startLoopC mode x l pay = some ⟨{ c with
      lc := lc
      p := if pipe && n != 0 then (List.range (c.rot.stages - 1)).foldl (fun v i => wr v (5 + i) 0) (wr c.p 4 (BitVec.allOnes 128)) else c.p },
      none, some (pc, false), 0⟩ := by
  subst pipelined
  unfold CState.startLoopC
  extract_lets tok p b st pipe
  rw [if_neg (by rw [show (p && mode) = false from allowed]; decide), show startLoop c.lc c.pc (bits x.f.vd 1 0) b st 16 l.toNat
    (if pipe then some (c.rot.stages - 1) else none) = _ from starts]
  rfl

end

/-! ### Descriptors, the codebook and rings -/

theorem testBit_placed {old part i k j : Nat} (small : part < 2 ^ k) : (placed old part i k).testBit j =
    if j < i then old.testBit j else if j < i + k then part.testBit (j - i) else old.testBit j := by
  have outer : placed old part i k = 2 ^ i * (2 ^ k * (old / 2 ^ i / 2 ^ k) + part) + old % 2 ^ i := by
    rw [placed]
    ring
  rw [outer, Nat.testBit_two_pow_mul_add _ (Nat.mod_lt _ (Nat.two_pow_pos i)), Nat.testBit_two_pow_mul_add _ small]
  simp only [Nat.testBit_mod_two_pow, Nat.testBit_div_two_pow]
  grind

theorem setMdWord_eq (d : BitVec 512) (q : Nat) (v : Word) : setMdWord d q v =
    BitVec.ofNat 512 (d.toNat % 2 ^ (64 * q) + v.toNat * 2 ^ (64 * q) + d.toNat / 2 ^ (64 * q + 64) * 2 ^ (64 * q + 64)) := by
  have parts : d.toNat % 2 ^ (64 * q) + v.toNat * 2 ^ (64 * q) + d.toNat / 2 ^ (64 * q + 64) * 2 ^ (64 * q + 64) =
      placed d.toNat v.toNat (64 * q) 64 := by
    rw [placed, pow_add, Nat.div_div_eq_div_mul]
    ring
  rw [parts]
  apply BitVec.eq_of_getLsbD_eq
  intro j hj
  rw [BitVec.getLsbD_ofNat, testBit_placed v.isLt]
  simp only [setMdWord, BitVec.getLsbD_or, BitVec.getLsbD_and, BitVec.getLsbD_not, BitVec.getLsbD_shiftLeft, BitVec.getLsbD_setWidth,
    BitVec.getLsbD_allOnes, BitVec.testBit_toNat, hj, decide_true, Bool.true_and]
  by_cases low : j < 64 * q
  · simp [low, -BitVec.getLsbD_eq_getElem]
  · by_cases mid : j < 64 * q + 64
    · simp [low, mid, show j - 64 * q < 64 by omega, show j - 64 * q < 512 by omega, -BitVec.getLsbD_eq_getElem]
    · simp [low, mid, show ¬ j - 64 * q < 64 by omega, BitVec.getLsbD_of_ge v (j - 64 * q) (by omega), -BitVec.getLsbD_eq_getElem]

theorem rd_codebookOf (t : Tile) (va : Nat) {i : Nat} (hi : i < 256) :
    rd (codebookOf t va) i = BitVec.ofNat 32 (elemAt 4 (t.cread (va + i / 32)) (i % 32)) := by
  rw [rd, Vector.getElem?_eq_getElem hi, Option.getD_some, codebookOf, Vector.getElem_ofFn]
  exact congrArg (BitVec.ofNat 32) (nbits_eq_elemAt (w := 4) _)

section
variable {t : Tile} {x : Slot} (lit : Option (BitVec 32)) (pay : BitVec 32)

theorem control_viewt (h : x.op = .viewt) : t.control x lit pay = if viewOk ((t.cread x.f.va.toNat).extractLsb' 0 64)
    then some ⟨t.c, some (.tile (Fin.ofNat 8 x.f.vd.toNat) ((t.cread x.f.va.toNat).extractLsb' 0 64)), none, 0⟩ else none := by
  have view : (⟨bits x.f.vd 2 0 % 8, Nat.mod_lt _ (by decide)⟩ : Fin 8) = Fin.ofNat 8 x.f.vd.toNat := Fin.ext (Nat.mod_mod ..)
  simp only [Tile.control, h, view]

theorem control_viewa (h : x.op = .viewa) : t.control x lit pay = if viewOk ((t.cread x.f.va.toNat).extractLsb' 0 64)
    then some ⟨t.c, some (.acc (Fin.ofNat 4 x.f.vd.toNat) ((t.cread x.f.va.toNat).extractLsb' 0 64)), none, 0⟩ else none := by
  have view : (⟨bits x.f.vd 1 0 % 4, Nat.mod_lt _ (by decide)⟩ : Fin 4) = Fin.ofNat 4 x.f.vd.toNat := Fin.ext (Nat.mod_mod ..)
  simp only [Tile.control, h, view]

theorem control_mdsetf (h : x.op = .mdsetf) {q : Nat} (hq : x.f.vd.toNat / 16 % 8 = q) {d : BitVec 512}
    (hd : setMdWord (rd t.c.md (x.f.vd.toNat % 16)) q ((t.cread x.f.va.toNat).extractLsb' 0 64) = d) :
    t.control x lit pay = if mdOk d then some ⟨{ t.c with md := wr t.c.md (x.f.vd.toNat % 16) d }, none, none, 0⟩ else none := by
  have word : bits x.f.vd 6 4 = q := by rw [bits, Nat.shiftRight_eq_div_pow, ← hq]; rfl
  have entry : bits x.f.vd 3 0 = x.f.vd.toNat % 16 := rfl
  simp only [Tile.control, h, word, entry, hd]
  rfl

theorem control_lbhdr (h : x.op = .lbhdr) (buffer : t.loopmode = true) : t.control x lit pay = (t.c.lbhdrC x).map CtlOut.none := by
  simp only [Tile.control, h, buffer]
  rfl

end

/-- The registers that LBHDR names overlap those of ring i, which is another and set (09 R209). -/
def CState.ringMeets (c : CState) (f : SlotF) (i : Nat) : Prop := i < 8 ∧ i ≠ f.vb.toNat % 8 ∧ (rd c.rings i).v = true ∧
  (rd c.rings i).q < f.vd.toNat + f.va.toNat + 1 ∧ f.vd.toNat < (rd c.rings i).q + (rd c.rings i).len

theorem any_ringMeets (c : CState) (f : SlotF) : ((List.range 8).any fun j => j != bits f.vb 2 0 &&
    (let r := rd c.rings j; r.v && decide (r.q < f.vd.toNat + (f.va.toNat + 1)) && decide (f.vd.toNat < r.q + r.len))) = true ↔ ∃ i, c.ringMeets f i := by
  simp only [List.any_eq_true, List.mem_range, Bool.and_eq_true, bne_iff_ne, decide_eq_true_eq, and_assoc]
  rfl

theorem lbhdrC_meets {c : CState} {x : Slot} {i : Nat} (set : x.f.vb.getLsbD 3 = false) (meets : c.ringMeets x.f i) : c.lbhdrC x = none := by
  unfold CState.lbhdrC
  rw [if_neg (by rw [bit, set]; decide)]
  exact if_pos ((any_ringMeets c x.f).2 ⟨i, meets⟩)

theorem lbhdrC_apart {c : CState} {x : Slot} (set : x.f.vb.getLsbD 3 = false) (apart : ∀ i, ¬ c.ringMeets x.f i) : c.lbhdrC x =
    some { c with rings := wr c.rings (x.f.vb.toNat % 8) ⟨x.f.vd.toNat, x.f.va.toNat + 1, true⟩ } := by
  unfold CState.lbhdrC
  rw [if_neg (by rw [bit, set]; decide)]
  exact if_neg (mt (any_ringMeets c x.f).1 (not_exists.2 apart))

theorem lbhdrC_clear {c : CState} {x : Slot} (clear : x.f.vb.getLsbD 3 = true) : c.lbhdrC x =
    some { c with rings := wr c.rings (x.f.vb.toNat % 8) { rd c.rings (x.f.vb.toNat % 8) with v := false } } := if_pos clear

/-! ### A bundle of a control instruction alone -/

/-- The instructions that slot A applies as control. -/
def controlCodes : List VCode := [.cbr, .cbrt, .cj, .loopC, .loopSet, .rotb, .lbhdr, .viewt, .viewa, .fmtset, .mdset, .mdsetf, .cbload]

/-- As a vector slot such an instruction leaves nothing. -/
theorem eval_control {x : SlotIn} (h : x.s.op ∈ controlCodes) : x.eval = .ok .nothing := by
  simp only [controlCodes, List.mem_cons, List.not_mem_nil, or_false] at h
  obtain h | h | h | h | h | h | h | h | h | h | h | h | h := h <;> rw [SlotIn.eval, h]

section
variable {t : Tile} {key : RngKey} {b : Bundle} {y : Slot} {pay : BitVec 32} (slotA : b.a = some y) (slotB : b.b = none) (slotM : b.m = none)
  (control : y.op ∈ controlCodes)
include slotA slotB slotM control

theorem bundleOut_illegal (bad : t.control y b.lit pay = none) : t.bundleOut key b pay = .error (.illegal, 0) := by
  have left : (SlotIn.mk t key b.k.zero b.lit y).eval = .ok .nothing := eval_control control
  simp only [Tile.bundleOut, slotA, slotB, slotM, left, bad]

theorem bundleOut_control {o : CtlOut} (ok : t.control y b.lit pay = some o) : t.bundleOut key b pay =
    if ∀ j, o.jump = some j → t.inStream .c j.1 = true then .ok ⟨some (.nothing, y.f.tr), none, o, none⟩ else .error (.illegal, 0) := by
  have left : (SlotIn.mk t key b.k.zero b.lit y).eval = .ok .nothing := eval_control control
  simp only [Tile.bundleOut, slotA, slotB, slotM, left, ok]
  cases jump : o.jump with
  | none => simp
  | some j => simp

end

theorem renamedBundle_control {s : State} {op : VCode} {ty : BitVec 2} {f : SlotF} {x : Bun} {y : Slot} (inA : x.inB = false) (noM : x.m = none)
    (noB : ∀ z, x.b ≠ .slot z) (slotA : (s.renamedBundle (bundleOf x op ty f)).a = some y) :
    y.op = op ∧ (s.renamedBundle (bundleOf x op ty f)).b = none ∧ (s.renamedBundle (bundleOf x op ty f)).m = none := by
  unfold bundleOf at slotA ⊢
  rw [inA, if_neg (by decide)] at slotA ⊢
  cases second : x.b with
  | slot z => exact absurd second (noB z)
  | empty =>
    rw [second] at slotA
    cases slotA
    exact ⟨rfl, rfl, noM⟩
  | lit l =>
    rw [second] at slotA
    cases slotA
    exact ⟨rfl, rfl, noM⟩

/-- Settles O28: each row is what slot A's control comes to, and a bundle of one alone computes nothing else. -/
theorem cControlInstructions : Obligations.CControlInstructions := by
  refine ⟨?_, ?_⟩
  · intro t x lit pay target m j l bound goes
    refine ⟨fun h => ?_, fun h mode => ?_, fun h mode => ?_, fun h mode => ?_, fun h => ?_, fun h runs => ?_, fun h stopped => ?_, fun h plain lc pc n starts => ?_,
      fun h p free stages lc pc n starts => ?_, fun h p buffer => ?_, fun h free => ?_, fun h buffer => ?_, fun h free => ?_, fun h buffer clear => ?_,
      fun i h buffer set hi other valid below above => ?_, fun h buffer set apart => ?_, ?_⟩
    case refine_1 => exact (control_cj lit pay h).trans (congrArg some (branch_eq ..))
    case refine_2 => exact (control_cbr lit pay h mode rfl).trans (congrArg some (branch_eq ..))
    case refine_3 => exact (control_cbr lit pay h mode (cbrTaken_any _)).trans (congrArg some (branch_eq ..))
    case refine_4 => exact (control_cbr lit pay h mode (cbrTaken_all _)).trans (congrArg some (branch_eq ..))
    case refine_5 => exact (control_cbrt lit pay h).trans (congrArg some (branch_eq ..))
    case refine_6 =>
      have on : (rd t.c.lc (bits x.f.vd 1 0)).running = true := bne_iff_ne.2 runs
      exact ⟨_, by simp only [Tile.control, h]; rfl, if_pos on, rfl, rfl, rfl⟩
    case refine_7 =>
      have off : (rd t.c.lc (bits x.f.vd 1 0)).running = false := bne_eq_false_iff_eq.2 stopped
      simp only [Tile.control, h, CState.loopSetC, off]
      rfl
    case refine_8 =>
      refine (control_loop lit pay h).trans (startLoopC_starts (pipe := false) pay ?_ ?_ starts)
      · obtain p | ⟨m, -⟩ := plain <;> simp [*, -BitVec.getLsbD_eq_getElem]
      · obtain p | ⟨-, s⟩ := plain <;> simp [*, -BitVec.getLsbD_eq_getElem]
    case refine_9 =>
      have pipelined : (x.f.vd.getLsbD 4 && t.c.rot.stages != 0) = true := by rw [p, Bool.true_and, bne_iff_ne]; omega
      refine ⟨_, (control_loop lit pay h).trans (startLoopC_starts (pipe := true) pay (by simp [free]) pipelined starts), fun zero => ?_, fun runs i hi => ?_⟩
      · rw [zero]
        rfl
      · rw [if_pos (by simpa using runs), rd_clearStages _ _ hi]
        by_cases first : i = 4
        · rw [if_neg (by omega), if_pos first, first, rd_wr_self _ _ _ (by decide)]
        · rw [rd_wr_ne _ _ _ _ (Ne.symm first), if_neg first]
          exact if_congr (by omega) rfl rfl
    case refine_10 =>
      rw [control_loop lit pay h, buffer, CState.startLoopC]
      exact if_pos (by rw [bit, p]; rfl)
    case refine_11 => simp only [Tile.control, h, free]; rfl
    case refine_12 => simp only [Tile.control, h, buffer]; rfl
    case refine_13 => simp only [Tile.control, h, free]; rfl
    case refine_14 => rw [control_lbhdr lit pay h buffer, lbhdrC_clear clear]; rfl
    case refine_15 => rw [control_lbhdr lit pay h buffer, lbhdrC_meets set ⟨hi, other, valid, below, above⟩, Option.map_none]
    case refine_16 =>
      rw [control_lbhdr lit pay h buffer, lbhdrC_apart set]
      · rfl
      · rintro i ⟨hi, other, valid, below, above⟩
        have := apart i hi other valid
        omega
    case refine_17 =>
      intro low d512 n w field
      refine ⟨fun h => ?_, fun h => ?_, fun h => ?_, fun h => ?_, fun h => ?_, fun h => ?_⟩
      case refine_1 => exact control_viewt lit pay h
      case refine_2 => exact control_viewa lit pay h
      case refine_3 => simp only [Tile.control, h]; rfl
      case refine_4 => simp only [Tile.control, h]; rfl
      case refine_5 => exact control_mdsetf lit pay h rfl (setMdWord_eq ..)
      case refine_6 => exact ⟨codebookOf t x.f.va.toNat, by simp only [Tile.control, h], fun i hi => rd_codebookOf t _ hi⟩
  · intro s op ty f x y code inA noM noB b i slotA ready
    obtain ⟨rfl, slotB, slotM⟩ := renamedBundle_control inA noM noB slotA
    obtain ⟨run, -⟩ := cRun_whole (p := (i, bundleOf x y.op ty f)) (exec_ofSlot y.op ty f x s)
    obtain ⟨whole, stops⟩ := run ready
    refine ⟨fun bad => stops _ _ (bundleOut_illegal slotA slotB slotM code bad), fun o ok => ⟨fun inside => whole _ ?_, fun j jump outside => stops _ _ ?_⟩⟩
    · rw [bundleOut_control slotA slotB slotM code ok, if_pos inside]
    · rw [bundleOut_control slotA slotB slotM code ok, if_neg]
      exact fun inside => absurd (inside j jump) (by rw [outside]; decide)

end Sys2Proof.Machine
end

section
/-! SUPPORT. Hardware loops, the renaming of registers and what a loop-back does (09 R203 to R205, R207 to R209). -/

open Sys2Proof

namespace Sys2Proof.Machine

/-! ### The loops in the order of their starts (09 R204) -/

theorem insertLoop_perm (lc : Vector Loop 4) (j : Nat) (l : List Nat) : (insertLoop lc j l).Perm (j :: l) := by
  induction l with
  | nil => exact .refl _
  | cons k r ih =>
    unfold insertLoop
    split
    · exact .refl _
    · exact (ih.cons k).trans (.swap j k r)

theorem foldr_insertLoop_perm (lc : Vector Loop 4) (l : List Nat) : (l.foldr (insertLoop lc) []).Perm l := by
  induction l with
  | nil => exact .refl _
  | cons j l ih => exact (insertLoop_perm lc j _).trans (ih.cons j)

/-- The loop started last comes first. -/
theorem foldr_insertLoop_latest {lc : Vector Loop 4} {j : Nat} {l : List Nat} (mem : j ∈ l)
    (latest : ∀ k ∈ l, k ≠ j → (rd lc k).born < (rd lc j).born) :
    ∃ r, l.foldr (insertLoop lc) [] = j :: r := by
  induction l with
  | nil => cases mem
  | cons a l ih =>
    rw [List.foldr_cons]
    by_cases first : a = j
    · subst first
      cases e : l.foldr (insertLoop lc) [] with
      | nil => exact ⟨[], rfl⟩
      | cons k r =>
        have k_mem : k ∈ l := (foldr_insertLoop_perm lc l).subset (e ▸ List.mem_cons_self)
        have older : (rd lc k).born ≤ (rd lc a).born := by
          by_cases same : k = a
          · rw [same]
          · exact (latest k (List.mem_cons_of_mem _ k_mem) same).le
        exact ⟨k :: r, if_pos older⟩
    · obtain ⟨r, e⟩ := ih ((List.mem_cons.1 mem).resolve_left (Ne.symm first)) fun k hk => latest k (List.mem_cons_of_mem _ hk)
      rw [e]
      exact ⟨insertLoop lc a r, if_neg (not_le.2 (latest a List.mem_cons_self first))⟩

theorem running_iff (l : Loop) : l.running = true ↔ l.count ≠ 0 := bne_iff_ne

theorem mem_loopsEnding {lc : Vector Loop 4} {pc : Word} {i : Nat} :
    i ∈ (List.range 4).filter (fun j => (rd lc j).running && (rd lc j).fin == pc) ↔ i < 4 ∧ (rd lc i).count ≠ 0 ∧ (rd lc i).fin = pc := by
  rw [List.mem_filter, List.mem_range, Bool.and_eq_true, running_iff, beq_iff_eq]

theorem mem_loopsAt {lc : Vector Loop 4} {pc : Word} {i : Nat} : i ∈ loopsAt lc pc ↔ i < 4 ∧ (rd lc i).count ≠ 0 ∧ (rd lc i).fin = pc :=
  (foldr_insertLoop_perm lc _).mem_iff.trans mem_loopsEnding

section
variable {lc : Vector Loop 4} {pc : Word} {j : Nat} (hj : j < 4) (runs : (rd lc j).count ≠ 0) (ends : (rd lc j).fin = pc)
include hj runs ends

theorem loopsAt_latest (latest : ∀ i, i < 4 → i ≠ j → (rd lc i).born < (rd lc j).born) : ∃ r, loopsAt lc pc = j :: r :=
  foldr_insertLoop_latest (mem_loopsEnding.2 ⟨hj, runs, ends⟩) fun k hk => latest k (mem_loopsEnding.1 hk).1

theorem loopsAt_only (only : ∀ i, i < 4 → (rd lc i).count ≠ 0 → i ≠ j → (rd lc i).fin ≠ pc) : loopsAt lc pc = [j] := by
  have all : ∀ i ∈ loopsAt lc pc, i = j := fun i hi => by
    obtain ⟨lt, on, fin⟩ := mem_loopsAt.1 hi
    by_contra other
    exact only i lt on other fin
  have nodup : (loopsAt lc pc).Nodup := (foldr_insertLoop_perm lc _).nodup_iff.2 (List.nodup_range.filter _)
  have mem : j ∈ loopsAt lc pc := mem_loopsAt.2 ⟨hj, runs, ends⟩
  cases e : loopsAt lc pc with
  | nil => rw [e] at mem; cases mem
  | cons a r =>
    rw [e] at all nodup
    cases r with
    | nil => rw [all a List.mem_cons_self]
    | cons b r =>
      have same : a = b := (all a List.mem_cons_self).trans (all b (by simp)).symm
      exact absurd (same ▸ List.mem_cons_self) (List.nodup_cons.1 nodup).1

end

theorem foldl_max_le {l : List Loop} {n : Nat} {x : Loop} (h : x ∈ l ∨ x.born ≤ n) : x.born ≤ l.foldl (fun n l => max n l.born) n := by
  induction l generalizing n with
  | nil => exact h.resolve_left List.not_mem_nil
  | cons a l ih =>
    refine ih ?_
    rcases h with h | h
    · rcases List.mem_cons.1 h with rfl | h
      · exact .inr (le_max_right ..)
      · exact .inl h
    · exact .inr (h.trans (le_max_left ..))

theorem born_lt_nextBorn (lc : Vector Loop 4) {i : Nat} (hi : i < 4) : (rd lc i).born < nextBorn lc := by
  refine Nat.lt_succ_of_le (foldl_max_le (.inl ?_))
  rw [rd_eq_getElem lc ⟨i, hi⟩, Vector.mem_toList_iff]
  exact Vector.getElem_mem hi

/-! ### The loop test (09 R204) -/

theorem testLoops_back {lc : Vector Loop 4} {j : Nat} (next : Word) (r : List Nat) (more : 1 < (rd lc j).count.toNat) :
    testLoops lc next (j :: r) = (wr lc j { rd lc j with
      count := (rd lc j).count - 1, index := (rd lc j).index + (rd lc j).step.signExtend 32, backs := (rd lc j).backs + 1 }, (rd lc j).start, some j) :=
  if_neg (not_le.2 more)

theorem testLoops_last {lc : Vector Loop 4} {j : Nat} (next : Word) (last : (rd lc j).count.toNat ≤ 1) :
    testLoops lc next [j] = (wr lc j { rd lc j with count := 0 }, next, none) := if_pos last

/-- A taken branch stops the loops whose body does not hold its target (09 R205). -/
theorem rd_leaveLoops (lc : Vector Loop 4) (target : Word) {i : Nat} (hi : i < 4) : rd (leaveLoops lc target) i =
    if (rd lc i).count ≠ 0 ∧ ¬ ((rd lc i).start ≤ target ∧ target ≤ (rd lc i).fin) then { rd lc i with count := 0 } else rd lc i := by
  have cond : ((rd lc i).running && !(rd lc i).inBody target) = true ↔
      (rd lc i).count ≠ 0 ∧ ¬ ((rd lc i).start ≤ target ∧ target ≤ (rd lc i).fin) := by
    rw [Bool.and_eq_true, running_iff, Loop.inBody, Bool.not_eq_true', ← Bool.not_eq_true, Bool.and_eq_true, decide_eq_true_iff, decide_eq_true_iff]
  have map : rd (leaveLoops lc target) i =
      if (rd lc i).running && !(rd lc i).inBody target then { rd lc i with count := 0 } else rd lc i := by
    rw [leaveLoops, rd_eq_getElem _ ⟨i, hi⟩, rd_eq_getElem lc ⟨i, hi⟩]
    exact Vector.getElem_map ..
  rw [map]
  exact if_congr cond rfl rfl

/-! ### What LOOP starts (09 R203, R205) -/

/-- The step that a LOOP takes: 1 where its operand is 0. -/
def loopStep (st : Int) : Int := if st = 0 then 1 else st

/-- The trips of a loop. -/
def loopTrips (b : Nat) (st : Int) : Nat := (b + (loopStep st).natAbs - 1) / (loopStep st).natAbs

/-- The count of a loop: its trips, and for P = 1 the stages less one. -/
def loopCount (b : Nat) (st : Int) (pipe : Option Nat) : Nat :=
  pipe.elim (loopTrips b st) fun k => if loopTrips b st = 0 then 0 else loopTrips b st + k

/-- A LOOP stands at the end of a running loop, or reaches beyond that of one on another counter. -/
def loopClash (lc : Vector Loop 4) (pc : Word) (j : Nat) (fin : Word) : Prop :=
  ∃ i, (i < 4 ∧ (rd lc i).count ≠ 0) ∧ ((rd lc i).fin = pc ∨ (i ≠ j ∧ (rd lc i).fin < fin))

/-- The counter that a LOOP sets: trips in its count, trips for the index, and the trip count kept for P = 1. -/
def startedLoop (lc : Vector Loop 4) (pc : Word) (b : Nat) (st : Int) (w off count pipe : Nat) : Loop :=
  ⟨BitVec.ofNat 24 count, BitVec.ofNat 32 (if 0 < loopStep st then 0 else (loopTrips b st - 1) * (loopStep st).natAbs), BitVec.ofInt 16 (loopStep st),
    pc + BitVec.ofNat 64 w, pc + BitVec.ofNat 64 (w * off), 0, pipe, nextBorn lc⟩

theorem loopStep_natAbs_pos (st : Int) : 0 < (loopStep st).natAbs := by
  unfold loopStep
  split <;> omega

theorem loopTrips_pos {b : Nat} (st : Int) (hb : 0 < b) : 0 < loopTrips b st :=
  Nat.div_pos (by omega) (loopStep_natAbs_pos st)

theorem loopTrips_zero (st : Int) : loopTrips 0 st = 0 := Nat.div_eq_of_lt (by have := loopStep_natAbs_pos st; omega)

theorem loopTrips_le (b : Nat) (st : Int) : loopTrips b st ≤ b := by
  have pos := loopStep_natAbs_pos st
  rw [loopTrips, Nat.div_le_iff_le_mul_add_pred pos]
  have := Nat.le_mul_of_pos_left b pos
  omega

section
variable {lc : Vector Loop 4} {pc : Word} {j b w off : Nat} {st : Int}

theorem startLoop_clash (clash : loopClash lc pc j (pc + BitVec.ofNat 64 (w * off))) (pipe : Option Nat) : startLoop lc pc j b st w off pipe = none := by
  obtain ⟨i, ⟨hi, on⟩, meets⟩ := clash
  have running := (running_iff _).2 on
  unfold startLoop
  extract_lets fin others step m n0 n x0
  by_cases ends : (List.range 4).any (fun i => (rd lc i).running && (rd lc i).fin == pc) = true
  · exact if_pos ends
  · rw [if_neg ends]
    refine if_pos ?_
    rcases meets with same | ⟨other, before⟩
    · exact absurd (List.any_eq_true.2 ⟨i, List.mem_range.2 hi, by rw [running, same]; exact beq_self_eq_true pc⟩) ends
    · exact List.any_eq_true.2 ⟨i, List.mem_filter.2 ⟨List.mem_range.2 hi, by rw [running, bne_iff_ne.2 other]; rfl⟩, decide_eq_true before⟩

section
variable (free : ¬ loopClash lc pc j (pc + BitVec.ofNat 64 (w * off)))
include free

/-- A LOOP that meets no running loop goes behind its end, or sets its counter. -/
theorem startLoop_free (pipe : Option Nat) : startLoop lc pc j b st w off pipe =
    if loopCount b st pipe = 0 then some (lc, pc + BitVec.ofNat 64 (w * off) + BitVec.ofNat 64 w, 0)
    else some (wr lc j (startedLoop lc pc b st w off (loopCount b st pipe) (pipe.elim 0 fun _ => loopTrips b st)),
      pc + BitVec.ofNat 64 w, loopTrips b st) := by
  have ends : ¬ (List.range 4).any (fun i => (rd lc i).running && (rd lc i).fin == pc) = true := fun h => by
    obtain ⟨i, hi, on⟩ := List.any_eq_true.1 h
    rw [Bool.and_eq_true, running_iff, beq_iff_eq] at on
    exact free ⟨i, ⟨List.mem_range.1 hi, on.1⟩, .inl on.2⟩
  have beyond : ¬ (((List.range 4).filter fun i => i != j && (rd lc i).running).any
      fun i => decide ((rd lc i).fin < pc + BitVec.ofNat 64 (w * off))) = true := fun h => by
    obtain ⟨i, hi, before⟩ := List.any_eq_true.1 h
    obtain ⟨lt, other⟩ := List.mem_filter.1 hi
    rw [Bool.and_eq_true, running_iff, bne_iff_ne] at other
    exact free ⟨i, ⟨List.mem_range.1 lt, other.2⟩, .inr ⟨other.1, of_decide_eq_true before⟩⟩
  unfold startLoop
  rw [if_neg ends, if_neg beyond]
  cases pipe <;> rfl

theorem startLoop_zero : startLoop lc pc j 0 st w off none = some (lc, pc + BitVec.ofNat 64 (w * off) + BitVec.ofNat 64 w, 0) :=
  (startLoop_free free none).trans (if_pos (loopTrips_zero st))

section
variable (hb : 0 < b)
include hb

theorem startLoop_starts : startLoop lc pc j b st w off none =
    some (wr lc j (startedLoop lc pc b st w off (loopTrips b st) 0), pc + BitVec.ofNat 64 w, loopTrips b st) :=
  (startLoop_free free none).trans (if_neg (loopTrips_pos st hb).ne')

theorem startLoop_pipelined (k : Nat) : startLoop lc pc j b st w off (some k) =
    some (wr lc j (startedLoop lc pc b st w off (loopTrips b st + k) (loopTrips b st)), pc + BitVec.ofNat 64 w, loopTrips b st) := by
  have pos := loopTrips_pos st hb
  have count : loopCount b st (some k) = loopTrips b st + k := if_neg pos.ne'
  rw [startLoop_free free, count]
  exact if_neg (by omega)

end
end
end

/-! ### Renaming (09 R207 to R209) -/

section
variable {c : CState} {f : BitVec 11}

theorem rename_rotates (on : c.rot.r ≠ 0) (from_ : c.rot.q ≤ f.toNat) (below : f.toNat < c.rot.q + c.rot.r) :
    c.rename false f = BitVec.ofNat 11 (c.rot.q + (f.toNat - c.rot.q + c.rot.rb) % c.rot.r) := by
  simp [CState.rename, on, from_, below]

theorem rename_outsideRegion (out : c.rot.r = 0 ∨ f.toNat < c.rot.q ∨ c.rot.q + c.rot.r ≤ f.toNat) : c.rename false f = f := by
  refine if_neg fun inside => ?_
  simp only [Bool.and_eq_true, bne_iff_ne, decide_eq_true_eq] at inside
  obtain ⟨⟨on, from_⟩, below⟩ := inside
  omega

/-- The loop-backs that a ring counts: those of the innermost running loop. -/
def CState.ringBacks (c : CState) : Nat := match c.innermost with | some l => l.backs | none => 0

theorem ringBacks_idle (idle : ∀ k, k < 4 → (rd c.lc k).count = 0) : c.ringBacks = 0 := by
  have none_ : (List.range 4).filter (fun j => (rd c.lc j).running) = [] :=
    List.filter_eq_nil_iff.2 fun k hk => by rw [running_iff, not_not]; exact idle k (List.mem_range.1 hk)
  rw [CState.ringBacks, CState.innermost, none_]
  rfl

theorem ringBacks_innermost {k : Nat} (hk : k < 4) (on : (rd c.lc k).count ≠ 0)
    (latest : ∀ m, m < 4 → m ≠ k → (rd c.lc m).count ≠ 0 → (rd c.lc m).born < (rd c.lc k).born) : c.ringBacks = (rd c.lc k).backs := by
  obtain ⟨r, e⟩ := foldr_insertLoop_latest (l := (List.range 4).filter fun j => (rd c.lc j).running) (lc := c.lc)
    (List.mem_filter.2 ⟨List.mem_range.2 hk, (running_iff _).2 on⟩) fun m hm other => by
      obtain ⟨lt, run⟩ := List.mem_filter.1 hm
      exact latest m (List.mem_range.1 lt) other ((running_iff _).1 run)
  rw [CState.ringBacks, CState.innermost, e]
  rfl

/-- A ring holds a register number. -/
def Ring.holds (r : Ring) (n : Nat) : Bool := r.v && decide (r.q ≤ n) && decide (n < r.q + r.len)

theorem rename_buffer : c.rename true f = (match c.rings.toList.find? (Ring.holds · f.toNat) with
    | some r => BitVec.ofNat 11 (r.q + (f.toNat - r.q + c.ringBacks) % r.len)
    | none => f) := rfl

theorem Ring.holds_iff (r : Ring) (n : Nat) : r.holds n = true ↔ r.v = true ∧ r.q ≤ n ∧ n < r.q + r.len := by
  simp only [Ring.holds, Bool.and_eq_true, decide_eq_true_eq, and_assoc]

theorem rename_ring {i : Nat} (hi : i < 8) (holds : (rd c.rings i).holds f.toNat = true)
    (others : ∀ k, k < 8 → k ≠ i → (rd c.rings k).holds f.toNat = false) :
    c.rename true f = BitVec.ofNat 11 ((rd c.rings i).q + (f.toNat - (rd c.rings i).q + c.ringBacks) % (rd c.rings i).len) := by
  have found : c.rings.toList.find? (Ring.holds · f.toNat) = some (rd c.rings i) := by
    rw [List.find?_eq_some_iff_getElem]
    refine ⟨holds, i, by simpa using hi, ?_, fun k hk => ?_⟩
    · rw [Vector.getElem_toList]
      exact (rd_eq_getElem c.rings ⟨i, hi⟩).symm
    · have before := others k (hk.trans hi) hk.ne
      rw [rd_eq_getElem c.rings ⟨k, hk.trans hi⟩] at before
      rw [Vector.getElem_toList, Bool.not_eq_true']
      exact before
  rw [rename_buffer, found]

theorem rename_outsideRings (none_ : ∀ k, k < 8 → (rd c.rings k).holds f.toNat = false) : c.rename true f = f := by
  have missing : c.rings.toList.find? (Ring.holds · f.toNat) = none := by
    rw [List.find?_eq_none]
    intro r hr
    obtain ⟨k, hk, rfl⟩ := List.getElem_of_mem hr
    have lt : k < 8 := by simpa using hk
    have apart := none_ k lt
    rw [rd_eq_getElem c.rings ⟨k, lt⟩] at apart
    rw [Vector.getElem_toList, Bool.not_eq_true]
    exact apart
  rw [rename_buffer, missing]

end

/-! ### A loop-back (09 R208) -/

theorem loopedBack_lc (c : CState) (rotating : Bool) (j : Nat) : (c.loopedBack rotating j).lc = c.lc := by
  unfold CState.loopedBack
  extract_lets l rot x
  have lc : x.lc = c.lc := by unfold x; split <;> rfl
  split
  · exact lc
  · exact lc

theorem loopedBack_rb (c : CState) (j : Nat) :
    (c.loopedBack true j).rot.rb = if c.rot.r = 0 then c.rot.rb else (c.rot.rb + c.rot.r - 1) % c.rot.r := by
  by_cases on : c.rot.r = 0
  · simp [CState.loopedBack, on, apply_ite]
  · simp [CState.loopedBack, on, apply_ite]

theorem loopedBack_p (c : CState) (rotating : Bool) (j : Nat) : (c.loopedBack rotating j).p =
    if (rd c.lc j).pipe ≠ 0 ∧ c.rot.stages ≠ 0 then stageShift c.p c.rot.stages (rd c.lc j).pipe (rd c.lc j).backs else c.p := by
  unfold CState.loopedBack
  extract_lets l rot x
  have p : x.p = c.p := by unfold x; split <;> rfl
  have stages : x.rot.stages = c.rot.stages := by unfold x; split <;> rfl
  rw [stages]
  by_cases on : (rd c.lc j).pipe ≠ 0 ∧ c.rot.stages ≠ 0
  · rw [if_pos on, if_pos (by simpa [l, bne_iff_ne] using on), p]
  · rw [if_neg on, if_neg (by simpa [l, bne_iff_ne] using on), p]

/-- The stage predicates move up by one. -/
theorem rd_shiftStages (p : Vector Mask 8) (k : Nat) {i : Nat} (hi : i < 8) :
    rd ((List.range k).reverse.foldl (fun p t => wr p (5 + t) (rd p (4 + t))) p) i = if 5 ≤ i ∧ i < 5 + k then rd p (i - 1) else rd p i := by
  induction k generalizing p with
  | zero => exact (if_neg (by omega)).symm
  | succ k ih =>
    rw [List.range_succ, List.reverse_append, List.reverse_singleton, List.singleton_append, List.foldl_cons, ih]
    by_cases inner : 5 ≤ i ∧ i < 5 + k
    · rw [if_pos inner, if_pos (by omega), rd_wr_ne _ _ _ _ (by omega)]
    · rw [if_neg inner]
      by_cases last : 5 + k = i
      · subst last
        rw [rd_wr_self _ _ _ hi, if_pos (by omega), show 5 + k - 1 = 4 + k by omega]
      · rw [rd_wr_ne _ _ _ _ last, if_neg (by omega)]

section
variable (p : Vector Mask 8) (stages n b : Nat)

theorem rd_stageShift_first : rd (stageShift p stages n b) 4 = if b < n then BitVec.allOnes 128 else 0 := rd_wr_self _ _ _ (by decide)

theorem rd_stageShift_ne {i : Nat} (hi : i < 8) (ne : i ≠ 4) :
    rd (stageShift p stages n b) i = if 5 ≤ i ∧ i < 5 + (stages - 1) then rd p (i - 1) else rd p i :=
  (rd_wr_ne _ _ _ _ (Ne.symm ne)).trans (rd_shiftStages p (stages - 1) hi)

end

/-! ### What the counter holds that a LOOP sets -/

section
variable {lc : Vector Loop 4} {pc : Word} {j b w off : Nat} {st : Int}

theorem startedLoop_step (lo : -2 ^ 15 ≤ st) (hi : st < 2 ^ 15) (count pipe : Nat) :
    (startedLoop lc pc b st w off count pipe).step.toInt = loopStep st := by
  have range : -2 ^ 15 ≤ loopStep st ∧ loopStep st < 2 ^ 15 := by unfold loopStep; split <;> omega
  rw [startedLoop, BitVec.toInt_ofInt, Int.bmod_eq_of_le (by omega) (by omega)]

theorem startedLoop_count {count : Nat} (small : count < 2 ^ 24) (pipe : Nat) : (startedLoop lc pc b st w off count pipe).count.toNat = count := by
  rw [startedLoop, BitVec.toNat_ofNat, Nat.mod_eq_of_lt small]

section
variable (hj : j < 4) {count pipe : Nat} (small : count < 2 ^ 24)
include hj small

/-- At the end of its body the loop that a LOOP has started goes back (09 R204). -/
theorem testLoops_startedLoop_back (more : 1 < count) (next : Word) : let l := startedLoop lc pc b st w off count pipe
    testLoops (wr lc j l) next (loopsAt (wr lc j l) l.fin) =
      (wr (wr lc j l) j { l with count := l.count - 1, index := l.index + l.step.signExtend 32, backs := 1 }, l.start, some j) := by
  intro l
  have self : rd (wr lc j l) j = l := rd_wr_self _ _ _ hj
  have trips : l.count.toNat = count := startedLoop_count small pipe
  have on : l.count ≠ 0 := fun zero => by rw [zero] at trips; simp at trips; omega
  obtain ⟨r, first⟩ := loopsAt_latest hj (by rwa [self]) (by rw [self]) fun i hi other => by
    rw [self, rd_wr_ne _ _ _ _ (Ne.symm other)]
    exact born_lt_nextBorn lc hi
  rw [first, testLoops_back _ _ (by rw [self, trips]; exact more), self]
  rfl

/-- The last trip of the only loop that ends there stops its counter (09 R204). -/
theorem testLoops_startedLoop_last (one : count = 1) (next : Word) : let l := startedLoop lc pc b st w off count pipe
    (∀ i, i < 4 → (rd lc i).count ≠ 0 → i ≠ j → (rd lc i).fin ≠ l.fin) →
    testLoops (wr lc j l) next (loopsAt (wr lc j l) l.fin) = (wr (wr lc j l) j { l with count := 0 }, next, none) := by
  intro l only
  have self : rd (wr lc j l) j = l := rd_wr_self _ _ _ hj
  have trips : l.count.toNat = count := startedLoop_count small pipe
  have on : l.count ≠ 0 := fun zero => by rw [zero] at trips; simp at trips; omega
  have alone : loopsAt (wr lc j l) l.fin = [j] := loopsAt_only hj (by rwa [self]) (by rw [self]) fun i hi runs other => by
    rw [rd_wr_ne _ _ _ _ (Ne.symm other)] at runs ⊢
    exact only i hi runs other
  rw [alone, testLoops_last _ (by rw [self, trips, one]), self]

end

/-- What LOOP starts, and what becomes of it at the end of its body (09 R203, R204). -/
theorem startLoop_runs (hj : j < 4) (bound : b < 2 ^ 24) (lo : -2 ^ 15 ≤ st) (hi : st < 2 ^ 15)
    (free : ¬ loopClash lc pc j (pc + BitVec.ofNat 64 (w * off))) (hb : 0 < b) :
    let step := loopStep st
    let n := loopTrips b st
    let fin := pc + BitVec.ofNat 64 (w * off)
    ∃ lc', startLoop lc pc j b st w off none = some (lc', pc + BitVec.ofNat 64 w, n) ∧
      (∀ i, i < 4 → i ≠ j → rd lc' i = rd lc i) ∧ (rd lc' j).count.toNat = n ∧
      (rd lc' j).index = BitVec.ofNat 32 (if 0 < step then 0 else (n - 1) * step.natAbs) ∧ (rd lc' j).step.toInt = step ∧
      (rd lc' j).start = pc + BitVec.ofNat 64 w ∧ (rd lc' j).fin = fin ∧
      (1 < n → ∃ l2, testLoops lc' (fin + BitVec.ofNat 64 w) (loopsAt lc' fin) = (l2, pc + BitVec.ofNat 64 w, some j) ∧
        (rd l2 j).count.toNat = n - 1 ∧ (rd l2 j).index = (rd lc' j).index + BitVec.ofInt 32 step ∧ ∀ i, i < 4 → i ≠ j → rd l2 i = rd lc i) ∧
      (n = 1 → (∀ i, i < 4 ∧ (rd lc i).count ≠ 0 → i ≠ j → (rd lc i).fin ≠ fin) →
        ∃ l2, testLoops lc' (fin + BitVec.ofNat 64 w) (loopsAt lc' fin) = (l2, fin + BitVec.ofNat 64 w, none) ∧
        (rd l2 j).count = 0 ∧ ∀ i, i < 4 → i ≠ j → rd l2 i = rd lc i) := by
  intro step n fin
  have small : n < 2 ^ 24 := (loopTrips_le b st).trans_lt bound
  have self : rd (wr lc j (startedLoop lc pc b st w off n 0)) j = startedLoop lc pc b st w off n 0 := rd_wr_self _ _ _ hj
  have count : (startedLoop lc pc b st w off n 0).count.toNat = n := startedLoop_count small 0
  have others : ∀ l i, i ≠ j → rd (wr lc j l) i = rd lc i := fun l i other => rd_wr_ne _ _ _ _ (Ne.symm other)
  have others2 : ∀ l l' i, i ≠ j → rd (wr (wr lc j l) j l') i = rd lc i := fun l l' i other =>
    (rd_wr_ne _ _ _ _ (Ne.symm other)).trans (others l i other)
  refine ⟨_, startLoop_starts free hb, fun i _ other => others _ i other, ?_⟩
  rw [self]
  refine ⟨count, rfl, startedLoop_step lo hi n 0, rfl, rfl, fun more => ?_, fun one only => ?_⟩
  · refine ⟨_, testLoops_startedLoop_back hj small more _, ?_, ?_, fun i _ other => others2 _ _ i other⟩
    · rw [rd_wr_self _ _ _ hj, BitVec.toNat_sub_of_le (by rw [BitVec.le_def, count]; exact more.le), count]
      rfl
    · rw [rd_wr_self _ _ _ hj, BitVec.signExtend, startedLoop_step lo hi]
  · exact ⟨_, testLoops_startedLoop_last hj small one _ fun i lt on => only i ⟨lt, on⟩, by rw [rd_wr_self _ _ _ hj],
      fun i _ other => others2 _ _ i other⟩

end

/-- Settles O29: a LOOP that meets no running loop sets one counter, which the loop test finds first, being started last; a register is renamed by the one
ring that holds it; a loop-back shifts the stages by one. -/
theorem hardwareLoops : Obligations.HardwareLoops := by
  unfold Obligations.HardwareLoops
  refine ⟨fun lc pc j b w off st hj bound _ _ _ lo hi => ?_, fun c f => ?_⟩
  · intro runs step n fin clash
    refine ⟨fun meets pipe => startLoop_clash meets pipe, fun free zero => ?_, fun free hb => startLoop_runs hj bound lo hi free hb,
      fun k free hb small => ?_, fun target i hi => rd_leaveLoops lc target hi⟩
    · subst zero
      exact startLoop_zero free
    · have self := rd_wr_self lc j (startedLoop lc pc b st w off (loopTrips b st + k) (loopTrips b st)) hj
      refine ⟨_, startLoop_pipelined free hb k, ?_⟩
      rw [self]
      exact ⟨startedLoop_count small _, rfl, rfl, rfl, rfl⟩
  · intro n rot outside
    have apart : ∀ {k}, outside k → (rd c.rings k).holds n = false := fun {k} out => by
      rw [← Bool.not_eq_true, Ring.holds_iff]
      rintro ⟨v, from_, below⟩
      have := out v
      omega
    refine ⟨rename_rotates, rename_outsideRegion, fun i hi v from_ below others => ?_,
      fun none_ => rename_outsideRings fun k hk => apart (none_ k hk), fun j hj => ?_⟩
    · have renamed := rename_ring hi ((Ring.holds_iff ..).2 ⟨v, from_, below⟩) fun k hk other => apart (others k hk other)
      refine ⟨fun idle => ?_, fun k hk on latest => ?_⟩
      · rw [renamed, ringBacks_idle idle]
        rfl
      · rw [renamed, ringBacks_innermost hk on latest]
    · refine ⟨loopedBack_lc .., loopedBack_rb .., fun plain => ?_, fun pipe stages => ?_⟩
      · exact (loopedBack_p ..).trans (if_neg fun on => plain.elim on.1 on.2)
      · rw [show (c.loopedBack true j).p = _ from (loopedBack_p ..).trans (if_pos ⟨pipe, stages⟩)]
        refine ⟨rd_stageShift_first .., fun i hi => ?_, fun t first last hi => ?_⟩
        · rw [rd_stageShift_ne _ _ _ _ (by omega) (by omega), if_neg (by omega)]
        · rw [rd_stageShift_ne _ _ _ _ (by omega) (by omega), if_pos (by have : t < c.rot.stages := last; omega), show 4 + t - 1 = 3 + t by omega]

end Sys2Proof.Machine
end

section
/-! SUPPORT. The k-steps of the matrix engine: the rows that one computes, and what it adds to each sum (03 R44 to R46, 09 R219, R220, R223). -/

open Sys2Proof

namespace Sys2Proof.Machine

theorem lostIn_whole {s : State} (whole : s.dev.lost = []) (t : TileId) (rs : List (BitVec 8 × Nat × Nat)) : s.lostIn t rs = none := by
  rw [State.lostIn, whole]
  rfl

/-! ### Lists of rows -/

theorem getElem?_row {α : Type} (p : List α) (n r : Nat) {j : Nat} (hj : j < n) : ((p.drop (n * r)).take n)[j]? = p[n * r + j]? := by
  rw [List.getElem?_take_of_lt hj, List.getElem?_drop]

/-- Row r of a list of rows of n replaced. -/
def putRow {α : Type} (n : Nat) (p : List α) (r : Nat) (row : List α) : List α := p.take (n * r) ++ row ++ p.drop (n * (r + 1))

section
variable {α : Type} {n r : Nat} {p row : List α} (fits : n * (r + 1) ≤ p.length) (len : row.length = n)
include fits len

theorem length_putRow : (putRow n p r row).length = p.length := by
  rw [Nat.mul_succ] at fits
  rw [putRow, Nat.mul_succ, List.length_append, List.length_append, List.length_take, List.length_drop, len]
  omega

theorem getElem?_putRow {i j : Nat} (hj : j < n) : (putRow n p r row)[n * i + j]? = if i = r then row[j]? else p[n * i + j]? := by
  rw [Nat.mul_succ] at fits
  have taken : (p.take (n * r)).length = n * r := by rw [List.length_take]; omega
  rw [putRow, List.append_assoc]
  rcases lt_trichotomy i r with before | rfl | behind
  · have place : n * i + n ≤ n * r := Nat.mul_succ n i ▸ Nat.mul_le_mul_left n before
    rw [if_neg before.ne, List.getElem?_append_left (by omega), List.getElem?_take_of_lt (by omega)]
  · rw [if_pos rfl, List.getElem?_append_right (by omega), taken, Nat.add_sub_cancel_left, List.getElem?_append_left (by omega)]
  · have place : n * r + n ≤ n * i := Nat.mul_succ n r ▸ Nat.mul_le_mul_left n behind
    rw [if_neg behind.ne', List.getElem?_append_right (by omega), List.getElem?_append_right (by omega), List.getElem?_drop, taken, len, Nat.mul_succ]
    congr 1
    omega

end

section
variable {m n : Nat} {f : Nat → List (BitVec 128) → List (BitVec 128)} (keeps : ∀ r row, row.length = n → (f r row).length = n)
include keeps

/-- Each row of a list of distinct rows is replaced once; the others stay. -/
theorem putRows_spec {rs : List Nat} (distinct : rs.Nodup) (inside : ∀ r ∈ rs, r < m) {p : List (BitVec 128)} (len : p.length = m * n) :
    (putRows n p rs f).length = m * n ∧ ∀ i j, j < n → (putRows n p rs f)[n * i + j]? =
      if i ∈ rs then (f i ((p.drop (n * i)).take n))[j]? else p[n * i + j]? := by
  induction rs generalizing p with
  | nil => exact ⟨len, fun i j _ => (if_neg List.not_mem_nil).symm⟩
  | cons r rs ih =>
    obtain ⟨fresh, distinct⟩ := List.nodup_cons.1 distinct
    have fits : n * (r + 1) ≤ p.length := by
      rw [len, Nat.mul_comm m]
      exact Nat.mul_le_mul_left n (inside r List.mem_cons_self)
    have row : (f r ((p.drop (n * r)).take n)).length = n := by
      rw [Nat.mul_succ] at fits
      refine keeps r _ ?_
      rw [List.length_take, List.length_drop]
      omega
    have same : ∀ i, i ≠ r → ((putRow n p r (f r ((p.drop (n * r)).take n))).drop (n * i)).take n = (p.drop (n * i)).take n := fun i other => by
      refine List.ext_getElem? fun j => ?_
      by_cases hj : j < n
      · rw [getElem?_row _ _ _ hj, getElem?_row _ _ _ hj, getElem?_putRow fits row hj, if_neg other]
      · rw [List.getElem?_take_eq_none (by omega), List.getElem?_take_eq_none (by omega)]
    obtain ⟨length, rows⟩ := ih distinct (fun i hi => inside i (List.mem_cons_of_mem _ hi)) ((length_putRow fits row).trans len)
    refine ⟨length, fun i j hj => (rows i j hj).trans ?_⟩
    by_cases first : i = r
    · subst first
      rw [if_neg fresh, getElem?_putRow fits row hj, if_pos rfl, if_pos List.mem_cons_self]
    · rw [same i first, getElem?_putRow fits row hj, if_neg first]
      exact if_congr (by rw [List.mem_cons, or_iff_right first]) rfl rfl

end

/-! ### The rows that are computed (09 R223) -/

theorem getLsbD_rowBits {a b i : Nat} (ab : a ≤ b) (hi : i < 256) : (rowBits a b).getLsbD i = decide (a ≤ i ∧ i < b) := by
  have run : 2 ^ b - 2 ^ a = 2 ^ a * (2 ^ (b - a) - 1) := by rw [Nat.mul_sub, ← pow_add, Nat.add_sub_cancel' ab, Nat.mul_one]
  rw [rowBits, BitVec.getLsbD_ofNat, run, Nat.testBit_two_pow_mul, Nat.testBit_two_pow_sub_one, decide_eq_true hi, Bool.true_and, ← Bool.decide_and]
  exact decide_eq_decide.2 ⟨fun h => ⟨h.1, by omega⟩, fun h => ⟨h.1, by omega⟩⟩

section
variable {x : Mx} {rows : BitVec 256} {g : Nat}

theorem mem_rowsIn_whole (whole : x.g = false) {r : Nat} : r ∈ rowsIn x rows g ↔ r < x.m ∧ rows.getLsbD r = true := by
  simp only [rowsIn, whole, Bool.false_eq_true, if_false, List.mem_filter, List.mem_range]

theorem mem_rowsIn_ragged (ragged : x.g = true) {r : Nat} : r ∈ rowsIn x rows g ↔ rows.getLsbD r = true ∧ 16 * g ≤ r ∧ r < 16 * g + 16 := by
  simp only [rowsIn, ragged, if_true, List.mem_filterMap, List.mem_range, Option.ite_none_right_eq_some, Option.some.injEq]
  constructor
  · rintro ⟨i, hi, set, rfl⟩
    exact ⟨set, by omega, by omega⟩
  · rintro ⟨set, from_, below⟩
    have place : 16 * g + (r - 16 * g) = r := by omega
    exact ⟨r - 16 * g, by omega, by rwa [place], place⟩

theorem nodup_rowsIn : (rowsIn x rows g).Nodup := by
  unfold rowsIn
  split
  · refine List.Nodup.filterMap (fun i k r hi hk => ?_) List.nodup_range
    simp only [Option.mem_def, Option.ite_none_right_eq_some, Option.some.injEq] at hi hk
    omega
  · exact List.nodup_range.filter _

/-- The rows of a group lie among the command's. -/
theorem lt_of_mem_rowsIn (inside : g < x.groups) {r : Nat} (mem : r ∈ rowsIn x rows g) : r < x.m := by
  unfold Mx.groups at inside
  cases shape : x.g with
  | false => exact ((mem_rowsIn_whole shape).1 mem).1
  | true =>
    rw [shape, if_pos rfl] at inside
    have := ((mem_rowsIn_ragged shape).1 mem).2.2
    omega

theorem mem_rowsIn {r : Nat} (hr : r < x.m) : r ∈ rowsIn x rows g ↔ rows.getLsbD r = true ∧ (x.g = true → 16 * g ≤ r ∧ r < 16 * g + 16) := by
  cases shape : x.g with
  | false => rw [mem_rowsIn_whole shape, and_iff_right hr, and_iff_left (fun bad => absurd bad Bool.false_ne_true)]
  | true => rw [mem_rowsIn_ragged shape, imp_iff_right rfl]

end

/-- The rows that the semaphore of a ragged command allows (09 R223). -/
def Mx.allowed (x : Mx) (y : Tile) : Nat := min x.m ((y.smGet x.rsem).toNat * x.gran)

section
variable {x : Mx} {y : Tile} {c : Cmd}

theorem openGroup_ends (ragged : x.g = true) (none_ : x.allowed y ≤ 16 * c.group) : x.openGroup y c = none := by
  rw [Mx.openGroup, ragged]
  exact if_pos none_

theorem openGroup_ragged (ragged : x.g = true) (some_ : 16 * c.group < x.allowed y) {rows : BitVec 256}
    (set : ∀ i, i < 256 → rows.getLsbD i = (c.rows.getLsbD i || decide (16 * c.group ≤ i ∧ i < 16 * c.group + 16 ∧ i < x.allowed y))) :
    x.openGroup y c = some rows := by
  have rows_eq : c.rows ||| rowBits (16 * c.group) (min (16 * c.group + 16) (x.allowed y)) = rows := by
    refine BitVec.eq_of_getLsbD_eq fun i hi => ?_
    rw [BitVec.getLsbD_or, getLsbD_rowBits (by omega) hi, set i hi]
    exact congrArg _ (decide_eq_decide.2 (and_congr_right fun _ => lt_min_iff))
  rw [Mx.openGroup, ragged, ← rows_eq]
  exact if_neg (not_le.2 some_)

theorem openGroup_whole (whole : x.g = false) {rows : BitVec 256} (set : ∀ i, i < 256 → rows.getLsbD i = decide (i < x.m)) :
    x.openGroup y c = some rows := by
  have rows_eq : rowBits 0 x.m = rows := BitVec.eq_of_getLsbD_eq fun i hi => by
    rw [getLsbD_rowBits (Nat.zero_le _) hi, set i hi]
    exact decide_eq_decide.2 (and_iff_right (Nat.zero_le i))
  rw [Mx.openGroup, whole, rows_eq]
  rfl

end

/-! ### The sums of a row -/

section
variable {x : Mx} (y : Tile) (spm : Mem) (r k0 n : Nat) {row : List (BitVec 128)}

theorem length_stepRow (len : row.length = x.n) : (x.stepRow y spm (x.cols y k0 n) r k0 n row).length = x.n := by
  unfold Mx.stepRow Mx.cols
  split
  · simp [len]
  · simp [len]

section
variable {j : Nat} (hj : j < x.n) {w : BitVec 128} (old : row[j]? = some w)
include hj old

theorem stepRow_real (real : x.cplx = false) : (x.stepRow y spm (x.cols y k0 n) r k0 n row)[j]? =
    some (BitVec.ofNat 128 (f32enc (
      if x.op = 0 then ((x.aRow y spm r k0 n).zip (x.bRow y j k0 n)).foldl (fun c z => fma z.1.2 z.2 c) (f32 (bits w 31 0))
      else fl ((f32 (bits w 31 0)).add (groupSum (x.aRow y spm r k0 n) (x.bRow y j k0 n)))))) := by
  simp only [Mx.stepRow, Mx.cols, real, Bool.false_eq_true, if_false, List.getElem?_zipWith, List.getElem?_map, List.getElem?_range hj, old, Option.map_some]

theorem stepRow_complex (complex : x.cplx = true) : (x.stepRow y spm (x.cols y k0 n) r k0 n row)[j]? =
    some (x.accBits (((cplxRow y (viewBase (rd y.c.tv x.ta) + (x.oa + r * x.pa).toNat) k0 n).zip
      (cplxRow y (viewBase (rd y.c.tv x.tb) + (x.ob + j * x.pb).toNat) k0 n)).foldl (fun c z => x.cplxTerm c z.1 z.2) (x.accOf w))) := by
  simp only [Mx.stepRow, Mx.cols, complex, if_true, List.getElem?_zipWith, List.getElem?_map, List.getElem?_range hj, old, Option.map_some]

end
end

/-! ### One k-step (09 R219, R220) -/

/-- The sums of a command after its k-step over some rows. -/
def Mx.stepped (x : Mx) (y : Tile) (c : Cmd) (rows : BitVec 256) : List (BitVec 128) :=
  let k0 := c.unit * x.kstep
  let n := min x.kstep (x.k - k0)
  putRows x.n c.part (rowsIn x rows c.group) fun r row => x.stepRow y (y.spmView c.clk) (x.cols y k0 n) r k0 n row

section
variable {s : State} {t : TileId} {q : Queue} {h : Cmd} {x : Mx}

theorem mxStep_ends (inside : h.group < x.groups) (first : h.unit = 0) (none_ : x.openGroup (s.tileAt t) h = none) :
    s.mxStep t q h x = s.updAt t fun y => y.setHead q { h with group := x.groups } := by
  unfold State.mxStep
  simp only [not_le.2 inside, first, none_, if_true, if_false]
  rfl

theorem mxStep_steps (inside : h.group < x.groups) (whole : s.dev.lost = []) {rows : BitVec 256}
    (opens : (if h.unit = 0 then x.openGroup (s.tileAt t) h else some h.rows) = some rows) :
    s.mxStep t q h x = s.updAt t fun y => y.setHead q { h with
      rows := rows, part := x.stepped y h rows
      unit := if x.steps ≤ h.unit + 1 then 0 else h.unit + 1, group := if x.steps ≤ h.unit + 1 then h.group + 1 else h.group } := by
  unfold State.mxStep
  simp only [not_le.2 inside, opens, lostIn_whole whole, if_false]
  rfl

section
variable {rest : List Cmd} (run : s.enginesRun t = true) (running : (s.tileAt t).mxRunning = some q)
  (kept : q = .urgent ∨ (s.tileAt t).urgentMay s.dev.now (s.smwaitOf t) = false)
  (cmds : (s.tileAt t).cmds q = h :: rest) (mx : h.mx? = some x) (begun : h.part ≠ [])
include run running kept cmds mx begun

/-- A running command from which no urgent one takes the engine makes its k-step. -/
theorem matrixKStep_running : exec (.matrixKStep t) s = .next (s.mxStep t q h x) := by
  have ex : exec (.matrixKStep t) s = execMatrixKStep t s := rfl
  have stays : (some q != some .urgent && (s.tileAt t).urgentMay s.dev.now (s.smwaitOf t)) = false := by
    rcases kept with rfl | none_
    · rfl
    · rw [none_, Bool.and_false]
  have goes : s.mxRun t q = s.mxStep t q h x := by
    unfold State.mxRun
    simp only [head_cmds cmds, mx, List.isEmpty_eq_false_iff.2 begun, Bool.false_eq_true, if_false]
  rw [ex, ← goes]
  unfold execMatrixKStep
  simp only [run, running, stays, Bool.not_true, Bool.false_eq_true, if_false]

end
end

/-- Settles O33: the k-step replaces each row that it computes once, by the row whose every sum has taken its products. -/
theorem matrixSteps : Obligations.MatrixSteps := by
  unfold Obligations.MatrixSteps
  intro s t q h rest m rows y k0 n spm lim computed last run whole running kept cmds mx mpos npos _ _ len inside
  have begun : h.part ≠ [] := List.ne_nil_of_length_pos (len ▸ Nat.mul_pos mpos npos)
  have step := matrixKStep_running run running kept cmds mx begun
  refine ⟨fun ragged first none_ => ?_, fun open_ => ?_⟩
  · have groups : m.groups = m.m / 16 := if_pos ragged
    rw [step, mxStep_ends inside first (openGroup_ends ragged none_), groups]
    exact next_congr (updAt_congr (setHead_cmds cmds _))
  · have opens : (if h.unit = 0 then m.openGroup y h else some h.rows) = some rows := by
      split_ifs at open_ with going shape
      · rw [if_neg going, open_]
      · rw [if_pos (not_not.1 going)]
        exact openGroup_whole shape open_
      · rw [if_pos (not_not.1 going)]
        exact openGroup_ragged (Bool.of_not_eq_false shape) open_.1 open_.2
    obtain ⟨length, sums⟩ := putRows_spec (fun r _ => length_stepRow y spm r k0 n) nodup_rowsIn (fun r => lt_of_mem_rowsIn (rows := rows) inside) len
    refine ⟨m.stepped y h rows, ?_, length, fun r j w hr hj old => ⟨fun skipped => ?_, fun on real => ?_, fun on complex => ?_⟩⟩
    · rw [step, mxStep_steps inside whole opens]
      exact next_congr (updAt_congr (setHead_cmds cmds _))
    · exact (sums r j hj).trans ((if_neg (mt (mem_rowsIn hr).1 skipped)).trans old)
    · rw [← getElem?_row _ _ _ hj] at old
      exact (sums r j hj).trans ((if_pos ((mem_rowsIn hr).2 on)).trans (stepRow_real y spm r k0 n hj old real))
    · rw [← getElem?_row _ _ _ hj] at old
      exact (sums r j hj).trans ((if_pos ((mem_rowsIn hr).2 on)).trans (stepRow_complex y spm r k0 n hj old complex))

end Sys2Proof.Machine
end

section
/-! SUPPORT. How matrix commands start, are promoted and complete (03 R46, 06 R111, 09 R212, R217, R219, R220, R224). -/

open Sys2Proof

namespace Sys2Proof.Machine

/-! ### The accumulator at the start (09 R212, 03 R46) -/

theorem start_congr {y z : Tile} (c : z.c = y.c) (m : z.regspace = y.regspace) (v : z.rvalid = y.rvalid) (x : Mx) : x.start z = x.start y := by
  simp only [Mx.start, c, rread_congr m v]

theorem length_rows {α : Type} (m n : Nat) (f : Nat → Nat → α) : ((List.range m).flatMap fun r => (List.range n).map (f r)).length = m * n := by
  simp [List.length_flatMap]

theorem getElem?_rows {α : Type} (m n : Nat) (f : Nat → Nat → α) {r j : Nat} (hr : r < m) (hj : j < n) :
    ((List.range m).flatMap fun r => (List.range n).map (f r))[n * r + j]? = some (f r j) := by
  induction m with
  | zero => omega
  | succ m ih =>
    have len := length_rows m n f
    rw [List.range_succ, List.flatMap_append, List.flatMap_singleton]
    by_cases last : r = m
    · subst last
      rw [List.getElem?_append_right (by rw [len, Nat.mul_comm]; omega), len, Nat.mul_comm r, Nat.add_sub_cancel_left, List.getElem?_map,
        List.getElem?_range hj]
      rfl
    · have place : n * r + n ≤ n * m := Nat.mul_succ n r ▸ Nat.mul_le_mul_left n (by omega)
      rw [List.getElem?_append_left (by rw [len, Nat.mul_comm m]; omega), ih (by omega)]

/-! ### Starts (09 R217, R220) -/

theorem smTake_eq (y : Tile) (n : BitVec 8) : y.smTake n = { y with sm := if n = 0 then y.sm else wr y.sm n.toNat (rd y.sm n.toNat - 1) } := by
  by_cases none_ : n = 0
  · subst none_
    rfl
  · rw [smTake_of_ne y none_, if_neg none_]

theorem setHead_smTake {y : Tile} {q : Queue} {h : Cmd} {rest : List Cmd} (cmds : y.cmds q = h :: rest) (n : BitVec 8) (c : Cmd) :
    (y.smTake n).setHead q c = { y with
      q := wr y.q (qIdx q) (c :: rest), sm := if n = 0 then y.sm else wr y.sm n.toNat (rd y.sm n.toNat - 1) } := by
  rw [smTake_eq]
  exact setHead_cmds (x := { y with sm := if n = 0 then y.sm else wr y.sm n.toNat (rd y.sm n.toNat - 1) }) cmds c

theorem start_smTake (x : Mx) (y : Tile) (n : BitVec 8) : x.start (y.smTake n) = x.start y := by
  rw [smTake_eq]
  exact start_congr (by rfl) (by rfl) (by rfl) x

theorem mxRunning_normal {y : Tile} {n : Cmd} {ns : List Cmd} (cmds : y.cmds .normal = n :: ns) (idle : y.urgentRuns = false) (started : n.started = true)
    (fault : n.fault = none) (runs : n.suspended = false) : y.mxRunning = some .normal := by
  simp only [Tile.mxRunning, idle, head_cmds cmds, Cmd.going, started, fault, runs]
  rfl

theorem firstNormal_matrix {h : Cmd} {x : Mx} (mx : h.mx? = some x) (rest : List Cmd) : firstNormal (h :: rest) = some h := by
  unfold Cmd.mx? at mx
  unfold firstNormal
  split at mx
  · next e => rw [e]
  · cases mx

/-- A tile whose normal head an urgent command that starts suspends. -/
def Tile.suspendNormal (y : Tile) (q : Queue) : Tile :=
  if q = .urgent && y.mxRunning == some .normal then
    (match (y.cmds .normal).head? with | some n => y.setHead .normal { n with suspended := true } | none => y)
  else y

section
variable {s : State} {t : TileId} {h : Cmd} {rest : List Cmd} {x : Mx} (run : s.enginesRun t = true) (mx : h.mx? = some x)
include run mx

theorem matrixCommandStart_normal (cmds : (s.tileAt t).cmds .normal = h :: rest) (idle : (s.tileAt t).mxRunning = none)
    (ready : (s.tileAt t).headReady .normal s.dev.now (s.smwaitOf t) = true) (stays : (s.tileAt t).urgentMay s.dev.now (s.smwaitOf t) = false) :
    exec (.matrixCommandStart t .normal) s = .next (s.mxStart t .normal h x) := by
  have ex : exec (.matrixCommandStart t .normal) s = execMatrixCommandStart t .normal s := rfl
  rw [ex]
  unfold execMatrixCommandStart
  simp only [run, head_cmds cmds, mx, idle, ready, stays, Bool.not_true, Bool.false_eq_true, if_false]
  rfl

section
variable (cmds : (s.tileAt t).cmds .urgent = h :: rest) (may : (s.tileAt t).urgentMay s.dev.now (s.smwaitOf t) = true)
include cmds may

theorem matrixCommandStart_urgent : exec (.matrixCommandStart t .urgent) s = .next (s.mxStart t .urgent h x) := by
  have ex : exec (.matrixCommandStart t .urgent) s = execMatrixCommandStart t .urgent s := rfl
  rw [ex]
  unfold execMatrixCommandStart
  simp only [run, head_cmds cmds, mx, may, Bool.not_true, Bool.false_eq_true, if_false, if_true]

/-- A k-step at whose boundary a ready urgent command takes the engine. -/
theorem matrixKStep_urgent (other : (s.tileAt t).mxRunning ≠ some .urgent) : exec (.matrixKStep t) s = .next (s.mxStart t .urgent h x) := by
  have ex : exec (.matrixKStep t) s = execMatrixKStep t s := rfl
  have takes : ((s.tileAt t).mxRunning != some .urgent && (s.tileAt t).urgentMay s.dev.now (s.smwaitOf t)) = true := by
    rw [may, Bool.and_true, bne_iff_ne]
    exact other
  rw [ex]
  unfold execMatrixKStep
  simp only [run, takes, head_cmds cmds, mx, Bool.not_true, Bool.false_eq_true, if_false, if_true]

end
end

theorem urgentMay_eq {y : Tile} {now : Nat} {w : Option (BitVec 8)} (idle : y.urgentRuns = false) (ready : y.headReady .urgent now w = true)
    (promoted : y.normalPromoted = false) : y.urgentMay now w = true := by
  rw [Tile.urgentMay, idle, ready, promoted]
  rfl

section
variable {s : State} {t : TileId} {q : Queue} {h : Cmd} {rest : List Cmd} (x : Mx) (whole : s.dev.lost = [])
include whole

/-- The head as it starts. -/
theorem mxStart_whole : s.mxStart t q h x = s.updAt t fun y =>
    ((y.suspendNormal q).smTake h.wait).setHead q { h with started := true, waitFrom := none, part := x.start ((y.suspendNormal q).smTake h.wait) } := by
  have lost : ∀ w, (if x.acc then s.lostIn t (x.window w) else none) = none := fun w => by
    rw [lostIn_whole whole]
    exact ite_self _
  unfold State.mxStart
  simp only [lost]
  rfl

/-- A start that suspends nothing. -/
theorem mxStart_alone (cmds : (s.tileAt t).cmds q = h :: rest) (alone : (s.tileAt t).suspendNormal q = s.tileAt t) : s.mxStart t q h x =
    s.updAt t fun y => { y with
      q := wr y.q (qIdx q) ({ h with started := true, waitFrom := none, part := x.start (s.tileAt t) } :: rest)
      sm := if h.wait = 0 then (s.tileAt t).sm else wr (s.tileAt t).sm h.wait.toNat (rd (s.tileAt t).sm h.wait.toNat - 1) } := by
  rw [mxStart_whole x whole]
  refine updAt_congr ?_
  rw [alone, start_smTake]
  exact setHead_smTake cmds _ _

/-- A start of an urgent command that suspends the normal one. -/
theorem mxStart_suspends {n : Cmd} {ns : List Cmd} (cmds : (s.tileAt t).cmds .urgent = h :: rest) (normal : (s.tileAt t).cmds .normal = n :: ns)
    (running : (s.tileAt t).mxRunning = some .normal) : s.mxStart t .urgent h x =
    s.updAt t fun y => { y with
      q := wr (wr y.q 0 ({ n with suspended := true } :: ns)) 1 ({ h with started := true, waitFrom := none, part := x.start (s.tileAt t) } :: rest)
      sm := if h.wait = 0 then (s.tileAt t).sm else wr (s.tileAt t).sm h.wait.toNat (rd (s.tileAt t).sm h.wait.toNat - 1) } := by
  have suspended : (s.tileAt t).suspendNormal .urgent = { s.tileAt t with q := wr (s.tileAt t).q 0 ({ n with suspended := true } :: ns) } := by
    unfold Tile.suspendNormal
    simp only [running, head_cmds normal, decide_true, beq_self_eq_true, Bool.and_self, if_true]
    exact setHead_cmds normal _
  rw [mxStart_whole x whole]
  refine updAt_congr ?_
  have urgent : ({ s.tileAt t with q := wr (s.tileAt t).q 0 ({ n with suspended := true } :: ns) } : Tile).cmds .urgent = h :: rest :=
    (rd_wr_ne _ 0 1 _ (by decide)).trans cmds
  rw [suspended, start_smTake, start_congr (y := s.tileAt t) (by rfl) (by rfl) (by rfl)]
  exact setHead_smTake urgent h.wait _

end

/-! ### Promotion (09 R220) -/

section
variable {s : State} {t : TileId} {h : Cmd} {rest : List Cmd} {x : Mx} (cmds : (s.tileAt t).cmds .normal = h :: rest) (mx : h.mx? = some x)
  (promoted : (s.tileAt t).normalPromoted = true)
include promoted

theorem urgentMay_promoted (now : Nat) (w : Option (BitVec 8)) : (s.tileAt t).urgentMay now w = false := by
  rw [Tile.urgentMay, promoted]
  exact Bool.and_false _

include cmds mx

theorem matrixPromotion_marks (run : s.enginesRun t = true) : exec (.matrixPromotion t) s =
    .next (s.updAt t fun y => { y with q := wr y.q 0 ({ h with promoted := true } :: rest) }) := by
  have ex : exec (.matrixPromotion t) s = execMatrixPromotion t s := rfl
  have aged : (s.tileAt t).promoted h = true := by
    simp only [Tile.normalPromoted, cmds, firstNormal_matrix mx, mx] at promoted
    exact promoted
  rw [ex]
  unfold execMatrixPromotion
  simp only [head_cmds cmds, run, mx, aged, Option.isSome_some, Bool.and_self, if_true]
  exact next_congr (updAt_congr (setHead_cmds cmds _))

end

/-! ### Bytes written into the register space (10 R227) -/

theorem getLsbD_sectorMask {a n j : Nat} (some_ : 0 < n) (hj : j < 8192) : (sectorMask a n).getLsbD j = decide (a / 32 ≤ j ∧ j ≤ (a + n - 1) / 32) := by
  rw [sectorMask, if_neg some_.ne', BitVec.getLsbD_shiftLeft, BitVec.getLsbD_ofNat, Nat.testBit_two_pow_sub_one]
  by_cases from_ : j < a / 32
  · simp [from_]
  · simp only [hj, from_, decide_true, decide_false, Bool.not_false, Bool.true_and]
    rw [decide_eq_true (show j - a / 32 < 8192 by omega), Bool.true_and]
    exact decide_eq_decide.2 (by omega)

theorem get_foldl_clears (m : Mem) (l : List Nat) (w : Nat → Nat) (n : Nat) {b : Nat} (h : ∃ i ∈ l, w i ≤ b ∧ b < w i + n) :
    (l.foldl (fun m i => m.clear (w i) n) m).get b = 0 := by
  have zero : ∀ (l : List Nat) (m : Mem), m.get b = 0 → (l.foldl (fun m i => m.clear (w i) n) m).get b = 0 := fun l => by
    induction l with
    | nil => exact fun m z => z
    | cons i l ih => exact fun m z => ih _ (by rw [Mem.get_clear, z, ite_self])
  induction l generalizing m with
  | nil => obtain ⟨i, hi, -⟩ := h; cases hi
  | cons k l ih =>
    obtain ⟨i, hi, inside⟩ := h
    rcases List.mem_cons.1 hi with rfl | later
    · exact zero l _ ((Mem.get_clear ..).trans (if_pos inside))
    · exact ih _ ⟨i, later, inside⟩

/-- Opening sectors changes no byte that is read: one that is opened was read as zero. -/
theorem rbyte_openSectors_same (t : Tile) {a n : Nat} (some_ : 0 < n) (b : Nat) : (t.openSectors a n).rbyte b = t.rbyte b := by
  by_cases touched : a / 32 ≤ b / 32 ∧ b / 32 ≤ (a + n - 1) / 32
  · cases valid : t.rvalid.getLsbD (b / 32) with
    | true =>
      have kept : (t.openSectors a n).regspace.get b = t.regspace.get b := by
        refine get_foldl_clear _ _ (fun i => 32 * (a / 32 + i)) 32 b fun i hi => ?_
        by_contra inside
        have same : a / 32 + i = b / 32 := by omega
        have stale := (List.mem_filter.1 hi).2
        rw [same, valid] at stale
        cases stale
      have opened : (t.openSectors a n).valid b = true := by
        change (t.rvalid ||| sectorMask a n).getLsbD (b / 32) = true
        rw [BitVec.getLsbD_or, valid, Bool.true_or]
      rw [Tile.rbyte, Tile.rbyte, opened, kept, Tile.valid, valid]
    | false =>
      have cleared : (t.openSectors a n).regspace.get b = 0 := by
        refine get_foldl_clears _ _ (fun i => 32 * (a / 32 + i)) 32
          ⟨b / 32 - a / 32, List.mem_filter.2 ⟨List.mem_range.2 (by omega), ?_⟩, by omega, by omega⟩
        rw [Nat.add_sub_cancel' touched.1, valid]
        rfl
      rw [Tile.rbyte, Tile.rbyte, cleared, Tile.valid, Tile.valid, valid, ite_self]
      rfl
  · exact rbyte_openSectors t (by omega)

/-- What a byte of the register space reads as after n bytes at a have been written. -/
theorem rbyte_rwrite_eq (t : Tile) {a n : Nat} (inside : a + n ≤ regSize) (v b : Nat) :
    (t.rwrite a n v).rbyte b = if a ≤ b ∧ b < a + n then BitVec.ofNat 8 (v / 256 ^ (b - a)) else t.rbyte b := by
  unfold Tile.rwrite
  by_cases none_ : n = 0
  · rw [if_pos none_, if_neg (by omega)]
  · rw [if_neg none_]
    have byte : (({ t.openSectors a n with regspace := (t.openSectors a n).regspace.writeN a n v } : Tile).voidBypass (a / 128) ((a + n - 1) / 128)).rbyte b =
      if (t.openSectors a n).valid b then ((t.openSectors a n).regspace.writeN a n v).get b else 0 := rfl
    refine byte.trans ?_
    rw [Mem.get_writeN]
    by_cases hit : a ≤ b ∧ b < a + n
    · have sector : b / 32 < 8192 := by unfold regSize at inside; omega
      have opened : (t.openSectors a n).valid b = true := by
        change (t.rvalid ||| sectorMask a n).getLsbD (b / 32) = true
        rw [BitVec.getLsbD_or, getLsbD_sectorMask (by omega) sector, decide_eq_true (by omega), Bool.or_true]
      rw [if_pos opened]
      simp only [hit, and_self, if_true]
    · rw [if_neg hit, if_neg hit]
      exact rbyte_openSectors_same t (by omega) b

theorem rread_of_bytes {t : Tile} {a n v : Nat} (h : ∀ i, i < n → t.rbyte (a + i) = BitVec.ofNat 8 (v / 256 ^ i)) : t.rread a n = v % 256 ^ n := by
  induction n generalizing a v with
  | zero => simp [Tile.rread, Nat.mod_one]
  | succ n ih =>
    have first : t.rbyte a = BitVec.ofNat 8 v := by simpa using h 0 n.succ_pos
    have rest : t.rread (a + 1) n = v / 256 % 256 ^ n := ih fun i hi => by
      rw [Nat.add_assoc, Nat.add_comm 1, h (i + 1) (by omega), Nat.pow_succ', Nat.div_div_eq_div_mul]
    have low : (BitVec.ofNat 8 v : Byte).toNat = v % 256 := BitVec.toNat_ofNat ..
    rw [Tile.rread, first, rest, low, Nat.pow_succ', Nat.mod_mul]

/-! ### The rows of C written (09 R212) -/

section
variable {at_ : Nat → Nat} {n : Nat} (v : Nat → Nat) {rs : List Nat} (inside : ∀ r ∈ rs, at_ r + n ≤ regSize) (t : Tile)
include inside

theorem rbyte_writeRows_outside {b : Nat} (out : ∀ r ∈ rs, b < at_ r ∨ at_ r + n ≤ b) :
    (rs.foldl (fun t r => t.rwrite (at_ r) n (v r)) t).rbyte b = t.rbyte b :=
  rbyte_foldl (fun r hr t => (rbyte_rwrite_eq t (inside r hr) (v r) b).trans (if_neg (by have := out r hr; omega))) t

theorem rbyte_writeRows_inside {r i : Nat} (hr : r ∈ rs) (hi : i < n)
    (apart : ∀ k ∈ rs, k ≠ r → at_ r + n ≤ at_ k ∨ at_ k + n ≤ at_ r) :
    (rs.foldl (fun t r => t.rwrite (at_ r) n (v r)) t).rbyte (at_ r + i) = BitVec.ofNat 8 (v r / 256 ^ i) := by
  induction rs generalizing t with
  | nil => cases hr
  | cons k rs ih =>
    have later : ∀ k ∈ rs, at_ k + n ≤ regSize := fun k hk => inside k (List.mem_cons_of_mem _ hk)
    have apartLater : ∀ k ∈ rs, k ≠ r → at_ r + n ≤ at_ k ∨ at_ k + n ≤ at_ r := fun k hk => apart k (List.mem_cons_of_mem _ hk)
    by_cases again : r ∈ rs
    · exact ih later _ again apartLater
    · obtain rfl := (List.mem_cons.1 hr).resolve_right again
      have out : ∀ k ∈ rs, at_ r + i < at_ k ∨ at_ k + n ≤ at_ r + i := fun k hk => by
        have := apartLater k hk fun same => again (same ▸ hk)
        omega
      rw [List.foldl_cons, rbyte_writeRows_outside v later _ out, rbyte_rwrite_eq _ (inside r hr), if_pos (by omega), Nat.add_sub_cancel_left]

end

theorem f32enc_lt (v : FVal) : f32enc v < 2 ^ 32 := by
  have sign : ∀ neg, fF32.signBit neg ≤ 2 ^ 31 := fun neg => by cases neg <;> decide
  cases v with
  | nan => decide
  | inf neg => cases neg <;> decide
  | fin neg m e =>
    change (if fF32.maxEnc < fF32.roundMag .rne neg m e then fF32.overflow .rne neg else fF32.signBit neg + fF32.roundMag .rne neg m e) < 2 ^ 32
    split
    · cases neg <;> decide
    · next fits =>
      have := sign neg
      have max : fF32.maxEnc = 0x7F7FFFFF := rfl
      omega

/-- An element of C fits its bytes. -/
theorem result_lt (x : Mx) (w : BitVec 128) : x.result w < 2 ^ (8 * x.cw) := by
  unfold Mx.result Mx.cw
  cases x.cplx with
  | false => exact bits_lt w 31 0
  | true =>
    simp only [Bool.not_true, Bool.false_eq_true, if_false, if_true]
    have pair : ∀ re im : FVal, (if re.isNan || im.isNan then 0x7FC000007FC00000 else f32enc re + f32enc im * 2 ^ 32) < 2 ^ (8 * 8) := fun re im => by
      have := f32enc_lt re
      have := f32enc_lt im
      split <;> omega
    exact pair _ _

/-- The first byte of row r of C. -/
def Mx.rowAt (x : Mx) (y : Tile) (r : Nat) : Nat := viewBase (rd y.c.av x.ac) + (x.oc + r * x.pc).toNat

/-- Row r of C as a number. -/
def Mx.rowValue (x : Mx) (c : Cmd) (r : Nat) : Nat := ((c.part.drop (x.n * r)).take x.n).foldr (fun w a => x.result w + a * 2 ^ (8 * x.cw)) 0

/-- The rows of C that are written. -/
def Mx.rowsWritten (x : Mx) (c : Cmd) : List Nat := (List.range x.m).filter fun r => c.rows.getLsbD r

theorem mem_rowsWritten {x : Mx} {c : Cmd} {r : Nat} : r ∈ x.rowsWritten c ↔ r < x.m ∧ c.rows.getLsbD r = true := by
  rw [Mx.rowsWritten, List.mem_filter, List.mem_range]

theorem write_eq (x : Mx) (y : Tile) (c : Cmd) :
    x.write y c = (x.rowsWritten c).foldl (fun t r => t.rwrite (x.rowAt y r) (x.n * x.cw) (x.rowValue c r)) y := rfl

theorem wroteC_write (x : Mx) (y : Tile) (c : Cmd) : y.WroteC (x.write y c) := .foldl (fun t _ => wroteC_rwrite t _ _ _) _ y

/-- Rows of C lie apart. -/
theorem rowAt_add_le {x : Mx} (from_ : 0 ≤ x.oc) (pitch : x.n * x.cw ≤ x.pc) (y : Tile) {r k : Nat} (before : r < k) :
    x.rowAt y r + x.n * x.cw ≤ x.rowAt y k := by
  obtain ⟨o, oc⟩ := Int.eq_ofNat_of_zero_le from_
  have place : ∀ r : Nat, x.rowAt y r = viewBase (rd y.c.av x.ac) + (o + r * x.pc) := fun r => by
    rw [Mx.rowAt, oc, ← Int.natCast_mul, ← Int.natCast_add, Int.toNat_natCast]
  have step : r * x.pc + x.pc ≤ k * x.pc := Nat.succ_mul r x.pc ▸ Nat.mul_le_mul_right _ before
  rw [place, place]
  omega

section
variable {x : Mx} {y : Tile} {c : Cmd} (fits : ∀ r, r < x.m → x.rowAt y r + x.n * x.cw ≤ 0x40000)
include fits

theorem rbyte_write_outside {b : Nat} (out : ∀ r, r < x.m → c.rows.getLsbD r = true → b < x.rowAt y r ∨ x.rowAt y r + x.n * x.cw ≤ b) :
    (x.write y c).rbyte b = y.rbyte b := by
  rw [write_eq]
  refine rbyte_writeRows_outside _ (fun r hr => fits r (mem_rowsWritten.1 hr).1) y fun r hr => ?_
  obtain ⟨lt, set⟩ := mem_rowsWritten.1 hr
  exact out r lt set

/-- Each element of a computed row reads as its sum. -/
theorem rread_write (from_ : 0 ≤ x.oc) (pitch : x.n * x.cw ≤ x.pc) {r j : Nat} {w : BitVec 128} (hr : r < x.m) (set : c.rows.getLsbD r = true)
    (hj : j < x.n) (sum : c.part[x.n * r + j]? = some w) :
    (x.write y c).rread (x.rowAt y r + x.cw * j) x.cw = x.result w := by
  have element : x.cw * j + x.cw ≤ x.n * x.cw := by
    rw [← Nat.mul_succ, Nat.mul_comm x.n]
    exact Nat.mul_le_mul_left _ hj
  have digit : x.rowValue c r / 2 ^ (8 * x.cw * j) % 2 ^ (8 * x.cw) = x.result w := by
    rw [Mx.rowValue, digit_foldr (result_lt x), getElem?_row _ _ _ hj, sum]
    rfl
  have bytes : ∀ i, i < x.cw → (x.write y c).rbyte (x.rowAt y r + x.cw * j + i) = BitVec.ofNat 8 (x.rowValue c r / 256 ^ (x.cw * j) / 256 ^ i) := by
    intro i hi
    rw [write_eq, Nat.add_assoc, rbyte_writeRows_inside _ (fun k hk => fits k (mem_rowsWritten.1 hk).1) y (mem_rowsWritten.2 ⟨hr, set⟩) (by omega),
      pow_add, Nat.div_div_eq_div_mul]
    exact fun k _ other => (Nat.lt_or_gt_of_ne other).elim (fun before => .inr (rowAt_add_le from_ pitch y before))
      fun behind => .inl (rowAt_add_le from_ pitch y behind)
  have base : ∀ n, 256 ^ n = 2 ^ (8 * n) := fun n => by rw [pow_mul]; norm_num
  rw [rread_of_bytes bytes, base, base, ← Nat.mul_assoc, digit]

end

/-! ### The end of a command (06 R111, 09 R224) -/

theorem mayPost_iff (y : Tile) (c : Cmd) : y.mayPost c = true ↔ (c.record = true → y.evq.length < 64 ∧ y.evWait = []) := by
  rw [Tile.mayPost, Tile.recordRoom]
  cases c.record <;> simp

/-- A command that may post its record leaves its queue with it and its signal. -/
theorem completeCmd_posts {x : Tile} {q : Queue} {h : Cmd} {rest : List Cmd} (cmds : x.cmds q = h :: rest) (may : x.mayPost h = true) (detail : Word) :
    x.completeCmd q detail = { x with
      evq := if h.record then x.evq ++ [mkRecord detail kindDone (qCode q) h.signal h.tag] else x.evq, sm := (x.smSignal h.signal).sm
      q := wr x.q (qIdx q) rest, qhead := wr x.qhead (qIdx q) ((rd x.qhead (qIdx q) + 1) % 16), orphans := x.orphans ++ h.posts } := by
  have posted : (if h.record then x.post (mkRecord detail kindDone (qCode q) h.signal h.tag) else x) =
      { x with evq := if h.record then x.evq ++ [mkRecord detail kindDone (qCode q) h.signal h.tag] else x.evq } := by
    cases record : h.record with
    | false => rfl
    | true =>
      have room : x.recordRoom = true := by rw [Tile.mayPost, record] at may; exact may
      exact if_pos room
  have leaves : ∀ e, (({ x with evq := e } : Tile).smSignal h.signal).popCmd q = { x with
      evq := e, sm := (x.smSignal h.signal).sm
      q := wr x.q (qIdx q) rest, qhead := wr x.qhead (qIdx q) ((rd x.qhead (qIdx q) + 1) % 16), orphans := x.orphans ++ h.posts } := fun e => by
    have signalled : ({ x with evq := e } : Tile).smSignal h.signal = { x with evq := e, sm := (x.smSignal h.signal).sm } := by
      rw [smSignal_eq, sm_smSignal_congr (x := { x with evq := e }) (y := x) rfl]
    rw [signalled]
    exact popCmd_cmds (x := { x with evq := e, sm := (x.smSignal h.signal).sm }) cmds
  unfold Tile.completeCmd
  simp only [head_cmds cmds]
  rw [posted]
  exact leaves _

/-- The tile of a command whose window has been written, before its record and its signal. -/
def Tile.windowWritten (y : Tile) (q : Queue) (h : Cmd) (rest : List Cmd) (x : Mx) : Tile :=
  { x.write y h with q := wr y.q (qIdx q) ({ h with group := x.groups + 1 } :: rest) }

/-- The tile of a command at its end: its window written, and its record and its signal given where the record finds room. -/
def Tile.mxEnded (y : Tile) (q : Queue) (h : Cmd) (rest : List Cmd) (x : Mx) : Tile :=
  if y.mayPost h then (y.windowWritten q h rest x).completeCmd q (BitVec.ofNat 64 (rowCount h.rows)) else y.windowWritten q h rest x

theorem cmds_windowWritten (y : Tile) (q : Queue) (h : Cmd) (rest : List Cmd) (x : Mx) :
    (y.windowWritten q h rest x).cmds q = { h with group := x.groups + 1 } :: rest := rd_wr_self _ _ _ (qIdx_lt q)

/-- Beside the window, the end of a command changes the event queue, the semaphores and its own queue. -/
theorem mxEnded_eq (y : Tile) (q : Queue) (h : Cmd) (rest : List Cmd) (x : Mx) :
    ∃ e sm k i o, y.mxEnded q h rest x = { x.write y h with evq := e, sm := sm, q := k, qhead := i, orphans := o } ∧
      (y.mayPost h = true → rd k (qIdx q) = rest ∧ sm = (y.smSignal h.signal).sm ∧
        e = if h.record then y.evq ++ [mkRecord (BitVec.ofNat 64 (rowCount h.rows)) kindDone (qCode q) h.signal h.tag] else y.evq) ∧
      (y.mayPost h = false → rd k (qIdx q) = { h with group := x.groups + 1 } :: rest ∧ sm = y.sm ∧ e = y.evq) := by
  have wrote := wroteC_write x y h
  have evq : (x.write y h).evq = y.evq := (congrArg Tile.evq wrote :)
  have evWait : (x.write y h).evWait = y.evWait := (congrArg Tile.evWait wrote :)
  have sm : (x.write y h).sm = y.sm := (congrArg Tile.sm wrote :)
  unfold Tile.mxEnded
  cases may : y.mayPost h with
  | false => exact ⟨_, _, _, _, _, rfl, fun bad => absurd bad Bool.false_ne_true, fun _ => ⟨rd_wr_self _ _ _ (qIdx_lt q), sm, evq⟩⟩
  | true =>
    have still : (y.windowWritten q h rest x).mayPost { h with group := x.groups + 1 } = true := by
      rw [mayPost_iff] at may ⊢
      exact fun record => (may record).imp (fun few => (congrArg List.length evq).trans_lt few) evWait.trans
    refine ⟨_, _, _, _, _, (if_pos rfl).trans (completeCmd_posts (cmds_windowWritten y q h rest x) still _), fun _ =>
      ⟨rd_wr_self _ _ _ (qIdx_lt q), sm_smSignal_congr (x := y.windowWritten q h rest x) sm h.signal, ?_⟩,
      fun bad => absurd bad.symm Bool.false_ne_true⟩
    exact if_congr Iff.rfl (congrArg (· ++ _) evq) evq

section
variable {s : State} {t : TileId} {q : Queue} {h : Cmd} {rest : List Cmd} {x : Mx}

theorem setHead_write {y : Tile} (cmds : y.cmds q = h :: rest) (c : Cmd) :
    (x.write y h).setHead q c = { x.write y h with q := wr y.q (qIdx q) (c :: rest) } := by
  have queues : (x.write y h).q = y.q := (congrArg Tile.q (wroteC_write x y h) :)
  rw [setHead_cmds ((congrArg (rd · (qIdx q)) queues).trans cmds), queues]

theorem mxWrite_healed (cmds : (s.tileAt t).cmds q = h :: rest) :
    (s.updAt t fun y => y.windowWritten q h rest x).Healed (s.mxWrite t q h x) := by
  unfold State.mxWrite
  simp only [setHead_write cmds]
  exact .foldl (fun s r => by split; exacts [healed_heal .., .refl s]) _ _

theorem matrixCommandComplete_writes (run : s.enginesRun t = true) (running : (s.tileAt t).mxRunning = some q) (cmds : (s.tileAt t).cmds q = h :: rest)
    (mx : h.mx? = some x) (last : h.group = x.groups) : exec (.matrixCommandComplete t) s =
    if (s.tileAt t).mayPost h then .next ((s.mxWrite t q h x).updAt t fun y => y.completeCmd q (BitVec.ofNat 64 (rowCount h.rows)))
    else .next (s.mxWrite t q h x) := by
  have ex : exec (.matrixCommandComplete t) s = execMatrixCommandComplete t s := rfl
  rw [ex]
  unfold execMatrixCommandComplete
  simp only [run, running, head_cmds cmds, mx, last, lt_irrefl, Bool.not_true, Bool.false_eq_true, if_false, if_true]

/-- A command at its end: the tile with the window written, and the command there or, its record posted, gone. -/
theorem matrixCommandComplete_ends (run : s.enginesRun t = true) (running : (s.tileAt t).mxRunning = some q) (cmds : (s.tileAt t).cmds q = h :: rest)
    (mx : h.mx? = some x) (last : h.group = x.groups) : ∃ z, exec (.matrixCommandComplete t) s = .next z ∧
      z.tileAt t = (s.tileAt t).mxEnded q h rest x ∧
      (∀ u, u ≠ t → z.tileAt u = s.tileAt u) ∧ z.dev.hbm = s.dev.hbm := by
  obtain ⟨l, written⟩ := mxWrite_healed (x := x) cmds
  have here : (s.mxWrite t q h x).tileAt t = (s.tileAt t).windowWritten q h rest x := by
    rw [written]
    exact tileAt_setTileAt_self ..
  have there : ∀ u, u ≠ t → (s.mxWrite t q h x).tileAt u = s.tileAt u := fun u other => by
    rw [written]
    exact tileAt_setTileAt_ne _ _ _ _ (Ne.symm other)
  have hbm : (s.mxWrite t q h x).dev.hbm = s.dev.hbm := by
    rw [written]
    rfl
  rw [matrixCommandComplete_writes run running cmds mx last, Tile.mxEnded]
  cases (s.tileAt t).mayPost h with
  | true => exact ⟨_, rfl, (tileAt_updAt_self ..).trans (by rw [here]; rfl),
      fun u other => (tileAt_updAt_ne _ _ _ _ (Ne.symm other)).trans (there u other), hbm⟩
  | false => exact ⟨_, rfl, here, there, hbm⟩

end

/-- Settles O32: a start puts the head as it starts into its queue; the end of a command writes its rows, which lie apart, and then, if its record finds
room, takes it from its queue. -/
theorem matrixStartsAndCompletes : Obligations.MatrixStartsAndCompletes := by
  unfold Obligations.MatrixStartsAndCompletes
  refine ⟨fun s t h rest m => ?_, fun s t q h rest m => ?_⟩
  · intro y sem take going run whole mx
    refine ⟨fun cmds idle ready stays => ?_, fun cmds idle ready promoted => ⟨fun none_ => ?_, fun n ns normal started fault runs => ?_⟩,
      fun cmds promoted => ⟨urgentMay_promoted promoted _ _, matrixPromotion_marks cmds mx promoted run⟩, length_rows .., fun r j hr hj => ?_⟩
    · exact (matrixCommandStart_normal run mx cmds idle ready stays).trans (next_congr (mxStart_alone m whole cmds rfl))
    · have may := urgentMay_eq idle ready promoted
      have alone : y.suspendNormal .urgent = y := by
        unfold Tile.suspendNormal
        rw [none_]
        rfl
      have starts := mxStart_alone m whole cmds alone
      exact ⟨(matrixCommandStart_urgent run mx cmds may).trans (next_congr starts),
        (matrixKStep_urgent run mx cmds may (by rw [none_]; decide)).trans (next_congr starts)⟩
    · have may := urgentMay_eq idle ready promoted
      have running := mxRunning_normal normal idle started fault runs
      have starts := mxStart_suspends m whole cmds normal running
      exact ⟨(matrixCommandStart_urgent run mx cmds may).trans (next_congr starts),
        (matrixKStep_urgent run mx cmds may (by rw [running]; decide)).trans (next_congr starts)⟩
    · refine (getElem?_rows _ _ _ hr hj).trans (congrArg some ?_)
      cases m.acc with
      | false => rfl
      | true =>
        simp only [Bool.not_true, Bool.false_eq_true, reduceCtorEq, if_false]
        split <;> rfl
  · intro y row run running cmds mx last _ room from_ pitch _ fits
    obtain ⟨z, ex, here, there, hbm⟩ := matrixCommandComplete_ends run running cmds mx last
    obtain ⟨e, sm, k, i, o, eq, posts, waits⟩ := mxEnded_eq y q h rest m
    have wrote := wroteC_write m y h
    rw [eq] at here
    refine ⟨z, ex, ?_⟩
    rw [here]
    refine ⟨fun r j w hr set hj sum => ?_, fun c out => rbyte_write_outside fits out, fun free => posts ((mayPost_iff y h).2 free),
      fun full => waits (Bool.eq_false_iff.2 (mt (mayPost_iff y h).1 full)),
      (congrArg Tile.spm wrote :), (congrArg Tile.k wrote :), (congrArg Tile.tok wrote :), there, hbm⟩
    exact (rread_congr (u := m.write y h) (by rfl) (by rfl) _ _).trans (rread_write fits from_ pitch hr set hj sum)

end Sys2Proof.Machine
end

section
/-! SUPPORT. The counts of the stall rule: after every turn only contexts in which nothing can move are counted (10 R241). -/

open Sys2Proof

namespace Sys2Proof.Machine

/-- Whether anything of a context can move does not depend on the counts. -/
theorem stalled_updStall (s : State) (v : List (BitVec 12 × Nat)) (c : BitVec 12) :
    (s.updDev fun d => { d with stall := v }).stalled c = s.stalled c := rfl

theorem stalled_of_mem_keepStalls {s : State} {p : BitVec 12 × Nat} (h : p ∈ s.keepStalls.dev.stall) : s.keepStalls.stalled p.1 = true := by
  unfold State.keepStalls at h ⊢
  split at h
  next none_ => rw [List.isEmpty_iff.1 none_] at h; cases h
  next some_ =>
    rw [if_neg some_]
    exact (stalled_updStall ..).trans (List.mem_filter.1 h).2

/-- Whatever a turn does, the counts are gone over after it. -/
theorem step_next_keepStalls {s t : State} (h : step s = .next t) : ∃ z : State, t = z.keepStalls := by
  unfold step at h
  generalize s.nextTurn.2.takeTurn s.nextTurn.1 = r at h
  cases r with
  | next z => exact ⟨z.keepQuiet, (Host.Outcome.next.inj h).symm⟩
  | fault | refused => cases h

/-- Settles O59: the last thing a step does is to drop the counts of the contexts in which something can move. -/
theorem stallCountsHold : Obligations.StallCountsHold := by
  unfold Obligations.StallCountsHold
  intro s t h p hp
  obtain ⟨z, rfl⟩ := step_next_keepStalls h
  exact stalled_of_mem_keepStalls hp

end Sys2Proof.Machine
end

section
/-! SUPPORT. Launches by number, and dispatch traces that are not recorded (15 R320). -/

open Sys2Proof

namespace Sys2Proof.Machine

/-- A launch changed under its number is found again under it. -/
theorem launch?_updLaunch (s : State) (id : Word) {f : Launch → Launch} (same : ∀ m, (f m).id = m.id) :
    (s.updLaunch id f).launch? id = (s.launch? id).map f := by
  have keeps : (fun m : Launch => m.id == id) ∘ (fun m => if m.id == id then f m else m) = fun m => m.id == id := by
    funext m
    dsimp only [Function.comp]
    split
    · rw [same]
    · rfl
  change (s.dev.launches.map _).find? _ = (s.dev.launches.find? _).map f
  rw [List.find?_map, keeps]
  exact Option.map_congr fun m found => if_pos (List.find?_some (p := fun m : Launch => m.id == id) found)

theorem id_of_launch? {s : State} {id : Word} {l : Launch} (h : s.launch? id = some l) : l.id = id := by
  simpa using List.find?_some h

/-- Only a launch in record mode has a trace. -/
theorem traceAdd_unrecorded {s : State} {id : Word} {l : Launch} (found : s.launch? id = some l) (mode : l.mode ≠ 1) (d : DieId) (r : BitVec 128) :
    s.traceAdd id d r = (s, true) := by
  unfold State.traceAdd
  rw [found]
  exact if_pos mode

end Sys2Proof.Machine
end

section
/-! SUPPORT. How a placed task starts (10 R226, R228, R235, 01 R14). -/

open Sys2Proof

namespace Sys2Proof.Machine

/-! ### Barrier objects in a scratchpad (06 R115) -/

theorem Mem.readN_congr {m m' : Mem} {a n : Nat} (h : ∀ c, a ≤ c → c < a + n → m.get c = m'.get c) : m.readN a n = m'.readN a n := by
  induction n generalizing a with
  | zero => rfl
  | succ n ih => rw [Mem.readN, Mem.readN, h a (by omega) (by omega), ih fun c _ _ => h c (by omega) (by omega)]

theorem Mem.bar_congr {m m' : Mem} {a : Nat} (h : ∀ c, a ≤ c → c < a + 16 → m.get c = m'.get c) : m.bar a = m'.bar a := by
  unfold Mem.bar
  rw [Mem.readN_congr fun c _ _ => h c (by omega) (by omega), Mem.readN_congr fun c _ _ => h c (by omega) (by omega)]

theorem Mem.get_setBar_out (m : Mem) (a c : Nat) (b : Bar) (h : c < a ∨ a + 16 ≤ c) : (m.setBar a b).get c = m.get c := by
  unfold Mem.setBar
  rw [Mem.get_writeN_out _ _ _ _ _ (by omega), Mem.get_writeN_out _ _ _ _ _ (by omega)]

/-- An object whose fields fit is read back as it was written. -/
theorem Mem.bar_setBar (m : Mem) (a : Nat) {b : Bar} (phase : b.phase < 4096) (pending : b.pending < 2 ^ 20) (reload : b.reload < 2 ^ 20) :
    (m.setBar a b).bar a = b := by
  obtain ⟨f, p, r, n⟩ := b
  dsimp only at phase pending reload
  have low : (m.setBar a ⟨f, p, r, n⟩).readN a 8 = f * 2 ^ 52 + p * 2 ^ 32 + r * 2 ^ 12 := by
    unfold Mem.setBar
    rw [Mem.readN_congr fun c _ _ => Mem.get_writeN_out _ (a + 8) 8 _ c (by omega), Mem.readN_writeN]
    dsimp only
    omega
  have high : (m.setBar a ⟨f, p, r, n⟩).readN (a + 8) 8 = n.toNat := by
    unfold Mem.setBar
    rw [Mem.readN_writeN]
    exact Nat.mod_eq_of_lt n.isLt
  unfold Mem.bar
  rw [low, high, BitVec.ofNat_toNat, BitVec.setWidth_eq]
  simp only [nbits, Nat.shiftRight_eq_div_pow, Bar.mk.injEq, and_true]
  omega

/-! ### The barrier objects of a task's groups (10 R235) -/

section
variable {i : Nat}

theorem get_startGroup_out (m : Mem) {g : Group} {c : Nat} (h : c < groupObj g.g ∨ groupObj g.g + 16 ≤ c) : (startGroup i m g).get c = m.get c := by
  unfold startGroup
  split
  · exact Mem.get_setBar_out _ _ _ _ h
  · rfl

theorem get_foldl_startGroup_out {gs : List Group} {c : Nat} (h : ∀ g ∈ gs, c < groupObj g.g ∨ groupObj g.g + 16 ≤ c) (m : Mem) :
    (gs.foldl (startGroup i) m).get c = m.get c :=
  List.foldlRecOn (motive := fun x : Mem => x.get c = m.get c) gs _ rfl fun x hx g hg => (get_startGroup_out x (h g hg)).trans hx

/-- The arrivals that the object of a group counts at task i: those of all members at the master, its own elsewhere. -/
def startCount (g : Group) (i : Nat) : Nat := if g.master = i then g.members.length else 1

theorem bar_startGroup (m : Mem) {g : Group} (mine : i ∈ g.members) (fits : g.members.length < 2 ^ 20) :
    (startGroup i m g).bar (groupObj g.g) = ⟨0, startCount g i, startCount g i, 0⟩ := by
  have count : startCount g i < 2 ^ 20 := by
    unfold startCount
    split <;> omega
  unfold startGroup
  rw [if_pos (List.contains_iff_mem.2 mine)]
  exact Mem.bar_setBar m _ (Nat.zero_lt_succ _) count count

/-- The objects of groups of different numbers lie apart, so each is as its own group leaves it. -/
theorem bar_foldl_startGroup {gs : List Group} {g : Group} (apart : ∀ a b, a ∈ gs → b ∈ gs → a.g = b.g → a = b) (hg : g ∈ gs)
    (mine : i ∈ g.members) (fits : g.members.length < 2 ^ 20) (m : Mem) :
    (gs.foldl (startGroup i) m).bar (groupObj g.g) = ⟨0, startCount g i, startCount g i, 0⟩ := by
  induction gs generalizing m with
  | nil => cases hg
  | cons a rest ih =>
    by_cases later : g ∈ rest
    · exact ih (fun x y hx hy => apart x y (.tail _ hx) (.tail _ hy)) later _
    · obtain rfl : g = a := (List.mem_cons.1 hg).resolve_right later
      have others : ∀ b ∈ rest, b.g ≠ g.g := fun b hb same => later (apart b g (.tail _ hb) hg same ▸ hb)
      rw [List.foldl_cons, ← bar_startGroup m mine fits]
      refine Mem.bar_congr fun c _ _ => get_foldl_startGroup_out (fun b hb => ?_) _
      have := others b hb
      unfold groupObj at *
      omega

end

/-! ### The tile after the start writes (10 R226, R228) -/

/-- The tile of task k of launch l as its start writes leave it. -/
def State.startedTile (s : State) (t : TileId) (k : Task) (l : Launch) (i : Image) : Tile :=
  let x := s.tileAt t
  let h := x.launchState l i k.index
  { Tile.reset with
    task := some k, live := true, loopmode := h.loopmode, age := h.age, tvec := h.tvec, chans := h.chans
    spm := (l.groups[dieOf t]).foldl (startGroup k.index) h.spm, spmLaunch := l.id
    k := KState.start k.kEnt, l := LSState.start k.lEnt, s := LSState.start k.sEnt, c := i.startC k.cEnt
    subs := fillEntries (i.startSubs l k.index), pubs := fillEntries (i.startPubs l k.index)
    tlb := x.tlb, pmap := x.pmap, matchT := x.matchT, waves := x.waves, acc := x.acc, carves := x.carves, kept := s.keepOld x l.id }

theorem resv_tileReset (a b : Sequencer) : (Tile.reset.tokQ a b).resv = 0 := by
  cases a <;> cases b <;> rfl

section
variable {s : State} {t : TileId} {k : Task} {l : Launch} {i : Image}

/-- A launch in which task n has started on die d. -/
def Launch.withStart (l : Launch) (d : DieId) (n starts now : Nat) : Launch :=
  { l with starts := l.starts.set d (starts + 1), lastRun := (n, now) :: l.lastRun.filter fun p => p.1 != n }

theorem startTile_eq (task : (s.tileAt t).task = some k) (found : s.launch? k.launch = some l) (mode : l.mode ≠ 1) (image : s.dev.images[k.image]? = some i) :
    s.startTile t = ((s.freshTile t ((s.tileAt t).spmLaunch != l.id)).setTileAt t (s.startedTile t k l i)).updLaunch l.id fun m =>
      m.withStart (dieOf t) k.index l.starts[dieOf t] s.dev.now := by
  have counted : (((s.freshTile t ((s.tileAt t).spmLaunch != l.id)).setTileAt t (s.startedTile t k l i)).updLaunch l.id fun m =>
      m.withStart (dieOf t) k.index l.starts[dieOf t] s.dev.now).launch? l.id = some (l.withStart (dieOf t) k.index l.starts[dieOf t] s.dev.now) := by
    rw [launch?_updLaunch]
    · exact congrArg (Option.map _) ((id_of_launch? found).symm ▸ found)
    · exact fun _ => rfl
  unfold State.startTile
  simp only [task, found, image, Option.getD_some]
  split
  next z h => exact congrArg Prod.fst (h.symm.trans (traceAdd_unrecorded counted mode _ _))
  next z h => cases congrArg Prod.snd (h.symm.trans (traceAdd_unrecorded counted mode _ _))

/-- A task that is placed and does not run makes its start writes, alone where its launch is not co-resident. -/
theorem taskStart_eq (task : (s.tileAt t).task = some k) (placed : (s.tileAt t).live = false) (found : s.launch? k.launch = some l)
    (alone : l.cores = false) : exec (.taskStart t) s = .next (s.startTile t) := by
  have mine : ((s.tileAt t).launch != l.id) = false := by simp [launch_of_task task, id_of_launch? found]
  change execTaskStart t s = _
  unfold execTaskStart
  simp only [task, placed, found, alone, mine, Bool.or_false, Bool.false_eq_true, if_false, List.foldl_cons, List.foldl_nil]

theorem launchState_here (here : (s.tileAt t).spmLaunch = l.id) (n : Nat) : (s.tileAt t).launchState l i n =
    ⟨l.id, (s.tileAt t).spm, (s.tileAt t).loopmode, (s.tileAt t).age, (s.tileAt t).tvec, (s.tileAt t).chans⟩ := if_pos here

/-- The first values of a launch that has nothing on the tile. -/
theorem launchState_new (new : (s.tileAt t).spmLaunch ≠ l.id) (none_ : (s.tileAt t).kept.all (fun m => m.launch != l.id) = true) (n : Nat) :
    ((s.tileAt t).launchState l i n).tvec = BitVec.ofNat 64 (l.pk 160 8) ∧ ((s.tileAt t).launchState l i n).chans = i.chansOf n := by
  have unkept : (s.tileAt t).kept.find? (fun m => m.launch == l.id) = none := by simpa using none_
  unfold Tile.launchState
  rw [if_neg new, unkept]
  exact ⟨rfl, rfl⟩

theorem rd_chansOf (i : Image) (n : Nat) {c : Nat} (h : c < 64) : rd (i.chansOf n) c = match i.chans.find? fun d => d.id == c with
    | some d => { Chan.unused with
        free := if d.src = n then BitVec.ofNat 32 d.slots else 0, sender := d.src == n, receiver := d.dst == n }
    | none => Chan.unused := by
  rw [Image.chansOf, rd, Vector.getElem?_ofFn]
  exact congrArg (fun o : Option Chan => o.getD default) (dif_pos h)

end

/-- Settles O34: the start writes leave one tile, whose barrier objects are those of the task's groups. -/
theorem taskStarts : Obligations.TaskStarts := by
  unfold Obligations.TaskStarts
  intro s t k l i x task placed found _ alone mode image apart
  refine ⟨_, (taskStart_eq task placed found alone).trans (congrArg _ (startTile_eq task found mode image)), fun u hu => ?others, rfl, ?tile⟩
  case others => exact tileAt_setTileAt_ne _ _ _ _ hu.symm
  case tile =>
    rw [tileAt_updLaunch, tileAt_setTileAt_self]
    refine ⟨rfl, rfl, rfl, rfl, rfl, rfl, rfl, rfl, rfl, rfl, cmds_tileReset, fun a b ne => ⟨tokQ_tileReset a b, resv_tileReset a b⟩, smGet_tileReset,
      fun g hg => rd_replicate _ g hg, rfl, rfl, rfl, rfl, rfl, rbyte_tileReset, rfl, rfl, rfl, rfl, fun here => ?here, fun new none_ => ?new,
      fun g hg mine fits => bar_foldl_startGroup apart hg mine fits _, fun here c out => ?spm⟩
    case here =>
      have state := launchState_here (i := i) here k.index
      exact ⟨congrArg Kept.tvec state, congrArg Kept.loopmode state, congrArg Kept.age state, congrArg Kept.chans state⟩
    case new =>
      obtain ⟨tvec, chans⟩ := launchState_new (i := i) new none_ k.index
      exact ⟨tvec, fun c hc => (congrArg (rd · c) chans).trans (rd_chansOf i k.index hc)⟩
    case spm =>
      exact (get_foldl_startGroup_out out _).trans (congrArg (fun h : Kept => h.spm.get c) (launchState_here (i := i) here k.index))

end Sys2Proof.Machine
end

section
/-! SUPPORT. Appends and pops at the unit of their work list (10 R239). -/

open Sys2Proof

namespace Sys2Proof.Machine

/-- A request to append to a work list. -/
def Req.isAppend (r : Req) : Bool := match r.kind with | .wlapp _ _ _ => true | _ => false

/-- A request to pop from a work list. -/
def Req.isPop (r : Req) : Bool := match r.kind with | .wlpop _ _ _ _ => true | _ => false

theorem setList_eq (s : State) (d : DieId) (w : WorkList) :
    s.setList d w = s.updDie d fun x => { x with lists := x.lists.map fun y => if y.launch = w.launch ∧ y.n = w.n then w else y } := by
  simp only [State.setList, Bool.and_eq_true, beq_iff_eq]

section
variable {s : State} {t : TileId} {r : Req} {die : DieId} {n : Nat} {w : WorkList}

/-- The oldest append enters its list at the tail, unless the list is full. -/
theorem appendArrives_oldest {item : Word} (found : s.workList die (s.tileAt t).launch n = some w) (free : (s.tileAt t).listHeld r = false)
    (kind : r.kind = .wlapp die n item) (oldest : (s.tileAt t).reqs.find? Req.isAppend = some r) :
    s.appendArrives t = if w.cap ≤ w.items.length then s
      else (s.setList die { w with items := w.items ++ [item] }).updAt t fun x => x.endReq r 0 := by
  unfold State.appendArrives
  dsimp only
  split
  next h => cases h.symm.trans oldest
  next z h =>
    obtain rfl : z = r := Option.some.inj (h.symm.trans oldest)
    simp only [kind, found, free, Bool.or_false, decide_eq_true_eq]

theorem popArrives_empty {d : Reg} {pd : BitVec 3} (found : s.workList die (s.tileAt t).launch n = some w) (none_ : w.items = [])
    (kind : r.kind = .wlpop d die n pd) (oldest : (s.tileAt t).reqs.find? Req.isPop = some r) : s.popArrives t = s := by
  unfold State.popArrives
  dsimp only
  split
  next h => cases h.symm.trans oldest
  next z h =>
    obtain rfl : z = r := Option.some.inj (h.symm.trans oldest)
    simp only [kind, found, none_]

/-- The oldest pop takes its list's oldest item. -/
theorem popArrives_oldest {d : Reg} {pd : BitVec 3} {v : Word} {rest : List Word} (found : s.workList die (s.tileAt t).launch n = some w)
    (free : (s.tileAt t).listHeld r = false) (items : w.items = v :: rest) (kind : r.kind = .wlpop d die n pd)
    (oldest : (s.tileAt t).reqs.find? Req.isPop = some r) : s.popArrives t =
      (s.setList die { w with items := rest }).updAt t fun x => (x.setResult r d v pd true).endReq r (v.setWidth 32) := by
  unfold State.popArrives
  dsimp only
  split
  next h => cases h.symm.trans oldest
  next z h =>
    obtain rfl : z = r := Option.some.inj (h.symm.trans oldest)
    simp only [kind, found, free, items, Bool.false_eq_true, if_false]

end

/-- A result in a register of L, and in what the later requests of L found. -/
theorem setResult_l (x : Tile) {r : Req} (hq : r.q = .l) (d : Reg) (v : Word) (pd : BitVec 3) : x.setResult r d v pd true = { x with
    reqs := x.reqs.map fun z => if z.q = .l ∧ r.id < z.id then
      { z with before := { z.before with regs := wr z.before.regs d.toNat v, preds := predSet z.before.preds pd true } } else z
    l := { x.l with regs := wr x.l.regs d.toNat v, preds := predSet x.l.preds pd true } } := by
  simp only [Tile.setResult, Tile.setLs, Tile.setPred, hq, Bool.and_eq_true, beq_iff_eq, decide_eq_true_eq]

/-- A pop's request leaves, its result in L's registers. -/
theorem endReq_setResult (x : Tile) {r : Req} (hq : r.q = .l) (d : Reg) (v : Word) (pd : BitVec 3) (pay : BitVec 32) :
    (x.setResult r d v pd true).endReq r pay = (({ x with
      reqs := (x.reqs.filter fun z => z.id != r.id).map fun z => if z.q = .l ∧ r.id < z.id then
        { z with before := { z.before with regs := wr z.before.regs d.toNat v, preds := predSet z.before.preds pd true } } else z
      l := { x.l with regs := wr x.l.regs d.toNat v, preds := predSet x.l.preds pd true } } : Tile).mark r.q (r.clk.at r.q)).pushReserved r.q
        (peersOf r.q r.push) pay r.clk := by
  have left : (fun z : Req => z.id != r.id) ∘ (fun z => if z.q = .l ∧ r.id < z.id then
      { z with before := { z.before with regs := wr z.before.regs d.toNat v, preds := predSet z.before.preds pd true } } else z) =
      fun z => z.id != r.id := by
    funext z
    dsimp only [Function.comp]
    split <;> rfl
  unfold Tile.endReq
  rw [setResult_l x hq]
  dsimp only
  rw [List.filter_map, left]

end Sys2Proof.Machine
end

section
/-! SUPPORT. The Owls' declaration of quiescence (10 R240). -/

open Sys2Proof

namespace Sys2Proof.Machine

/-- Where the Owl need not wait for a task: it has retired, or its L waits in a pop. -/
def State.Rests (s : State) (p : TaskAt) : Prop :=
  p = .retired ∨ ∃ t, p = .running t ∧ (s.tileAt t).live = true ∧ s.inWlpop t = true

theorem quiet_of_rests {s : State} {l : Launch} (runs : l.state = .running) (lists : l.lists ≠ []) (new : l.quiescent = false)
    (empty : s.listsEmpty l.id = true) (still : s.appending l.id = false)
    (rests : ∀ i ∈ l.owlSet, ∃ a ∈ l.at_.find? (fun a => a.1 == i), s.Rests a.2) : s.quiet l = true := by
  simp only [State.quiet, runs, new, empty, still, List.isEmpty_eq_false_iff.2 lists, beq_self_eq_true, Bool.not_false, Bool.true_and]
  refine List.all_eq_true.2 fun i hi => ?_
  obtain ⟨⟨j, p⟩, found, rest⟩ := rests i hi
  rw [Option.mem_def.1 found]
  rcases rest with rfl | ⟨t, rfl, live, pops⟩
  · rfl
  · exact Bool.and_eq_true_iff.2 ⟨live, pops⟩

theorem not_quiet {s : State} {l : Launch} (h : l.state ≠ .running ∨ l.lists = [] ∨ s.listsEmpty l.id = false ∨ s.appending l.id = true) :
    s.quiet l = false := by
  rcases h with h | h | h | h <;> simp [State.quiet, h]

/-- The Owls declare the launch of a number quiescent where its conditions hold, and change nothing else. -/
theorem owlQuiescence_eq {s : State} {id : Word} {l : Launch} (found : s.launch? id = some l) : exec (.owlQuiescence id) s =
    .next (if s.quiet l then s.updDev fun d => { d with launches := d.launches.map fun m => if m.id = id then { m with quiescent := true } else m }
      else s) := by
  change execOwlQuiescence id s = _
  unfold execOwlQuiescence
  simp only [found, State.updLaunch, beq_iff_eq]
  split <;> rfl

end Sys2Proof.Machine
end

section
/-! SUPPORT. Waves and holds cleared with their records (12 R282): what this leaves alone. -/

open Sys2Proof

namespace Sys2Proof.Machine

/-- Nothing of a tile has changed but its waves and its records. -/
def Tile.Noted (x y : Tile) : Prop := ∃ waves evq evWait, y = { x with waves := waves, evq := evq, evWait := evWait }

/-- The launches and the counts of the stall rule stand, and so does every tile but for its waves and its records. -/
structure State.Noted (s z : State) : Prop where
  launches : z.dev.launches = s.dev.launches
  stall : z.dev.stall = s.dev.stall
  tiles : ∀ u, (s.tileAt u).Noted (z.tileAt u)

theorem Tile.Noted.refl (x : Tile) : x.Noted x := ⟨_, _, _, rfl⟩

theorem State.Noted.refl (s : State) : s.Noted s := ⟨rfl, rfl, fun _ => .refl _⟩

theorem State.Noted.trans {s y z : State} (h : s.Noted y) (g : y.Noted z) : s.Noted z := by
  obtain ⟨launches, stall, tiles⟩ := h
  obtain ⟨launches', stall', tiles'⟩ := g
  refine ⟨launches'.trans launches, stall'.trans stall, fun u => ?_⟩
  obtain ⟨w, q, r, e⟩ := tiles u
  obtain ⟨w', q', r', e'⟩ := tiles' u
  exact ⟨w', q', r', by rw [e', e]⟩

theorem State.Noted.foldl {α : Type} {s z : State} (h : s.Noted z) (xs : List α) {f : State → α → State} (hf : ∀ (y : State) x, y.Noted (f y x)) :
    s.Noted (xs.foldl f z) :=
  List.foldlRecOn (motive := s.Noted) xs f h fun y hy x _ => hy.trans (hf y x)

theorem noted_updAt (s : State) (t : TileId) {f : Tile → Tile} (h : (s.tileAt t).Noted (f (s.tileAt t))) : s.Noted (s.updAt t f) := by
  refine ⟨rfl, rfl, fun u => ?_⟩
  rw [tileAt_updAt]
  split
  next e => exact e ▸ h
  next => exact .refl _

theorem noted_post (x : Tile) (r : BitVec 128) : x.Noted (x.post r) := by
  obtain ⟨q, w, e⟩ := post_eq x r
  exact ⟨x.waves, q, w, e⟩

/-- A write of HBM, of which the images of saved tasks are written. -/
theorem noted_writeHbm (s : State) (a n v : Nat) : s.Noted (s.writeHbm a n v) := by
  refine ⟨writeHbm_frame s (f := Device.launches) (fun _ _ => rfl) (fun _ _ => rfl) (fun _ _ => rfl) (fun _ _ => rfl) a n v,
    writeHbm_frame s (f := Device.stall) (fun _ _ => rfl) (fun _ _ => rfl) (fun _ _ => rfl) (fun _ _ => rfl) a n v, fun u => ?_⟩
  simp only [State.tileAt, tiles_writeHbm]
  exact .refl _

theorem noted_updSaves (s : State) (f : List Save → List Save) : s.Noted (s.updDev fun d => { d with saves := f d.saves }) := ⟨rfl, rfl, fun _ => .refl _⟩

theorem noted_updSave (s : State) (slot : Nat) (f : Tile → Tile) : s.Noted (s.updSave slot f) := by
  unfold State.updSave
  split
  · exact .refl s
  · unfold State.imagePut
    refine (noted_updSaves s _).foldl _ fun y c => ?_
    split
    · exact noted_writeHbm ..
    · exact .refl y

theorem taskHome_ne_kept (s : State) (t : TileId) (launch l : Word) : s.taskHome t launch ≠ .kept l := by
  unfold State.taskHome
  dsimp only
  split
  · nofun
  · split
    · split <;> nofun
    · split <;> nofun

/-- A record reaches its task on the tile, in the image of a save slot, or not at all. -/
theorem noted_postTask (s : State) (t : TileId) (launch : Word) (i : Option Nat) (r : BitVec 128) : s.Noted (s.postTask t launch i r) := by
  unfold State.postTask
  dsimp only
  split
  · exact .refl s
  · split
    · exact .refl s
    · split
      · exact noted_updAt s t (noted_post ..)
      · exact .refl s
    · cases h : s.taskHome t launch with
      | live => exact noted_updAt s t (f := fun x => x.post r) (noted_post ..)
      | image slot => exact noted_updSave s slot fun x => x.post r
      | kept l => exact absurd h (taskHome_ne_kept _ _ _ _)
      | held | absent => exact .refl s

theorem noted_waveRecord (s : State) (t : TileId) (w : Wave) (c : Cause) : s.Noted (s.waveRecord t w c) := noted_postTask ..

theorem noted_clearWaves (s : State) (c : BitVec 12) : s.Noted (s.clearWaves c) := by
  have tile : ∀ (y : State) (t : TileId) (ws : List Wave) (f : List Wave → List Wave),
      y.Noted (ws.foldl (fun z w => z.waveRecord t w .flowTimeout) (y.updAt t fun x => { x with waves := f x.waves })) := fun y t ws f =>
    (noted_updAt y t ⟨_, _, _, rfl⟩).foldl ws fun _ _ => noted_waveRecord ..
  have ports : ∀ (y : State) (f : List (Nat × Wave) → List (Nat × Wave)), y.Noted (y.updDev fun d => { d with portWaves := f d.portWaves }) :=
    fun y f => ⟨rfl, rfl, fun _ => .refl _⟩
  have tiles : ∀ f : State → Nat → State, (∀ (y : State) i, y.Noted (f y i)) → s.Noted ((List.range 432).foldl f s) :=
    fun f hf => (State.Noted.refl s).foldl _ hf
  unfold State.clearWaves
  exact ((tiles _ fun y i => tile y (tileOf i) _ _).trans (ports ..)).foldl _ fun y w => noted_waveRecord y ..

end Sys2Proof.Machine
end

section
/-! SUPPORT. Sequencers stopped one after another (10 R241, 18 R361): each changes its own part of its own tile. -/

open Sys2Proof

namespace Sys2Proof.Machine

/-! ### A sequencer as it was -/

/-- A sequencer of a tile is as it was, and so are the tile's requests and the address of K's handler. -/
structure Tile.Keeps (q : Sequencer) (x y : Tile) : Prop where
  reqs : y.reqs = x.reqs
  tvec : y.tvec = x.tvec
  own : match q with
    | .k => y.k = x.k
    | .l => y.l = x.l
    | .c => y.c = x.c
    | .s => y.s = x.s

section
variable {q : Sequencer} {x y z : Tile}

theorem Tile.Keeps.refl (q : Sequencer) (x : Tile) : x.Keeps q x := by
  cases q <;> exact ⟨rfl, rfl, rfl⟩

theorem Tile.Keeps.trans (h : Tile.Keeps q x y) (g : Tile.Keeps q y z) : Tile.Keeps q x z := by
  obtain ⟨reqs, tvec, own⟩ := h
  obtain ⟨reqs', tvec', own'⟩ := g
  cases q <;> exact ⟨reqs'.trans reqs, tvec'.trans tvec, own'.trans own⟩

theorem Tile.Noted.keeps (q : Sequencer) (h : x.Noted y) : Tile.Keeps q x y := by
  obtain ⟨w, r, e, rfl⟩ := h
  cases q <;> exact ⟨rfl, rfl, rfl⟩

theorem Tile.Keeps.stopOf (h : Tile.Keeps q x y) : y.stopOf q = x.stopOf q := by
  obtain ⟨-, -, own⟩ := h
  cases q with
  | k => rfl
  | l => exact congrArg LSState.stop own
  | c => exact congrArg CState.stop own
  | s => exact congrArg LSState.stop own

theorem Tile.Keeps.pcOf (h : Tile.Keeps q x y) : y.pcOf q = x.pcOf q := by
  obtain ⟨-, -, own⟩ := h
  cases q with
  | k => exact congrArg KState.pc own
  | l => exact congrArg LSState.pc own
  | c => exact congrArg CState.pc own
  | s => exact congrArg LSState.pc own

end

/-! ### One sequencer stopped -/

theorem keeps_setStop (x : Tile) {p q : Sequencer} (ne : p ≠ q) (r : StopRec) (v : Bool) : Tile.Keeps q x (x.setStop p r v) := by
  cases p <;> cases q
  case k.k | l.l | c.c | s.s => exact absurd rfl ne
  all_goals exact ⟨rfl, rfl, rfl⟩

/-- A cause of K's own changes K and what the command core is told. -/
theorem kRaise_eq (x : Tile) (c : Cause) (v ret w : Word) : ∃ k b m, x.kRaise c v ret w = { x with k := k, lstall := b, kill := m } := by
  unfold Tile.kRaise
  dsimp only
  split
  · exact ⟨_, _, _, rfl⟩
  · exact ⟨_, _, _, rfl⟩

/-- Outside its handler, and with one, K enters it. -/
theorem kRaise_user {x : Tile} (user : x.k.trap = false) (handler : x.tvec ≠ 0) (c : Cause) (v ret w : Word) :
    x.kRaise c v ret w = ({ x with lstall := x.lstall || c == .launchStall } : Tile).enterTrap ret c .k false v x.k.pc w := by
  have none_ : (x.tvec == 0) = false := by simpa using handler
  unfold Tile.kRaise
  simp only [user, none_, Bool.or_false, Bool.false_eq_true, if_false]

/-- K's wait for an answer is over. -/
def Tile.unpended (x : Tile) : Tile := { x with k := { x.k with pend := none } }

/-- K takes the cause as a fault of its own. -/
theorem dev_stopBefore_k (s : State) (t : TileId) (c : Cause) :
    ∃ w, (s.stopBefore t .k c).dev = (s.updAt t fun x => x.unpended.kRaise c 0 x.k.pc w).dev :=
  ⟨State.kWord (({ s with cur := t } : State).upd Tile.unpended), calc
    _ = ((s.updAt t Tile.unpended).updAt t fun x => x.kRaise c 0 x.k.pc (State.kWord (({ s with cur := t } : State).upd Tile.unpended))).dev := rfl
    _ = _ := congrArg State.dev (updAt_updAt ..)⟩

/-- A stop changes one tile, in which the other sequencers stay as they are. -/
theorem dev_stopBefore (s : State) (t : TileId) (p : Sequencer) (c : Cause) :
    ∃ x, (s.stopBefore t p c).dev = (s.setTileAt t x).dev ∧ ∀ q, p ≠ q → Tile.Keeps q (s.tileAt t) x := by
  by_cases own : p = .k
  · subst own
    obtain ⟨w, e⟩ := dev_stopBefore_k s t c
    obtain ⟨k, b, m, form⟩ := kRaise_eq (s.tileAt t).unpended c 0 (s.tileAt t).k.pc w
    refine ⟨_, e.trans (congrArg (fun x => (s.setTileAt t x).dev) form), fun q ne => ?_⟩
    cases q with
    | k => exact absurd rfl ne
    | l | c | s => exact ⟨rfl, rfl, rfl⟩
  · by_cases may : (s.tileAt t).mayStop p = true
    · rw [stopBefore_of_mayStop s t c own may]
      exact ⟨_, rfl, fun q ne => keeps_setStop _ ne _ _⟩
    · rw [stopBefore_of_not_mayStop s t c own may]
      exact ⟨s.tileAt t, congrArg State.dev (setTileAt_tileAt s t).symm, fun q _ => .refl q _⟩

section
variable (s : State) (t u : TileId) (p q : Sequencer) (c : Cause)

theorem launches_stopBefore : (s.stopBefore t p c).dev.launches = s.dev.launches := by
  obtain ⟨x, e, -⟩ := dev_stopBefore s t p c
  rw [e]
  rfl

theorem stall_stopBefore : (s.stopBefore t p c).dev.stall = s.dev.stall := by
  obtain ⟨x, e, -⟩ := dev_stopBefore s t p c
  rw [e]
  rfl

theorem keeps_stopBefore (ne : (t, p) ≠ (u, q)) : Tile.Keeps q (s.tileAt u) ((s.stopBefore t p c).tileAt u) := by
  obtain ⟨x, e, own⟩ := dev_stopBefore s t p c
  have tile : (s.stopBefore t p c).tileAt u = (s.setTileAt t x).tileAt u := congrArg (fun d : Device => d.tiles[u]) e
  rw [tile]
  by_cases here : t = u
  · subst here
    rw [tileAt_setTileAt_self]
    exact own q fun same => ne (same ▸ rfl)
  · rw [tileAt_setTileAt_ne _ _ _ _ here]
    exact .refl q _

end

/-- L, C or S with no request stops with its record. -/
theorem stopOf_stopBefore (s : State) (t : TileId) {q : Sequencer} (own : q ≠ .k) (idle : (s.tileAt t).reqs = []) (c : Cause) :
    ∃ r, ((s.stopBefore t q c).tileAt t).stopOf q = some r ∧ r.cause = c ∧ r.pc = (s.tileAt t).pcOf q := by
  have may : (s.tileAt t).mayStop q = true := by simp [Tile.mayStop, Tile.forwarding, idle]
  rw [stopBefore_of_mayStop s t c own may, State.stopSeq, tileAt_updAt_self]
  exact ⟨_, (setStop_frame _ own _ _).1, rfl, rfl⟩

/-- K outside its handler enters it. -/
theorem k_stopBefore (s : State) (t : TileId) (user : (s.tileAt t).k.trap = false) (handler : (s.tileAt t).tvec ≠ 0) (c : Cause) :
    ((s.stopBefore t .k c).tileAt t).k.trap = true ∧ ((s.stopBefore t .k c).tileAt t).k.pc = (s.tileAt t).tvec ∧
      bits (rd ((s.stopBefore t .k c).tileAt t).k.kt 1) 7 0 = c.code := by
  obtain ⟨w, e⟩ := dev_stopBefore_k s t c
  have tile : (s.stopBefore t .k c).tileAt t = _ := (congrArg (fun d : Device => d.tiles[t]) e).trans (tileAt_updAt_self ..)
  have raised := congrArg Tile.k (tile.trans (kRaise_user (x := (s.tileAt t).unpended) user handler c 0 (s.tileAt t).k.pc w))
  obtain ⟨trap, pc, -, code, -⟩ := enterTrap_k _ _ _ _ _ _ _ raised
  exact ⟨trap, pc, code⟩

/-! ### A list of sequencers stopped in turn -/

/-- Sequencers stopped one after another for one cause. -/
def State.stopAll (s : State) (ws : List (TileId × Sequencer)) (c : Cause) : State := ws.foldl (fun s w => s.stopBefore w.1 w.2 c) s

section
variable (s : State) (ws : List (TileId × Sequencer)) (c : Cause)

theorem launches_stopAll : (s.stopAll ws c).dev.launches = s.dev.launches :=
  List.foldlRecOn (motive := fun z : State => z.dev.launches = s.dev.launches) ws _ rfl fun _ hz _ _ => (launches_stopBefore ..).trans hz

theorem stall_stopAll : (s.stopAll ws c).dev.stall = s.dev.stall :=
  List.foldlRecOn (motive := fun z : State => z.dev.stall = s.dev.stall) ws _ rfl fun _ hz _ _ => (stall_stopBefore ..).trans hz

variable {s ws} {u : TileId} {q : Sequencer}

/-- A sequencer that is not in the list stays as it is. -/
theorem keeps_stopAll (out : (u, q) ∉ ws) : Tile.Keeps q (s.tileAt u) ((s.stopAll ws c).tileAt u) :=
  List.foldlRecOn (motive := fun z : State => Tile.Keeps q (s.tileAt u) (z.tileAt u)) ws _ (.refl q _) fun z hz w hw =>
    hz.trans (keeps_stopBefore z w.1 u w.2 q c fun same => out (same ▸ hw))

/-- A sequencer of the list is stopped once, in a state that has it as it was, and then stays as its stop left it. -/
theorem stopAll_of_mem (nodup : ws.Nodup) (mem : (u, q) ∈ ws) : ∃ z : State, Tile.Keeps q (s.tileAt u) (z.tileAt u) ∧
    Tile.Keeps q ((z.stopBefore u q c).tileAt u) ((s.stopAll ws c).tileAt u) := by
  obtain ⟨as, bs, rfl⟩ := List.append_of_mem mem
  obtain ⟨-, rest, apart⟩ := List.nodup_append.1 nodup
  have first : (u, q) ∉ as := fun h => apart _ h _ (.head _) rfl
  have last : (u, q) ∉ bs := (List.nodup_cons.1 rest).1
  have run : s.stopAll (as ++ (u, q) :: bs) c = ((s.stopAll as c).stopBefore u q c).stopAll bs c := by
    simp only [State.stopAll, List.foldl_append, List.foldl_cons]
  exact ⟨s.stopAll as c, keeps_stopAll c first, run ▸ keeps_stopAll c last⟩

end

end Sys2Proof.Machine
end

section
/-! SUPPORT. The stall rule when it has held for 4,096 cycles (10 R241). -/

open Sys2Proof

namespace Sys2Proof.Machine

/-- The waiting sequencers of a context that the rule stops: all but an L in a pop. -/
def State.stopList (s : State) (c : BitVec 12) : List (TileId × Sequencer) :=
  (s.tilesOf c).flatMap fun t => ([Sequencer.l, .c, .s, .k].filter fun q =>
    (s.waitOf t q).isSome && !(q == .l && ((s.tilesOf c).filter s.inWlpop).contains t)).map fun q => (t, q)

/-- The running launches of a context that have lists declared quiescent. -/
def State.declareQuiescent (s : State) (c : BitVec 12) : State :=
  s.updDev fun d => { d with launches := d.launches.map fun l =>
    if l.tag == c && l.state == .running && !l.lists.isEmpty then { l with quiescent := true } else l }

theorem stallContext_eq (s : State) (c : BitVec 12) :
    s.stallContext c = ((s.declareQuiescent c).clearWaves c).stopAll (s.stopList c) .launchStall := rfl

theorem nodup_tilesOf (s : State) (c : BitVec 12) : (s.tilesOf c).Nodup := by
  refine List.Nodup.filter _ (List.Nodup.map_on (fun i hi j hj same => ?_) List.nodup_range)
  have small := Nat.mod_eq_of_lt (List.mem_range.1 hi)
  exact small.symm.trans ((congrArg Fin.val same).trans (Nat.mod_eq_of_lt (List.mem_range.1 hj)))

theorem nodup_stopList (s : State) (c : BitVec 12) : (s.stopList c).Nodup := by
  refine List.nodup_flatMap.2 ⟨fun t _ => ?_, (nodup_tilesOf s c).imp fun {t u} ne p hp hq => ?_⟩
  · exact List.Nodup.map (fun _ _ e => congrArg Prod.snd e) (List.Nodup.filter _ (by decide))
  · obtain ⟨q, -, rfl⟩ := List.mem_map.1 hp
    obtain ⟨q', -, e⟩ := List.mem_map.1 hq
    exact ne (congrArg Prod.fst e).symm

theorem mem_stopList {s : State} {c : BitVec 12} {t : TileId} {q : Sequencer} :
    (t, q) ∈ s.stopList c ↔ t ∈ s.tilesOf c ∧ (s.waitOf t q).isSome = true ∧ (q = .l → s.inWlpop t = false) := by
  have every : q = .l ∨ q = .c ∨ q = .s ∨ q = .k := by cases q <;> decide
  have listed : (t, q) ∈ s.stopList c ↔ t ∈ s.tilesOf c ∧ (s.waitOf t q).isSome = true ∧ (q = .l → t ∈ s.tilesOf c → s.inWlpop t = false) := by
    simp [State.stopList, every, imp_iff_not_or]
  rw [listed]
  exact ⟨fun ⟨here, waits, pops⟩ => ⟨here, waits, fun l => pops l here⟩, fun ⟨here, waits, pops⟩ => ⟨here, waits, fun l _ => pops l⟩⟩

section
variable {s : State} {c : BitVec 12}

/-- In a context in which nothing can move no tile has a request. -/
theorem reqs_of_stalled (h : s.stalled c = true) {t : TileId} (ht : t ∈ s.tilesOf c) : (s.tileAt t).reqs = [] := by
  simp only [State.stalled, Bool.and_eq_true, List.all_eq_true] at h
  obtain ⟨⟨-, still⟩, -⟩ := h
  obtain ⟨⟨⟨⟨⟨⟨⟨-, -⟩, reqs⟩, -⟩, -⟩, -⟩, -⟩, -⟩ := still t ht
  exact List.isEmpty_iff.1 reqs

variable (s c)

theorem launches_stallContext : (s.stallContext c).dev.launches = (s.declareQuiescent c).dev.launches := by
  rw [stallContext_eq, launches_stopAll]
  exact (noted_clearWaves _ c).launches

theorem stall_stallContext : (s.stallContext c).dev.stall = s.dev.stall := by
  rw [stallContext_eq, stall_stopAll]
  exact (noted_clearWaves (s.declareQuiescent c) c).stall

variable {s c}

theorem keeps_clearWaves (t : TileId) (q : Sequencer) : Tile.Keeps q (s.tileAt t) (((s.declareQuiescent c).clearWaves c).tileAt t) :=
  ((noted_clearWaves (s.declareQuiescent c) c).tiles t).keeps q

theorem keeps_stallContext {t : TileId} {q : Sequencer} (out : (t, q) ∉ s.stopList c) :
    Tile.Keeps q (s.tileAt t) ((s.stallContext c).tileAt t) := by
  rw [stallContext_eq]
  exact (keeps_clearWaves t q).trans (keeps_stopAll _ out)

/-- A sequencer of the list is stopped in a state that has it as it was. -/
theorem stallContext_of_mem {t : TileId} {q : Sequencer} (mem : (t, q) ∈ s.stopList c) : ∃ z : State, Tile.Keeps q (s.tileAt t) (z.tileAt t) ∧
    Tile.Keeps q ((z.stopBefore t q .launchStall).tileAt t) ((s.stallContext c).tileAt t) := by
  obtain ⟨z, before, after⟩ := stopAll_of_mem (s := (s.declareQuiescent c).clearWaves c) .launchStall (nodup_stopList s c) mem
  exact ⟨z, (keeps_clearWaves t q).trans before, after⟩

theorem stopOf_stallContext {t : TileId} {q : Sequencer} (mem : (t, q) ∈ s.stopList c) (own : q ≠ .k) (idle : (s.tileAt t).reqs = []) :
    ∃ r, ((s.stallContext c).tileAt t).stopOf q = some r ∧ r.cause = .launchStall ∧ r.pc = (s.tileAt t).pcOf q := by
  obtain ⟨z, before, after⟩ := stallContext_of_mem mem
  obtain ⟨r, stop, cause, pc⟩ := stopOf_stopBefore z t own (before.reqs.trans idle) .launchStall
  exact ⟨r, after.stopOf.trans stop, cause, pc.trans before.pcOf⟩

theorem k_stallContext {t : TileId} (mem : (t, .k) ∈ s.stopList c) (user : (s.tileAt t).k.trap = false) (handler : (s.tileAt t).tvec ≠ 0) :
    ((s.stallContext c).tileAt t).k.trap = true ∧ ((s.stallContext c).tileAt t).k.pc = (s.tileAt t).tvec ∧
      bits (rd ((s.stallContext c).tileAt t).k.kt 1) 7 0 = 14 := by
  obtain ⟨z, ⟨-, tvec, k⟩, ⟨-, -, after⟩⟩ := stallContext_of_mem mem
  obtain ⟨trap, pc, code⟩ := k_stopBefore z t (k ▸ user) (tvec ▸ handler) .launchStall
  have after : ((s.stallContext c).tileAt t).k = ((z.stopBefore t .k .launchStall).tileAt t).k := after
  rw [after]
  exact ⟨trap, pc.trans tvec, code⟩

end

/-! ### The rule as it begins, counts and fires -/

section
variable {s : State} {c : BitVec 12}

/-- A context is counted no longer. -/
def State.uncount (s : State) (c : BitVec 12) : State := s.updDev fun d => { d with stall := d.stall.filter fun p => p.1 != c }

theorem owlStallRule_moves (h : s.stalled c = false) : exec (.owlStallRule c) s = .next (s.uncount c) := by
  change execOwlStallRule c s = _
  unfold execOwlStallRule
  rw [h]
  rfl

theorem owlStallRule_begins (h : s.stalled c = true) (new : ∀ p ∈ s.dev.stall, p.1 ≠ c) :
    exec (.owlStallRule c) s = .next (s.updDev fun d => { d with stall := (c, d.now) :: d.stall }) := by
  have none_ : s.dev.stall.find? (fun p => p.1 == c) = none := List.find?_eq_none.2 fun p hp => by simpa using new p hp
  change execOwlStallRule c s = _
  unfold execOwlStallRule
  rw [h, none_]
  rfl

theorem owlStallRule_counts {n : Nat} (h : s.stalled c = true) (found : s.dev.stall.find? (fun p => p.1 == c) = some (c, n)) (early : s.dev.now < n + 4096) :
    exec (.owlStallRule c) s = .next s := by
  change execOwlStallRule c s = _
  unfold execOwlStallRule
  simp only [h, found, Bool.not_true, Bool.false_eq_true, if_false, if_neg (Nat.not_le_of_lt early)]

theorem owlStallRule_fires {n : Nat} (h : s.stalled c = true) (found : s.dev.stall.find? (fun p => p.1 == c) = some (c, n)) (due : n + 4096 ≤ s.dev.now) :
    exec (.owlStallRule c) s = .next ((s.uncount c).stallContext c) := by
  change execOwlStallRule c s = _
  unfold execOwlStallRule
  simp only [h, found, Bool.not_true, Bool.false_eq_true, if_false, if_pos due]
  rfl

end

/-- Settles O36: each list by the oldest request at its unit, quiescence by its conditions, the stall rule by what it stops and what it leaves alone. -/
theorem workListsAndOwls : Obligations.WorkListsAndOwls := by
  unfold Obligations.WorkListsAndOwls
  refine ⟨fun s t r die n w => ?lists, fun s id l c => ⟨fun found => ⟨?quiet, ?busy⟩, owlStallRule_moves, owlStallRule_begins,
    fun n still counted => ⟨owlStallRule_counts still counted, fun due => ?fires⟩⟩⟩
  case lists =>
    intro x find without found free
    refine ⟨fun item kind oldest => ⟨fun full => ?full, fun room => ?append⟩,
      fun d pd kind own oldest => ⟨fun none_ => ?none_, fun v rest some_ => ?pop⟩⟩
    case full => exact congrArg _ ((appendArrives_oldest found free kind oldest).trans (if_pos full))
    case append =>
      refine congrArg _ ((appendArrives_oldest found free kind oldest).trans ((if_neg (Nat.not_le_of_lt room)).trans ?_))
      rw [setList_eq]
      rfl
    case none_ => exact congrArg _ (popArrives_empty found none_ kind oldest)
    case pop =>
      refine congrArg _ ((popArrives_oldest found free some_ kind oldest).trans ?_)
      rw [setList_eq]
      exact updAt_congr (endReq_setResult (s.tileAt t) own d v pd _)
  case quiet =>
    rintro ⟨runs, lists, new, empty, still, rests⟩
    have id := id_of_launch? found
    rw [owlQuiescence_eq found, if_pos (quiet_of_rests runs lists new (id ▸ empty) (id ▸ still) rests)]
  case busy =>
    intro moves
    rw [owlQuiescence_eq found, if_neg (by simp [not_quiet ((id_of_launch? found).symm ▸ moves)])]
  case fires =>
    refine ⟨_, owlStallRule_fires still counted due, fun p hp => ?gone, fun t ht q own waits pops => ?stop, fun t ht pops => ?pop,
      fun t ht waits user handler => ?trap, fun m hm tag runs lists => ?quiet⟩
    case gone =>
      rw [stall_stallContext] at hp
      simpa using (List.mem_filter.1 hp).2
    case stop => exact stopOf_stallContext (s := s.uncount c) (mem_stopList.2 ⟨ht, waits, pops⟩) own (reqs_of_stalled still ht)
    case pop =>
      have out : (t, Sequencer.l) ∉ s.stopList c := fun mem => by
        obtain ⟨-, -, not_⟩ := mem_stopList.1 mem
        simp [pops] at not_
      exact (keeps_stallContext (s := s.uncount c) out).own
    case trap => exact k_stallContext (s := s.uncount c) (mem_stopList.2 ⟨ht, waits, nofun⟩) user handler
    case quiet =>
      rw [launches_stallContext]
      exact List.mem_map.2 ⟨m, hm, by simp [tag, runs, lists]⟩

end Sys2Proof.Machine
end

section
/-! SUPPORT. What the end of a quiet task comes to: its retirement counted, its tile vacated (10 R243 to R245). -/

open Sys2Proof

namespace Sys2Proof.Machine

/-! ### Tiles on which nothing is under way -/

/-- Nothing of a task is under way on its tile: no request, no posted write, no batch, no barrier update, no open subscription. -/
structure Tile.Quiet (x : Tile) : Prop where
  reqs : x.reqs = []
  posts : ∀ q, ∀ c ∈ x.cmds q, c.posts = []
  orphans : x.orphans = []
  batch : x.batch = none
  barOpen : x.barOpen = none
  barDue : x.barDue = []
  closed : ∀ i, i < 16 → (rd x.subs i).opened = false ∧ (rd x.pubs i).opened = false

/-- The queues of a tile as a list are those of the engines in order. -/
theorem toList_q (x : Tile) : x.q.toList = queues.map x.cmds := by
  refine List.ext_getElem (by simp [queues]) fun i hi _ => ?_
  have hi : i < 7 := by simpa using hi
  interval_cases i <;> simp [queues, Tile.cmds, qIdx, rd]

theorem opened_of_rd {v : Vector SubEntry 16} (h : ∀ i, i < 16 → (rd v i).opened = false) : ∀ e ∈ v.toList, e.opened = false := by
  have all : v.toList.all (fun e => !e.opened) = true := all_toList_of_rd fun i hi => by simp [h i hi]
  simpa using List.all_eq_true.1 all

section
variable {s : State} {t : TileId}

theorem enginePosts_quiet {x : Tile} (h : x.Quiet) : x.enginePosts = [] := by
  have none_ : x.q.toList.flatMap (fun z => z.flatMap fun c => c.posts) = [] :=
    List.flatMap_eq_nil_iff.2 (toList_q x ▸ List.forall_mem_map.2 fun q _ => List.flatMap_eq_nil_iff.2 (h.posts q))
  rw [Tile.enginePosts, h.orphans, none_, List.nil_append]

theorem landAccepted_quiet (h : (s.tileAt t).Quiet) : s.landAccepted t = s := by
  have none_ : (s.tileAt t).acceptedWrites = [] := by
    simp [Tile.acceptedWrites, h.reqs, enginePosts_quiet h]
  rw [State.landAccepted, none_, List.foldl_nil]

theorem closeEntries_quiet (subs : ∀ e ∈ (s.tileAt t).subs.toList, e.opened = false) (pubs : ∀ e ∈ (s.tileAt t).pubs.toList, e.opened = false) :
    s.closeEntries t = s := by
  have ends : ∀ (es : List SubEntry) (f : State → SubEntry → State), (∀ y, ∀ e ∈ es, f y e = y) → es.foldl f s = s := fun es f hf =>
    List.foldlRecOn (motive := fun z : State => z = s) es f rfl fun y hy e he => (hf y e he).trans hy
  unfold State.closeEntries
  dsimp only
  rw [ends (s.tileAt t).subs.toList _ fun y e he => by simp [subs e he], ends (s.tileAt t).pubs.toList _ fun y e he => by simp [pubs e he]]

/-- A quiet task leaves nothing behind but what its packets in the network do. -/
theorem vacate_quiet (h : (s.tileAt t).Quiet) : s.vacate t = (s.disown t).updAt t Tile.leave := by
  have noted : (s.disown t).updAt t (fun x => { x with barOpen := none }) = s.disown t := updAt_same (h.barOpen ▸ rfl)
  have flushed : (s.disown t).barFlush t = s.disown t := (barFlush_empty (s := s.disown t) h.barDue).trans noted
  have closed : (s.disown t).closeEntries t = s.disown t :=
    closeEntries_quiet (opened_of_rd fun i hi => (h.closed i hi).1) (opened_of_rd fun i hi => (h.closed i hi).2)
  rw [State.vacate, landAccepted_quiet (s := s.disown t) h, flushed, closeBatch_none (s := s.disown t) h.batch, closed]

end

/-! ### A retirement counted (10 R244, R245) -/

/-- A launch with the end of a task counted in it; x is the tile as the task leaves it. -/
def Launch.withRetired (l : Launch) (n : Nat) (x : Tile) (status guarded : Nat) : Launch := { l with
  at_ := (n, .retired) :: l.at_.filter (fun a => a.1 != n), retired := l.retired + 1
  killed := if status = 0 then l.killed else l.killed + 1, byCore := if status = 2 ∨ status = 3 then l.byCore + 1 else l.byCore
  guarded := l.guarded + guarded, tokens := l.tokens + (x.tok.toList.map fun q => q.items.length).sum, events := l.events + x.evq.length }

section
variable {s : State} {t : TileId} {k : Task} {l : Launch}

theorem launch?_withRetired (found : s.launch? k.launch = some l) (x : Tile) (status guarded : Nat) :
    (s.updLaunch k.launch fun m => m.withRetired k.index x status guarded).launch? k.launch = some (l.withRetired k.index x status guarded) := by
  rw [launch?_updLaunch]
  · exact congrArg (Option.map _) found
  · exact fun _ => rfl

theorem countRetire_eq {x : Tile} (task : x.task = some k) (found : s.launch? k.launch = some l) (mode : l.mode ≠ 1) (status guarded : Nat) :
    s.countRetire t x status guarded = (s.updLaunch k.launch fun m => m.withRetired k.index x status guarded, true) := by
  have tokens : x.tok.toList.foldl (fun n z => n + z.items.length) 0 = (x.tok.toList.map fun q => q.items.length).sum := by
    rw [List.sum_eq_foldl, List.foldl_map]
  unfold State.countRetire
  simp only [task, tokens]
  exact traceAdd_unrecorded (launch?_withRetired found x status guarded) mode _ _

/-- The state in which a quiet task has ended: counted in its launch, its packets its own no longer, its tile vacated. -/
def State.retired (s : State) (t : TileId) (k : Task) (status guarded : Nat) : State :=
  ((s.updLaunch k.launch fun m => m.withRetired k.index (s.tileAt t) status guarded).disown t).updAt t Tile.leave

theorem launch?_retired (found : s.launch? k.launch = some l) (status guarded : Nat) :
    (s.retired t k status guarded).launch? k.launch = some (l.withRetired k.index (s.tileAt t) status guarded) :=
  launch?_withRetired found (s.tileAt t) status guarded

/-- A quiet task ends alone, unless the command core has now killed every task of its launch. -/
theorem retireTask_quiet (task : (s.tileAt t).task = some k) (found : s.launch? k.launch = some l) (mode : l.mode ≠ 1) (quiet : (s.tileAt t).Quiet)
    {status guarded : Nat} (others : (l.withRetired k.index (s.tileAt t) status guarded).byCore ≠ l.tasks) :
    s.retireTask t status guarded = s.retired t k status guarded := by
  have left := vacate_quiet (s := s.updLaunch k.launch fun m => m.withRetired k.index (s.tileAt t) status guarded) (t := t) quiet
  have after := launch?_withRetired found (s.tileAt t) status guarded
  unfold State.retireTask
  simp only [countRetire_eq task found mode, launch_of_task task, left, Bool.not_true, Bool.false_eq_true, if_false]
  split
  next m h =>
    obtain rfl : m = l.withRetired k.index (s.tileAt t) status guarded := Option.some.inj (h.symm.trans after)
    exact if_neg others
  next => rfl

end

end Sys2Proof.Machine
end

section
/-! SUPPORT. Which way a task whose sequencers have ended goes, and when it is killed (10 R243, 18 R361, R366, 04 R65). -/

open Sys2Proof

namespace Sys2Proof.Machine

/-! ### When a kill is due (18 R361, 04 R65) -/

section
variable {x : Tile}

theorem killDue_ordered {d : Kill} (h : x.kill = some d) : x.killDue = some d := by
  simp only [Tile.killDue, h]

theorem killDue_handlerEnded (none_ : x.kill = none) (trap : x.k.trap = true) (ended : x.endedOf .k = true) :
    x.killDue = some ⟨true, .swtrap, .k, x.k.pc⟩ := by
  simp [Tile.killDue, none_, trap, ended]

theorem killDue_iff (none_ : x.kill = none) (alive : ¬ (x.k.trap = true ∧ x.endedOf .k = true)) :
    x.killDue ≠ none ↔ x.firstStop ≠ none ∧ (x.endedOf .k = true ∨ x.tvec = 0 ∧ x.k.trap = false) := by
  have handled : (x.k.trap && x.endedOf .k) = false := Bool.eq_false_iff.2 fun h => alive (Bool.and_eq_true_iff.1 h)
  have taken : (x.endedOf .k || x.tvec == 0 && !x.k.trap) = true ↔ x.endedOf .k = true ∨ x.tvec = 0 ∧ x.k.trap = false := by simp
  simp only [← taken, Tile.killDue, none_, handled, Bool.false_eq_true, if_false]
  split
  next yes => simp only [yes, ne_eq, Option.map_eq_none_iff, and_true]
  next no => simp only [no, ne_eq, not_true_eq_false, Bool.false_eq_true, and_false]

end

/-! ### Guards resolved (06 R113, 10 R243) -/

theorem any_queues (x : Tile) (f : List Cmd → Bool) : x.q.toList.any f = queues.any fun q => f (x.cmds q) := by
  rw [toList_q, List.any_map]
  rfl

theorem slot_beq (h : BitVec 4) {g : Nat} (hg : g < 16) : (h.toNat == g) = (some h == some (BitVec.ofNat 4 g)) := by
  have number : h.toNat = g ↔ h = BitVec.ofNat 4 g := by
    rw [← BitVec.toNat_inj, BitVec.toNat_ofNat, Nat.mod_eq_of_lt hg]
  rw [Bool.eq_iff_iff]
  simp [number]

theorem resolveGuards_eq (x : Tile) : x.resolveGuards = { x with
    guarded := x.guarded + x.undecided
    gd := Vector.ofFn fun g => if rd x.gd g.val == .free &&
      queues.any (fun q => (x.cmds q).any fun c => !c.decided && c.guard == some (BitVec.ofNat 4 g.val)) then .no else rd x.gd g.val } := by
  refine congrArg (fun gd => ({ x with guarded := x.guarded + x.undecided, gd := gd } : Tile)) (congrArg Vector.ofFn (funext fun g => ?_))
  refine congrArg (fun used => if rd x.gd g.val == .free && used then Guard.no else rd x.gd g.val) ((any_queues x _).trans ?_)
  refine congrArg (List.any queues) (funext fun q => congrArg (List.any (x.cmds q)) (funext fun c => congrArg (!c.decided && ·) ?_))
  cases c.guard with
  | none => rfl
  | some h => exact slot_beq h g.isLt

/-! ### TASK_RETIRE (10 R243) -/

/-- A task whose sequencers have ended retires in order: no kill is due, no queue is halted and C holds no write. -/
structure State.Retires (s : State) (t : TileId) : Prop where
  runs : s.enginesRun t = true
  ended : ∀ q, (s.tileAt t).endedOf q = true
  alive : (s.tileAt t).killDue = none
  sound : ∀ q, (s.tileAt t).halted q = false
  held : (s.tileAt t).c.held = none

section
variable {s : State} {t : TileId}

theorem allEnded_of_forall {x : Tile} (h : ∀ q, x.endedOf q = true) : x.allEnded = true := by
  simp only [Tile.allEnded, h, Bool.and_self]

theorem taskRetire_due (runs : s.enginesRun t = true) (ended : ∀ q, (s.tileAt t).endedOf q = true) (due : (s.tileAt t).killDue.isSome = true) :
    exec (.taskRetire t) s = .next (s.killNow t) := by
  change execTaskRetire t s = _
  simp [execTaskRetire, runs, allEnded_of_forall ended, due]

theorem taskRetire_halted (runs : s.enginesRun t = true) (ended : ∀ q, (s.tileAt t).endedOf q = true) (alive : (s.tileAt t).killDue = none)
    (halted : ∃ q ∈ queues, (s.tileAt t).halted q = true) :
    exec (.taskRetire t) s = .next (s.killTask t ⟨false, .engineFault, .k, (s.tileAt t).k.pc⟩) := by
  change execTaskRetire t s = _
  simp [execTaskRetire, runs, allEnded_of_forall ended, alive, halted]

theorem taskRetire_undecided (h : s.Retires t) (some_ : 0 < (s.tileAt t).undecided) :
    exec (.taskRetire t) s = .next (s.setTileAt t (s.tileAt t).resolveGuards) := by
  obtain ⟨runs, ended, alive, sound, held⟩ := h
  change execTaskRetire t s = _
  simp [execTaskRetire, runs, allEnded_of_forall ended, alive, sound, held, some_]

section
variable (h : s.Retires t) (decided : (s.tileAt t).undecided = 0)
include h decided

theorem taskRetire_batch (open_ : (s.tileAt t).batch.isSome = true) : exec (.taskRetire t) s = .next (s.closeBatch t) := by
  obtain ⟨runs, ended, alive, sound, held⟩ := h
  change execTaskRetire t s = _
  simp [execTaskRetire, runs, allEnded_of_forall ended, alive, sound, held, decided, open_]

variable (batch : (s.tileAt t).batch = none)
include batch

theorem taskRetire_barriers (due : (s.tileAt t).barOpen ≠ none ∨ (s.tileAt t).barDue ≠ []) : exec (.taskRetire t) s = .next (s.barFlush t) := by
  obtain ⟨runs, ended, alive, sound, held⟩ := h
  have due : ((s.tileAt t).barOpen.isSome || !(s.tileAt t).barDue.isEmpty) = true := by simpa [Option.isSome_iff_ne_none] using due
  change execTaskRetire t s = _
  simp only [execTaskRetire]
  simp [runs, allEnded_of_forall ended, alive, sound, held, decided, batch, due]

variable (barOpen : (s.tileAt t).barOpen = none) (barDue : (s.tileAt t).barDue = []) (cmds : ∀ q, (s.tileAt t).cmds q = [])
include barOpen barDue cmds

/-- A posted write that was refused kills the task. -/
theorem taskRetire_refused {c : Cause} {a : Word} {more : List (Cause × Word)} (refused : (s.tileAt t).refused = (c, a) :: more) :
    exec (.taskRetire t) s = .next (s.killTask t ⟨false, c, .s, (s.tileAt t).s.pc⟩) := by
  obtain ⟨runs, ended, alive, sound, held⟩ := h
  change execTaskRetire t s = _
  simp [execTaskRetire, runs, allEnded_of_forall ended, alive, sound, held, decided, batch, barOpen, barDue, toList_q, cmds, refused, -Vector.any_toList]

/-- With nothing of the task under way, its open subscriptions close, updates on their way are awaited, and it retires. -/
theorem taskRetire_last (refused : (s.tileAt t).refused = []) (reqs : (s.tileAt t).reqs = []) (orphans : (s.tileAt t).orphans = [])
    (net : ∀ p ∈ s.dev.net, p.orig = t.val → ∀ e o m d, p.body ≠ .update e o m d) : exec (.taskRetire t) s =
      .next (if s.openPeers t ≠ [] then if (s.openPeers t).any (fun u => s.taskHome u (s.tileAt t).launch == .held) then s else s.closeEntries t
        else if s.updatesComing t = true then s else s.retireTask t 0 (s.tileAt t).guarded) := by
  obtain ⟨runs, ended, alive, sound, held⟩ := h
  change execTaskRetire t s = _
  simp only [execTaskRetire, runs, Bool.not_true, allEnded_of_forall ended, Bool.or_self, Bool.false_eq_true, if_false, alive, Option.isSome_none,
    List.any_eq_true, sound, and_false, exists_const, held, decided, lt_self_iff_false, batch, barOpen, barDue, List.isEmpty_nil, toList_q, List.any_map,
    Function.comp_apply, cmds, refused, reqs, orphans, Bool.false_or, Bool.and_eq_true, beq_iff_eq, Bool.not_eq_true', List.isEmpty_eq_false_iff]
  refine (if_neg ?_).trans ?_
  · rintro ⟨p, hp, mine, body⟩
    split at body
    next e => exact net p hp mine _ _ _ _ e
    next => cases body
  · split
    · rfl
    · split <;> rfl

end

end

/-! ### The end of a task, in order and killed -/

theorem openPeers_closed {s : State} {t : TileId} (h : ∀ i, i < 16 → (rd (s.tileAt t).subs i).opened = false ∧ (rd (s.tileAt t).pubs i).opened = false) :
    s.openPeers t = [] ∧ s.updatesComing t = false := by
  have subs := opened_of_rd fun i hi => (h i hi).1
  have pubs := opened_of_rd fun i hi => (h i hi).2
  constructor
  · unfold State.openPeers
    dsimp only
    rw [List.append_eq_nil_iff, List.filterMap_eq_nil_iff, List.filterMap_eq_nil_iff]
    exact ⟨fun e he => by simp [subs e he], fun e he => by simp [pubs e he]⟩
  · exact List.any_eq_false.2 fun e he => by simp [subs e he]

section
variable {s : State} {t : TileId} {k : Task}

/-- What the end of a task leaves on the device beside its launch. -/
theorem retired_frame (status guarded : Nat) : (∀ u, u ≠ t → (s.retired t k status guarded).tileAt u = s.tileAt u) ∧
    (s.retired t k status guarded).tileAt t = (s.tileAt t).leave ∧ (s.retired t k status guarded).dev.hbm = s.dev.hbm ∧
    (s.retired t k status guarded).dev.dies = s.dev.dies :=
  ⟨fun _ hu => tileAt_updAt_ne _ _ _ _ hu.symm, tileAt_updAt_self .., rfl, rfl⟩

theorem killNow_due {d : Kill} (task : (s.tileAt t).task = some k) (live : (s.tileAt t).live = true) (due : (s.tileAt t).killDue = some d) :
    s.killNow t = s.killTask t d := by
  simp [State.killNow, task, live, due]

theorem killNow_alive (alive : (s.tileAt t).killDue = none) : s.killNow t = s := by
  simp [State.killNow, alive]

/-- The state behind the log entry of a kill: a handler's own kill makes none. -/
def State.killLogged (s : State) (t : TileId) (d : Kill) : State :=
  if d.byHandler then s else s.logKill t (s.tileAt t) d.cause.code d.seq d.pc

theorem killLogged_frame (s : State) (t : TileId) (d : Kill) : (∀ u, (s.killLogged t d).tileAt u = s.tileAt u) ∧
    (s.killLogged t d).launch? = s.launch? ∧ (s.killLogged t d).dev.hbm = s.dev.hbm := by
  unfold State.killLogged
  split <;> exact ⟨fun _ => rfl, rfl, rfl⟩

/-- The entry of a task that the command core kills is of class 5 (23 R420). -/
theorem log_killLogged (task : (s.tileAt t).task = some k) {d : Kill} (core : d.byHandler = false) : ((s.killLogged t d).dev.dies[dieOf t]).log =
    logWrite (s.dev.dies[dieOf t]).log (mkLog (BitVec.ofNat 64 (d.pc.toNat % 2 ^ 32 * 2 ^ 32 + seqCode d.seq * 2 ^ 24 + k.index % 2 ^ 24)) k.launch s.clkrd
      d.cause.code k.ctx t.val 0 5) := by
  have logged : s.killLogged t d = s.logKill t (s.tileAt t) d.cause.code d.seq d.pc := if_neg (by simp [core])
  rw [logged, State.logKill, log_logOn, if_pos rfl]
  simp only [Tile.launch, Tile.ctx, task]

theorem killStatus_counts (x : Tile) (b : Bool) (l : Launch) (n g : Nat) :
    (l.withRetired n x (x.killStatus b) g).killed = l.killed + 1 ∧ (l.withRetired n x (x.killStatus b) g).byCore = if b then l.byCore else l.byCore + 1 := by
  unfold Tile.killStatus
  cases b <;> cases x.lstall <;> exact ⟨rfl, rfl⟩

theorem killTask_quiet {l : Launch} (task : (s.tileAt t).task = some k) (found : s.launch? k.launch = some l) (mode : l.mode ≠ 1) (quiet : (s.tileAt t).Quiet)
    (d : Kill) (others : l.byCore + 1 < l.tasks) : s.killTask t d = (s.killLogged t d).retired t k ((s.tileAt t).killStatus d.byHandler)
      ((s.tileAt t).guarded + (s.tileAt t).undecided) := by
  obtain ⟨tiles, launches, -⟩ := killLogged_frame s t d
  have tile := tiles t
  have launch : (s.killLogged t d).launch? k.launch = some l := (congrFun launches _).trans found
  have left : (l.withRetired k.index ((s.killLogged t d).tileAt t) ((s.tileAt t).killStatus d.byHandler)
      ((s.tileAt t).guarded + (s.tileAt t).undecided)).byCore ≠ l.tasks := by
    rw [tile, (killStatus_counts ..).2]
    split <;> omega
  have run : s.killTask t d = (s.killLogged t d).retireTask t ((s.tileAt t).killStatus d.byHandler) ((s.tileAt t).guarded + (s.tileAt t).undecided) := rfl
  rw [run]
  exact retireTask_quiet (tile.symm ▸ task) launch mode (tile.symm ▸ quiet) left

end

/-- Settles O35: the events of a task's end by the first condition that holds; a quiet task leaves its launch and its tile as State.retired says. -/
theorem tasksEnd : Obligations.TasksEnd := by
  unfold Obligations.TasksEnd
  refine ⟨fun s t k l => ?retire, fun s t k l d => ?killed⟩
  case retire =>
    intro x runs task ended found mode
    refine ⟨taskRetire_due runs ended, fun none_ trap => killDue_handlerEnded none_ trap (ended .k), taskRetire_halted runs ended,
      fun alive sound held => ?order⟩
    have h : s.Retires t := ⟨runs, ended, alive, sound, held⟩
    refine ⟨fun some_ => (taskRetire_undecided h some_).trans (congrArg _ (congrArg _ (resolveGuards_eq x))), taskRetire_batch h,
      taskRetire_barriers h, fun decided batch barOpen barDue cmds refused reqs orphans net => ?peers, fun decided batch barOpen barDue cmds =>
      ⟨fun c a more => taskRetire_refused h decided batch barOpen barDue cmds, fun refused reqs orphans net closed others => ?retires⟩⟩
    case peers =>
      rw [taskRetire_last h decided batch barOpen barDue cmds refused reqs orphans net]
      refine ⟨fun some_ stopping => ?_, fun some_ free => ?_, fun none_ coming => ?_⟩
      · rw [if_pos some_, if_pos (by simpa using stopping)]
      · rw [if_pos some_, if_neg (by simpa using free)]
      · rw [if_neg (not_not.2 none_), if_pos coming]
    case retires =>
      obtain ⟨none_, still⟩ := openPeers_closed closed
      have quiet : x.Quiet := ⟨reqs, fun q c hc => absurd (cmds q ▸ hc) List.not_mem_nil, orphans, batch, barOpen, barDue, closed⟩
      have alone : (l.withRetired k.index x 0 x.guarded).byCore ≠ l.tasks := others
      have last := taskRetire_last h decided batch barOpen barDue cmds refused reqs orphans net
      rw [none_, still, if_neg (not_not.2 rfl), if_neg Bool.false_ne_true, retireTask_quiet task found mode quiet alone] at last
      obtain ⟨tiles, tile, hbm, -⟩ := retired_frame (s := s) (t := t) (k := k) 0 x.guarded
      refine ⟨_, last, tiles, hbm, launch?_retired found 0 x.guarded, ?_⟩
      rw [tile]
      exact ⟨rfl, rfl, rfl, rfl, rfl, rfl, rfl, rfl, rfl, rfl⟩
  case killed =>
    intro x cause task live found mode
    refine ⟨fun alive => congrArg _ (killNow_alive alive), killDue_ordered, killDue_handlerEnded, killDue_iff,
      fun due reqs posts orphans batch barOpen barDue closed others => ?kill⟩
    have run : exec (.taskKill t) s = .next ((s.killLogged t d).retired t k (x.killStatus d.byHandler) (x.guarded + x.undecided)) :=
      congrArg _ ((killNow_due task live due).trans (killTask_quiet task found mode ⟨reqs, posts, orphans, batch, barOpen, barDue, closed⟩ d others))
    obtain ⟨tiles, tile, hbm, dies⟩ := retired_frame (s := s.killLogged t d) (t := t) (k := k) (x.killStatus d.byHandler) (x.guarded + x.undecided)
    obtain ⟨killed, byCore⟩ := killStatus_counts x d.byHandler l k.index (x.guarded + x.undecided)
    obtain ⟨tiles', launches, hbm'⟩ := killLogged_frame s t d
    have counted := launch?_retired (t := t) ((congrFun launches _).trans found) (x.killStatus d.byHandler) (x.guarded + x.undecided)
    rw [tiles' t] at tile counted
    refine ⟨_, run, fun u hu => (tiles u hu).trans (tiles' u), hbm.trans hbm', ?_⟩
    rw [tile]
    refine ⟨rfl, rfl, rfl, ⟨_, counted, rfl, killed, byCore, rfl⟩, fun own => ?_, fun core => ?_⟩
    · exact dies.trans (congrArg (fun z : State => z.dev.dies) (if_pos own))
    · exact (congrArg (fun v : Vector Die 3 => (v[dieOf t]).log) dies).trans (log_killLogged task core)

end Sys2Proof.Machine
end
